-- ==== Sys2Proof/Word.lean ====
section
/-!
DEFINITION. The word types of the module and the sparse table that every memory, register file and
unit table of `State` is held in: a list of key and value pairs in one canonical form.
-/
namespace Sys2Proof

abbrev Byte := BitVec 8
abbrev Word := BitVec 32
abbrev Dword := BitVec 64

/-- A ledger code of 96 bits (R50). -/
abbrev Ledger := BitVec 96

/-- A sparse table. An unlisted key holds the table's default, which every reader and writer names. -/
abbrev Tbl (α : Type) := List (Nat × α)

/-- A byte memory (R127, R148): its unlisted bytes read as 0. -/
abbrev Mem := Tbl Byte

namespace Tbl
variable {α : Type}

/-- The value at key `k`; the default `d` where `k` is not listed. -/
def get (d : α) : Tbl α → Nat → α
  | [], _ => d
  | (j, v) :: t, k => if j = k then v else get d t k

/-- Insert or replace the entry of `k`, keys rising. -/
def put : Tbl α → Nat → α → Tbl α
  | [], k, v => [(k, v)]
  | (j, u) :: t, k, v =>
    if k < j then (k, v) :: (j, u) :: t
    else if k = j then (k, v) :: t
    else (j, u) :: put t k v

/-- Remove the entry of `k`. -/
def del : Tbl α → Nat → Tbl α
  | [], _ => []
  | (j, u) :: t, k => if j = k then del t k else (j, u) :: del t k

variable [DecidableEq α]

/-- Write `v` at `k`, keeping the canonical form: writing the default removes the entry. -/
def set (d : α) (t : Tbl α) (k : Nat) (v : α) : Tbl α :=
  if v = d then del t k else put t k v

/-- Change the value at `k` by `f`. -/
def upd (d : α) (t : Tbl α) (k : Nat) (f : α → α) : Tbl α :=
  set d t k (f (get d t k))

/-- Keys strictly rising from above `lo`, no entry equal to the default. -/
def wfFrom (d : α) : Nat → Tbl α → Bool
  | _, [] => true
  | lo, (j, v) :: t => decide (lo ≤ j) && decide (v ≠ d) && wfFrom d (j + 1) t

/-- The canonical form. -/
def wf (d : α) (t : Tbl α) : Bool := wfFrom d 0 t

end Tbl

/-- The first position at which `p` holds. -/
def findIdx? {α : Type} (p : α → Bool) : List α → Nat → Option Nat
  | [], _ => none
  | a :: l, i => if p a then some i else findIdx? p l (i + 1)

end Sys2Proof
end

