-- ==== Sys2Proof/Machine/Types.lean ====
section
/-!
DEFINITION. The plain data types that commands carry and the state holds: packets, flits, replies of
the outside parties, changes of the floor plan, elements, and the registers of the register interface.
-/
namespace Sys2Proof

/-- The queue position of a command item: context, queue and sequence number (R195). -/
structure ItemRef where
  ctx : BitVec 16
  qid : BitVec 4
  seq : BitVec 32
  deriving DecidableEq, Repr, Inhabited

/-- What the outside returns for the words of a list or record that lies in host memory, in a peer or behind a
window: the words, or why there are none (R216, R219, R227). Words that lie in the package are read from the state. -/
inductive Reply where
  | words (ws : List Dword)
  | unsupported
  | abort
  | timeout
  | poison
  /-- A window refuses the request, with a reason of Table 9.7. -/
  | refused (reason : Byte)
  deriving DecidableEq, Repr, Inhabited

/-- A mesh packet: the fields of Table 6.6 and its payload (R142). `poison` says for each payload byte whether its word is poisoned
(R132); bytes it does not reach are good. -/
structure MeshPkt where
  type    : BitVec 4 := 0
  vc      : BitVec 2 := 0
  dstCl   : BitVec 5 := 0
  dstPort : BitVec 4 := 0
  srcCl   : BitVec 5 := 0
  srcPort : BitVec 4 := 0
  stop    : BitVec 5 := 0
  part    : BitVec 4 := 0
  addr    : BitVec 31 := 0
  gen     : BitVec 8 := 0
  tag     : BitVec 16 := 0
  len     : BitVec 8 := 0
  contrib : BitVec 8 := 1
  seg     : BitVec 3 := 0
  tile    : BitVec 3 := 0
  row     : BitVec 7 := 0
  payload : List Byte := []
  poison  : List Bool := []
  deriving DecidableEq, Repr, Inhabited

/-- How an arbiter orders a request (R307): its band, 0 HIGH, 1 NORMAL, 2 LOW, and its request deadline on the request clock. -/
structure Prio where
  band : BitVec 2 := 1
  due  : BitVec 16 := 0
  deriving DecidableEq, Repr, Inhabited

/-- A fabric packet: the transaction header of Table 11.2, EXT, DATA and TAG (R269), with the virtual channel
and link it travels on. EXT and DATA of a keyed packet are ciphertext (R278). `rsvd` is the reserved bits, gathered. `prio` and `maybe` stay
inside the package: how an egress queue orders the packet (R308), and the mark "possibly delivered" (R258). -/
structure Packet where
  ttype  : BitVec 5 := 0
  dst    : BitVec 17 := 0
  src    : BitVec 17 := 0
  incarn : BitVec 8 := 0
  hops   : BitVec 6 := 0
  keyed  : Bool := false
  kgen   : Bool := false
  fwd    : Bool := false
  poison : Bool := false
  legacy : Bool := false
  rsvd   : BitVec 9 := 0
  tag    : BitVec 16 := 0
  gid    : BitVec 24 := 0xFFFFFF
  len    : BitVec 13 := 0
  status : BitVec 8 := 0
  addr   : Dword := 0
  seq    : Dword := 0
  ext    : Word := 0
  data   : List Byte := []
  gcmTag : BitVec 128 := 0
  vc     : BitVec 2 := 0
  link   : BitVec 6 := 0
  prio   : Option Prio := none
  maybe  : Bool := false
  deriving DecidableEq, Repr, Inhabited

/-- A link flit: the header of Table 10.4, the payload by its type, and the CRC-32 as received (R246, R247). `pad` is payload bytes behind
those that the type assigns; the rest is zero. -/
structure Flit where
  ftype : BitVec 4 := 0
  vc    : BitVec 2 := 0
  seq   : BitVec 12 := 0
  ack   : BitVec 12 := 0xFFF
  cvc   : BitVec 2 := 0
  ccum  : BitVec 16 := 0
  deg   : Bool := false
  rsvd  : BitVec 15 := 0
  crc   : Word := 0
  pad   : List Byte := []
  /-- CTRL: the cumulative credits of VC0 to VC3. -/
  ccums : List (BitVec 16) := []
  /-- LANE: OP and pair. -/
  op    : Byte := 0
  pair  : Byte := 0
  /-- DATA: the packet carried. -/
  pkt   : Packet := {}
  deriving DecidableEq, Repr, Inhabited

/-- The two views of BAR0 (R402). -/
inductive View where
  | manager | host
  deriving DecidableEq, Repr, Inhabited

/-- A committed change of the floor-plan record, by the kinds of Table 1.7. -/
inductive FpChange where
  | coreFailing (core : Fin 320)
  | coreReplaced (core spare : Fin 320)
  | coreNoSpare (core : Fin 320)
  | spareRetired (core : Fin 320)
  | spareBank (cluster bank : Fin 32)
  | spareRow (cluster bank : Fin 32) (row : BitVec 13)
  | bankRetired (cluster bank : Fin 32)
  | hbmPage (channel : Fin 128) (frame : BitVec 20)
  | hbmChannel (channel : Fin 128)
  | spareLane (group : Fin 16) (pair : BitVec 4)
  | cpDegraded (cp : Fin 16)
  | rtpDegraded
  | memoryOnly (cluster : Fin 32)
  | linkThree (link : Fin 64) (lane : BitVec 2)
  | spareLaneBad (group : Fin 16)
  deriving DecidableEq, Repr, Inhabited

/-- An element of Table 14.3. -/
inductive Element where
  | none
  | core (c : Fin 320)
  | cp (n : Fin 16)
  | rtp
  | sramRow (cluster bank : Fin 32) (row : BitVec 13)
  | sramBank (cluster bank : Fin 32)
  | hbmFrame (channel : Fin 128) (frame : BitVec 20)
  | hbmChannel (channel : Fin 128)
  | lane (link : Fin 64) (lane : BitVec 2)
  | spareLane (group : Fin 16)
  | crossing (kind : BitVec 2) (index : Byte)
  | clusterControl (cluster : Fin 32)
  | block (n : Fin 10)
  | router (cluster : Fin 32)
  | stop (n : Fin 18)
  deriving DecidableEq, Repr, Inhabited

/-- The verdict of a targeted self-test (R339). -/
inductive Verdict where
  | pending | transient | lasting | notTested
  deriving DecidableEq, Repr, Inhabited

/-- A PCIe completion's content (R209, R216). -/
inductive HostResult where
  | data (bytes : List Byte) (poisoned : Bool)
  | unsupported
  | abort
  deriving DecidableEq, Repr, Inhabited

/-- An ATS Translation Completion (R216). -/
inductive AtsResult where
  | mapped (addr : Dword) (twoMiB read write : Bool)
  | unsupported
  | abort
  | timeout
  deriving DecidableEq, Repr, Inhabited

/-- An incoming access at BAR4 (R230, Table 9.8). -/
inductive Bar4Op where
  | read (bytes : Nat)
  | write (data : List Byte)
  | fetchAdd (bytes : Nat) (v : Dword)
  | swap (bytes : Nat) (v : Dword)
  | cas (bytes : Nat) (compare v : BitVec 128)
  deriving DecidableEq, Repr, Inhabited

/-- A host access or a device write at a coherent window (R232). -/
inductive CohOp where
  | hostRead (bytes : Nat)
  | hostWrite (data : List Byte)
  | snoopDone
  deriving DecidableEq, Repr, Inhabited

/-- The path a register access takes: a BAR0 view, a doorbell page of BAR2, or the tray port (R402, R422). -/
inductive RegPath where
  | bar0 (v : View) (off : BitVec 24)
  | bar2 (page : Fin 4096) (off : BitVec 12)
  | tray (off : Byte)
  deriving DecidableEq, Repr, Inhabited

/-- The triggers of an RTP restart (R380). -/
inductive RestartCause where
  | pin | pairSymptom | firmware
  deriving DecidableEq, Repr, Inhabited

/-- The two SPDM transports (R359). -/
inductive Transport where
  | doe | mctp
  deriving DecidableEq, Repr, Inhabited

/-- The symptoms of Table 14.8. -/
inductive Symptom where
  | unequal | checker | parity
  deriving DecidableEq, Repr, Inhabited

/-- What a training end found at lock (Table 10.2): whether the group is connected whole, and the physical lane of each logical lane, two bits
each (R241). -/
inductive LockResult where
  | locked (whole : Bool) (lanes : BitVec 8)
  | mixed
  deriving DecidableEq, Repr, Inhabited

/-- What a QUALIFY window shows (R244): bits corrected on each logical lane, and on the group's spare lane where that qualified alongside. -/
structure QualWindow where
  bits  : List Nat := []
  spare : Option Nat := none
  deriving DecidableEq, Repr, Inhabited

/-- A state of the host link as the PHY reports it (R205, R232): L0, where the host offers CXL or does not, or any other. -/
inductive HostLinkState where
  | l0 (offersCxl : Bool)
  | left
  deriving DecidableEq, Repr, Inhabited

/-- A partner's identity block (Table 10.3). -/
structure Identity where
  moduleId  : Dword := 0
  node      : BitVec 17 := 0x1FFFF
  link      : BitVec 6 := 0
  proto     : Byte := 1
  spare     : Bool := false
  sparePair : BitVec 5 := 0x1F
  /-- Word 1, bits 63:37. -/
  rsvd      : BitVec 27 := 0
  deriving DecidableEq, Repr, Inhabited

/-- What one flash bank holds when the ROM looks at it (R356): whether signature, digest and format of every component
verify, the header's SVN and COMMIT_SVN, and the measurements 2 to 6 of its components. -/
structure FlashBank where
  verifies  : Bool := true
  svn       : Nat := 0
  commitSvn : Bool := false
  digests   : List (BitVec 384) := []
  deriving DecidableEq, Repr, Inhabited

/-- What power-on finds outside the always-on state: the flash banks, the fuses and the test outcomes (R356, R370 to R372). -/
structure BootEnv where
  bankA     : FlashBank := {}
  bankB     : FlashBank := {}
  /-- SLOT_STATE codes of the 320 core slots from the fuses, in physical core order. -/
  slots     : List (BitVec 2) := []
  /-- Compute mask, PACE_MAX of each cluster, order variant (1 or 2) and serial number from the fuses. -/
  compute   : Word := 0xFFFFFFFF
  paceMax   : List Byte := []
  variant   : BitVec 4 := 1
  serial    : Dword := 0
  romDigest : BitVec 384 := 0
  fuseDigest : BitVec 384 := 0
  svnFloor  : Nat := 0
  /-- The repairs made at test, as the fuses hold them; spare banks of a cluster and reserve frames of a channel that test found bad (R13, R18,
  Table 1.5). -/
  repairs : List FpChange := []
  banksBad : Tbl Nat := []
  /-- Spare rows that test spent on spare banks not yet in use, by `34 * cluster + bank` (R20, Table 1.5). -/
  spareRows : Tbl Nat := []
  reserveBad : Tbl Nat := []
  /-- HBM channels that fail step 4 and elements that fail step 8. -/
  channelsFailed : List (Fin 128) := []
  testsFailed    : List Element := []
  /-- Both RTP cores fail BIST. -/
  rtpFails  : Bool := false
  deriving DecidableEq, Repr, Inhabited

/-- What the hardware loop reads at one 10 µs sample (R314 to R318). -/
structure Sample where
  /-- Module input power over the interval, 0.1 W. -/
  power : Nat := 0
  /-- Core-rail current of each die: 10 µs mean and 1 ms mean, A. -/
  current10 : List Nat := [0, 0, 0, 0]
  current1m : List Nat := [0, 0, 0, 0]
  /-- Hottest sensor of each die, °C, and its sensor number. -/
  tj : List Nat := [0, 0, 0, 0]
  sensor : List Nat := [0, 0, 0, 0]
  /-- Sensor of each HBM stack, °C. -/
  stackTj : List Nat := [0, 0, 0, 0, 0, 0, 0, 0]
  deriving DecidableEq, Repr, Inhabited

end Sys2Proof
end

