-- ==== Sys2Proof/Syntax.lean ====
section
/-!
DEFINITION. The commands of the block, one constructor for each row of the table of operations and events
(spec/opcode_table.json), in the table's order. The operand `x` of a command item names the started item whose
words the queue holds; `r` is what the outside returns for a list that lies outside the package. The operand `w` of
a core's instruction is its instruction word.
-/
namespace Sys2Proof

inductive Instr where
  | floorplanCommit
  | rtpFprDataHiRead (v : View) (whole : Bool)
  | govPmTicksLoRead (v : View) (m : Fin 16) (whole : Bool)
  | paceTick (c : Fin 320)
  | waveAdmit (c : Fin 160)
  | waveSumsReachTile (c : Fin 160)
  | beatAdmit (c : Fin 96)
  | referenceLost
  | referenceRestored
  | referenceHoldoverEnd (hostDrops : Bool) (linksLost : Dword)
  | crossingOverflow (kind : BitVec 2) (index : Byte)
  | icacheFill (c : Fin 320) (line : BitVec 58)
  | transferComplete (c : Fin 320) (i : Nat) (refused : Bool)
  | mnop (c : Fin 160) (w : Dword)
  | mhalt (c : Fin 160) (w : Dword)
  | msafe (c : Fin 160) (w : Dword)
  | mfence (c : Fin 160) (w : Dword)
  | mli (c : Fin 160) (w : Dword)
  | maddi (c : Fin 160) (w : Dword)
  | madd (c : Fin 160) (w : Dword)
  | msub (c : Fin 160) (w : Dword)
  | mshli (c : Fin 160) (w : Dword)
  | mbr (c : Fin 160) (w : Dword)
  | mloop (c : Fin 160) (w : Dword)
  | msig (c : Fin 160) (w : Dword)
  | mwait (c : Fin 160) (w : Dword)
  | mflags (c : Fin 160) (w : Dword)
  | mld (c : Fin 160) (w : Dword)
  | mst (c : Fin 160) (w : Dword)
  | mplane (c : Fin 160) (w : Dword)
  | mclr (c : Fin 160) (w : Dword)
  | mtrx (c : Fin 160) (w : Dword)
  | mwave (c : Fin 160) (w : Dword)
  | mstream (c : Fin 160) (w : Dword)
  | mconv (c : Fin 160) (w : Dword)
  | tileReceiveRow (c : Fin 160) (tile : Fin 8) (row : Fin 128) (seg : Fin 8) (contrib : Byte) (partials : List Ledger) (poison : Bool)
  | forcedPointReached (c : Fin 320)
  | syncCounterAdd (cl : Fin 32) (slot : Fin 8) (n : Fin 32)
  | vnop (c : Fin 96) (w : Dword)
  | vhalt (c : Fin 96) (w : Dword)
  | vsafe (c : Fin 96) (w : Dword)
  | vfence (c : Fin 96) (w : Dword)
  | vli (c : Fin 96) (w : Dword)
  | vaddi (c : Fin 96) (w : Dword)
  | vadds (c : Fin 96) (w : Dword)
  | vsubs (c : Fin 96) (w : Dword)
  | vmuls (c : Fin 96) (w : Dword)
  | vshli (c : Fin 96) (w : Dword)
  | vbr (c : Fin 96) (w : Dword)
  | vloop (c : Fin 96) (w : Dword)
  | kcnt (c : Fin 96) (w : Dword)
  | vsig (c : Fin 96) (w : Dword)
  | vwait (c : Fin 96) (w : Dword)
  | vflags (c : Fin 96) (w : Dword)
  | vmovs (c : Fin 96) (w : Dword)
  | vext (c : Fin 96) (w : Dword)
  | kop (c : Fin 96) (w : Dword)
  | kset (c : Fin 96) (w : Dword)
  | vld (c : Fin 96) (w : Dword)
  | vst (c : Fin 96) (w : Dword)
  | vgath (c : Fin 96) (w : Dword)
  | vscat (c : Fin 96) (w : Dword)
  | vldl (c : Fin 96) (w : Dword)
  | vstl (c : Fin 96) (w : Dword)
  | vfop (c : Fin 96) (w : Dword)
  | vfma (c : Fin 96) (w : Dword)
  | viop (c : Fin 96) (w : Dword)
  | vcmp (c : Fin 96) (w : Dword)
  | vsel (c : Fin 96) (w : Dword)
  | vtf (c : Fin 96) (w : Dword)
  | vcvt (c : Fin 96) (w : Dword)
  | vred (c : Fin 96) (w : Dword)
  | vperm (c : Fin 96) (w : Dword)
  | vrot (c : Fin 96) (w : Dword)
  | vtopk (c : Fin 96) (w : Dword)
  | vladd (c : Fin 96) (w : Dword)
  | vlcvt (c : Fin 96) (w : Dword)
  | vtol (c : Fin 96) (w : Dword)
  | vlred (c : Fin 96) (w : Dword)
  | alu (c : Fin 64) (w : Word)
  | addi (c : Fin 64) (w : Word)
  | slti (c : Fin 64) (w : Word)
  | andi (c : Fin 64) (w : Word)
  | ori (c : Fin 64) (w : Word)
  | xori (c : Fin 64) (w : Word)
  | shli (c : Fin 64) (w : Word)
  | shri (c : Fin 64) (w : Word)
  | sari (c : Fin 64) (w : Word)
  | lui (c : Fin 64) (w : Word)
  | ldb (c : Fin 64) (w : Word)
  | ldh (c : Fin 64) (w : Word)
  | ldw (c : Fin 64) (w : Word)
  | ldd (c : Fin 64) (w : Word)
  | ldbs (c : Fin 64) (w : Word)
  | ldhs (c : Fin 64) (w : Word)
  | ldws (c : Fin 64) (w : Word)
  | stb (c : Fin 64) (w : Word)
  | sth (c : Fin 64) (w : Word)
  | stw (c : Fin 64) (w : Word)
  | std (c : Fin 64) (w : Word)
  | amo (c : Fin 64) (w : Word)
  | beq (c : Fin 64) (w : Word)
  | bne (c : Fin 64) (w : Word)
  | blt (c : Fin 64) (w : Word)
  | bge (c : Fin 64) (w : Word)
  | bltu (c : Fin 64) (w : Word)
  | bgeu (c : Fin 64) (w : Word)
  | jal (c : Fin 64) (w : Word)
  | jalr (c : Fin 64) (w : Word)
  | sfence (c : Fin 64) (w : Word)
  | ssig (c : Fin 64) (w : Word)
  | swait (c : Fin 64) (w : Word)
  | srdc (c : Fin 64) (w : Word)
  | ssafe (c : Fin 64) (w : Word)
  | shalt (c : Fin 64) (w : Word)
  | csrr (c : Fin 64) (w : Word)
  | csrw (c : Fin 64) (w : Word)
  | csrset (c : Fin 64) (w : Word)
  | csrclr (c : Fin 64) (w : Word)
  | tret (c : Fin 64) (w : Word)
  | sidle (c : Fin 64) (w : Word)
  | meshReadReq (p : MeshPkt)
  | meshReadResp (p : MeshPkt)
  | meshWrite (p : MeshPkt)
  | meshWriteAck (p : MeshPkt)
  | meshAtomic (p : MeshPkt)
  | reduceSram (p : MeshPkt)
  | reduceTile (p : MeshPkt)
  | meshSync (p : MeshPkt)
  | meshControl (p : MeshPkt)
  | reduceHoldExpire (cl : Fin 32) (i : Nat)
  | scrubRead (cl bank : Fin 32) (row : BitVec 13) (single double : List (Fin 32)) (written : Bool)
  | spareBankCopyDone (cl bank : Fin 32)
  | bankZeroDone (cl bank : Fin 32)
  | frameRetirementSwitch (ch : Fin 128) (frame : BitVec 20)
  | gpLookupReturn (x : ItemRef) (bag : Nat)
  | mshSramErrcntRead (v : View) (whole : Bool)
  | gloveOpen (x : ItemRef) (r : Reply)
  | sliceFit (x : ItemRef) (r : Reply)
  | vcoreBind (x : ItemRef) (r : Reply)
  | vcoreMove (x : ItemRef) (r : Reply)
  | vcoreUnbind (x : ItemRef) (r : Reply)
  | channelRefit (x : ItemRef) (r : Reply)
  | linkRefit (x : ItemRef)
  | memberJoin (x : ItemRef) (r : Reply)
  | memberLeave (x : ItemRef) (r : Reply)
  | gloveClose (x : ItemRef)
  | crownRead (x : ItemRef)
  | pairSet (x : ItemRef)
  | pairCommit (x : ItemRef) (r : Reply)
  | prepare (p : Packet)
  | accept (p : Packet)
  | refuse (p : Packet)
  | commit (p : Packet)
  | image (p : Packet)
  | imageAck (p : Packet)
  | bindingUpdate (p : Packet)
  | crown (p : Packet)
  | mismatch (p : Packet)
  | agreed (p : Packet)
  | freeze (p : Packet)
  | crownGossipTick (gid : BitVec 24)
  | forceTimeout (c : Fin 320)
  | forwardingRecordExpire (c : Fin 320)
  | acceptCommitTimeout (c : Fin 320)
  | nop (x : ItemRef)
  | fenceSignal (x : ItemRef)
  | fenceWait (x : ItemRef) (r : Reply)
  | fenceWaitReread (x : ItemRef) (h : HostResult)
  | fenceWaitTimeout (x : ItemRef)
  | cookie (x : ItemRef)
  | copy (x : ItemRef)
  | fill (x : ItemRef)
  | gatherPool (x : ItemRef)
  | floorplanRead (x : ItemRef)
  | dispatch (x : ItemRef)
  | ctxOpen (x : ItemRef) (r : Reply)
  | ctxClose (x : ItemRef)
  | ctxResume (x : ItemRef)
  | ctxUnpark (x : ItemRef) (r : Reply)
  | queueOpen (x : ItemRef) (r : Reply)
  | queueClose (x : ItemRef)
  | memOpen (x : ItemRef) (r : Reply)
  | memClose (x : ItemRef)
  | hostAttach (x : ItemRef)
  | hiuDbWrite (page : Fin 4096) (v : Word)
  | hiuDbCplRead (page : Fin 4096) (v : Word)
  | hiuDbFlush (page : Fin 4096) (v : Word)
  | slotFetch (ctx : BitVec 16) (qid : BitVec 4) (r : Reply)
  | itemStart (ctx : BitVec 16) (qid : BitVec 4)
  | contextLoad (ctx : BitVec 16)
  | teardownGraceExpire (i : Nat)
  | teardownIdle (i : Nat)
  | teardownRequestTimeout (i : Nat)
  | memZeroDone (obj : BitVec 16)
  | hostLinkDownTimeout
  | hotResetReceived
  | perstAssert
  | perstRelease
  | contextPark (ctx : BitVec 16)
  | hiuRaDataHiRead (v : View) (whole : Bool)
  | hiuReattachHi (v : View) (d : Word)
  | reattachHoldExpire
  | segSet (x : ItemRef) (r : Reply)
  | walkSet (x : ItemRef) (r : Reply)
  | walkGuard (x : ItemRef) (r : Reply)
  | atcInval (x : ItemRef)
  | migrate (x : ItemRef)
  | faultRespond (x : ItemRef)
  | windowOpen (x : ItemRef) (r : Reply)
  | windowClose (x : ItemRef)
  | peerSet (x : ItemRef) (r : Reply)
  | apertureSet (x : ItemRef)
  | hdmSet (x : ItemRef)
  | atsCompletion (tag : Nat) (a : AtsResult)
  | atsInvalidateRequest (pasid : BitVec 20) (base size : Dword) (itag : BitVec 5)
  | invalidateCompletion (itag : BitVec 5)
  | walkFetchComplete (tag : Nat) (h : HostResult)
  | pageRequestResponse (req : BitVec 16) (success : Bool)
  | pageRequestTimeout (req : BitVec 16)
  | windowTimeout (tag : BitVec 16)
  | bar4Access (off : BitVec 39) (op : Bar4Op)
  | bar4Resize (log2 : BitVec 6)
  | linkSignalDetected (l : Fin 64)
  | noSignal (l : Fin 64)
  | lanesTrained (l : Fin 64)
  | trainTimeout (l : Fin 64)
  | lanesLocked (l : Fin 64) (k : LockResult)
  | identityBlock (l : Fin 64) (b : Identity)
  | qualifyWindowEnd (l : Fin 64) (w : QualWindow)
  | failedRetryTimer (l : Fin 64)
  | dataFlit (l : Fin 64) (f : Flit)
  | ctrlFlit (l : Fin 64) (f : Flit)
  | nak (l : Fin 64) (f : Flit)
  | replayTimeout (l : Fin 64)
  | laneDrop (l : Fin 64) (f : Flit)
  | laneSpareIn (l : Fin 64) (f : Flit)
  | laneSpareAck (l : Fin 64) (f : Flit)
  | spareAckTimeout (l : Fin 64)
  | laneRetrainReq (l : Fin 64) (f : Flit)
  | laneHold (l : Fin 64) (f : Flit)
  | holdRestartTimeout (l : Fin 64)
  | laneLockLoss (l : Fin 64) (lane : Fin 5)
  | uncorrectableCodeword (l : Fin 64) (lane : BitVec 2)
  | laneBerWindowEnd (l : Fin 64) (lane : Fin 5) (bits codewords ppb : Nat)
  | spareNotWarmTimeout (g : Fin 16)
  | retrainDone (l : Fin 64) (b : Identity) (short : Bool)
  | retrainTimeout (l : Fin 64)
  | fabLinkEnable (v : View) (l : Fin 64) (on : Bool)
  | fabLinkRetrain (v : View) (l : Fin 64)
  | transitPacket (p : Packet)
  | packetExpire (p : Packet)
  | drainEnd (node : BitVec 17)
  | fabricReadReq (p : Packet)
  | fabricReadResp (p : Packet)
  | fabricWrite (p : Packet)
  | fabricWriteAck (p : Packet)
  | fabricAtomic (p : Packet)
  | atomicResp (p : Packet)
  | gather (p : Packet)
  | reduceWin (p : Packet)
  | fabricReduceTile (p : Packet)
  | reduceAck (p : Packet)
  | treeHoldExpire (i : Nat)
  | reduceAckTimeout (tag : BitVec 16)
  | fence (p : Packet)
  | fenceResp (p : Packet)
  | probe (p : Packet)
  | probeResp (p : Packet)
  | wgenQuery (p : Packet)
  | wgenReply (p : Packet)
  | timeSync (p : Packet)
  | timeSyncSendTick (probe : Bool)
  | timeParentSilent
  | nodeSet (x : ItemRef)
  | routeSet (x : ItemRef) (r : Reply)
  | treeSet (x : ItemRef)
  | treeClear (x : ItemRef)
  | jobkeySet (x : ItemRef) (r : Reply)
  | jobkeyClear (x : ItemRef)
  | wgather (x : ItemRef) (r : Reply)
  | timeSet (x : ItemRef)
  | mixedStep (x : ItemRef) (r : Reply)
  | dispatchDl (x : ItemRef)
  | fallbackSet (x : ItemRef)
  | partSet (x : ItemRef) (r : Reply)
  | regSet (x : ItemRef)
  | schedRead (x : ItemRef)
  | vcoreKernelStart (c : Fin 320)
  | preemptReadoutDone (c : Fin 320)
  | beResume (c : Fin 320)
  | deadlineMonitorTick
  | guaranteeWindowEnd (p : Fin 16) (target : Fin 3)
  | governorSample (m : Sample)
  | slowLoopTick
  | thermalShutdown (sensor : BitVec 6)
  | throttleRecordTimer (i : Nat)
  | droopBegin (cl : Fin 32)
  | droopEnd (die : Fin 4)
  | droopSettleEnd (die : Fin 4)
  | pace (p : Packet)
  | paceReportTick (gid : BitVec 24)
  | paceSet (x : ItemRef)
  | capSet (x : ItemRef)
  | domainSet (x : ItemRef)
  | fillerSet (x : ItemRef)
  | throttleRead (x : ItemRef)
  | govRead (x : ItemRef)
  | domainEntryCommit (d : BitVec 6)
  | wakeSource (d : BitVec 6) (source : BitVec 3)
  | domainWakeTimer (d : BitVec 6)
  | domainExitDone (d : BitVec 6)
  | powerWaveStart
  | errorDetected (source : BitVec 16) (e : Element) (detail : Dword)
  | selftestVerdict (e : Element) (pass : Bool)
  | lockstepMismatch (cp : Fin 17) (y : Symptom) (count : Dword)
  | latentScan (cp : Fin 17) (rails : BitVec 2)
  | cpStall (cp : Fin 16) (count : Dword)
  | coreStall (c : Fin 320)
  | waitTimeout (c : Fin 320)
  | itemTimeout (x : ItemRef)
  | resetTimeout (i : Nat)
  | resetComplete (i : Nat)
  | glovePeerSilence (gid : BitVec 24) (rank : BitVec 17)
  | gloveFault (p : Packet)
  | selftest (x : ItemRef)
  | errInject (x : ItemRef)
  | watchdogSet (x : ItemRef)
  | resetReq (x : ItemRef)
  | edgeSet (x : ItemRef)
  | errRead (x : ItemRef)
  | wkeySet (x : ItemRef) (r : Reply)
  | wkeyClear (x : ItemRef)
  | wkeySlotEmptied (slot : Fin 64)
  | measRead (x : ItemRef)
  | imageStage (x : ItemRef) (r : Reply)
  | getVersion (tr : Transport) (msg : List Byte)
  | getCapabilities (tr : Transport) (msg : List Byte)
  | negotiateAlgorithms (tr : Transport) (msg : List Byte)
  | getDigests (tr : Transport) (msg : List Byte)
  | getCertificate (tr : Transport) (msg : List Byte)
  | challenge (tr : Transport) (msg : List Byte)
  | getMeasurements (tr : Transport) (msg : List Byte)
  | keyExchange (tr : Transport) (msg : List Byte)
  | finish (tr : Transport) (msg : List Byte)
  | heartbeat (tr : Transport) (msg : List Byte)
  | keyUpdate (tr : Transport) (msg : List Byte)
  | endSession (tr : Transport) (msg : List Byte)
  | mctpControl (msg : List Byte)
  | powerOn (e : BootEnv)
  | pwrEnFall
  | hiuMgrGo (v : View) (d : Word)
  | rmReq
  | rtpRemovePrepare (v : View)
  | rtpRemoveCancel (v : View)
  | surpriseRemoval
  | rtpRestart (k : RestartCause)
  | rtpWatchdog
  | rtpRestartReturn (bist : BitVec 2) (imageOk : Bool)
  | rtpRestartTimeout
  | interruptCommit (q : Fin 49)
  | eicClaim (q : Fin 49)
  | eicComplete (q : Fin 49) (source : BitVec 11)
  | eicSoft (v : View) (d : Word)
  | msixVectorUnmask (vec : BitVec 11)
  | snapTake (x : ItemRef)
  | snapshotMarker (unit : Nat) (epoch : Word)
  | snapshot (p : Packet)
  | snapRead (x : ItemRef) (r : Reply)
  | counterRead (x : ItemRef) (r : Reply)
  | logCfg (x : ItemRef)
  | intrCfg (x : ItemRef)
  | logRecordStore
  | logRecordDeliver
  | hiuIndData (v : View) (d : Option Word)
  | hiuIndDataNoinc (v : View) (d : Option Word)
  | indAccessTimeout (v : View)
  | hiuIndStatusRead (v : View) (whole : Bool)
  | unfreeze (v : View) (d : Word)
  | parityCheck (block : BitVec 3) (off : BitVec 16)
  | registerWrite (a : RegPath) (d : Word) (full : Bool)
  | govTrayCap (d : Word)
  | govTrayWake (d : Word)
  | govTrayHostReset (d : Word)
  | govTrayAlertRead (whole : Bool)
  | powerLoss
  | inputOvervoltage
  | inputOvercurrent
  | cblPrsnt (q : Fin 4)
  | referenceEdge
  | hostLinkStateChange (k : HostLinkState)
  | hostReadCompletion (tag : Nat) (h : HostResult)
  | completionTimeout (tag : Nat)
  | transferEngineComplete (x : ItemRef)
  | resultInRegister (c : Fin 96) (i : Nat)
  | fillerTargetUpdate (amps : List Nat)
  | configurationRequest (write : Option Word) (reg : BitVec 10)
  | coherentWindowAccess (dec : BitVec 2) (off : Dword) (op : CohOp)
  | illegalOpcode (c : Fin 320) (w : Dword)
  | unknownOpcode (ctx : BitVec 16) (qid : BitVec 4)
  | idleFlit (l : Fin 64) (f : Flit)
  | malformedPacket (p : Packet)
  deriving DecidableEq, Repr

end Sys2Proof
end

