-- ==== Sys2Proof/Decode.lean ====
section
/-!
DEFINITION. The command that a word of the table of operations spells: no row of the table is given bits, so no word spells one.
-/
namespace Sys2Proof

/-- No row of spec/opcode_table.json has fields. -/
def decodeTableWord (nbits w : Nat) : Option Instr :=
  let _ := nbits
  let _ := w
  none

end Sys2Proof
end

