-- ==== Sys2Proof/Config.lean ====
section
/-!
DEFINITION. What the specification leaves to an implementation or does not fix: free values, constants without a body that
no proof can evaluate, and the results of the cryptographic primitives of the standards it names.
-/
namespace Sys2Proof.Config

/-- The value of a function-unit approximation (R108): function number and operand. Only a bound on its error is stated; the exact
and special cases are computed by the model and do not use it. -/
opaque vtf : BitVec 3 → Word → Word

/-! ### Cryptographic primitives of the standards that the specification names

Their algorithms stand in those standards and not in the specification: each is an uninterpreted function. -/

/-- AES-256-GCM seal of FIPS 197 and SP 800-38D: key, IV, additional data and plaintext give ciphertext and tag (R278). -/
opaque gcmSeal : BitVec 256 → BitVec 96 → List Byte → List Byte → List Byte × BitVec 128

/-- AES-256-GCM open: the plaintext, or none where the tag does not verify (R279, R361). -/
opaque gcmOpen : BitVec 256 → BitVec 96 → List Byte → List Byte → BitVec 128 → Option (List Byte)

/-- Byte `i` of the plaintext of a 4,096-byte data unit under AES-256-XTS: key, tweak, ciphertext unit (R156). -/
opaque xtsByte : BitVec 512 → Dword → List Byte → Nat → Byte

/-- The key-encryption key of a wrapped blob: the wrap key pair of this device with its boot measurements, the ephemeral point
and the information words give the HKDF result, or none where the point is invalid (R361). -/
opaque unwrapKek : List (BitVec 384) → List Byte → List Byte → Option (BitVec 256)

/-- A word of host memory as the host last wrote it, at the `n`-th time the device needs one that no command carries (the
consumer's RIDX of a ring that lies in host memory, Table 8.13). -/
opaque hostWord : Nat → Dword

/-- How many ns of the 50 that R286 allows a follower slews at its `n`-th TIME_SYNC, before the bound is applied. -/
opaque slew : Nat → Nat

/-- The estimated error bound that FAB_TIME_STATUS shows after the `n`-th TIME_SYNC (Table 11.8). -/
opaque timeErr : Nat → BitVec 16

/-- Byte `i` of a save area as the `n`-th eviction writes it: the specification gives its layout nowhere (R187). -/
opaque saveByte : Nat → Nat → Byte

/-- A configuration register that the specification does not describe: register number and the value last written (R401). -/
opaque cfgWord : Nat → Word → Word

/-- The dword number of the power-management control register, which the specification does not place (R231). -/
opaque pmReg : Nat

/-- Whether the engine-specific detail of a security engine error says that the error lies in the key store (R347, Table 14.4). -/
opaque keyStoreError : Dword → Bool

/-- What the verification of a firmware image finds (R356): its SVN, COMMIT_SVN and the digests of its components; none where a signature,
digest or form check fails. -/
opaque imageBank : List Byte → Option (Nat × Bool × List (BitVec 384))

/-- The public half of the wrap key that the device derives from its secret and its measurements, SEC1 uncompressed (R358). -/
opaque wrapPublic : List (BitVec 384) → BitVec 776

/-- What the SPDM responder answers to a request (R359): number of the request, its bytes, the transcript so far, measurements and health
block; the response, and whether it accepts the request. -/
opaque spdmAnswer : Nat → List Byte → List Byte → List (BitVec 384) → List Byte → List Byte × Bool

/-- The SPDM error response to a request that the state of its transport does not allow. -/
opaque spdmRefusal : Nat → List Byte → List Byte

/-- The responder's half of the `n`-th session id. -/
opaque sessionId : Nat → BitVec 16

/-- The response to an MCTP control message at an endpoint (R423). -/
opaque mctpAnswer : List Byte → Byte → List Byte

end Sys2Proof.Config
end

