-- ==== Sys2Proof/Machine/Flags.lean ====
section
/-!
DEFINITION. ARITH_FLAGS (R60, Table 3.6) and every rounding, number format and ledger rule of the chapter "Number formats and
ledger accumulation", computed exactly on integers and narrowed once.
-/
namespace Sys2Proof.Machine

abbrev Flags := BitVec 16

def flLedgerRange : Flags := 0x0001
def flLedgerLow : Flags := 0x0002
def flInvalid : Flags := 0x0004
def flConvInexact : Flags := 0x0008
def flConvOverflow : Flags := 0x0010
def flConvUnderflow : Flags := 0x0020
def flFloatInexact : Flags := 0x0040
def flFloatOverflow : Flags := 0x0080
def flFloatUnderflow : Flags := 0x0100

/-- The flags a tile keeps: bits 0 to 2 and 6 to 8 (R61). -/
def flTileMask : Flags := 0x01C7

/-- `f` when `b`, else no flag. -/
def flIf (b : Bool) (f : Flags) : Flags := if b then f else 0

/-- A decoded floating-point or integer value (R45): sign, magnitude `m * 2^e`. -/
inductive FVal where
  | nan
  | inf (neg : Bool)
  | fin (neg : Bool) (m : Nat) (e : Int)
  deriving DecidableEq, Repr

/-- Number of significant bits. -/
def bitLen (m : Nat) : Nat := if m = 0 then 0 else Nat.log2 m + 1

/-- `m / 2^k` to nearest, ties to even, and whether that changed the value. -/
def rneShift (m k : Nat) : Nat × Bool :=
  let q := m / 2 ^ k
  let r := m % 2 ^ k
  let up := decide (2 * r > 2 ^ k) || (decide (2 * r = 2 ^ k) && decide (q % 2 = 1) && decide (0 < k))
  (if up && decide (0 < r) then q + 1 else q, decide (r ≠ 0))

/-- `m * 2^e` as a multiple of `2^q`, to nearest, ties to even. -/
def rneAt (m : Nat) (e q : Int) : Nat × Bool :=
  if q ≤ e then (m * 2 ^ (e - q).toNat, false) else rneShift m (q - e).toNat

/-- `m * 2^e ≥ n * 2^f`. -/
def geScaled (m : Nat) (e : Int) (n : Nat) (f : Int) : Bool :=
  let k := min e f
  decide (n * 2 ^ (f - k).toNat ≤ m * 2 ^ (e - k).toNat)

/-- A float target (Table 3.2): precision `p`, quantum exponent `qmin` of its subnormals, magnitude code of its largest finite. -/
structure FloatFmt where
  p : Nat
  qmin : Int
  top : Nat
  deriving DecidableEq, Repr

def fmtE4M3 : FloatFmt := ⟨4, -9, 0x7E⟩
def fmtE5M2 : FloatFmt := ⟨3, -16, 0x7B⟩
def fmtE3M2 : FloatFmt := ⟨3, -4, 0x1F⟩
def fmtE2M3 : FloatFmt := ⟨4, -3, 0x1F⟩
def fmtE2M1 : FloatFmt := ⟨2, -1, 0x7⟩
def fmtBF16 : FloatFmt := ⟨8, -133, 0x7F7F⟩
def fmtFP32 : FloatFmt := ⟨24, -149, 0x7F7FFFFF⟩

/-- What one rounding gives (R428): the magnitude code at unbounded range, and the three conditions. -/
structure Rounded where
  code : Nat
  inexact : Bool
  isOver : Bool
  tiny : Bool
  deriving DecidableEq, Repr

/-- Round `m * 2^e` to the target, to nearest, ties to even (R428). -/
def roundTo (f : FloatFmt) (m : Nat) (e : Int) : Rounded :=
  if m = 0 then ⟨0, false, false, false⟩
  else
    let qu := e + bitLen m - f.p
    let q := max qu f.qmin
    let r := rneAt m e q
    let code := (q - f.qmin).toNat * 2 ^ (f.p - 1) + r.1
    let u := (rneAt m e qu).1
    let topExp := if u = 2 ^ f.p then qu + f.p else qu + f.p - 1
    ⟨code, r.2, decide (f.top < code), decide (topExp < f.qmin + f.p - 1)⟩

/-- Decode a float code with `ebits` exponent and `mbits` mantissa bits (R45); NaN and infinity are the caller's. -/
def decodeFinite (ebits mbits bias : Nat) (c : Nat) : FVal :=
  let s := c / 2 ^ (ebits + mbits) % 2 = 1
  let e := c / 2 ^ mbits % 2 ^ ebits
  let m := c % 2 ^ mbits
  if e = 0 then .fin s m (1 - (bias : Int) - mbits)
  else .fin s (m + 2 ^ mbits) ((e : Int) - bias - mbits)

def decodeFp32 (w : Word) : FVal :=
  let c := w.toNat
  if c / 2 ^ 23 % 256 = 255 then
    if c % 2 ^ 23 = 0 then .inf (c / 2 ^ 31 = 1) else .nan
  else decodeFinite 8 23 127 c

/-- Two's-complement value of an `n`-bit code. -/
def decodeInt (n c : Nat) : FVal :=
  if c < 2 ^ (n - 1) then .fin false c 0 else .fin true (2 ^ n - c) 0

/-- Element formats by the codes of Tables 4.4 and 5.3: width in bits. -/
def fmtBits (fmt : Nat) : Nat :=
  match fmt with
  | 0 => 8 | 1 => 4 | 2 => 8 | 3 => 8 | 4 => 6 | 5 => 6 | 6 => 4 | 7 => 16 | 8 => 32 | 9 => 32 | _ => 8

/-- Decode an element (R45, Table 3.2). -/
def decodeElem (fmt c : Nat) : FVal :=
  match fmt with
  | 0 => decodeInt 8 c
  | 1 => decodeInt 4 c
  | 2 => if c % 128 = 127 then .nan else decodeFinite 4 3 7 c
  | 3 => if c / 4 % 32 = 31 then (if c % 4 = 0 then .inf (c / 128 = 1) else .nan) else decodeFinite 5 2 15 c
  | 4 => decodeFinite 3 2 3 c
  | 5 => decodeFinite 2 3 1 c
  | 6 => decodeFinite 2 1 1 c
  | 7 => decodeFp32 (BitVec.ofNat 32 (c * 65536))
  | 8 => decodeFp32 (BitVec.ofNat 32 c)
  | 9 => decodeInt 32 c
  | _ => if c = 255 then .nan else .fin false 1 ((c : Int) - 127)

/-- Exact product (R58, R59): a product of zero and infinity is invalid. -/
def FVal.mul : FVal → FVal → FVal
  | .nan, _ | _, .nan => .nan
  | .inf a, .inf b => .inf (a != b)
  | .inf a, .fin b m _ => if m = 0 then .nan else .inf (a != b)
  | .fin a m _, .inf b => if m = 0 then .nan else .inf (a != b)
  | .fin a m e, .fin b n f => .fin (a != b) (m * n) (e + f)

/-- A signed integer multiple of `2^e` of a finite value. -/
def signedAt (neg : Bool) (m : Nat) (e k : Int) : Int :=
  let v : Int := m * 2 ^ (e - k).toNat
  if neg then -v else v

/-- Exact sum (R59): infinities of opposite sign are invalid; an exact zero is +0 unless both are −0. -/
def FVal.add : FVal → FVal → FVal
  | .nan, _ | _, .nan => .nan
  | .inf a, .inf b => if a = b then .inf a else .nan
  | .inf a, .fin .. => .inf a
  | .fin .., .inf b => .inf b
  | .fin a m e, .fin b n f =>
    let k := min e f
    let s := signedAt a m e k + signedAt b n f k
    if s = 0 then .fin (a && b) 0 0
    else .fin (decide (s < 0)) s.natAbs k

def FVal.neg : FVal → FVal
  | .nan => .nan
  | .inf a => .inf (!a)
  | .fin a m e => .fin (!a) m e

/-- Multiply by a power of two. -/
def FVal.scale (v : FVal) (k : Int) : FVal :=
  match v with
  | .fin a m e => .fin a m (e + k)
  | x => x

/-- A magnitude code with its sign bit at `2^signAt`. -/
def signCode (neg : Bool) (signAt code : Nat) : Nat := if neg then 2 ^ signAt + code else code

/-- An FP32 result with its flags (R59, R428). -/
def toFp32 (v : FVal) : Word × Flags :=
  match v with
  | .nan => (0x7FC00000, flInvalid)
  | .inf s => (if s then 0xFF800000 else 0x7F800000, 0)
  | .fin s m e =>
    let r := roundTo fmtFP32 m e
    if r.isOver then (if s then 0xFF800000 else 0x7F800000, flFloatOverflow ||| flFloatInexact)
    else (BitVec.ofNat 32 (signCode s 31 r.code),
      flIf r.inexact flFloatInexact ||| flIf (r.inexact && r.tiny) flFloatUnderflow)

def fp32Add (a b : Word) : Word × Flags := toFp32 ((decodeFp32 a).add (decodeFp32 b))
def fp32Sub (a b : Word) : Word × Flags := toFp32 ((decodeFp32 a).add (decodeFp32 b).neg)
def fp32Mul (a b : Word) : Word × Flags := toFp32 ((decodeFp32 a).mul (decodeFp32 b))
def fp32Fma (a b c : Word) : Word × Flags :=
  toFp32 (((decodeFp32 a).mul (decodeFp32 b)).add (decodeFp32 c))

/-- Division by a positive count, rounded once to FP32 (R154). -/
def fp32DivNat (a : Word) (n : Nat) : Word × Flags :=
  match decodeFp32 a with
  | .fin s m e =>
    if m = 0 ∨ n = 0 then (if s then 0x80000000 else 0, 0)
    else
      -- enough quotient bits for one rounding; the remainder is folded into a sticky bit
      let k := bitLen n + 64
      let q := m * 2 ^ k / n
      let sticky := if m * 2 ^ k % n = 0 then 0 else 1
      toFp32 (.fin s (2 * q + sticky) (e - k - 1))
  | v => toFp32 v

/-- Total order key of an FP32 value for maximum and minimum: +0 above −0 (Table 5.4). -/
def fp32Key (w : Word) : Int :=
  if w.toNat < 2 ^ 31 then w.toNat else -((w.toNat : Int) - 2 ^ 31) - 1

def fp32IsNan (w : Word) : Bool := decodeFp32 w == .nan

def fp32Max (a b : Word) : Word × Flags :=
  if fp32IsNan a || fp32IsNan b then (0x7FC00000, flInvalid)
  else (if fp32Key a < fp32Key b then b else a, 0)

def fp32Min (a b : Word) : Word × Flags :=
  if fp32IsNan a || fp32IsNan b then (0x7FC00000, flInvalid)
  else (if fp32Key b < fp32Key a then b else a, 0)

/-- Numeric comparison of two FP32 values: `none` when either is a NaN; −0 equals +0. -/
def fp32Cmp (a b : Word) : Option Ordering :=
  if fp32IsNan a || fp32IsNan b then none
  else
    let z (w : Word) : Int := if w.toNat % 2 ^ 31 = 0 then 0 else fp32Key w
    let ka := if a.toNat < 2 ^ 31 then z a else if z a = 0 then 0 else z a + 1
    let kb := if b.toNat < 2 ^ 31 then z b else if z b = 0 then 0 else z b + 1
    some (compare ka kb)

/-! ### The ledger -/

/-- The SAT code (R50). -/
def satCode : Ledger := 0x800000000000000000000000

/-- Ledger addition (R53). -/
def ledgerAdd (x y : Ledger) : Ledger :=
  if x = satCode ∨ y = satCode then satCode
  else
    let s := x.toInt + y.toInt
    if -(2 ^ 95) < s ∧ s < 2 ^ 95 then BitVec.ofInt 96 s else satCode

/-- How a value enters the ledger (R51). -/
def ledgerEnter (v : FVal) : Ledger × Flags :=
  match v with
  | .nan | .inf _ => (satCode, flInvalid)
  | .fin s m e =>
    if geScaled m e (2 ^ 96 - 1) (-49) then (satCode, flLedgerRange)
    else
      let r := rneAt m e (-48)
      (BitVec.ofInt 96 (if s then -(r.1 : Int) else r.1), flIf r.2 flLedgerLow)

/-- The exact product of two elements with the product of their block scales: invalid where an operand is (R45, R48). -/
def ledgerProduct (a b : FVal) (sa sb : Nat) : FVal :=
  match a, b with
  | .fin .., .fin .. => if sa = 255 ∨ sb = 255 then .nan else (a.mul b).scale ((sa : Int) + sb - 254)
  | _, _ => .nan

/-- Conversion of an FP32 value into the ledger (R55). -/
def fp32ToLedger (w : Word) : Ledger × Flags :=
  match decodeFp32 w with
  | .nan | .inf _ => (satCode, flInvalid)
  | .fin s m e =>
    let r := rneAt m e (-48)
    if 2 ^ 95 ≤ r.1 then (satCode, flLedgerRange)
    else (BitVec.ofInt 96 (if s then -(r.1 : Int) else r.1), flIf r.2 flLedgerLow)

def int32ToLedger (w : Word) : Ledger := BitVec.ofInt 96 (w.toInt * 2 ^ 48)

/-- The flags of a conversion (R56, R428). -/
def convFlags (r : Rounded) : Flags :=
  flIf (r.inexact || r.isOver) flConvInexact ||| flIf r.isOver flConvOverflow |||
    flIf (r.inexact && r.tiny) flConvUnderflow

/-- Clamp an integer result symmetrically (Table 3.5): code and flags. -/
def clampInt (bits : Nat) (s : Bool) (m : Nat) (e : Int) : Nat × Flags :=
  let r := rneAt m e 0
  let top := 2 ^ (bits - 1) - 1
  let isOver := decide (top < r.1)
  let v := if isOver then top else r.1
  (if s then (2 ^ bits - v) % 2 ^ bits else v,
    flIf (r.2 || isOver) flConvInexact ||| flIf isOver flConvOverflow)

/-- Conversion out of the ledger (R56, Table 3.5) to TGT 0 to 5 of Table 4.4, shift `k`; the code in the low bits. -/
def ledgerConvert (tgt : Nat) (x : Ledger) (k : Int) : Nat × Flags :=
  if x = satCode then
    (match tgt with | 0 => 0x7FC00000 | 1 => 0x7FC0 | 2 => 0x7F | 3 => 0x7F | 4 => 0x80 | _ => 0x80000000,
      flLedgerRange)
  else
    let s := decide (x.toInt < 0)
    let m := x.toInt.natAbs
    let e : Int := k - 48
    match tgt with
    | 0 => let r := roundTo fmtFP32 m e; (signCode s 31 r.code, convFlags r)
    | 1 => let r := roundTo fmtBF16 m e; (signCode s 15 r.code, convFlags r)
    | 2 => let r := roundTo fmtE4M3 m e
           (signCode s 7 (if r.isOver then fmtE4M3.top else r.code), convFlags r)
    | 3 => let r := roundTo fmtE5M2 m e
           (signCode s 7 (if r.isOver then fmtE5M2.top else r.code), convFlags r)
    | 4 => clampInt 8 s m e
    | _ => clampInt 32 s m e

/-- Narrowing of an FP32 value to BF16 (R429): code and flags. -/
def narrowBf16 (w : Word) : BitVec 16 × Flags :=
  match decodeFp32 w with
  | .nan => (0x7FC0, flInvalid)
  | .inf s => (if s then 0xFF80 else 0x7F80, 0)
  | .fin s m e =>
    let r := roundTo fmtBF16 m e
    if r.isOver then (if s then 0xFF80 else 0x7F80, flConvOverflow ||| flConvInexact)
    else (BitVec.ofNat 16 (signCode s 15 r.code), convFlags r)

/-- FP32 to INT32 (VCVT FN 0, R107). -/
def fp32ToInt32 (w : Word) : Word × Flags :=
  match decodeFp32 w with
  | .nan => (0x80000000, flInvalid)
  | .inf s => (if s then 0x80000001 else 0x7FFFFFFF, flInvalid)
  | .fin s m e => let r := clampInt 32 s m e; (BitVec.ofNat 32 r.1, r.2)

/-- INT32 to FP32 (VCVT FN 1). -/
def int32ToFp32 (w : Word) : Word × Flags :=
  toFp32 (.fin (decide (w.toInt < 0)) w.toInt.natAbs 0)

/-- Largest integral FP32 value not above the operand (VCVT FN 3): no flag but for a NaN. -/
def fp32Floor (w : Word) : Word × Flags :=
  match decodeFp32 w with
  | .nan => (0x7FC00000, flInvalid)
  | .inf _ => (w, 0)
  | .fin s m e =>
    if 0 ≤ e then (w, 0)
    else
      let d := 2 ^ (-e).toNat
      if m % d = 0 then (w, 0)
      else if s then ((toFp32 (.fin true (m / d + 1) 0)).1, 0)
      else ((toFp32 (.fin false (m / d) 0)).1, 0)

/-- Narrow float targets of quantisation by format code 2 to 6. -/
def narrowFmt (fmt : Nat) : FloatFmt :=
  match fmt with
  | 2 => fmtE4M3 | 3 => fmtE5M2 | 4 => fmtE3M2 | 5 => fmtE2M3 | _ => fmtE2M1

/-- Quantise a finite value to a narrow float format, clamped to its largest finite (R57). -/
def quantFinite (fmt : Nat) (s : Bool) (m : Nat) (e : Int) : Nat × Flags :=
  let f := narrowFmt fmt
  let r := roundTo f m e
  (signCode s (fmtBits fmt - 1) (if r.isOver then f.top else r.code), convFlags r)

/-- Plain quantisation of an FP32 value to INT8, INT4, E4M3 or E5M2 (R57). -/
def quantPlain (fmt : Nat) (w : Word) : Nat × Flags :=
  let neg := w.toNat / 2 ^ 31 = 1
  match fmt, decodeFp32 w with
  | 0, .nan => (0x80, flInvalid)
  | 1, .nan => (0x8, flInvalid)
  | 0, .inf s => (if s then 0x81 else 0x7F, flInvalid)
  | 1, .inf s => (if s then 0x9 else 0x7, flInvalid)
  | 0, .fin s m e => clampInt 8 s m e
  | 1, .fin s m e => clampInt 4 s m e
  | _, .nan => (if neg then 0xFF else 0x7F, flInvalid)
  | 3, .inf s => (if s then 0xFB else 0x7B, flInvalid)
  | _, .inf s => (if s then 0xFF else 0x7F, flInvalid)
  | f, .fin s m e => quantFinite f s m e

/-- `floor(log2 v)` of a nonzero finite magnitude. -/
def floorLog2 (m : Nat) (e : Int) : Int := e + bitLen m - 1

/-- EMAX of a block format (R57). -/
def blockEmax (fmt : Nat) : Int :=
  match fmt with | 2 => 8 | 3 => 15 | 4 => 4 | _ => 2

/-- The largest magnitude exponent of a block: `none` if a value is not finite; zero block gives `some none`. -/
def blockMax : List FVal → Option (Option (Nat × Int))
  | [] => some none
  | .fin _ m e :: l =>
    match blockMax l with
    | none => none
    | some none => some (if m = 0 then none else some (m, e))
    | some (some (n, f)) => some (some (if geScaled m e n f then (m, e) else (n, f)))
  | _ :: _ => none

/-- MX block quantisation of 32 FP32 values (R57): element codes, scale and flags. -/
def quantBlock (fmt : Nat) (ws : List Word) : List Nat × Nat × Flags :=
  let vs := ws.map decodeFp32
  match blockMax vs with
  | none => (ws.map fun _ => 0, 255, flInvalid)
  | some mx =>
    let e : Nat := match mx with
      | none => 0
      | some (m, x) => (max 0 (min 254 (floorLog2 m x - blockEmax fmt + 127))).toNat
    let qs := vs.map fun v => match v with
      | .fin s m x => quantFinite fmt s m (x + 127 - e)
      | _ => (0, 0)
    (qs.map (·.1), e, qs.foldl (fun a q => a ||| q.2) 0)

/-- The E8M0 code of an FP32 value and its flags (R104, Table 5.3). -/
def toE8m0 (w : Word) : Nat × Flags :=
  match decodeFp32 w with
  | .fin _ m e =>
    if m = 0 then (0, flConvInexact ||| flConvUnderflow)
    else
      let l := floorLog2 m e + 127
      let c := (max 0 (min 254 l)).toNat
      let exact := decide (0 ≤ l ∧ l ≤ 254) && decide (m = 2 ^ (bitLen m - 1))
      (c, flIf (!exact) flConvInexact ||| flIf (decide (254 < l)) flConvOverflow |||
        flIf (decide (l < 0)) flConvUnderflow)
  | _ => (255, flInvalid)

/-- A vector load's element, with its block scale (R104): register value and flags. -/
def loadElem (fmt c : Nat) (scale : Option Nat) : Word × Flags :=
  match fmt with
  | 0 => (BitVec.signExtend 32 (BitVec.ofNat 8 c), 0)
  | 1 => (BitVec.signExtend 32 (BitVec.ofNat 4 c), 0)
  | 8 | 9 => (BitVec.ofNat 32 c, 0)
  | _ =>
    match scale with
    | some 255 => (0x7FC00000, flInvalid)
    | _ =>
      let k : Int := match scale with | some s => (s : Int) - 127 | none => 0
      toFp32 ((decodeElem fmt c).scale k)

/-- Allowed pairings (Table 3.3): 0 integer, 1 wide × any float, 2 narrow × narrow, 3 BF16; `none` if not in the table. -/
def pairing (a b : Nat) : Option Nat :=
  let int (f : Nat) : Bool := decide (f ≤ 1)
  let wide (f : Nat) : Bool := decide (f = 2 ∨ f = 3)
  let narrow (f : Nat) : Bool := decide (4 ≤ f ∧ f ≤ 6)
  if int a && int b then some 0
  else if narrow a && narrow b then some 2
  else if (wide a && (wide b || narrow b)) || (narrow a && wide b) then some 1
  else if a = 7 ∧ b = 7 then some 3
  else none

/-- Exact sum of a list of finite values; not finite if any is not, by the rules of R58. -/
def sumVals (l : List FVal) : FVal := l.foldl FVal.add (.fin false 0 0)

/-- One BF16 output element of a wave (R58): the products' exact sum rounded once, then added with a second round. -/
def bf16Accumulate (acc : Word) (products : List FVal) : Word × Flags :=
  let s := toFp32 (sumVals products)
  let r := fp32Add acc s.1
  (r.1, s.2 ||| r.2)

end Sys2Proof.Machine
end

