-- ==== Sys2Proof/Machine/Operands.lean ====
section
/-!
DEFINITION. Reading and building fields: bit fields of words, packed elements (R46), little-endian bytes, bit masks.
-/
namespace Sys2Proof.Machine

/-- Bits `hi` down to `lo` of a word, as a number. -/
def fld {n : Nat} (w : BitVec n) (hi lo : Nat) : Nat := w.toNat / 2 ^ lo % 2 ^ (hi - lo + 1)

/-- Bit `i`. -/
def bit {n : Nat} (w : BitVec n) (i : Nat) : Bool := w.getLsbD i

/-- Two's-complement value of bits `hi` to `lo`. -/
def sfld {n : Nat} (w : BitVec n) (hi lo : Nat) : Int := (BitVec.ofNat (hi - lo + 1) (fld w hi lo)).toInt

/-- Whether no bit outside `mask` is set: the reserved-bit check (R75, R101, R117, R196). -/
def onlyBits {n : Nat} (w mask : BitVec n) : Bool := w &&& ~~~mask == 0

/-- A number's `n` bytes, least significant first. -/
def leBytes : Nat → Nat → List Byte
  | 0, _ => []
  | n + 1, v => BitVec.ofNat 8 v :: leBytes n (v / 256)

/-- The number that bytes spell, least significant first. -/
def leNat : List Byte → Nat
  | [] => 0
  | b :: l => b.toNat + 256 * leNat l

/-- Split bytes into little-endian 64-bit words. -/
def leWords (n : Nat) (l : List Byte) : List Dword :=
  match n with
  | 0 => []
  | n + 1 => BitVec.ofNat 64 (leNat (l.take 8)) :: leWords n (l.drop 8)

def dwordBytes (ws : List Dword) : List Byte := ws.flatMap fun w => leBytes 8 w.toNat

/-- Element `i` of width `w` bits of a packed array (R46): packed groups are little-endian bit strings. -/
def elemOf (bytes : List Byte) (w i : Nat) : Nat :=
  leNat ((bytes.drop (w * i / 8)).take 5) / 2 ^ (w * i % 8) % 2 ^ w

def unpackNat (w : Nat) : Nat → Nat → List Nat
  | 0, _ => []
  | n + 1, v => v % 2 ^ w :: unpackNat w n (v / 2 ^ w)

/-- Elements of width `w` from a packed array, in order. -/
def unpack (bytes : List Byte) (w n : Nat) : List Nat := unpackNat w n (leNat bytes)

/-- Codes of width `w` packed into one number, code 0 lowest. -/
def packNat (w : Nat) : List Nat → Nat
  | [] => 0
  | c :: l => c % 2 ^ w + 2 ^ w * packNat w l

/-- Pack codes of width `w` (R46). -/
def pack (w : Nat) (codes : List Nat) : List Byte :=
  leBytes ((w * codes.length + 7) / 8) (packNat w codes)

def popcountAux : Nat → Nat → Nat
  | 0, _ => 0
  | n + 1, m => m % 2 + popcountAux n (m / 2)

def popcount {n : Nat} (m : BitVec n) : Nat := popcountAux n m.toNat

/-- Position of the `k`-th set bit, counting from bit `i` (R137, R150). -/
def nthSetAux : Nat → Nat → Nat → Nat → Nat
  | 0, _, _, i => i
  | n + 1, m, k, i =>
    if m % 2 = 1 then (if k = 0 then i else nthSetAux n (m / 2) (k - 1) (i + 1))
    else nthSetAux n (m / 2) k (i + 1)

def nthSet {n : Nat} (m : BitVec n) (k : Nat) : Nat := nthSetAux n m.toNat k 0

/-- The positions of the set bits, ascending. -/
def setBits {n : Nat} (m : BitVec n) : List Nat := (List.range n).filter fun i => m.getLsbD i

def setBit {n : Nat} (m : BitVec n) (i : Nat) (b : Bool) : BitVec n :=
  if b then m ||| BitVec.ofNat n (2 ^ i) else m &&& ~~~(BitVec.ofNat n (2 ^ i))

/-- `n` bytes of a memory from address `a`. -/
def memRead (m : Mem) (a n : Nat) : List Byte := (List.range n).map fun i => Tbl.get 0 m (a + i)

/-- Write bytes from address `a`. -/
def memWrite (m : Mem) (a : Nat) : List Byte → Mem
  | [] => m
  | b :: l => memWrite (Tbl.set 0 m a b) (a + 1) l

/-- The units of `u` bytes that a range touches. -/
def unitsOf (u a n : Nat) : List Nat :=
  if n = 0 then [] else (List.range ((a + n - 1) / u - a / u + 1)).map (· + a / u)

/-- Whether a range holds a poisoned unit. -/
def poisoned (p : Tbl Bool) (u a n : Nat) : Bool := (unitsOf u a n).any fun i => Tbl.get false p i

/-- For each byte of a range, whether its unit is poisoned. -/
def poisonFlags (p : Tbl Bool) (u a n : Nat) : List Bool := (List.range n).map fun i => Tbl.get false p ((a + i) / u)

/-- Poison after bytes from `a` to `stop` are written, byte by byte: a unit that takes a poisoned byte is poisoned, and one that is
written whole loses its own poison first (R132). -/
def poisonWriteAt (p : Tbl Bool) (u stop a : Nat) : List Bool → Tbl Bool
  | [] => p
  | b :: l =>
    poisonWriteAt (if b then Tbl.set false p (a / u) true
      else if a % u = 0 ∧ a + u ≤ stop then Tbl.set false p (a / u) false else p) u stop (a + 1) l

/-- Poison after a write of a range whose bytes carry the flags. -/
def poisonWrite (p : Tbl Bool) (u a : Nat) (flags : List Bool) : Tbl Bool := poisonWriteAt p u (a + flags.length) a flags

/-- The flags of data that is poisoned, or not, as a whole. -/
def flagsOf (data : List Byte) (bad : Bool) : List Bool := List.replicate data.length bad

end Sys2Proof.Machine
end

