-- ==== Sys2Proof/Machine/UnitsCore.lean ====
section
/-!
DEFINITION. The state of the floor plan, the pace meters, the cores and the interrupt, counter and log units: plain data,
each field with its reset value as its default.
-/
namespace Sys2Proof.Machine

/-- The floor-plan record (R20, Table 1.5), its repair log (R23) and the changes that wait for their commit (R22). -/
structure FloorPlan where
  generation : Word := 0
  changeTime : Dword := 0
  computeMask : Word := 0
  lastChange : Byte := 0
  wearWarn : BitVec 16 := 0
  /-- SLOT_STATE by physical core id (Table 1.6). -/
  slot : Tbl (BitVec 2) := []
  /-- Spare banks spent, by cluster, of 2. -/
  banksSpent : Tbl Nat := []
  /-- Spare rows spent by physical bank, `34 * cluster + bank`, of 16. -/
  rowsSpent : Tbl Nat := []
  /-- In-use bank of each logical bank as the record has it, `32 * cluster + bank` to physical bank plus one (0: the bank of the same number), and
  the banks retired under change 0x07: both move only with a commit (R22). -/
  bankPhys : Tbl Nat := []
  banksGone : Tbl Bool := []
  paceMax : Tbl Byte := []
  cpOk : BitVec 16 := 0
  cpDegraded : BitVec 16 := 0
  rtpOk : Bool := false
  /-- Channels in service. -/
  chInService : BitVec 128 := 0
  /-- Reserve frames of a channel that are used or bad. -/
  reserveSpent : Tbl Nat := []
  /-- Stack capacity in GB: 36 or 24. -/
  capacity : Byte := 0
  /-- Page frames retired by stack. -/
  pagesRetired : Tbl Word := []
  linkOk : Dword := 0
  spareFree : BitVec 16 := 0
  spareUsed : BitVec 16 := 0
  /-- SUBST by group. -/
  subst : Tbl (BitVec 4) := []
  /-- The repair log in the boot flash, oldest first, at most 4,096 entries. -/
  repairLog : List FpChange := []
  /-- Changes whose commit has not been made, oldest first. -/
  pending : List FpChange := []
  /-- Spare designated to replace a failing core (R24): failing core id to spare core id plus one. -/
  designated : Tbl Nat := []
  /-- Failing cores without a spare whose vcore's point has been asked for and not reached (R25). -/
  bare : List Nat := []
  /-- RTP_FPR_INDEX (Table 1.8). -/
  index : BitVec 7 := 0
  deriving DecidableEq, Repr

/-- One pace meter (R32, R36). -/
structure PaceMeter where
  target : Byte := 0
  /-- The governor's write that takes effect at the next reference edge (R34). -/
  written : Byte := 0
  acc : Nat := 0
  /-- The latch behind GOV_PM_TICKS_HI. -/
  ticksHi : Word := 0
  /-- Remainder of the bubble fraction (R319). -/
  bubbleAcc : Nat := 0
  deriving DecidableEq, Repr

/-- What a core is doing (R71, R84, R90, R98, R116). -/
inductive CoreRun where
  | idle
  | running
  | stopped (mcause : Byte)
  | atPoint (declared : Bool)
  | hung
  deriving DecidableEq, Repr

/-- The point requested of a core's vcore (R90, R91, R294). -/
inductive PointReq where
  | none
  | refit
  | preempt
  /-- Its context faulted: the image goes to the save area (R188). -/
  | fault
  /-- Parked by a host loss: the image goes to the save area (R205). -/
  | park
  /-- Stopped, the image discarded: flush, teardown, unbinding, closing, retirement (R176, R197, R204, R25). -/
  | abort (status : Byte)
  deriving DecidableEq, Repr

/-- Why a core waits at issue. -/
inductive CoreWait where
  | none
  | counter (s : BitVec 5) (v : BitVec 16)
  | tile (t : BitVec 3) (v : BitVec 16)
  deriving DecidableEq, Repr

/-- One outstanding transfer of a core: what `TRANSFER_COMPLETE` then does. -/
inductive XferKind where
  /-- Slice memory to operand buffer or local memory. -/
  | load (slice : Nat) (loc : Nat)
  /-- Bytes to slice memory. -/
  | store (slice : Nat) (data : List Byte)
  /-- Reduce-add of raw partials to slice memory from a base address on (R131). -/
  | reduce (base : Nat) (items : List (Nat × Ledger))
  /-- Reduce-add of a row into a tile of another vcore (R82), at the core and with the generation of its binding at issue (R166). -/
  | tileRow (vcore : BitVec 16) (tile : BitVec 3) (row : BitVec 7) (dst : Nat) (gen : Byte) (partials : List Ledger)
  /-- Operand buffer write of a conversion. -/
  | obStore (off : Nat) (data : List Byte)
  /-- A vector load from slice memory into lanes; `w` is its instruction word. -/
  | vload (w : Dword) (addr scaleAddr : Nat) (mask : BitVec 512)
  /-- A gather: pairs of lane and slice address. -/
  | gather (vd : BitVec 6) (lanes : List (Nat × Nat))
  /-- Element updates at the bank: slice address and value, in ascending lane order (R105). -/
  | scatter (op : BitVec 2) (items : List (Nat × Word))
  /-- A ledger-vector load. -/
  | ledgerLoad (vd : BitVec 6) (addr : Nat) (mask : BitVec 512)
  /-- Bytes to slice memory, lane by lane. -/
  | scatterBytes (pieces : List (Nat × List Byte))
  /-- A scalar load of an S-core. -/
  | sload (rd : BitVec 5) (addr bytes : Nat) (signed : Bool)
  /-- An S-core AMO at the bank. -/
  | amo (fn : BitVec 11) (rd : BitVec 5) (addr : Nat) (rb old : Dword)
  deriving DecidableEq, Repr

/-- An outstanding transfer, with the region map and partition it was checked against (R138). -/
structure Xfer where
  bytes : Nat := 0
  part : BitVec 4 := 0
  map : Tbl Dword := []
  /-- For each byte of the data it carries, whether it is poisoned. -/
  poison : List Bool := []
  kind : XferKind
  deriving DecidableEq, Repr

/-- An instruction that keeps the issue stage of an M-core (R72). -/
inductive MJob where
  | none
  | wave (w : Dword) (next : Nat)
  | stream (w : Dword) (next : Nat)
  | copy (w : Dword) (row : Nat) (off : Nat)
  | conv (w : Dword) (row : Nat)
  deriving DecidableEq, Repr

/-- A stationary operand plane (R67, R79). -/
structure Plane where
  loaded : Bool := false
  fmt : BitVec 4 := 0
  sc : Bool := false
  k256 : Bool := false
  /-- Column `n`'s packed vector follows column `n - 1`'s. -/
  data : Mem := []
  scales : Mem := []
  deriving DecidableEq, Repr

/-- An accumulator tile (R67): elements by `128 * row + column`. -/
structure Tile where
  fp32 : Bool := false
  isOpen : Bool := false
  /-- Contributions received (R145); the receive count is an eighth of it. -/
  contribs : Nat := 0
  flags : BitVec 16 := 0
  elems : Tbl Ledger := []
  deriving DecidableEq, Repr

/-- The weights an admitted wave meets. -/
inductive WaveW where
  | plane (p : Bool)
  | block (bytes : List Byte) (scales : List Byte)
  deriving DecidableEq, Repr

/-- A wave between admission and tile (R68): its activation vectors by destination row, as read at admission. -/
structure Wave where
  tile : BitVec 3 := 0
  fmtX : BitVec 4 := 0
  fmtW : BitVec 4 := 0
  scX : Bool := false
  scW : Bool := false
  k : Nat := 128
  colBase : Nat := 0
  cols : Nat := 128
  rows : List (Nat × List Byte × List Byte) := []
  weights : WaveW := .plane false
  deriving DecidableEq, Repr

/-- A weight block in the stream port (R67): its bytes, and whether a unit of it is poisoned. -/
structure StreamBlk where
  bytes : List Byte := []
  bad : Bool := false
  deriving DecidableEq, Repr

/-- An M-core (R67): registers, operand buffer, planes, tiles, flags. -/
structure MCore where
  g : Tbl Dword := []
  ob : Mem := []
  /-- Poisoned 64-bit words of the operand buffer (R132). -/
  obPoison : Tbl Bool := []
  plane0 : Plane := {}
  plane1 : Plane := {}
  tiles : Tbl Tile := []
  flags : BitVec 16 := 0
  job : MJob := .none
  /-- The region map in force when the instruction at the issue stage issued (R138). -/
  jobMap : Tbl Dword := []
  /-- Blocks that the stream port has buffered for the MSTREAM at the issue stage, next one first, at most 8 (R67). -/
  stream : List StreamBlk := []
  waves : List Wave := []
  /-- A refused DEST = 3 row not yet reported (R85). -/
  refused : Bool := false
  deriving DecidableEq, Repr

/-- A V-core result between its last beat and its register (R112). -/
structure VResult where
  /-- Register image writes: `512 * register + lane` and value. -/
  lanes : List (Nat × Word) := []
  mask : Option (BitVec 3 × BitVec 512) := none
  scalar : Option (BitVec 4 × Dword) := none
  flags : BitVec 16 := 0
  deriving DecidableEq, Repr

/-- A lane instruction whose beats are being admitted (R97). -/
structure VBeat where
  w : Dword := 0
  left : Nat := 0
  begun : Bool := false
  deriving DecidableEq, Repr

/-- A V-core (R94). -/
structure VCore where
  a : Tbl Dword := []
  /-- Vector registers by `512 * register + lane`. -/
  v : Tbl Word := []
  /-- Mask registers k1 to k7. -/
  k : Tbl (BitVec 512) := []
  lm : Mem := []
  lmPoison : Tbl Bool := []
  flags : BitVec 16 := 0
  beat : Option VBeat := none
  results : List VResult := []
  deriving DecidableEq, Repr

/-- An S-core (R113): registers, local memory (U region, then F region), control registers of Table 5.10. -/
structure SCore where
  x : Tbl Dword := []
  lm : Mem := []
  lmPoison : Tbl Bool := []
  ie : Bool := false
  /-- Privilege level: true at F. -/
  pl : Bool := false
  tvec : Dword := 0x100030000
  tsp : Dword := 0x100040000
  ecause : Dword := 0
  eaddr : Dword := 0
  scratch : Dword := 0
  /-- SIDLE waits for an interrupt. -/
  sidle : Bool := false
  deriving DecidableEq, Repr

/-- The kernel that runs on a core's vcore: its context, queue, item and index (R199). -/
structure KernelRef where
  x : ItemRef
  vcore : BitVec 16 := 0
  be : Bool := false
  deriving DecidableEq, Repr

/-- The private part of a core's image (Tables 4.11 and 5.13). -/
inductive ImageBody where
  | m (c : MCore)
  | v (c : VCore)
  | s (x : Tbl Dword) (lm : Mem) (poison : Tbl Bool)
  deriving DecidableEq, Repr

/-- A state image that a point offered (R92, R125). -/
structure Image where
  vcore : BitVec 16 := 0
  gid : BitVec 24 := 0
  pc : Dword := 0
  wait : CoreWait := .none
  run : CoreRun := .running
  kernel : Option KernelRef := none
  /-- The LIVE masks of a declared point; all ones at a forced one (Tables 4.11, 5.13). -/
  live : BitVec 12 := 0xFFF
  body : ImageBody
  deriving DecidableEq, Repr

/-- What the three core types share, by physical core id: sequencer, credits (R35), instruction cache (R430: set to line
numbers, most recent first), outstanding transfers (R72) and points. -/
structure Core where
  run : CoreRun := .idle
  pc : Dword := 0
  credits : Nat := 0
  icache : Tbl (List Nat) := []
  xfers : List Xfer := []
  point : PointReq := .none
  /-- The point request has become a forced one (R91). -/
  forced : Bool := false
  /-- Masks of a declared point (R90). -/
  live : BitVec 12 := 0
  wait : CoreWait := .none
  kernel : Option KernelRef := none
  /-- Cleared or replaced by an engine reset (R345). -/
  cuffed : Bool := false
  /-- The image of a preemption point between the point and its readout (R89, R126). -/
  held : Option Image := none
  deriving DecidableEq, Repr

/-- A sync group in a cluster's sync unit (R121). -/
structure SyncGroup where
  gid : BitVec 24 := 0
  part : BitVec 4 := 0
  counters : Tbl (BitVec 16) := []
  deriving DecidableEq, Repr

/-- A private or shared interrupt source's settings and state (R386). -/
structure IrqSource where
  prio : BitVec 4 := 6
  target : BitVec 6 := 48
  level : Bool := false
  mask : Bool := false
  /-- Edge pending, or level input asserted. -/
  pend : Bool := false
  active : Bool := false
  /-- Processor at which it is active (R400: completion stays with the old processor). -/
  at_ : BitVec 6 := 48
  deriving DecidableEq, Repr

/-- One processor's interface (Table 17.9). -/
structure IrqProc where
  thresh : BitVec 4 := 0
  pmask : Dword := 0
  ppend : Dword := 0
  pactive : Dword := 0
  /-- PRIO of private source i, where it is not 6. -/
  pprio : Tbl (BitVec 4) := []
  /-- Delivery has committed (R386). -/
  committed : Bool := false
  deriving DecidableEq, Repr

/-- The event-log record (Table 17.5): payload of up to 48 bytes. -/
structure LogRec where
  source : BitVec 16 := 0
  sseq : Word := 0
  type : Byte := 0
  retained : Bool := false
  time : Dword := 0
  payload : List Byte := []
  deriving DecidableEq, Repr

/-- The event log's store and ring (R394 to R397). -/
structure EventLog where
  store : List LogRec := []
  /-- Writers of retained records that wait for a place (R395). -/
  waiting : List LogRec := []
  /-- Records held while the RTP restarts, at most 512 (R381). -/
  held : List LogRec := []
  sseq : Tbl Word := []
  lost : Word := 0
  /-- Discards not yet reported by a TYPE 0x13 record: source, first SSEQ and count. -/
  gone : List (BitVec 16 × Word × Nat) := []
  ringLog : BitVec 4 := 0
  msix : BitVec 11 := 0
  base : Dword := 0
  widx : Nat := 0
  /-- Reference time of the last MSI-X; one is owed (R397). -/
  lastMsix : Option Nat := none
  owed : Bool := false
  deriving DecidableEq, Repr

/-- Counters (R391), shadows (R392) and each unit's last latched epoch. -/
structure Counters where
  live : Tbl Dword := []
  shadow0 : Tbl Dword := []
  shadow1 : Tbl Dword := []
  /-- Highest epoch injected here; the markers that some unit has not yet latched, with the package that took the snapshot. -/
  epoch : Word := 0
  markers : List (Word × BitVec 17) := []
  /-- Epoch that each unit has latched in each bank. -/
  bank0 : Tbl Word := []
  bank1 : Tbl Word := []
  /-- Core (plus one) of each vcore at the latch, in each bank: by `2^16 * glove + vcore`. -/
  bound0 : Tbl Nat := []
  bound1 : Tbl Nat := []
  /-- The 1 ms sample from which tenants read (R366). -/
  sample : Tbl Dword := []
  deriving DecidableEq, Repr

end Sys2Proof.Machine
end

