-- ==== Sys2Proof/Machine/UnitsMem.lean ====
section
/-!
DEFINITION. The state of cluster SRAM, HBM and the mesh, of gloves and refit, and of contexts, queues, memory objects,
translation, windows and the host link: plain data, each field with its reset value as its default.
-/
namespace Sys2Proof.Machine

/-- A reduce packet in a router's combining buffer (R144), with the region map in force when it was sent (R138). -/
structure HeldPkt where
  pkt : MeshPkt := {}
  map : Tbl Dword := []
  deriving DecidableEq, Repr, Inhabited

/-- Cluster SRAM and HBM (R127, R148), by logical bank and by frame.
SRAM byte key: `((32 * cluster + bank) * 8192 + row) * 256 + byte`.
HBM byte key: `(channel * 2^20 + frame) * 4096 + byte`, after the retirement map. -/
structure Memory where
  sram : Mem := []
  /-- Poisoned 64-bit words. -/
  sramPoison : Tbl Bool := []
  /-- 256-byte lines tagged protected (R156). -/
  sramProt : Tbl Bool := []
  /-- Physical bank of a logical bank plus one; 0 is the bank of the same number. -/
  bankMap : Tbl Nat := []
  /-- Spare designated for a failing logical bank, plus one (Table 6.3). -/
  bankCopy : Tbl Nat := []
  /-- Physical banks that are in use or bad, `34 * cluster + bank`. -/
  bankBad : Tbl Bool := []
  bankLost : Tbl Bool := []
  /-- Banks being zeroed by port 11 (R138). -/
  bankZero : Tbl Bool := []
  hbm : Mem := []
  /-- Poisoned 64-byte units. -/
  hbmPoison : Tbl Bool := []
  /-- Retirement map: frame key to reserve frame plus one (R152). -/
  frameMap : Tbl Nat := []
  frameCopy : Tbl Nat := []
  frameDead : Tbl Bool := []
  /-- First accesses to lost banks, dead frames and retired channels that have been logged: key, partition, write. -/
  lostSeen : List (Nat × BitVec 4 × Bool) := []
  /-- MSH registers (Table 6.15). -/
  redHold : Byte := 0x10
  scrubPeriod : BitVec 16 := 0x64
  errCe : BitVec 16 := 0
  errUe : BitVec 16 := 0
  errCluster : BitVec 5 := 0
  errBank : BitVec 5 := 0
  errRow : BitVec 13 := 0
  errIsUe : Bool := false
  deriving DecidableEq, Repr

/-- A slice as fitting installed it: SRAM region map (Table 6.4) and HBM region words (Table 6.10, `5 * i + word`). -/
structure Slice where
  regions : Tbl Dword := []
  hbm : Tbl Dword := []
  deriving DecidableEq, Repr

/-- A local binding entry (Table 7.3). `state`: 0 free, 1 bound, 2 moving out, 3 moving in. -/
structure Binding where
  vcore : BitVec 16 := 0
  gid : BitVec 24 := 0
  gen : Byte := 0
  sgCl : BitVec 5 := 0
  sgSlot : BitVec 3 := 0
  state : BitVec 2 := 0
  part : BitVec 4 := 0
  /-- Reference time of the swap that brought the vcore here (R173). -/
  swapped : Option Nat := none
  deriving DecidableEq, Repr

/-- A forwarding record at a core freed by a swap (R172, R174). -/
structure Forward where
  pid : Nat := 0
  gid : BitVec 24 := 0
  vcore : BitVec 16 := 0
  oldGen : Byte := 0
  newGen : Byte := 0
  node : BitVec 17 := 0
  dst : Nat := 0
  /-- The item of the move: packets dropped here count in its result while it is open (R171). -/
  item : Option ItemRef := none
  deriving DecidableEq, Repr

/-- Where a move stands (Table 7.9). -/
inductive MoveStage where
  | prepare
  | point
  | copy
  | done
  deriving DecidableEq, Repr

/-- A move in progress. `item` is absent for a move the RTP started. -/
structure Move where
  item : Option ItemRef := none
  gid : BitVec 24 := 0
  vcore : BitVec 16 := 0
  kind : BitVec 2 := 0
  src : Nat := 0
  node : BitVec 17 := 0
  dst : Nat := 0
  sgCl : BitVec 5 := 0
  sgSlot : BitVec 3 := 0
  epoch : Word := 0
  force : BitVec 16 := 0
  stage : MoveStage := .prepare
  dropped : Word := 0
  /-- Packets forwarded to the destination member since the point: lost with it (Table 7.11). -/
  forwarded : Word := 0
  /-- Chunks of the image sent to the destination member (Table 7.9 step 6). -/
  chunks : Nat := 0
  deriving DecidableEq, Repr

/-- A vcore moving in at this member, with its stash (Table 7.9 step 3). -/
structure MoveIn where
  pid : Nat := 0
  gid : BitVec 24 := 0
  vcore : BitVec 16 := 0
  src : BitVec 17 := 0
  gen : Byte := 0
  image : List Byte := []
  stash : List MeshPkt := []
  dropped : Word := 0
  deriving DecidableEq, Repr

/-- A crown report of a child (R181). -/
structure CrownReport where
  rank : BitVec 17 := 0
  epoch : Word := 0
  digest : BitVec 384 := 0
  count : Nat := 0
  mismatch : Bool := false
  /-- MISMATCH: the other epoch and the ranks of the disagreeing subtrees. -/
  epochB : Word := 0
  rankA : BitVec 17 := 0
  rankB : BitVec 17 := 0
  deriving DecidableEq, Repr

/-- A binding update held out of epoch order (R175). -/
structure BindUpdate where
  vcore : BitVec 16 := 0
  node : BitVec 17 := 0
  kind : BitVec 2 := 0
  epoch : Word := 0
  src : BitVec 17 := 0x1FFFF
  deriving DecidableEq, Repr

/-- A glove at this member (R160). -/
structure Glove where
  gid : BitVec 24 := 0
  rank : BitVec 17 := 0
  vcount : Nat := 0
  stale : Bool := false
  stash : Nat := 0
  part : BitVec 4 := 0
  epoch : Word := 0
  /-- Node by rank; unlisted ranks are vacant. -/
  members : Tbl (BitVec 17) := []
  memberCount : Nat := 0
  fitted : Bool := false
  /-- The directory before SLICE_FIT; unlisted entries are unbound. -/
  dir : Tbl Word := []
  dirHbm : Bool := false
  dirAddr : Dword := 0
  stashAddr : BitVec 31 := 0
  channels : BitVec 128 := 0
  /-- The links bound to the glove here, and whether a LINK_REFIT has named them (R176). -/
  links : Dword := 0
  linked : Bool := false
  twin : BitVec 24 := 0xFFFFFF
  digest : BitVec 384 := 0
  agreed : Word := 0
  frozen : Bool := false
  mismatch : Word := 0
  held : List BindUpdate := []
  /-- The member whose update brought the epoch, if one did: its further updates of that epoch belong to the same change. -/
  updFrom : BitVec 17 := 0x1FFFF
  reports : List CrownReport := []
  /-- The paces last reported by children, by node, plus one (R321). -/
  paces : Tbl Nat := []
  deriving DecidableEq, Repr

/-- The state of a context. -/
inductive CtxState where
  | running | parked | closing
  deriving DecidableEq, Repr

/-- A segment descriptor (Table 9.1), raw words. -/
structure Segment where
  w0 : Dword := 0
  w1 : Dword := 0
  w2 : Dword := 0
  w3 : Dword := 0
  deriving DecidableEq, Repr

/-- A context (Table 8.1) with its run-time state. -/
structure Context where
  id : BitVec 16 := 0
  part : BitVec 4 := 0
  manager : Bool := false
  preserve : Bool := false
  pin : Bool := false
  inst : Byte := 0
  gid : BitVec 24 := 0xFFFFFF
  pasid : BitVec 20 := 0
  msix : BitVec 11 := 0
  grace : BitVec 20 := 0
  segAddr : BitVec 39 := 0
  saveAddr : BitVec 39 := 0
  cookieBase : Dword := 0
  cookieLog : BitVec 4 := 0
  faultLog : BitVec 4 := 0
  faultBase : Dword := 0
  state : CtxState := .running
  faulted : Bool := false
  /-- The error of R336 behind the fault, for a victim. -/
  victim : Bool := false
  /-- Segments as loaded into the resident slot, and as SEG_SET last wrote them. -/
  segs : List Segment := []
  walk : Bool := false
  walkFmt : List Dword := []
  cookieW : Nat := 0
  cookieR : Nat := 0
  cookieDropped : Nat := 0
  faultW : Nat := 0
  faultR : Nat := 0
  faultDropped : Nat := 0
  /-- Resident slot plus one; 0 when in the save area (R187). -/
  slot : Nat := 0
  lastStart : Nat := 0
  /-- An eviction has written the save area (R187). -/
  saved : Bool := false
  /-- Its started items are suspended so that an LC context can be loaded (R295), until its own next load. -/
  yielding : Bool := false
  /-- Images kept at a fault or a park. -/
  images : List Image := []
  deriving DecidableEq, Repr

/-- How far a started item has come. -/
structure ItemRun where
  bytes : Nat := 0
  total : Nat := 0
  flags : BitVec 16 := 0
  gpIndex : Bool := false
  poison : Bool := false
  kernels : Nat := 0
  normal : Nat := 0
  fallback : Bool := false
  result : Dword := 0
  /-- The status the item completes with when its last kernel has ended or been stopped. -/
  status : Byte := 0
  /-- The item has passed its own checks and its effect is under way. -/
  active : Bool := false
  /-- The status with which the item ends once its outstanding writes have reached their ordering points (R233). -/
  stop : Option Byte := none
  /-- Granule accesses to HBM outstanding, and their request deadline (R306). -/
  hbmOut : Nat := 0
  hbmDue : Nat := 0
  /-- A miss is predicted: the fallback program in `list` follows when the item's kernels are gone (R301). -/
  fbWait : Bool := false
  list : List Dword := []
  deriving DecidableEq, Repr

/-- An accepted item (R195, R196). -/
structure Item where
  seq : Word := 0
  words : List Dword := []
  started : Bool := false
  /-- Reference time of acceptance, ns, and order of acceptance. -/
  accepted : Nat := 0
  order : Nat := 0
  run : ItemRun := {}
  deriving DecidableEq, Repr

/-- A queue (R189, R190). -/
structure Queue where
  ctx : BitVec 16 := 0
  qid : BitVec 4 := 0
  page : BitVec 12 := 0
  lc : Bool := false
  /-- The CP that serves the queue (R343). -/
  cp : BitVec 4 := 0
  ringLog : BitVec 4 := 0
  cplLog : BitVec 4 := 0
  grace : BitVec 20 := 0
  ringBase : Dword := 0
  cplBase : Dword := 0
  sched : Dword := 0
  ridx : BitVec 24 := 0
  widx : BitVec 24 := 0
  epoch : Byte := 0
  nextSeq : Word := 0
  cidx : BitVec 24 := 0
  cplW : Nat := 0
  closing : Bool := false
  flushing : Bool := false
  /-- A mismatched slot was discarded: wait for a doorbell (R196). -/
  hold : Bool := false
  items : List Item := []
  /-- The last 64 completion records, newest first (R205). -/
  records : List (Nat × List Dword) := []
  /-- The fallback program of FALLBACK_SET (R303). -/
  fallback : List Dword := []
  deriving DecidableEq, Repr

/-- A memory object (Table 8.11). -/
structure MemObj where
  obj : BitVec 16 := 0
  owner : BitVec 16 := 0
  hbm : Bool := false
  preserve : Bool := false
  grace : BitVec 20 := 0
  base : BitVec 39 := 0
  size : BitVec 39 := 0
  /-- Past teardown step 3. -/
  cuffed : Bool := false
  closing : Bool := false
  deriving DecidableEq, Repr

/-- A teardown (Table 8.14). `kind`: 0 context, 1 queue, 2 object, 3 window. -/
structure Teardown where
  kind : BitVec 2 := 0
  id : Nat := 0
  item : Option ItemRef := none
  /-- The step that runs: 2 waits for idle, 4 for requests, 7 zeroing. -/
  step : Nat := 2
  forced : Bool := false
  zero : Bool := false
  /-- The object being closed and its partition, for the zeroing after step 6. -/
  obj : Option MemObj := none
  part : BitVec 4 := 0
  deriving DecidableEq, Repr

/-- A window table entry (Table 9.6). -/
structure Window where
  obj : BitVec 16 := 0
  rights : BitVec 4 := 0
  filter : BitVec 2 := 0
  legacyOk : Bool := false
  keyed : Bool := false
  inst : Byte := 0
  gid : BitVec 24 := 0
  valid : Bool := false
  node : BitVec 17 := 0
  wgen : Byte := 0
  closing : Bool := false
  deriving DecidableEq, Repr

structure Peer where
  valid : Bool := false
  base : Dword := 0
  size : Dword := 0
  deriving DecidableEq, Repr

structure Aperture where
  valid : Bool := false
  obj : BitVec 16 := 0
  offset : Dword := 0
  deriving DecidableEq, Repr

/-- An address translation cache entry (R214). -/
structure AtcEntry where
  inst : Byte := 0
  pasid : BitVec 20 := 0
  /-- Virtual page base and the bus address it maps to. -/
  va : Dword := 0
  addr : Dword := 0
  big : Bool := false
  rd : Bool := false
  wr : Bool := false
  deriving DecidableEq, Repr

/-- A walk cache entry (R218): the non-leaf table entry at a bus address. -/
structure WalkEntry where
  inst : Byte := 0
  pasid : BitVec 20 := 0
  ea : Dword := 0
  entry : Dword := 0
  deriving DecidableEq, Repr

/-- An ATS request or a direct walk in flight (R216, R217). -/
structure Xlate where
  tag : Nat := 0
  ctx : BitVec 16 := 0
  va : Dword := 0
  write : Bool := false
  walk : Bool := false
  level : Nat := 0
  ea : Dword := 0
  /-- The page was requested before (R220). -/
  retry : Bool := false
  /-- Non-leaf entries read so far: bus address and entry. -/
  path : List (Dword × Dword) := []
  /-- The accesses that wait for it: the item of each, none for a ring write of the context. -/
  holders : List (Option ItemRef) := []
  /-- Regulated class, partition and request deadline of its TLP (R306). -/
  lc : Bool := false
  part : BitVec 4 := 0
  due : Nat := 0
  deriving DecidableEq, Repr

/-- A page request (R220): held accesses of one context to one page. -/
structure PageReq where
  id : BitVec 16 := 0
  ctx : BitVec 16 := 0
  va : Dword := 0
  write : Bool := false
  /-- The held accesses: the item of each, none for a ring write of the context. -/
  holders : List (Option ItemRef) := []
  native : Bool := false
  /-- Its record has been written to context 0 (native path). -/
  told : Bool := false
  /-- Withdrawn by a forced point or a park: the answer installs nothing (R221). -/
  withdrawn : Bool := false
  deriving DecidableEq, Repr

/-- Why a host read is outstanding. -/
inductive ReadFor where
  | copy | fence | record | atomic
  deriving DecidableEq, Repr

/-- A host read or AtomicOp outstanding on the host link (R231). -/
structure HostRead where
  tag : Nat := 0
  ctx : BitVec 16 := 0
  x : ItemRef
  addr : Dword := 0
  bytes : Nat := 0
  use : ReadFor := .copy
  /-- AtomicOp: the value it compares with. -/
  dst : Dword := 0
  /-- A peer's bus address. -/
  peer : Bool := false
  /-- The virtual address of the access (R236). -/
  va : Dword := 0
  /-- A CompareAndSwap, with the value it stores. -/
  cas : Bool := false
  value : Dword := 0
  /-- It has left the host request queue (R308). -/
  sent : Bool := true
  /-- Regulated class, partition and request deadline in 64 ns units of the module reference, and the band it was issued in (R306, R307). -/
  lc : Bool := false
  part : BitVec 4 := 0
  due : Nat := 0
  band : BitVec 2 := 1
  deriving DecidableEq, Repr

/-- What a window request does. -/
inductive WinUse where
  | read | write | atomic | gather
  /-- A record, cookie or ring index of a context. -/
  | ring
  deriving DecidableEq, Repr

/-- A window request outstanding in the fabric (R227). -/
structure WinReq where
  tag : BitVec 16 := 0
  ctx : BitVec 16 := 0
  x : ItemRef
  node : BitVec 17 := 0
  window : BitVec 12 := 0
  /-- Bytes asked, and bytes received so far. -/
  bytes : Nat := 0
  got : Nat := 0
  use : WinUse := .read
  legacy : Bool := false
  va : Dword := 0
  /-- Regulated class, partition, request deadline and band, as of a host read. -/
  lc : Bool := false
  part : BitVec 4 := 0
  due : Nat := 0
  band : BitVec 2 := 1
  deriving DecidableEq, Repr

/-- A pending FENCE_WAIT (R200). -/
structure FenceWait where
  x : ItemRef
  va : Dword := 0
  value : Dword := 0
  deriving DecidableEq, Repr

/-- Host link, host loss and reattach (R205 to R208, R231). -/
structure HostLink where
  l0 : Bool := false
  /-- Link down, waiting for the 1 ms of R205. -/
  down : Bool := false
  perst : Bool := true
  cxl : Bool := false
  /-- Grants of the host request queue since a waiting LOW request had one (R308). -/
  low : Nat := 0
  /-- STALE by doorbell page (R192). -/
  stale : Tbl Byte := []
  lost : Bool := false
  fails : BitVec 4 := 0
  mismatches : Nat := 0
  locked : Bool := false
  epoch : BitVec 16 := 0
  cause : BitVec 4 := 0
  lossTime : Dword := 0
  nonce : Dword := 0
  attachId : Word := 0
  hold : BitVec 12 := 0
  raIndex : Byte := 0
  raLo : Word := 0
  raGen : Word := 0
  /-- Words 1 onward of the reattach record at its last change. -/
  raLast : List Dword := [0, 0, 0, 0, 0, 0, 0]
  faultedAtLoss : BitVec 16 := 0
  /-- Entries of contexts torn down while parked: id, type, instance or owner. -/
  raClosed : List (BitVec 16 × Bool × BitVec 16) := []
  deriving DecidableEq, Repr

/-- A write of a record, cookie or ring index, or an MSI-X, that waits behind the translation of an earlier one (R201, R233). -/
inductive Post where
  | write (va : Dword) (data : List Byte) (faultRecord : Bool)
  | msix (vec : BitVec 11)
  deriving DecidableEq, Repr

/-- A cause that faults a context (R188, Table 8.2). -/
structure FaultReq where
  ctx : BitVec 16 := 0
  qid : BitVec 4 := 0
  seq : Word := 0
  cls : BitVec 4 := 0
  cause : Byte := 0
  levelF : Bool := false
  vcore : BitVec 16 := 0
  pcore : BitVec 10 := 0
  pc : Dword := 0
  addr : Dword := 0
  detail : Dword := 0
  victim : Bool := false
  deriving DecidableEq, Repr

/-- PCI configuration state (R231, R401): BAR addresses, Memory Space Enable, BAR4 size, MSI-X table. -/
structure HostCfg where
  bar0 : Dword := 0
  bar2 : Dword := 0
  bar4 : Dword := 0
  /-- log2 of the BAR4 size: 29 to 39. -/
  bar4Log : BitVec 6 := 39
  mse : Bool := false
  /-- The function is in D3hot (R231). -/
  d3hot : Bool := false
  /-- MSI-X table dwords `4 * vector + dword`; the vector control dword is kept with its mask bit inverted, so that an
  unlisted entry is masked. -/
  msix : Tbl Word := []
  pba : Tbl Bool := []
  /-- Other configuration dwords as last written. -/
  other : Tbl Word := []
  deriving DecidableEq, Repr

end Sys2Proof.Machine
end

