-- ==== Sys2Proof/Machine/UnitsErr.lean ====
section
/-!
DEFINITION. The state of error handling: elements under test, resets, watchdogs and lockstep pairs (the chapter "Errors,
spares and recovery").
-/
namespace Sys2Proof.Machine

/-- What is kept of an element that has had an error (R335, R338, R339). -/
structure ElemErr where
  element : Element := .none
  /-- Errors since its last verdict. -/
  count : Nat := 0
  /-- Its test runs or is pending. -/
  testing : Bool := false
  /-- The error under test, for the second record. -/
  source : Nat := 0
  severity : Nat := 0
  detail : Dword := 0
  injected : Bool := false
  /-- Reference time of its last passed test. -/
  passed : Option Nat := none
  /-- Reference times of transient verdicts on real errors. -/
  transients : List Nat := []
  /-- The SELFTEST items that wait for the verdict. -/
  items : List ItemRef := []
  deriving DecidableEq, Repr

/-- A reset that runs (R347): level 2 engine, 3 partition, 4 package. -/
structure Reset where
  level : Nat := 2
  target : Element := .none
  part : BitVec 4 := 0
  item : Option ItemRef := none
  /-- A package reset that waits for the RTP to return (Table 16.7). -/
  held : Bool := false
  deriving DecidableEq, Repr

/-- A lockstep pair (R341 to R343): stopped by a symptom, with the retirement count at which it stopped. -/
structure Pair where
  stopped : Bool := false
  symptom : Symptom := .unequal
  count : Dword := 0
  deriving DecidableEq, Repr

/-- Errors, resets and watchdogs. -/
structure Errors where
  /-- SEV(s), ESC(1) to ESC(4) (Table 14.15). -/
  sev : Tbl Word := []
  transient : Word := 0
  lasting : Word := 0
  esc : Tbl (BitVec 16) := []
  elems : List ElemErr := []
  resets : List Reset := []
  /-- Edge treatments (Table 14.12): true is cuff. -/
  edgeContext : Bool := true
  edgeEngine : Bool := false
  edgePartition : Bool := true
  /-- Reset generation of each engine, by element code. -/
  resetGen : Tbl Byte := []
  /-- WAIT_MS by context and ITEM_MS by queue. -/
  waitMs : Tbl (BitVec 16) := []
  itemMs : Tbl (BitVec 16) := []
  /-- Lockstep pairs: CP0 to CP15, 16 the RTP. -/
  pairs : Tbl Pair := []
  /-- Clusters on their way to memory-only (R340). -/
  leaving : Word := 0
  /-- Glove faults logged: glove and source (R351). -/
  gloveSeen : List (Nat × Nat) := []
  deriving DecidableEq, Repr

end Sys2Proof.Machine
end

