-- ==== Sys2Proof/Machine/UnitsSys.lean ====
section
/-!
DEFINITION. The state of links, fabric, partitions and scheduling, the governor, trust, bring-up, the register interface and
the tray port: plain data, each field with its reset value as its default.
-/
namespace Sys2Proof.Machine

/-! ### Links (the chapter "Eomen fabric: lanes and links") -/

/-- A fabric link. `st` has the codes of FAB_LINK_STATE.STATE (Table 10.8). -/
structure Link where
  enable : Bool := true
  st : BitVec 4 := 0
  /-- How many logical lanes carry flits. -/
  lanes : BitVec 4 := 0
  spared : Bool := false
  cause : Byte := 0
  fails : BitVec 2 := 0
  partner : Option Identity := none
  /-- IDENT passed since the last down (VALID). -/
  valid : Bool := false
  expNode : BitVec 17 := 0
  expLink : BitVec 6 := 0
  check : Bool := false
  /-- Next SEQ to send, last ACK received, flits not yet acknowledged (R248). -/
  txSeq : BitVec 12 := 0
  ackIn : BitVec 12 := 0xFFF
  retry : List Flit := []
  replays : Nat := 0
  /-- Next SEQ expected; a NAK has been sent and the expected flit not yet seen. -/
  rxSeq : BitVec 12 := 0
  nakSent : Bool := false
  /-- By virtual channel: credits granted by the partner, flits sent, credits returned to it beyond the buffer sizes (R249). -/
  ccumIn : Tbl (BitVec 16) := []
  sent : Tbl (BitVec 16) := []
  ccumOut : Tbl (BitVec 16) := []
  /-- Packets accepted and not yet taken by the ring stop; packets that wait to be sent. -/
  rxBuf : List Packet := []
  txq : List Packet := []
  /-- Slot of the 1 : 2 : 1 rotation and the virtual channel whose credits the next header reports (R249, R250). -/
  arb : BitVec 2 := 0
  cvc : BitVec 2 := 0
  /-- From the fault of a lane until four lanes carry flits again or the link stays DEGRADED (Table 10.6). -/
  bringing : Bool := false
  /-- Logical lane whose SPARE_IN waits for SPARE_ACK. -/
  bringIn : Option (BitVec 2) := none
  /-- RETRAIN written during a spare bring-in. -/
  retrainWait : Bool := false
  /-- The dropped pair passed its test and may rejoin; this end found the fault of the dropped pair. -/
  rejoin : Bool := false
  foundHere : Bool := false
  /-- The partner's SPARE_IN waits for this end's verdict. -/
  asked : Bool := false
  /-- The logical lane that is out while three carry flits. -/
  dropped : BitVec 2 := 0
  /-- The state to go back to after a retrain. -/
  before : BitVec 4 := 0
  /-- R259: a HOLD was sent or received, and every lane has kept lock since. -/
  hold : Bool := false
  lockKept : Bool := true
  /-- Reference times of uncorrectable codewords of the last second: lane and time. -/
  uncorr : List (BitVec 2 × Nat) := []
  laneBits : Tbl Word := []
  /-- Pre-FEC BER of each lane in its last window, parts per 10^9. -/
  ber : Tbl Nat := []
  retrains : BitVec 16 := 0
  laneFaults : BitVec 16 := 0
  /-- This partner follows our time (R286). -/
  follows : Bool := false
  /-- Physical lane of each logical lane, two bits each (R241). -/
  laneMap : BitVec 8 := 0xE4
  /-- By virtual channel: grants since a LOW request of the egress queue last had one (R308). -/
  low : Tbl Nat := []
  /-- Flit slots since the last CTRL flit of this end (R249). -/
  slots : Nat := 0
  /-- Reference time of the last replay (Table 10.9). -/
  replayAt : Option Nat := none
  /-- Lanes on which QUALIFY has seen an uncorrectable codeword (R244, R245). -/
  qualBad : BitVec 4 := 0
  /-- A verdict on a pair that came during a retrain: lane, and whether it passed (R253). -/
  verdict : Option (BitVec 2 × Bool) := none
  /-- Lanes found faulty while the link waited after a HOLD (R259). -/
  heldFaults : List (BitVec 2) := []
  deriving DecidableEq, Repr

/-- A spare group (R240, R254): SPARE, WARM, WHOLE, PAIR of FAB_GROUP_STATUS. -/
structure Group where
  spare : BitVec 2 := 0
  warm : Bool := false
  whole : Bool := false
  pair : BitVec 4 := 0
  /-- Reference time since when the spare lane has kept lock, and its BER windows of the last 12.8 s: time and bits corrected (R254). -/
  lockSince : Nat := 0
  win : List (Nat × Nat) := []
  /-- Its BER has been measured over 12.8 s since the group was connected. -/
  seen : Bool := false
  deriving DecidableEq, Repr

/-! ### Fabric (the chapter "Eomen fabric: transactions, reduction and job keys") -/

/-- An entry of the receive stream table (R272). -/
structure StreamRx where
  valid : Bool := false
  incarn : Byte := 0
  last : Tbl Dword := []
  deriving DecidableEq, Repr

/-- A job-key slot (R277). -/
structure KeySlot where
  gid : BitVec 24 := 0
  key0 : Option (BitVec 256) := none
  key1 : Option (BitVec 256) := none
  active : Bool := false
  require : Bool := false
  deriving DecidableEq, Repr

/-- A reduction tree entry (R281). -/
structure Tree where
  gid : BitVec 24 := 0
  root : BitVec 17 := 0
  parent : BitVec 17 := 0
  expect : Byte := 0
  hold : BitVec 16 := 0
  deriving DecidableEq, Repr

/-- Who must be told the outcome of a reduce packet (R284): a transfer of a core here (by its vcore), with the class, partition and request
deadline of its packet (R306), or a packet of another package, with what its answer copies. -/
inductive Contributor where
  | local (pid : Nat) (v : BitVec 16) (tile : BitVec 3) (row : BitVec 7) (lc : Bool) (part : BitVec 4) (due : Nat)
  | packet (src : BitVec 17) (tag : BitVec 16) (gid : BitVec 24) (addr : Dword)
  deriving DecidableEq, Repr

/-- A packet held in the combining buffer (R283). -/
structure Combined where
  tree : BitVec 7 := 0
  pkt : Packet := {}
  contrib : Nat := 1
  from_ : List Contributor := []
  deriving DecidableEq, Repr

/-- A reduce packet sent and not yet acknowledged (R285). -/
structure ReduceOut where
  tag : BitVec 16 := 0
  pkt : Packet := {}
  root : BitVec 17 := 0
  again : Bool := false
  from_ : List Contributor := []
  deriving DecidableEq, Repr

/-- The fabric's transaction layer. -/
structure Fabric where
  nodeValid : Bool := false
  hopLimit : BitVec 6 := 0x20
  drain : BitVec 16 := 50
  routes : Tbl Dword := []
  rst : Tbl StreamRx := []
  /-- Destinations that are paused (R265), with the packets that wait. -/
  pauses : List (BitVec 17 × List Packet) := []
  keys : List KeySlot := []
  trees : Tbl (Option Tree) := []
  comb : List Combined := []
  reduceOut : List ReduceOut := []
  /-- Answers to writes of held lines, which wait for their snoops (R232). -/
  answers : List Packet := []
  authFail : Word := 0
  dup : Word := 0
  expired : Word := 0
  unreach : Word := 0
  noTree : Word := 0
  combined : Word := 0
  role : BitVec 2 := 0
  parent : BitVec 6 := 0
  locked : Bool := false
  level : Byte := 0
  err : BitVec 16 := 0
  delay : Dword := 0
  /-- Send time of the PROBE in flight. -/
  probe : Option Dword := none
  timeHi : Word := 0
  deriving DecidableEq, Repr

/-! ### Partitions and scheduling (the chapter "Scheduling, sharing and regulation") -/

/-- A regulator (R306, R309). -/
structure Regulator where
  lcBudget : BitVec 12 := 0
  beBudget : BitVec 12 := 0
  lcSlack : BitVec 16 := 256
  beSlack : BitVec 16 := 16384
  window : BitVec 20 := 0
  missLimit : BitVec 20 := 0
  lcOut : Nat := 0
  beOut : Nat := 0
  misses : Nat := 0
  lastMisses : Nat := 0
  demoted : Nat := 0
  lastDemoted : Nat := 0
  lcIssued : Nat := 0
  beIssued : Nat := 0
  deriving DecidableEq, Repr

/-- A partition descriptor (Table 12.4), with the units that await release (R305) and its counts (Table 12.8). -/
structure Part where
  valid : Bool := false
  slots : Nat := 0
  ctxMax : Nat := 0
  clusters : Word := 0
  banks : Tbl Word := []
  channels : BitVec 128 := 0
  links : Dword := 0
  insts : BitVec 256 := 0
  preBase : BitVec 39 := 0
  preSlots : Nat := 0
  awaitClusters : Word := 0
  awaitBanks : Tbl Word := []
  awaitChannels : BitVec 128 := 0
  awaitLinks : Dword := 0
  overBits : Byte := 0
  preemptions : Word := 0
  fallbacks : Word := 0
  predicted : Word := 0
  deriving DecidableEq, Repr

/-- A kernel that waits for its vcore (R293). -/
structure WaitKernel where
  x : ItemRef
  gid : BitVec 24 := 0
  vcore : BitVec 16 := 0
  lc : Bool := false
  /-- Absolute deadline of its item, time of acceptance and order of start. -/
  deadline : Option Nat := none
  accepted : Nat := 0
  order : Nat := 0
  /-- It found no free preemption slot and waits for the BE kernel to end (R296). -/
  noted : Bool := false
  entry : Dword := 0
  args : List Dword := []
  deriving DecidableEq, Repr

/-- A preempted kernel (R295): its image, its preemption slot by HBM address, its partition. -/
structure Suspended where
  image : Image
  part : BitVec 4 := 0
  slot : Nat := 0
  /-- `slot` is a preemption slot; else the image is one that CTX_UNPARK brought back while its core was busy. -/
  pre : Bool := true
  /-- The image stands in its preemption slot. -/
  written : Bool := false
  deriving DecidableEq, Repr

/-- A deadline being monitored (R300). -/
structure Monitor where
  x : ItemRef
  /-- Reference times, ns, of acceptance and start. -/
  accepted : Nat := 0
  start : Nat := 0
  dl : Nat := 0
  total : Nat := 0
  sg : Nat := 0
  ctr : Nat := 0
  c0 : BitVec 16 := 0
  kernels : Nat := 0
  predicted : Bool := false
  deriving DecidableEq, Repr

structure Sched where
  parts : Tbl Part := []
  /-- Regulators by `4 * partition + target`. -/
  regs : Tbl Regulator := []
  waiting : List WaitKernel := []
  suspended : List Suspended := []
  /-- BE kernel starts of a queue in the round of a vcore: key and count. -/
  round : Tbl Nat := []
  /-- The queue last fetched by a CP in a class, plus one, by `2 * CP + class` (R292). -/
  fetched : Tbl Nat := []
  monitors : List Monitor := []
  deriving DecidableEq, Repr

/-! ### The governor (the chapter "Pace, power, thermal limits and sleep") -/

/-- A partition's pace values (R312). -/
structure GovPart where
  req : Nat := 160
  limit : Nat := 200
  /-- The reason (R319) that last lowered LIMIT. -/
  why : Nat := 0
  glove : Nat := 200
  round : Word := 0
  held : Option Nat := none
  /-- A thermal trip of one of its dies waits for the RTP to set LIMIT (R318). -/
  trip : Bool := false
  /-- Samples for which F has been nonzero, and slow-loop ticks before LIMIT may rise again (R315). -/
  fRun : Nat := 0
  raiseWait : Nat := 0
  deriving DecidableEq, Repr

/-- A die's control loop (R314 to R318, R322, R323). Times are counted in 10 µs samples. -/
structure GovDie where
  /-- Rail setpoint and the level that the rail has reached, mV. -/
  volt : Nat := 0
  rail : Nat := 620
  /-- Core-rail current: 10 µs mean, and the last µs, A. -/
  current : Nat := 0
  amps : Nat := 0
  tj : Nat := 0
  fCur : Nat := 0
  fTh : Nat := 0
  /-- Trim relative to the base setpoint, mV. -/
  trim : Int := 0
  /-- Samples without shortfall, with shortfall at 0.90 V, at or above TJ_THROTTLE, and below TJ_THROTTLE − 3. -/
  quiet : Nat := 0
  ceiling : Nat := 0
  hot : Nat := 0
  cool : Nat := 0
  trip : Bool := false
  /-- Clusters of the die whose supply droops; the settle time runs. -/
  droop : Word := 0
  settle : Bool := false
  /-- Shortfall counts of partitions already seen by the trim, and as they stood when the droop began. -/
  seen : Tbl Dword := []
  mark : Tbl Dword := []
  floor : Nat := 0
  filler : Nat := 0
  deriving DecidableEq, Repr

/-- A throttle episode that is open (R319). `part` 16 + h is HBM stack h above 95 °C, which names no partition. -/
structure Episode where
  reason : Nat := 0
  part : Nat := 0
  start : Dword := 0
  began : Nat := 0
  dies : BitVec 4 := 0
  minPace : Nat := 0
  deriving DecidableEq, Repr

/-- A switched domain (Table 13.3): state 0 run, 1 idle, 2 retention, 3 off; `busy`: 1 entry before commit, 2 committed, 3 exit. -/
structure Domain where
  st : BitVec 2 := 0
  goal : BitVec 2 := 0
  busy : BitVec 2 := 0
  wake : BitVec 4 := 0
  timer : BitVec 20 := 0
  woke : Bool := false
  item : Option ItemRef := none
  /-- Its exit from off waits for an inrush wave (R329). -/
  wave : Bool := false
  deriving DecidableEq, Repr

structure Gov where
  cap : Nat := 1200
  trayCap : Nat := 1600
  /-- The tray's value that takes effect at the next sample (R422). -/
  trayNext : Nat := 1600
  tjThrottle : Nat := 95
  fCap : Nat := 0
  power : Nat := 0
  parts : Tbl GovPart := []
  dies : Tbl GovDie := []
  ramp : Nat := 1
  domains : Tbl Domain := []
  /-- Cluster domains that wait to leave off, in the order of their requests (R329). -/
  waves : List Nat := []
  /-- HBM stacks above 95 °C at the last sample. -/
  hotStacks : Byte := 0
  episodes : List Episode := []
  /-- Throttle records, oldest first. -/
  log : List (Dword × Dword) := []
  seq : BitVec 12 := 0
  overwritten : Word := 0
  deriving DecidableEq, Repr

/-! ### Trust (the chapter "Root of trust, attestation and tenant isolation") -/

/-- A weight key and the partition it is bound to (R362). -/
structure WeightKey where
  part : BitVec 4 := 0
  key : BitVec 512 := 0
  /-- A WKEY_CLEAR waits for transfers already issued: those transfers, and the clears that wait. -/
  clearing : Bool := false
  users : List ItemRef := []
  items : List ItemRef := []
  deriving DecidableEq, Repr

/-- An SPDM connection of one transport (R359, R360). `stage`: 0 none, 1 version, 2 capabilities, 3 algorithms. -/
structure SpdmConn where
  stage : Nat := 0
  /-- Messages VCA of the SPDM transcript, in order. -/
  vca : List Byte := []
  deriving DecidableEq, Repr

/-- An SPDM session: id, transport, `up` after FINISH. -/
structure SpdmSession where
  id : BitVec 32 := 0
  tr : Transport := .doe
  up : Bool := false
  keyRound : Nat := 0
  deriving DecidableEq, Repr

structure Trust where
  wkeys : Tbl (Option WeightKey) := []
  /-- Measurements 1 to 7. -/
  meas : List (BitVec 384) := []
  doe : SpdmConn := {}
  mctp : SpdmConn := {}
  sessions : List SpdmSession := []
  /-- MCTP endpoint id. -/
  eid : Byte := 0
  deriving DecidableEq, Repr

/-! ### Life cycle, pins, registers, tray port -/

/-- The boot flash and the fuses, which outlast power (R356, R370, R382). -/
structure Flash where
  /-- What a bank holds; none until the first power-on tells. -/
  bankA : Option FlashBank := none
  bankB : Option FlashBank := none
  bootedB : Bool := false
  svnFloor : Nat := 0
  events : List (List Byte) := []
  deriving DecidableEq, Repr

structure Life where
  powered : Bool := false
  phase : BitVec 4 := 0
  ready : Bool := false
  degraded : Bool := false
  settled : Bool := false
  removeReady : Bool := false
  bootFail : Byte := 0
  restarts : BitVec 16 := 0
  /-- PREPARE accepted. -/
  preparing : Bool := false
  /-- A PREPARE was written while the RTP restarted. -/
  prepareWait : Bool := false
  refuse : BitVec 4 := 0
  rmReq : Bool := false
  hostEn : Bool := false
  readyPin : Bool := false
  rmOk : Bool := false
  /-- FAULT_REQ# is low. -/
  faultReq : Bool := false
  env : BootEnv := {}
  flash : Flash := {}
  fwSvn : BitVec 16 := 0
  deriving DecidableEq, Repr

/-- An indirect pair (R405). -/
structure IndPair where
  addr : BitVec 24 := 0
  timeout : Bool := false
  denied : Bool := false
  off : Bool := false
  deriving DecidableEq, Repr

structure Regs where
  mgrPair : IndPair := {}
  hostPair : IndPair := {}
  /-- HIU_MGR registers 0x0900 to 0x0920 by number, and CTRL's MSIX and FAULT_LOG. -/
  mgr : Tbl Word := []
  mgrOpen : Bool := false
  frozen : Byte := 0
  cfgBlock : BitVec 3 := 0
  cfgOffset : BitVec 14 := 0
  cxlEn : Bool := false
  hostWrIgn : Word := 0
  ra : Word := 0
  trayAlert : BitVec 6 := 0
  trayMask : BitVec 6 := 0
  /-- Quadrants whose CBL_PRSNT# has gone high. -/
  cableOut : BitVec 4 := 0
  deriving DecidableEq, Repr

end Sys2Proof.Machine
end

