-- ==== Sys2Proof/Machine/State.lean ====
section
/-!
DEFINITION. The state of the module: every register, memory, table, queue and counter that the specification gives it, the
queue of commands that wait, and the module at reset.
-/
namespace Sys2Proof.Machine

/-- What the module has sent to the outside: the outbox, newest last. -/
inductive Out where
  /-- A posted write on the host link, at a bus address. -/
  | hostWrite (addr : Dword) (data : List Byte)
  | hostRead (tag : Nat) (addr : Dword) (bytes : Nat)
  /-- A fetch of a direct walk: a Memory Read with AT = translated and Relaxed Ordering set (R218). -/
  | walkRead (tag : Nat) (addr : Dword) (bytes : Nat)
  | hostAtomic (tag : Nat) (addr : Dword) (compare value : Dword)
  | msix (vec : BitVec 11)
  | mesh (p : MeshPkt)
  | packet (p : Packet)
  | flit (link : BitVec 6) (f : Flit)
  /-- The identity block of a link's lanes, or of the spare lane of its group, from here on (R243). -/
  | identity (link : BitVec 6) (b : Identity)
  | atsRequest (tag : Nat) (pasid : BitVec 20) (va : Dword) (write : Bool)
  | invalidateCompletion (itag : BitVec 5)
  | pageRequest (id : BitVec 16) (pasid : BitVec 20) (va : Dword) (write : Bool)
  | bar4Reply (data : List Byte) (poisoned : Bool)
  | cohReply (data : List Byte) (poisoned : Bool)
  /-- Configuration Request Retry Status. -/
  | cfgRetry
  | bar4Unsupported
  | cfgReply (value : Word)
  | snoop (line : Nat)
  | spdm (tr : Transport) (msg : List Byte)
  | mctp (msg : List Byte)
  | pin (name : Byte) (level : Bool)
  deriving DecidableEq, Repr

structure State where
  fp : FloorPlan := {}
  meters : Tbl PaceMeter := []
  cores : Tbl Core := []
  mcores : Tbl MCore := []
  vcores : Tbl VCore := []
  scores : Tbl SCore := []
  sync : Tbl (Option SyncGroup) := []
  /-- Signals on their way to a sync unit: group key and counter (R122). -/
  signals : List (Nat × Nat) := []
  mem : Memory := {}
  slices : Tbl Slice := []
  /-- Combining buffers by cluster (R144). -/
  routers : Tbl (List HeldPkt) := []
  /-- Mesh packets for a vcore that wait at its port because the stash of its glove is full (R174). -/
  meshWait : List MeshPkt := []
  /-- Cores whose vcore has resumed: at the end of the command its MWAIT is evaluated again (R93), and an interrupted MLD, MST or MCONV goes
  on (R91). -/
  kick : List Nat := []
  /-- Directory caches by cluster (R166): glove and vcore key and directory entry, most recent first. -/
  dirCache : Tbl (List (Nat × Word)) := []
  bindings : Tbl Binding := []
  forwards : List Forward := []
  moves : List Move := []
  moveIns : List MoveIn := []
  /-- Items that wait until the cores of their vcores have stopped: VCORE_UNBIND, GLOVE_CLOSE, MEMBER_LEAVE (R176). -/
  drops : List ItemRef := []
  gloves : Tbl (Option Glove) := []
  ctxs : Tbl (Option Context) := []
  /-- Queues by `16 * context + queue`. -/
  queues : Tbl (Option Queue) := []
  objs : Tbl (Option MemObj) := []
  windows : Tbl Window := []
  peers : Tbl Peer := []
  apertures : Tbl Aperture := []
  /-- HDM decoders: object plus one. -/
  hdm : Tbl Nat := []
  guards : Tbl (Dword × Dword) := []
  atc : List AtcEntry := []
  walks : List WalkEntry := []
  xlates : List Xlate := []
  pageReqs : List PageReq := []
  /-- Legacy window generations last reported, by node, most recent first, at most 256 (R228, R274). -/
  legacyGen : List (BitVec 17 × Byte) := []
  hostReads : List HostRead := []
  /-- ATS invalidations outstanding: tag, and the host reads that must complete first (R216). -/
  invals : List (BitVec 5 × List Nat) := []
  /-- Lines of coherent windows that the host holds, and back-invalidate snoops outstanding, by `cohLine` (R232). -/
  cohHeld : List Nat := []
  snoops : List Nat := []
  winReqs : List WinReq := []
  fenceWaits : List FenceWait := []
  teardowns : List Teardown := []
  /-- Identifiers closed in the last 10 ms: kind, id and reference time (R204, R225). -/
  closed : List (BitVec 2 × Nat × Nat) := []
  host : HostLink := {}
  cfg : HostCfg := {}
  /-- Writes and messages that wait for a translation, in order. -/
  posts : List (BitVec 16 × Post) := []
  /-- Causes raised by the command that runs, to be taken before it ends. -/
  faults : List FaultReq := []
  /-- This node, its incarnation count and the next SEQ of each virtual channel less one (R272). -/
  node : BitVec 17 := 0x1FFFF
  incarnation : Word := 0
  sendSeq : Tbl Dword := []
  /-- The RTP is restarting (R380). -/
  rtpDown : Bool := false
  log : EventLog := {}
  cnt : Counters := {}
  err : Errors := {}
  links : Tbl Link := []
  groups : Tbl Group := []
  fab : Fabric := {}
  sched : Sched := {}
  gov : Gov := {}
  trust : Trust := {}
  life : Life := {}
  regs : Regs := {}
  irqs : Tbl IrqSource := []
  procs : Tbl IrqProc := []
  /-- S-core of processors 0 to 31, plus one (R383). -/
  procCore : Tbl Nat := []
  /-- Fabric time base, ns (R286). -/
  time : Dword := 0
  /-- Elapsed reference time, ns. -/
  refNs : Nat := 0
  refLost : Bool := false
  /-- A running number: tags of requests and the order of item starts. -/
  serial : Nat := 0
  /-- Use count of free values (a field of the model, not of the specification). -/
  free : Nat := 0
  /-- Data of the last register read. -/
  lastRead : Word := 0
  out : List Out := []
  pending : List Instr := []
  deriving DecidableEq, Repr

/-- A step stops with a fault: none is raised in this model. -/
inductive Fault where
  /-- Never raised. Safe. -/
  | impossible
  deriving DecidableEq, Repr

/-- A command has no meaning. -/
inductive Refusal where
  /-- Raised by an arm of `exec` whose command has no meaning yet. Safe. -/
  | notModelled (mnemonic : String)
  deriving DecidableEq, Repr

abbrev Outcome := Host.Outcome State Fault Refusal

/-- The module at reset: before its power-on sequence, every register at its reset value and nothing listed in memory. POWER_ON, the
first event of R370, starts it. -/
def State.reset : State := {}

end Sys2Proof.Machine
end

