-- ==== Sys2Proof/Machine/Ops.lean ====
section
/-!
DEFINITION. Shared operations: access to the blocks of the state, slice memory and HBM, the event log, interrupts, counters
and sync counters.
-/
namespace Sys2Proof.Machine

/-! ### Identifiers (R6, R12) -/

def mPid (c : Fin 160) : Nat := c.val / 5 * 10 + c.val % 5
def vPid (c : Fin 96) : Nat := c.val / 3 * 10 + 5 + c.val % 3
def sPid (c : Fin 64) : Nat := c.val / 2 * 10 + 8 + c.val % 2
def pidCluster (p : Nat) : Nat := p / 10
def pidSlot (p : Nat) : Nat := p % 10

/-- Kind of a slot (R6): 0 M, 1 V, 2 S. -/
def slotKind (p : Nat) : Nat := if p % 10 < 5 then 0 else if p % 10 < 8 then 1 else 2

/-- Index of a core among the cores of its kind. -/
def kindIndex (p : Nat) : Nat :=
  match slotKind p with
  | 0 => p / 10 * 5 + p % 10
  | 1 => p / 10 * 3 + (p % 10 - 5)
  | _ => p / 10 * 2 + (p % 10 - 8)

def clusterDie (c : Nat) : Nat := c / 8
def clusterCol (c : Nat) : Nat := 2 * (c / 8 % 2) + c % 8 % 2
def clusterRow (c : Nat) : Nat := 4 * (c / 8 / 2) + c % 8 / 2

/-- Links of the dimension-ordered route between two routers (R24, R141). -/
def meshHops (a b : Nat) : Nat :=
  ((clusterCol a : Int) - clusterCol b).natAbs + ((clusterRow a : Int) - clusterRow b).natAbs

/-! ### Accessors -/

/-- Change every listed entry of a table of optional entries. -/
def mapOpt {α : Type} (f : α → α) (t : Tbl (Option α)) : Tbl (Option α) := t.map fun e => (e.1, e.2.map f)

/-- The listed entries that satisfy `p`. -/
def listOpt {α : Type} (p : α → Bool) (t : Tbl (Option α)) : List α := t.filterMap fun e => e.2.filter p

def getCore (s : State) (p : Nat) : Core := Tbl.get {} s.cores p
def setCore (s : State) (p : Nat) (c : Core) : State := { s with cores := Tbl.set {} s.cores p c }
def updCore (s : State) (p : Nat) (f : Core → Core) : State := setCore s p (f (getCore s p))

def getM (s : State) (p : Nat) : MCore := Tbl.get {} s.mcores p
def setM (s : State) (p : Nat) (c : MCore) : State := { s with mcores := Tbl.set {} s.mcores p c }
def updM (s : State) (p : Nat) (f : MCore → MCore) : State := setM s p (f (getM s p))

def getV (s : State) (p : Nat) : VCore := Tbl.get {} s.vcores p
def setV (s : State) (p : Nat) (c : VCore) : State := { s with vcores := Tbl.set {} s.vcores p c }
def updV (s : State) (p : Nat) (f : VCore → VCore) : State := setV s p (f (getV s p))

def getS (s : State) (p : Nat) : SCore := Tbl.get {} s.scores p
def setS (s : State) (p : Nat) (c : SCore) : State := { s with scores := Tbl.set {} s.scores p c }
def updS (s : State) (p : Nat) (f : SCore → SCore) : State := setS s p (f (getS s p))

def getBinding (s : State) (p : Nat) : Binding := Tbl.get {} s.bindings p
def setBinding (s : State) (p : Nat) (b : Binding) : State := { s with bindings := Tbl.set {} s.bindings p b }

def getGlove (s : State) (g : BitVec 24) : Option Glove := Tbl.get none s.gloves g.toNat
def setGlove (s : State) (g : Glove) : State := { s with gloves := Tbl.set none s.gloves g.gid.toNat (some g) }

def getCtx (s : State) (c : BitVec 16) : Option Context := Tbl.get none s.ctxs c.toNat
def setCtx (s : State) (c : Context) : State := { s with ctxs := Tbl.set none s.ctxs c.id.toNat (some c) }

def queueKey (c : BitVec 16) (q : BitVec 4) : Nat := 16 * c.toNat + q.toNat
def getQueue (s : State) (c : BitVec 16) (q : BitVec 4) : Option Queue := Tbl.get none s.queues (queueKey c q)
def setQueue (s : State) (q : Queue) : State :=
  { s with queues := Tbl.set none s.queues (queueKey q.ctx q.qid) (some q) }

def getObj (s : State) (o : BitVec 16) : Option MemObj := Tbl.get none s.objs o.toNat
def setObj (s : State) (o : MemObj) : State := { s with objs := Tbl.set none s.objs o.obj.toNat (some o) }

def getSlice (s : State) (p : BitVec 4) : Slice := Tbl.get {} s.slices p.toNat

def getIrq (s : State) (n : Nat) : IrqSource := Tbl.get {} s.irqs n
def setIrq (s : State) (n : Nat) (i : IrqSource) : State := { s with irqs := Tbl.set {} s.irqs n i }
def getProc (s : State) (q : Nat) : IrqProc := Tbl.get {} s.procs q
def setProc (s : State) (q : Nat) (p : IrqProc) : State := { s with procs := Tbl.set {} s.procs q p }

def getMeter (s : State) (p : Nat) : PaceMeter := Tbl.get {} s.meters p
def setMeter (s : State) (p : Nat) (m : PaceMeter) : State := { s with meters := Tbl.set {} s.meters p m }

/-- Append to the outbox. -/
def emit (s : State) (o : Out) : State := { s with out := s.out ++ [o] }

/-- The physical core that carries a vcore at this package (Table 7.3). -/
def findBinding (s : State) (g : BitVec 24) (v : BitVec 16) : Option Nat :=
  (s.bindings.find? fun e => e.2.gid == g && e.2.vcore == v && e.2.state != 0).map (·.1)

/-! ### Counters (R391) -/

def counterId (ukind index cnt : Nat) : Nat := ukind * 2 ^ 28 + index * 2 ^ 8 + cnt

def counterValue (s : State) (id : Nat) : Dword := Tbl.get 0 s.cnt.live id

/-- Add to a free-running counter. -/
def countN (s : State) (ukind index cnt n : Nat) : State :=
  { s with cnt := { s.cnt with live := Tbl.upd 0 s.cnt.live (counterId ukind index cnt) (· + BitVec.ofNat 64 n) } }

def count (s : State) (ukind index cnt : Nat) : State := countN s ukind index cnt 1

/-! ### Interrupt inputs (R384 to R386) -/

/-- Shared sources wired as level sources (Table 17.2). -/
def levelWired (n : Nat) : Bool := decide (272 ≤ n ∧ n ≤ 281)

/-- An edge of shared source `n`: pending once, also while active (R387). -/
def irqEdge (s : State) (n : Nat) : State := setIrq s n { getIrq s n with pend := true }

/-- The input of level source `n`. -/
def irqLevel (s : State) (n : Nat) (b : Bool) : State := setIrq s n { getIrq s n with pend := b }

/-- A private source of processor `q`: an edge, or a level input. -/
def irqPrivate (s : State) (q i : Nat) (b : Bool) : State :=
  setProc s q { getProc s q with ppend := setBit (getProc s q).ppend i b }

/-! ### The event log (R394) -/

/-- SOURCE_ID kinds (Table 17.5). -/
def srcRtp : Nat := 0x0000
def srcCp (n : Nat) : Nat := 0x1000 + n
def srcCluster (n : Nat) : Nat := 0x2000 + n
def srcStack (n : Nat) : Nat := 0x3000 + n
def srcLink (n : Nat) : Nat := 0x4000 + n
def srcHiu : Nat := 0x5000
def srcSec : Nat := 0x6000
def srcGov : Nat := 0x7000

/-- The CP pair that serves a queue, as a source of records. -/
def srcQueue (s : State) (c : BitVec 16) (q : BitVec 4) : Nat :=
  srcCp (match getQueue s c q with | some k => k.cp.toNat | none => 0)

/-- A record is written by its source and waits for the store (R394, R395). -/
def logEvent (s : State) (src type : Nat) (retained : Bool) (payload : List Byte) : State :=
  let seq := Tbl.get 0 s.log.sseq src + 1
  let r : LogRec := ⟨BitVec.ofNat 16 src, seq, BitVec.ofNat 8 type, retained, s.time, payload⟩
  { s with log := { s.log with
      sseq := Tbl.set 0 s.log.sseq src seq
      waiting := s.log.waiting ++ [r] } }

/-- A retained record of a type whose `n` bytes at `o` hold `key` waits while the store holds only retained records: what its writer does
is not complete (R395). -/
def recordStuck (s : State) (type : Byte) (o : Nat) (key : Word) (n : Nat) : Bool :=
  decide (8192 ≤ s.log.store.length) && s.log.store.all (·.retained) &&
  s.log.waiting.any fun r => r.retained && r.type == type && (r.payload.drop o).take n == leBytes n key.toNat

/-! ### Slice SRAM (R127, R132, R136, R137) -/

/-- The logical byte that slice address `a` names under a region map; `none` is the SRAM_RANGE of R137. -/
def sliceDecode (map : Tbl Dword) (a : Nat) : Option Nat :=
  if 2 ^ 31 ≤ a then none
  else
    let e := Tbl.get 0 map (a / 2 ^ 26)
    let o := a % 2 ^ 26
    let mask := BitVec.ofNat 32 (fld e 31 0)
    let b := popcount mask
    if !bit e 63 || decide (b * 0x200000 ≤ o) then none
    else
      let l := o / 256
      some (((fld e 36 32 * 32 + nthSet mask (l % b)) * 8192 + l / b) * 256 + o % 256)

/-- The cluster and logical bank of a byte. -/
def sramBank (k : Nat) : Nat := k / (8192 * 256)

/-- Whether `n` bytes from `a` lie in the quota: in each region touched, the last byte decodes. -/
def sliceRange (map : Tbl Dword) (a n : Nat) : Bool :=
  n == 0 || (unitsOf (2 ^ 26) a n).all fun r =>
    (sliceDecode map (min (a + n - 1) (r * 2 ^ 26 + (2 ^ 26 - 1)))).isSome

/-- First read or write of a slice to a lost bank, dead frame or retired channel is logged by the cluster or stack (R135, R152). -/
def logLost (s : State) (src key : Nat) (part : BitVec 4) (write : Bool) (unit bank frame : Nat) (ctx : Nat := 0) : State :=
  if s.mem.lostSeen.any fun e => e.1 == key && e.2.1 == part && e.2.2 == write then s
  else
    let s := { s with mem := { s.mem with lostSeen := s.mem.lostSeen ++ [(key, part, write)] } }
    logEvent s src 0x12 false
      (leBytes 1 unit ++ leBytes 1 bank ++ leBytes 4 frame ++ leBytes 2 ctx ++ leBytes 1 (if write then 1 else 0))

/-- The pieces of a slice range by 256-byte line: logical byte key and length. -/
def slicePieces (map : Tbl Dword) (a n : Nat) : List (Nat × Nat) :=
  (unitsOf 256 a n).filterMap fun l =>
    let lo := max a (256 * l)
    let hi := min (a + n) (256 * l + 256)
    (sliceDecode map lo).map fun k => (k, hi - lo)

/-- Read `n` bytes of slice SRAM: data, and whether any word of them is poisoned. -/
def sliceRead (s : State) (map : Tbl Dword) (a n : Nat) : List Byte × Bool :=
  let ps := slicePieces map a n
  (ps.flatMap fun p => memRead s.mem.sram p.1 p.2,
    ps.any fun p => poisoned s.mem.sramPoison 8 p.1 p.2 || Tbl.get false s.mem.bankLost (sramBank p.1))

/-- For each byte of a slice SRAM range, whether it is poisoned; a lost bank reads as poison (R132, R135). -/
def sliceFlags (s : State) (map : Tbl Dword) (a n : Nat) : List Bool :=
  (slicePieces map a n).flatMap fun p =>
    if Tbl.get false s.mem.bankLost (sramBank p.1) then List.replicate p.2 true else poisonFlags s.mem.sramPoison 8 p.1 p.2

/-- Log the slice's first read or write of each lost bank in a range (R135). -/
def sliceLog (s : State) (map : Tbl Dword) (part : BitVec 4) (a n : Nat) (write : Bool) (ctx : Nat := 0) : State :=
  (slicePieces map a n).foldl (fun s p =>
    let b := sramBank p.1
    if Tbl.get false s.mem.bankLost b then logLost s (srcCluster (b / 32)) b part write (b / 32) (b % 32) 0 ctx else s) s

/-- Account for an access to slice SRAM: sectors read or written (Table 17.4), and the slice's first read or write of each lost
bank (R135). -/
def sliceLost (s : State) (map : Tbl Dword) (part : BitVec 4) (a n : Nat) (write : Bool) (ctx : Nat := 0) : State :=
  sliceLog ((slicePieces map a n).foldl (fun s p =>
    countN s 9 (sramBank p.1 / 32) (if write then 1 else 0) (unitsOf 32 p.1 p.2).length) s) map part a n write ctx

/-- Write one piece of a line: a lost bank drops it; a whole line clears the protection tag (R135, R156). -/
def sramWritePiece (m : Memory) (k : Nat) (data : List Byte) (flags : List Bool) (prot : Bool) : Memory :=
  if Tbl.get false m.bankLost (sramBank k) then m
  else
    { m with
      sram := memWrite m.sram k data
      sramPoison := poisonWrite m.sramPoison 8 k flags
      sramProt := if prot then Tbl.set false m.sramProt (k / 256) true
        else if data.length = 256 then Tbl.set false m.sramProt (k / 256) false else m.sramProt }

/-- Write the pieces of a slice range in order. -/
def sramWritePieces (m : Memory) (prot : Bool) : List (Nat × Nat) → List Byte → List Bool → Memory
  | [], _, _ => m
  | (k, n) :: l, data, flags =>
    sramWritePieces (sramWritePiece m k (data.take n) (flags.take n) prot) prot l (data.drop n) (flags.drop n)

/-- Write bytes to slice SRAM, each with its poison. -/
def sliceCarry (s : State) (map : Tbl Dword) (a : Nat) (data : List Byte) (flags : List Bool) : State :=
  { s with mem := sramWritePieces s.mem false (slicePieces map a data.length) data flags }

/-- Write bytes to slice SRAM, poisoned or not as a whole. -/
def sliceWrite (s : State) (map : Tbl Dword) (a : Nat) (data : List Byte) (bad : Bool) : State :=
  sliceCarry s map a data (flagsOf data bad)

/-- Whether a range holds a line tagged protected. -/
def sliceProtected (s : State) (map : Tbl Dword) (a n : Nat) : Bool :=
  (slicePieces map a n).any fun p => Tbl.get false s.mem.sramProt (p.1 / 256)

/-- A 12-byte partial (R54). -/
def partialBytes (x : Ledger) : List Byte := leBytes 12 x.toNat
def partialOf (l : List Byte) : Ledger := BitVec.ofNat 96 (leNat (l.take 12))

/-- Reduce-add one partial at a slice address, indivisibly (R53, R131, R143). -/
def sliceReduce (s : State) (map : Tbl Dword) (a : Nat) (x : Ledger) (bad : Bool) : State :=
  let r := sliceRead s map a 12
  sliceWrite s map a (partialBytes (ledgerAdd (partialOf r.1) x)) (bad || r.2)

/-- Reduce-add partials at consecutive places from `a` on, in order; partial `j` is poisoned where `bad j` (R132). -/
def sliceReduceAll (s : State) (map : Tbl Dword) (a : Nat) (bad : Nat → Bool) (l : List Ledger) : State :=
  l.zipIdx.foldl (fun s e => sliceReduce s map (a + 12 * e.2) e.1 (bad e.2)) s

/-- Consecutive partials with their addresses. -/
def partialsAt (a : Nat) (l : List Ledger) : List (Nat × Ledger) := l.zipIdx.map fun e => (a + 12 * e.2, e.1)

/-! ### HBM (R149 to R152) -/

/-- Usable frames of a channel (Table 6.9a), from the stack capacity. -/
def hbmFrames (s : State) : Nat := if s.fp.capacity = 36 then 527343 else 351562
def hbmReserve (s : State) : Nat := if s.fp.capacity = 36 then 21973 else 14648

/-- Word `j` of HBM region `i` of a slice. -/
def regionWord (sl : Slice) (i j : Nat) : Dword := Tbl.get 0 sl.hbm (5 * i + j)

def regionMask (sl : Slice) (i : Nat) : BitVec 128 :=
  BitVec.ofNat 128 ((regionWord sl i 4).toNat * 2 ^ 64 + (regionWord sl i 3).toNat)

def regionBase (sl : Slice) (i : Nat) : Nat := fld (regionWord sl i 0) 38 0
def regionSize (sl : Slice) (i : Nat) : Nat := fld (regionWord sl i 1) 38 0

/-- The region that holds slice HBM address `h` (R150). -/
def hbmRegion (sl : Slice) (h : Nat) : Option Nat :=
  (List.range 16).find? fun i =>
    bit (regionWord sl i 0) 63 && decide (regionBase sl i ≤ h) && decide (h < regionBase sl i + regionSize sl i)

/-- Channel and byte in the channel of slice HBM address `h` in region `i`. -/
def hbmDecodeIn (sl : Slice) (i h : Nat) : Nat × Nat :=
  let o := h - regionBase sl i
  let mask := regionMask sl i
  let n := max 1 (popcount mask)
  let g := o / 256
  (nthSet mask (g % n), fld (regionWord sl i 1) 58 39 * 4096 + g / n * 256 + o % 256)

/-- The key of a frame. -/
def frameKey (ch frame : Nat) : Nat := ch * 2 ^ 20 + frame

/-- Byte key behind a slice HBM address, after the retirement map. -/
def hbmKey (s : State) (sl : Slice) (i h : Nat) : Nat :=
  let d := hbmDecodeIn sl i h
  let f := frameKey d.1 (d.2 / 4096)
  let f' := match Tbl.get 0 s.mem.frameMap f with | 0 => f | k + 1 => frameKey d.1 k
  f' * 4096 + d.2 % 4096

/-- Whether every byte of a range lies in valid regions, granule by granule. -/
def hbmRange (sl : Slice) (h n : Nat) : Bool :=
  n == 0 || (unitsOf 0x200000 h n).all fun u => (hbmRegion sl (max h (u * 0x200000))).isSome

/-- The pieces of a slice HBM range by 256-byte granule: region, byte key and length. -/
def hbmPieces (s : State) (sl : Slice) (h n : Nat) : List (Nat × Nat × Nat) :=
  (unitsOf 256 h n).filterMap fun g =>
    let lo := max h (256 * g)
    let hi := min (h + n) (256 * g + 256)
    (hbmRegion sl lo).map fun i => (i, hbmKey s sl i lo, hi - lo)

/-- A channel out of service or a dead frame gives poison and drops writes (R152). -/
def hbmDead (s : State) (k : Nat) : Bool :=
  !bit s.fp.chInService (k / 2 ^ 32) || Tbl.get false s.mem.frameDead (k / 4096)

def hbmRead (s : State) (sl : Slice) (h n : Nat) : List Byte × Bool :=
  let ps := hbmPieces s sl h n
  (ps.flatMap fun p => memRead s.mem.hbm p.2.1 p.2.2,
    ps.any fun p => poisoned s.mem.hbmPoison 64 p.2.1 p.2.2 || hbmDead s p.2.1)

/-- For each byte of a slice HBM range, whether it is poisoned (R132, R152). -/
def hbmFlags (s : State) (sl : Slice) (h n : Nat) : List Bool :=
  (hbmPieces s sl h n).flatMap fun p =>
    if hbmDead s p.2.1 then List.replicate p.2.2 true else poisonFlags s.mem.hbmPoison 64 p.2.1 p.2.2

def hbmWritePieces (s : State) : List (Nat × Nat × Nat) → List Byte → List Bool → State
  | [], _, _ => s
  | (_, k, n) :: l, data, flags =>
    let s' := if hbmDead s k then s
      else { s with mem := { s.mem with
        hbm := memWrite s.mem.hbm k (data.take n)
        hbmPoison := poisonWrite s.mem.hbmPoison 64 k (flags.take n) } }
    hbmWritePieces s' l (data.drop n) (flags.drop n)

/-- Write bytes to slice HBM, each with its poison. -/
def hbmCarry (s : State) (sl : Slice) (h : Nat) (data : List Byte) (flags : List Bool) : State :=
  hbmWritePieces s (hbmPieces s sl h data.length) data flags

def hbmWrite (s : State) (sl : Slice) (h : Nat) (data : List Byte) (bad : Bool) : State :=
  hbmCarry s sl h data (flagsOf data bad)

/-- Account for an access to HBM: granules read or written, and the slice's first read or write of each dead frame and retired
channel (R152). -/
def hbmLost (s : State) (sl : Slice) (part : BitVec 4) (h n : Nat) (write : Bool) (ctx : Nat := 0) : State :=
  (hbmPieces s sl h n).foldl (fun s p =>
    let f := p.2.1 / 4096
    let ch := f / 2 ^ 20
    let s := count s 5 ch (if write then 1 else 0)
    if !bit s.fp.chInService ch then logLost s (srcStack (ch / 16)) (2 ^ 40 + ch) part write ch 0 0xFFFFFFFF ctx
    else if Tbl.get false s.mem.frameDead f then logLost s (srcStack (ch / 16)) (2 ^ 41 + f) part write ch 0 (f % 2 ^ 20) ctx
    else s) s

/-! ### Slice memory of either kind -/

/-- Whether a range decodes in the slice. -/
def memRange (s : State) (part : BitVec 4) (hbm : Bool) (a n : Nat) : Bool :=
  if hbm then hbmRange (getSlice s part) a n else sliceRange (getSlice s part).regions a n

/-- Read slice memory on a device path: protected lines read as zeros (R156). -/
def devRead (s : State) (part : BitVec 4) (hbm : Bool) (a n : Nat) : List Byte × Bool :=
  let sl := getSlice s part
  if hbm then hbmRead s sl a n
  else
    let ps := slicePieces sl.regions a n
    (ps.flatMap fun p =>
      if Tbl.get false s.mem.sramProt (p.1 / 256) then List.replicate p.2 0 else memRead s.mem.sram p.1 p.2,
     ps.any fun p => !Tbl.get false s.mem.sramProt (p.1 / 256) &&
       (poisoned s.mem.sramPoison 8 p.1 p.2 || Tbl.get false s.mem.bankLost (sramBank p.1)))

/-- For each byte of a device read, whether it is poisoned; a protected line reads as good zeros. -/
def devFlags (s : State) (part : BitVec 4) (hbm : Bool) (a n : Nat) : List Bool :=
  let sl := getSlice s part
  if hbm then hbmFlags s sl a n
  else
    (slicePieces sl.regions a n).flatMap fun p =>
      if Tbl.get false s.mem.sramProt (p.1 / 256) then List.replicate p.2 false
      else if Tbl.get false s.mem.bankLost (sramBank p.1) then List.replicate p.2 true
      else poisonFlags s.mem.sramPoison 8 p.1 p.2

/-- Whether a device path would read a protected line. -/
def devProtected (s : State) (part : BitVec 4) (hbm : Bool) (a n : Nat) : Bool :=
  !hbm && sliceProtected s (getSlice s part).regions a n

/-- A 64-byte line of slice memory as coherent windows name it. -/
def cohLine (part : BitVec 4) (hbm : Bool) (l : Nat) : Nat := (part.toNat * 2 + if hbm then 1 else 0) * 2 ^ 33 + l

/-- Back-invalidate snoops for the lines of a range that the host holds (R232). -/
def snoopLines (s : State) (part : BitVec 4) (hbm : Bool) (a n : Nat) : State :=
  if s.cohHeld = [] then s
  else ((unitsOf 64 a n).map (cohLine part hbm)).foldl (fun s l =>
    if s.cohHeld.contains l then
      emit { s with cohHeld := s.cohHeld.filter fun k => !(k == l), snoops := s.snoops ++ [l] } (.snoop l) else s) s

/-- Whether a write of a range waits for a snoop of one of its lines. -/
def snoopsIn (s : State) (part : BitVec 4) (hbm : Bool) (a n : Nat) : Bool :=
  s.snoops != [] && (unitsOf 64 a n).any fun l => s.snoops.contains (cohLine part hbm l)

/-- Write slice memory for the host. -/
def hostSideWrite (s : State) (part : BitVec 4) (hbm : Bool) (a : Nat) (data : List Byte) (bad : Bool) : State :=
  let sl := getSlice s part
  if hbm then hbmWrite (hbmLost s sl part a data.length true) sl a data bad
  else sliceWrite (sliceLost s sl.regions part a data.length true) sl.regions a data bad

/-- Write slice memory on a device path, each byte with its poison, with the first-access records of lost units; a line that the
host holds is snooped. -/
def devCarry (s : State) (part : BitVec 4) (hbm : Bool) (a : Nat) (data : List Byte) (flags : List Bool) (ctx : Nat := 0) : State :=
  let sl := getSlice s part
  let s := snoopLines s part hbm a data.length
  if hbm then hbmCarry (hbmLost s sl part a data.length true ctx) sl a data flags
  else sliceCarry (sliceLost s sl.regions part a data.length true ctx) sl.regions a data flags

/-- Write slice memory on a device path, poisoned or not as a whole. -/
def devWrite (s : State) (part : BitVec 4) (hbm : Bool) (a : Nat) (data : List Byte) (bad : Bool) (ctx : Nat := 0) : State :=
  devCarry s part hbm a data (flagsOf data bad) ctx

/-- The first-access records of a read. -/
def devReadLog (s : State) (part : BitVec 4) (hbm : Bool) (a n : Nat) (ctx : Nat := 0) : State :=
  let sl := getSlice s part
  if hbm then hbmLost s sl part a n false ctx else sliceLost s sl.regions part a n false ctx

/-! ### Sync counters (R121 to R124) -/

def syncKey (cl : BitVec 5) (slot : BitVec 3) : Nat := cl.toNat * 8 + slot.toNat

def syncCounter (s : State) (cl : BitVec 5) (slot : BitVec 3) (n : Nat) : BitVec 16 :=
  match Tbl.get none s.sync (syncKey cl slot) with
  | none => 0
  | some g => Tbl.get 0 g.counters n

/-- Whether a wait for `v` is satisfied by counter value `c` (R83, R123). -/
def waitDone (c v : BitVec 16) : Bool := decide ((c - v).toNat < 2 ^ 15)

end Sys2Proof.Machine
end

