-- ==== Sys2Proof/Machine/Quota.lean ====
section
/-!
DEFINITION. Quotas of partitions (R304, R305): what is in use beyond a quota, the OVER bits, and the release of units that left a
partition while they were in use.
-/
namespace Sys2Proof.Machine

def getPart (s : State) (p : Nat) : Part := Tbl.get {} s.sched.parts p
def setPart (s : State) (p : Nat) (x : Part) : State :=
  { s with sched := { s.sched with parts := Tbl.set {} s.sched.parts p x } }

/-- A core of the cluster is bound, or its sync unit holds a group of the slice (Table 12.5). -/
def clusterInUse (s : State) (p cl : Nat) : Bool :=
  (s.bindings.any fun e => e.2.state != 0 && e.2.part.toNat == p && e.1 / 10 == cl) ||
  (s.sync.any fun e => match e.2 with | some g => g.part.toNat == p && e.1 / 8 == cl | none => false)

/-- Named by a valid entry of a region map. -/
def bankNamed (sl : Slice) (cl b : Nat) : Bool :=
  sl.regions.any fun e => bit e.2 63 && fld e.2 36 32 == cl && bit e.2 b

/-- The banks that a map names in a cluster. -/
def banksNamed (sl : Slice) (cl : Nat) : Word :=
  sl.regions.foldl (fun m e => if bit e.2 63 && fld e.2 36 32 == cl then m ||| e.2.setWidth 32 else m) 0

/-- The channels that a slice's regions name. -/
def channelsNamed (sl : Slice) : BitVec 128 :=
  (List.range 16).foldl (fun m i => if bit (regionWord sl i 0) 63 then m ||| regionMask sl i else m) 0

/-- The channels bound to a slice: those of its gloves and those its regions name. -/
def channelsBound (s : State) (p : Nat) : BitVec 128 :=
  s.gloves.foldl (fun m e => match e.2 with | some g => if g.part.toNat = p then m ||| g.channels else m | none => m)
    (channelsNamed (Tbl.get {} s.slices p))

/-- The links bound to the gloves of a partition at this member. -/
def linksBound (s : State) (p : Nat) : Dword :=
  s.gloves.foldl (fun m e => match e.2 with | some g => if g.part.toNat = p then m ||| g.links else m | none => m) 0

/-- Whether a context belongs to a partition: context 0 has no slice and belongs to none (R372). -/
def inPart (c : Context) (p : Nat) : Bool := c.part.toNat == p && c.id != 0

/-- The open contexts of a partition. -/
def partCtxs (s : State) (p : Nat) : List Context :=
  s.ctxs.filterMap fun e => match e.2 with
    | some c => if inPart c p then some c else none
    | none => none

/-- A preemption slot address inside a partition's area (R296). -/
def slotInside (x : Part) (a : Nat) : Bool :=
  decide (x.preBase.toNat ≤ a) && decide (a + 0x300000 ≤ x.preBase.toNat + x.preSlots * 0x300000)

/-- Whether a partition's map names a lost bank (R135, change 0x07). -/
def lostNamed (s : State) (p : Nat) : Bool :=
  s.mem.bankLost.any fun e => bankNamed (Tbl.get {} s.slices p) (e.1 / 32) (e.1 % 32)

/-- The OVER bits of a partition (Tables 12.5 and 12.8). -/
def overBits (s : State) (p : Nat) (x : Part) : Byte :=
  let cs := partCtxs s p
  let b (i : Nat) (c : Bool) : Byte := if c then BitVec.ofNat 8 (2 ^ i) else 0
  b 0 (x.awaitClusters != 0) |||
  b 1 ((x.awaitBanks.any fun e => banksNamed (Tbl.get {} s.slices p) e.1 &&& e.2 != 0) ||
    lostNamed s p) |||
  b 2 (x.awaitChannels != 0) ||| b 3 (x.awaitLinks != 0) |||
  b 4 (decide (x.slots < (cs.filter fun c => c.slot != 0).length)) |||
  b 5 (decide (x.ctxMax < cs.length)) |||
  b 6 (cs.any fun c => !bit x.insts c.inst.toNat) |||
  b 7 (s.sched.suspended.any fun e => e.part.toNat == p && e.pre && !slotInside x e.slot)

/-- Start the zeroing of the banks that await release and are no longer named (R138). -/
def startZero (s : State) (p : Nat) (x : Part) : State :=
  x.awaitBanks.foldl (fun s e =>
    let free := e.2 &&& ~~~(banksNamed (Tbl.get {} s.slices p) e.1)
    { s with mem := { s.mem with bankZero := (setBits free).foldl (fun t b => Tbl.set false t (32 * e.1 + b) true) s.mem.bankZero } }) s

/-- Bring one partition's release and OVER bits up to date; the log has the sets and the clears of OVER (R304). -/
def refreshPart (s : State) (p : Nat) : State :=
  let x := getPart s p
  let x := { x with
    awaitClusters := (setBits x.awaitClusters).foldl (fun m c => setBit m c (clusterInUse s p c)) x.awaitClusters
    awaitChannels := x.awaitChannels &&& channelsBound s p
    awaitLinks := x.awaitLinks &&& linksBound s p }
  let o := overBits s p x
  let s := setPart (startZero s p x) p { x with overBits := o }
  if o = x.overBits then s else logEvent s srcRtp 0x0E false [BitVec.ofNat 8 p, o]

/-- Every partition with a descriptor or units that await release. -/
def refreshParts (s : State) : State := (s.sched.parts.map (·.1)).foldl refreshPart s

/-! ### Owners of units -/

/-- The partition that holds a unit; one that awaits release stays with its old partition (R302, R305). -/
def findPart (s : State) (f : Part → Bool) : Option Nat := (s.sched.parts.find? fun e => f e.2).map (·.1)

def clusterPart (s : State) (cl : Nat) : Option Nat := findPart s fun p => bit (p.clusters ||| p.awaitClusters) cl
def bankPart (s : State) (cl bank : Nat) : Option Nat :=
  findPart s fun p => bit (Tbl.get 0 p.banks cl ||| Tbl.get 0 p.awaitBanks cl) bank
def channelPart (s : State) (ch : Nat) : Option Nat := findPart s fun p => bit (p.channels ||| p.awaitChannels) ch
def linkPart (s : State) (l : Nat) : Option Nat := findPart s fun p => bit (p.links ||| p.awaitLinks) l

end Sys2Proof.Machine
end

