-- ==== Sys2Proof/Machine/Regul.lean ====
section
/-!
DEFINITION. Regulators (R306, R309), request deadlines and bands (R307), and the arbiter that orders the requests of one queue (R308).
-/
namespace Sys2Proof.Machine

/-! ### The request clock and the arbiter -/

/-- Now, in 64 ns units of the module reference. -/
def reqUnits (s : State) : Nat := s.refNs / 64

/-- The request clock (R307). -/
def reqNow (s : State) : BitVec 16 := BitVec.ofNat 16 (reqUnits s)

/-- Remaining slack (R308). -/
def prioSlack (p : Prio) (now : BitVec 16) : Int := (p.due - now).toInt

/-- Whether one request goes before another that arrived no later: by band, then by least slack. -/
def prioBefore (now : BitVec 16) (a b : Prio) : Bool :=
  decide (a.band < b.band) || (a.band == b.band && decide (prioSlack a now < prioSlack b now))

/-- The request that the arbiter grants of those that wait, in order of arrival; `low` counts the grants since a waiting LOW request had one. -/
def arbPick (now : BitVec 16) (low : Nat) (l : List (Nat × Prio)) : Option Nat :=
  let pool := if 15 ≤ low && l.any (fun e => e.2.band == 2) then l.filter fun e => e.2.band == 2 else l
  (pool.foldl (fun (b : Option (Nat × Prio)) e => match b with
    | none => some e
    | some c => if prioBefore now e.2 c.2 then some e else some c) none).map (·.1)

/-- `low` after a grant. -/
def lowAfter (low : Nat) (granted : Prio) (l : List (Nat × Prio)) : Nat :=
  if granted.band = 2 ∨ !(l.any fun e => e.2.band == 2) then 0 else low + 1

/-- Requests that no regulator counts (responses, messages, requests from outside): the NORMAL band, with the BE slack of package reset. -/
def plainPrio (s : State) : Prio := { band := 1, due := reqNow s + 16384 }

/-! ### Regulators -/

def getReg (s : State) (p t : Nat) : Regulator := Tbl.get {} s.sched.regs (4 * p + t)
def setReg (s : State) (p t : Nat) (r : Regulator) : State :=
  { s with sched := { s.sched with regs := Tbl.set {} s.sched.regs (4 * p + t) r } }

/-- A class already has at least its budget outstanding. -/
def Regulator.spent (r : Regulator) (lc : Bool) : Bool :=
  if lc then r.lcBudget != 0 && decide (r.lcBudget.toNat ≤ r.lcOut) else r.beBudget != 0 && decide (r.beBudget.toNat ≤ r.beOut)

/-- The band of a request at its issue. -/
def reqBand (s : State) (p t : Nat) (lc : Bool) : BitVec 2 :=
  match lc, (getReg s p t).spent lc with
  | true, false => 0
  | false, true => 2
  | _, _ => 1

/-- A request deadline without an item's: now and the slack of the class, in units. -/
def slackDue (s : State) (p t : Nat) (lc : Bool) : Nat :=
  reqUnits s + (if lc then (getReg s p t).lcSlack else (getReg s p t).beSlack).toNat

/-- A regulated transaction issues; it is demoted where its class already has its budget outstanding. -/
def regIssue (s : State) (p t : Nat) (lc : Bool) : State :=
  let r := getReg s p t
  let spent := r.spent lc
  let r := if lc then { r with lcOut := r.lcOut + 1, lcIssued := r.lcIssued + 1, demoted := r.demoted + if spent then 1 else 0 }
    else { r with beOut := r.beOut + 1, beIssued := r.beIssued + 1 }
  let s := count (setReg s p t r) 7 (3 * p + t) (if lc then 0 else 1)
  if spent && lc then count s 7 (3 * p + t) 2 else s

def regIssueN (s : State) (p t : Nat) (lc : Bool) (n : Nat) : State := (List.range n).foldl (fun s _ => regIssue s p t lc) s

/-- It completes; an LC one after its request deadline is a miss (R309). -/
def regDone (s : State) (p t : Nat) (lc : Bool) (due : Nat) : State :=
  let r := getReg s p t
  if lc then
    let miss := decide (due < reqUnits s)
    let s := setReg s p t { r with lcOut := r.lcOut - 1, misses := r.misses + if miss then 1 else 0 }
    if miss then count s 7 (3 * p + t) 3 else s
  else setReg s p t { r with beOut := r.beOut - 1 }

def regDoneN (s : State) (p t : Nat) (lc : Bool) (due n : Nat) : State := (List.range n).foldl (fun s _ => regDone s p t lc due) s

/-- Transactions that complete as they issue. -/
def regPosted (s : State) (p t : Nat) (lc : Bool) (due n : Nat) : State :=
  (List.range n).foldl (fun s _ => regDone (regIssue s p t lc) p t lc due) s

end Sys2Proof.Machine
end

