-- ==== Sys2Proof/Machine/Wire.lean ====
section
/-!
DEFINITION. What a link carries, bit by bit: header words of packets (Table 11.2), flits with their CRC-32 (R246, R247, R269) and identity
blocks (Table 10.3).
-/
namespace Sys2Proof.Machine

/-- The header words (Table 11.2), with a given HOPS. -/
def headerWords (p : Packet) (hops : Nat) : List Dword :=
  let b (x : Bool) (i : Nat) : Nat := if x then 2 ^ i else 0
  [BitVec.ofNat 64 (p.ttype.toNat * 2 ^ 59 + p.dst.toNat * 2 ^ 42 + p.src.toNat * 2 ^ 25 + p.incarn.toNat * 2 ^ 17 + hops * 2 ^ 11 +
     b p.keyed 10 + b p.kgen 9 + b p.fwd 8 + b p.poison 7 + b p.legacy 6 + p.rsvd.toNat % 64),
   BitVec.ofNat 64 (p.tag.toNat * 2 ^ 48 + p.gid.toNat * 2 ^ 24 + p.len.toNat * 2 ^ 11 + p.status.toNat * 2 ^ 3 + p.rsvd.toNat / 64),
   p.addr, p.seq]

/-- DATA padded with zeros to 192 bytes. -/
def padData (d : List Byte) : List Byte := d.take 192 ++ List.replicate (192 - d.length) 0

/-- The link header (Table 10.4). -/
def flitHeader (f : Flit) : Dword :=
  BitVec.ofNat 64 (f.ftype.toNat * 2 ^ 60 + f.vc.toNat * 2 ^ 58 + f.seq.toNat * 2 ^ 46 + f.ack.toNat * 2 ^ 34 + f.cvc.toNat * 2 ^ 32 +
    f.ccum.toNat * 2 ^ 16 + (if f.deg then 2 ^ 15 else 0) + f.rsvd.toNat)

/-- The payload by flit type (R246, R269), before the zeros that fill it up. -/
def flitPayload (f : Flit) : List Byte :=
  (match f.ftype.toNat with
    | 1 => dwordBytes (headerWords f.pkt f.pkt.hops.toNat) ++ leBytes 4 f.pkt.ext.toNat ++ padData f.pkt.data ++ leBytes 16 f.pkt.gcmTag.toNat
    | 2 => (f.ccums.take 4).flatMap fun c => leBytes 2 c.toNat
    | 4 => [f.op, f.pair]
    | _ => []) ++ f.pad

/-- Bytes 0 to 251 of a flit. -/
def flitBytes (f : Flit) : List Byte :=
  let l := dwordBytes [flitHeader f] ++ flitPayload f
  l.take 252 ++ List.replicate (252 - l.length) 0

/-- One bit of the reflected CRC with polynomial 0x04C1_1DB7. -/
def crcBit (c : Nat) : Nat := if c % 2 = 1 then c / 2 ^^^ 0xEDB88320 else c / 2

/-- One byte. -/
def crcByte (c : Nat) (b : Byte) : Nat :=
  crcBit (crcBit (crcBit (crcBit (crcBit (crcBit (crcBit (crcBit (c ^^^ b.toNat))))))))

/-- CRC-32 of R247: initial value all ones, complemented at the end. -/
def crc32 (l : List Byte) : Word := BitVec.ofNat 32 (l.foldl crcByte 0xFFFFFFFF ^^^ 0xFFFFFFFF)

/-- The CRC of a flit. -/
def flitCrc (f : Flit) : Word := crc32 (flitBytes f)

/-- A packet without what stays inside the package. -/
def wirePacket (p : Packet) : Packet := { p with prio := none, maybe := false }

/-- A flit as it goes out: its packet as the link carries it, and its CRC. -/
def wireFlit (f : Flit) : Flit :=
  let g := { f with pkt := wirePacket f.pkt }
  { g with crc := flitCrc g }

/-- The identity block (Table 10.3). -/
def identityWords (b : Identity) : List Dword :=
  [b.moduleId, BitVec.ofNat 64 (b.node.toNat + b.link.toNat * 2 ^ 17 + b.proto.toNat * 2 ^ 23 + (if b.spare then 2 ^ 31 else 0) +
    b.sparePair.toNat * 2 ^ 32 + b.rsvd.toNat * 2 ^ 37)]

/-- A block as this end sends it: its reserved bits are zero. -/
def wireIdentity (b : Identity) : Identity := { b with rsvd := 0 }

end Sys2Proof.Machine
end

