-- ==== Sys2Proof/Machine/Net.lean ====
section
/-!
DEFINITION. The send side of the Eomen fabric: link transmit with retry and credits (R248 to R250), routing (R264 to R267), streams
(R272), job keys (R277 to R279) and the entry of reduce packets into a tree (R282, R283).
-/
namespace Sys2Proof.Machine

/-! ### Links -/

def getLink (s : State) (l : Nat) : Link := Tbl.get {} s.links l
def setLink (s : State) (l : Nat) (x : Link) : State := { s with links := Tbl.set {} s.links l x }
def updLink (s : State) (l : Nat) (f : Link → Link) : State := setLink s l (f (getLink s l))

def getGroup (s : State) (g : Nat) : Group := Tbl.get {} s.groups g
def setGroup (s : State) (g : Nat) (x : Group) : State := { s with groups := Tbl.set {} s.groups g x }

/-- ACTIVE or DEGRADED. -/
def Link.up (l : Link) : Bool := l.st == 6 || l.st == 7

/-- Receive buffer of a virtual channel, flits (R249). -/
def vcBuffer (vc : Nat) : Nat := match vc with | 0 => 32 | 1 => 96 | 2 => 96 | _ => 192

/-- Credits left on a virtual channel: what the partner has returned in all, less what was sent. -/
def Link.credits (l : Link) (vc : Nat) : Nat := (Tbl.get 0 l.ccumIn vc - Tbl.get 0 l.sent vc).toNat

/-- CCUM that this end reports for a virtual channel. -/
def Link.ccum (l : Link) (vc : Nat) : BitVec 16 := BitVec.ofNat 16 (vcBuffer vc) + Tbl.get 0 l.ccumOut vc

/-- SEQ of the last DATA flit received good and in order; 0xFFF before the first. -/
def Link.ackOut (l : Link) : BitVec 12 := l.rxSeq - 1

/-- A flit of this end with its header fields (Table 10.4). -/
def Link.header (l : Link) (t : BitVec 4) : Flit :=
  { ftype := t, ack := l.ackOut, cvc := l.cvc, ccum := l.ccum l.cvc.toNat, deg := l.st == 7 }

/-- In service: ACTIVE, DEGRADED or in a retrain (R257, R258). -/
def Link.inService (l : Link) : Bool := l.up || l.st == 8

/-- A CTRL flit: the CCUM of every virtual channel (R249). -/
def Link.ctrlFlit (l : Link) : Flit := { l.header 2 with ccums := (List.range 4).map l.ccum }

/-- A CTRL flit goes at least once in every 32 slots (R249). The slots counted are the flits that this end sends: a link without flits only
idles. -/
def countSlot (s : State) (n : Nat) : State :=
  let l := getLink s n
  if 30 ≤ l.slots then emit (setLink s n { l with slots := 0 }) (.flit (BitVec.ofNat 6 n) (wireFlit l.ctrlFlit))
  else setLink s n { l with slots := l.slots + 1 }

/-- Send a flit; only a link that is up carries flits. -/
def emitFlit (s : State) (n : Nat) (f : Flit) : State :=
  if !(getLink s n).up then s
  else
    let s := emit s (.flit (BitVec.ofNat 6 n) (wireFlit f))
    if f.ftype = 2 then updLink s n fun l => { l with slots := 0 } else countSlot s n

/-- The requests of a virtual channel that wait, with their places in the queue. -/
def Link.waitsOf (l : Link) (vc : Nat) : List (Nat × Prio) :=
  (l.txq.zipIdx.filter fun e => e.1.vc.toNat == vc).map fun e => (e.2, e.1.prio.getD {})

/-- The next flit of a virtual channel that has a credit, as its place in the queue: a returned one goes ahead of everything, then the arbiter
chooses (R266, R308). -/
def Link.nextOf (l : Link) (now : BitVec 16) (vc : Nat) : Option Nat :=
  if l.credits vc = 0 then none
  else match findIdx? (fun p => p.maybe && p.vc.toNat == vc) l.txq 0 with
    | some i => some i
    | none => arbPick now (Tbl.get 0 l.low vc) (l.waitsOf vc)

/-- The virtual channel of each slot of the rotation 1 : 2 : 1. -/
def arbSlot (k : BitVec 2) : Nat := match k.toNat with | 0 => 1 | 1 => 2 | 2 => 2 | _ => 3

/-- The arbiter's choice (R250): VC0 first, else the first slot of the rotation with a flit and a credit. -/
def Link.choose (l : Link) (now : BitVec 16) : Option (Nat × BitVec 2) :=
  match l.nextOf now 0 with
  | some i => some (i, l.arb)
  | none => (List.range 4).findSome? fun k =>
      let a := l.arb + BitVec.ofNat 2 k
      (l.nextOf now (arbSlot a)).map fun i => (i, a + 1)

/-! ### Keys and streams -/

/-- Additional data: the header with HOPS 0 (R278). -/
def packetAad (p : Packet) : List Byte := dwordBytes (headerWords p 0)

/-- The 96-bit IV (R278). -/
def packetIv (p : Packet) : BitVec 96 :=
  BitVec.ofNat 96 ((p.src.toNat * 2 ^ 15 + p.incarn.toNat * 2 ^ 7 + p.vc.toNat * 2 ^ 5) * 2 ^ 64 + p.seq.toNat)

/-- A status-only response (R271). -/
def statusOnly (st : Byte) : Bool := decide (1 ≤ st.toNat ∧ st.toNat ≤ 8) || st == 0x12 || st == 0x13 || st == 0x14

def findSlot (s : State) (gid : BitVec 24) : Option KeySlot := s.fab.keys.find? fun k => k.gid == gid

def KeySlot.key (k : KeySlot) (gen : Bool) : Option (BitVec 256) := if gen then k.key1 else k.key0

/-- Whether a node is in a glove's member list here. -/
def isMember (g : Glove) (node : BitVec 17) : Bool := node != 0x1FFFF && g.members.any fun e => e.2 == node

def memberOf (s : State) (gid : BitVec 24) (node : BitVec 17) : Bool :=
  match getGlove s gid with
  | some g => isMember g node
  | none => false

/-- The key under which a packet is sent, with its generation: none sends in clear (R278). -/
def sendKey (s : State) (p : Packet) : Option (BitVec 256 × Bool) :=
  if p.ttype = 0x0E ∨ statusOnly p.status ∨ !memberOf s p.gid p.dst then none
  else match findSlot s p.gid with
    | none => none
    | some k => (k.key k.active).map fun x => (x, k.active)

/-- Encrypt EXT and DATA in place. -/
def sealPacket (p : Packet) (key : BitVec 256) (gen : Bool) : Packet :=
  let p := { p with keyed := true, kgen := gen }
  let r := Config.gcmSeal key (packetIv p) (packetAad p) (leBytes 4 p.ext.toNat ++ padData p.data)
  { p with ext := BitVec.ofNat 32 (leNat (r.1.take 4)), data := (r.1.drop 4).take 192, gcmTag := r.2 }

/-- Give a packet the next SEQ of its stream and its key (R272, R278); a TIME_SYNC takes its T_SEND (R286). -/
def stampPacket (s : State) (p : Packet) : State × Packet :=
  let n := Tbl.get 0 s.sendSeq p.vc.toNat + 1
  let p := { p with seq := n
                    data := if p.ttype = 0x0D ∧ fld p.ext 7 0 = 0x0C then leBytes 8 s.time.toNat ++ p.data.drop 8 else p.data }
  ({ s with sendSeq := Tbl.set 0 s.sendSeq p.vc.toNat n },
    match sendKey s p with
    | some k => sealPacket p k.1 k.2
    | none => p)

/-- A packet leaves its egress queue. One of this package that has no SEQ yet is given it here, so that the arbiter's order is the stream's. -/
def egress (s : State) (p : Packet) : State × Packet := if p.src = s.node ∧ p.seq = 0 then stampPacket s p else (s, p)

/-- A packet of this package before its egress. -/
def ownPacket (s : State) (p : Packet) : Packet :=
  { p with src := s.node, incarn := s.incarnation.setWidth 8, seq := 0, hops := 0, rsvd := 0, keyed := false, gcmTag := 0, maybe := false
           prio := some (p.prio.getD (plainPrio s)) }

/-- Send DATA flits while the link is up, credits last and the retry buffer of 512 has room (R248). -/
def pumpLink : Nat → State → Nat → State
  | 0, s, _ => s
  | fuel + 1, s, n =>
    let l := getLink s n
    if !l.up || decide (512 ≤ l.retry.length) then s
    else match l.choose (reqNow s) with
      | none => s
      | some (i, arb) =>
        let q := l.txq.getD i {}
        let vc := q.vc.toNat
        let r := egress s q
        let f := { l.header 1 with vc := q.vc, seq := l.txSeq, pkt := r.2 }
        let l := { l with txq := l.txq.eraseIdx i, txSeq := l.txSeq + 1, retry := l.retry ++ [f], arb := arb, cvc := l.cvc + 1
                          low := Tbl.upd 0 l.low vc fun k => lowAfter k (q.prio.getD {}) (l.waitsOf vc)
                          sent := Tbl.upd 0 l.sent vc (· + 1) }
        pumpLink fuel (emitFlit (count (setLink r.1 n l) 6 n 4) n f) n

def sendLink (s : State) (n : Nat) : State := pumpLink ((getLink s n).txq.length + 1) s n

/-! ### Routing -/

def routeEntry (s : State) (dst : BitVec 17) : Dword := Tbl.get 0 s.fab.routes dst.toNat

/-- Whether a packet may use a link: glove traffic of this package uses the links bound to its glove, once a LINK_REFIT has named them (R176,
DESIGN CHOICE, log 154). -/
def linkBound (s : State) (p : Packet) (l : Nat) : Bool :=
  match getGlove s p.gid with
  | some g => !(g.linked && p.src == s.node) || bit g.links l
  | none => true

/-- The port of a packet (R264): the first link in service from PORT[(SRC + v) mod (NPORT + 1)] on; none is unreachable. -/
def portOf (s : State) (p : Packet) : Option Nat :=
  let e := routeEntry s p.dst
  let n := fld e 25 24 + 1
  if !bit e 27 || bit e 26 then none
  else (List.range n).findSome? fun k =>
    let i := ((p.src.toNat + p.vc.toNat) % n + k) % n
    let l := fld e (6 * i + 5) (6 * i)
    if (getLink s l).up && linkBound s p l then some l else none

/-- The response type of a request or reduce packet. -/
def respType (t : BitVec 5) : Option (BitVec 5) :=
  match t.toNat with
  | 0x01 | 0x07 => some 0x02
  | 0x03 => some 0x04
  | 0x05 => some 0x06
  | 0x08 | 0x09 => some 0x0A
  | 0x0B => some 0x0C
  | _ => none

/-- Queue a packet on its port, behind a DRAIN pause where one runs, or deliver it here (R264, R265). An unreachable packet is
dropped; `none` tells that it must be answered. -/
def tryRoute (s : State) (p : Packet) : State × Bool :=
  if p.dst = s.node then
    let r := egress s p
    (emit r.1 (.packet (wirePacket r.2)), true)
  else if s.fab.pauses.any fun x => x.1 == p.dst then
    ({ s with fab := { s.fab with pauses := s.fab.pauses.map fun x => if x.1 == p.dst then (x.1, x.2 ++ [p]) else x } }, true)
  else match portOf s p with
    | some l => (sendLink (updLink s l fun x => { x with txq := x.txq ++ [{ p with prio := some (p.prio.getD (plainPrio s)) }] }) l, true)
    | none => ({ s with fab := { s.fab with unreach := s.fab.unreach + 1 } }, false)

/-- Stop sending to a destination for DRAIN µs: what is queued for it waits (R265). -/
def pauseDst (s : State) (dst : BitVec 17) : State :=
  if dst = s.node ∨ (s.fab.pauses.any fun x => x.1 == dst) then s
  else
    let held := s.links.flatMap fun e => e.2.txq.filter fun p => p.dst == dst
    { s with links := s.links.map fun e => (e.1, { e.2 with txq := e.2.txq.filter fun p => p.dst != dst })
             fab := { s.fab with pauses := s.fab.pauses ++ [(dst, held)] } }

/-- The destinations whose route names a link. -/
def routesOver (s : State) (n : Nat) : List (BitVec 17) :=
  s.fab.routes.filterMap fun e =>
    if bit e.2 27 && !bit e.2 26 && (List.range (fld e.2 25 24 + 1)).any (fun i => fld e.2 (6 * i + 5) (6 * i) == n)
    then some (BitVec.ofNat 17 e.1) else none

/-- The UNREACHABLE answer to a packet (R267). -/
def unreachAnswer (p : Packet) (t : BitVec 5) : Packet :=
  { ttype := t, dst := p.src, tag := p.tag, gid := p.gid, addr := p.addr, status := 0x12, vc := 2 }

/-- Send a packet of this package. A package without a node id sends none (R262). -/
def sendPacket (s : State) (p : Packet) : State :=
  if !s.fab.nodeValid then s
  else
    let t := tryRoute s (ownPacket s p)
    if t.2 then t.1
    else match respType p.ttype with
      | none => t.1
      | some rt => (tryRoute t.1 (ownPacket t.1 (unreachAnswer { p with src := s.node } rt))).1

/-- The answer to a request. -/
def answerTo (p : Packet) (t : BitVec 5) (status : Byte) (data : List Byte) (bad : Bool) (ext : Word) : Packet :=
  { ttype := t, dst := p.src, tag := p.tag, gid := p.gid, addr := p.addr, status := status, vc := 2, len := BitVec.ofNat 13 data.length
    data := data, poison := bad, ext := ext }

/-- Answer a request. -/
def respond (s : State) (p : Packet) (t : BitVec 5) (status : Byte) (data : List Byte) (bad : Bool) (ext : Word := 0) : State :=
  sendPacket s (answerTo p t status data bad ext)

/-- Answer a request whose write waits for a snoop: with the others, once the snoops are over (R232). -/
def respondAfter (s : State) (p : Packet) (t : BitVec 5) (status : Byte) (data : List Byte) (bad : Bool) (held : Bool) : State :=
  if held then { s with fab := { s.fab with answers := s.fab.answers ++ [answerTo p t status data bad 0] } } else respond s p t status data bad

/-! ### Reduce packets -/

/-- The 16 partials of a reduce packet's payload (R143). -/
def pktPartials (data : List Byte) : List Ledger :=
  (List.range 16).map fun j => BitVec.ofNat 96 (leNat ((data.drop (12 * j)).take 12))

/-- Pairwise sums of two payloads (R53). -/
def sumPayload (a b : List Byte) : List Byte :=
  (List.zipWith ledgerAdd (pktPartials a) (pktPartials b)).flatMap partialBytes

/-- EXT of a reduce packet (Table 11.3). -/
def reduceExt (tree contrib : Nat) (root : BitVec 17) : Word := BitVec.ofNat 32 (tree * 2 ^ 25 + contrib * 2 ^ 17 + root.toNat)

def extTree (e : Word) : Nat := fld e 31 25
def extContrib (e : Word) : Nat := fld e 24 17
def extRoot (e : Word) : BitVec 17 := BitVec.ofNat 17 (fld e 16 0)

def getTree (s : State) (t : Nat) : Option Tree := Tbl.get none s.fab.trees t

/-- The tree of a glove toward a node (R281). -/
def findTree (s : State) (gid : BitVec 24) (root : BitVec 17) : Option (Nat × Tree) :=
  s.fab.trees.findSome? fun e => match e.2 with
    | some t => if t.gid == gid && t.root == root then some (e.1, t) else none
    | none => none

/-- Send a reduce packet and keep it until it is acknowledged (R285). -/
def sendReduce (s : State) (p : Packet) (root : BitVec 17) (again : Bool) (from_ : List Contributor) : State :=
  let tag := BitVec.ofNat 16 s.serial
  let p := { p with tag := tag }
  let o : ReduceOut := { tag := tag, pkt := p, root := root, again := again, from_ := from_ }
  sendPacket { s with serial := s.serial + 1, fab := { s.fab with reduceOut := s.fab.reduceOut ++ [o] } } p

/-- Release a held packet to PARENT with its CONTRIB (R283). -/
def releaseUp (s : State) (c : Combined) (t : Tree) : State :=
  sendReduce s { c.pkt with dst := t.parent, ext := reduceExt c.tree.toNat c.contrib t.root, fwd := c.pkt.fwd } t.root false c.from_

/-- ADDR as combining compares it: GEN ignored unless FWD = 1. -/
def combAddr (p : Packet) : Nat := if p.ttype = 9 ∧ !p.fwd then p.addr.toNat % 2 ^ 56 else p.addr.toNat

def combMatch (a b : Combined) : Bool :=
  a.tree == b.tree && a.pkt.ttype == b.pkt.ttype && a.pkt.fwd == b.pkt.fwd && combAddr a.pkt == combAddr b.pkt &&
  a.pkt.len == b.pkt.len && decide (a.contrib + b.contrib ≤ 255)

def combSum (a b : Combined) : Combined :=
  { a with pkt := { a.pkt with data := sumPayload a.pkt.data b.pkt.data, poison := a.pkt.poison || b.pkt.poison }
           contrib := a.contrib + b.contrib, from_ := a.from_ ++ b.from_ }

/-- A packet enters the combining buffer of a vertex: what it becomes if it must leave at once, and the state (R283). -/
def combEnter (s : State) (t : Tree) (c : Combined) : State × Option Combined :=
  match findIdx? (combMatch c) s.fab.comb 0 with
  | some i =>
    let n := combSum (s.fab.comb.getD i {}) c
    let s := { s with fab := { s.fab with combined := s.fab.combined + 1 } }
    if t.expect.toNat ≤ n.contrib then ({ s with fab := { s.fab with comb := s.fab.comb.eraseIdx i } }, some n)
    else ({ s with fab := { s.fab with comb := s.fab.comb.set i n } }, none)
  | none =>
    if decide (t.expect.toNat ≤ c.contrib) || decide (4096 ≤ s.fab.comb.length) then (s, some c)
    else ({ s with fab := { s.fab with comb := s.fab.comb ++ [c] } }, none)

/-- Send a reduce packet for a glove and a node (R282): into the tree that this member holds for them, or straight to the node. -/
def issueReduce (s : State) (p : Packet) (root : BitVec 17) (contrib : Nat) (from_ : List Contributor) : State :=
  match findTree s p.gid root with
  | none => sendReduce s { p with dst := root, ext := reduceExt 0 contrib root } root false from_
  | some (n, t) =>
    let r := combEnter s t { tree := BitVec.ofNat 7 n, pkt := { p with ext := reduceExt n contrib root }, contrib := contrib, from_ := from_ }
    match r.2 with
    | none => r.1
    | some c => releaseUp r.1 c t

end Sys2Proof.Machine
end

