-- ==== Sys2Proof/Machine/Host.lean ====
section
/-!
DEFINITION. What command processors do by virtual address: translation of an address (R210 to R217), ring writes in their
order (R201, R233), completions, context faults (R188), and the end of every command.
-/
namespace Sys2Proof.Machine

/-! ### MSI-X and the fabric's send side -/

def msixDword (s : State) (k : Nat) : Word := Tbl.get 0 s.cfg.msix k

/-- Send a context's MSI-X, or set its PBA bit while masked; nothing while the host is lost (R390, R205). -/
def sendMsix (s : State) (v : BitVec 11) : State :=
  if s.host.lost then s
  else if bit (msixDword s (4 * v.toNat + 3)) 0 then emit s (.msix v)
  else { s with cfg := { s.cfg with pba := Tbl.set false s.cfg.pba v.toNat true } }

/-! ### Places a virtual address names -/

/-- The four places of the chapter "Address translation", or why there is none. -/
inductive Place where
  | mem (part : BitVec 4) (hbm : Bool) (addr : Nat)
  | window (node : BitVec 17) (win : BitVec 12) (wgen : Byte) (off : Nat) (legacy : Bool)
  | host (addr : Dword)
  | peer (addr : Dword)
  | fault (cause : Byte) (detail : Dword)
  | miss
  /-- The host is needed and lost (R205). -/
  | lost
  deriving DecidableEq, Repr

/-- Kind of an access (R212). -/
inductive Acc where
  | rd | wr | atomic | red
  deriving DecidableEq, Repr

def segBase (g : Segment) : Dword := g.w0 &&& ~~~0xFFF
def segSize (g : Segment) : Dword := g.w1 &&& ~~~0xFFF

/-- The segment that matches (R211). -/
def segHit (c : Context) (va : Dword) : Option Segment :=
  c.segs.find? fun g => bit g.w0 3 && decide ((va - segBase g).toNat < (segSize g).toNat)

/-- Whether a segment grants an access. -/
def segRight (g : Segment) : Acc → Bool
  | .rd => bit g.w0 4
  | .wr => bit g.w0 5
  | .atomic => bit g.w0 6
  | .red => bit g.w0 7

/-- The partition whose slice an object lies in. -/
def objPart (s : State) (o : MemObj) : BitVec 4 :=
  match getCtx s o.owner with
  | some c => c.part
  | none => 0

def objInst (s : State) (o : MemObj) : Byte :=
  match getCtx s o.owner with
  | some c => c.inst
  | none => 0

/-- Size of one aperture slot (R230). -/
def slotSize (s : State) : Nat := max 0x200000 (2 ^ s.cfg.bar4Log.toNat / 256)

/-- Slice memory behind a BAR4 offset (R230); `none` is Unsupported Request. -/
def apertureAt (s : State) (off n : Nat) : Option (MemObj × Nat) :=
  let a := Tbl.get {} s.apertures (off / slotSize s)
  if !a.valid || decide (256 ≤ off / slotSize s) then none
  else match getObj s a.obj with
    | none => none
    | some o =>
      let d := a.offset.toNat + off % slotSize s
      if o.cuffed || decide (o.size.toNat < d + n) || !memRange s (objPart s o) o.hbm (o.base.toNat + d) n then none
      else some (o, o.base.toNat + d)

def inRange (a base size : Dword) : Bool := decide ((a - base).toNat < size.toNat)

/-- The translation cache entry that maps a virtual address (R214, R224). -/
def atcHit (s : State) (c : Context) (va : Dword) : Option AtcEntry :=
  s.atc.find? fun e => e.inst == c.inst && e.pasid == c.pasid &&
    decide ((va - e.va).toNat < (if e.big then 0x200000 else 0x1000))

/-- Whether an address is translated through the cache: no segment matches, or a shared one. -/
def viaCache (c : Context) (va : Dword) : Bool :=
  match segHit c va with
  | some g => decide (3 ≤ fld g.w0 2 0)
  | none => true

/-- A hit makes its entry the most recently used one (R214): the list is in order of use. -/
def touchAtc (s : State) (c : Context) (va : Dword) : State :=
  if !viaCache c va then s
  else match atcHit s c va with
    | none => s
    | some e => if s.atc.head? = some e then s else { s with atc := e :: s.atc.erase e }

/-- The cached generation of a node's legacy window (R274). -/
def legacyWgen (s : State) (node : BitVec 17) : Option Byte := (s.legacyGen.find? fun e => e.1 == node).map (·.2)

/-- Ask a node for the generation of its legacy window. -/
def queryWgen (s : State) (node : BitVec 17) : State :=
  sendPacket s { ttype := 0x0E, dst := node, ext := 3, data := leBytes 2 4095 ++ [0], len := 3, vc := 0 }

/-- Classify a bus address (R215) and the legacy remote form (R228). -/
def classify (s : State) (c : Context) (a : Dword) (n : Nat) : Place :=
  if c.walk && bit (c.walkFmt.getD 0 0) 4 && bit a 62 then
    if 2 ^ 44 < fld a 45 0 + max n 1 then .fault 0x0E 0
    else match legacyWgen s (BitVec.ofNat 17 (fld a 61 46)) with
      | some g => .window (BitVec.ofNat 17 (fld a 61 46)) 4095 g (fld a 45 0) true
      | none => .miss
  else if inRange a s.cfg.bar4 (BitVec.ofNat 64 (2 ^ s.cfg.bar4Log.toNat)) then
    match apertureAt s (a - s.cfg.bar4).toNat n with
    | none => .fault 0x02 0
    | some (o, x) => if objInst s o = c.inst then .mem (objPart s o) o.hbm x else .fault 0x01 0
  else if inRange a s.cfg.bar0 0x2000000 || inRange a s.cfg.bar2 0x1000000 then .fault 0x0D a
  else .host a

/-- Where an access of `n` bytes at a virtual address of a context goes (R210 to R216). -/
def resolve (s : State) (c : Context) (va : Dword) (acc : Acc) (n : Nat) : Place :=
  match segHit c va with
  | some g =>
    if !segRight g acc then .fault 0x01 0
    else
      let off := g.w3.toNat + (va - segBase g).toNat
      match fld g.w0 2 0 with
      | 0 => match getObj s (BitVec.ofNat 16 (fld g.w2 15 0)) with
        | none => .fault 0x03 0
        | some o =>
          if o.cuffed then .fault 0x03 0
          else if decide (o.size.toNat < off + n) || !memRange s c.part o.hbm (o.base.toNat + off) n then .fault 0x02 0
          else .mem c.part o.hbm (o.base.toNat + off)
      | 1 => if 2 ^ 44 < off + max n 1 then .fault 0x02 0
        else .window (BitVec.ofNat 17 (fld g.w2 16 0)) (BitVec.ofNat 12 (fld g.w2 28 17)) (BitVec.ofNat 8 (fld g.w2 36 29)) off false
      | 2 =>
        let p := Tbl.get {} s.peers (fld g.w2 3 0)
        if !p.valid || decide (p.size.toNat < off + n) then .fault 0x02 0
        else if s.host.lost then .lost else .peer (p.base + BitVec.ofNat 64 off)
      | _ => if s.host.lost then .lost else shared
  | none => if acc = .red then .fault 0x01 0 else if s.host.lost then .lost else shared
where
  /-- Shared translation through the cache (R214, R215). -/
  shared : Place :=
    match atcHit s c va with
    | none => .miss
    | some e =>
      if (acc = .rd && e.rd) || (acc ≠ .rd && e.wr) then classify s c (e.addr + (va - e.va)) n
      else .miss

/-! ### Items, their class and request deadline -/

def Queue.item (q : Queue) (seq : Word) : Option Item := q.items.find? fun i => i.seq == seq

def getItem (s : State) (x : ItemRef) : Option Item :=
  match getQueue s x.ctx x.qid with
  | none => none
  | some q => q.item x.seq

/-- Replace an item of a queue. -/
def setItem (s : State) (x : ItemRef) (i : Item) : State :=
  match getQueue s x.ctx x.qid with
  | none => s
  | some q => setQueue s { q with items := q.items.map fun j => if j.seq == x.seq then i else j }

def updRun (s : State) (x : ItemRef) (f : ItemRun → ItemRun) : State :=
  match getItem s x with
  | none => s
  | some i => setItem s x { i with run := f i.run }

def itemOpc (i : Item) : Nat := fld (i.words.getD 0 0) 7 0

/-- Word `n` of an item. -/
def iw (i : Item) (n : Nat) : Dword := i.words.getD n 0

/-- The class in which an item runs: true is LC (R290). -/
def itemLc (q : Queue) (i : Item) : Bool := match fld (iw i 0) 13 12 with | 0 => q.lc | 1 => true | _ => false

/-- The class of a started item. -/
def classOf (s : State) (x : ItemRef) : Bool :=
  match getQueue s x.ctx x.qid, getItem s x with
  | some q, some i => itemLc q i
  | _, _ => false

/-- DL in force for an item, µs: its own deadline word, else its queue's DEFAULT_DL; LC items only (R299). -/
def itemDl (q : Queue) (i : Item) : Nat :=
  let own := match itemOpc i with | 0x11 => fld (iw i 6) 31 0 | 0x12 => fld (iw i 10) 31 0 | _ => 0
  if !itemLc q i then 0 else if own ≠ 0 then own else fld q.sched 55 32

/-- The request deadline of a transaction of an item, in 64 ns units of the module reference (R307). -/
def requestDue (s : State) (p t : Nat) (x : ItemRef) : Nat :=
  match getQueue s x.ctx x.qid, getItem s x with
  | some q, some i =>
    if itemLc q i && itemDl q i != 0 then min ((i.accepted + 1000 * itemDl q i) / 64) (reqUnits s + 32767)
    else slackDue s p t (itemLc q i)
  | _, _ => slackDue s p t false

/-- The class of a TLP or packet of a context that no item names (a ring write, a cookie, a translation for one): LC where the context has an
LC queue (DESIGN CHOICE, log 156). -/
def ctxLc (s : State) (id : BitVec 16) : Bool :=
  s.queues.any fun e => match e.2 with | some q => q.ctx == id && q.lc | none => false

/-- A posted TLP for a context (R306). -/
def ctxTlp (s : State) (c : Context) (n : Nat) : State :=
  regPosted s c.part.toNat 2 (ctxLc s c.id) (slackDue s c.part.toNat 2 (ctxLc s c.id)) n

/-- A packet of a core's transfer is one of its kernel's item (R306). -/
def kernelSender (s : State) (p : Nat) (v : BitVec 16) (tile : BitVec 3) (row : BitVec 7) : Contributor :=
  let part := (getBinding s p).part
  match (getCore s p).kernel with
  | some k => .local p v tile row (!k.be) part (requestDue s part.toNat 1 k.x)
  | none => .local p v tile row false part (slackDue s part.toNat 1 false)

/-- Send one packet for a contributor: its regulator counts it until the contributor is told (R306). -/
def regSend (s : State) (c : Contributor) : State × Prio :=
  match c with
  | .local _ _ _ _ lc part due => (regIssue s part.toNat 1 lc, { band := reqBand s part.toNat 1 lc, due := BitVec.ofNat 16 due })
  | .packet .. => (s, plainPrio s)

/-- Send one packet for several. -/
def regSendAll (s : State) (l : List Contributor) : State × Option Prio :=
  l.foldl (fun r c => let t := regSend r.1 c; (t.1, some (r.2.getD t.2))) (s, none)

/-- A contributor is told: the packet has completed. -/
def regTold (s : State) (c : Contributor) : State :=
  match c with
  | .local _ _ _ _ lc part due => regDone s part.toNat 1 lc due
  | .packet .. => s

/-! ### Starting a translation (R216, R217, R220) -/

def walkLo (f : List Dword) (j : Nat) : Nat := fld (f.getD 1 0) (6 * j + 5) (6 * j)
def walkW (f : List Dword) (j : Nat) : Nat := fld (f.getD 1 0) (33 + 4 * j) (30 + 4 * j)
def walkLevels (f : List Dword) : Nat := fld (f.getD 0 0) 2 0
def walkEsize (f : List Dword) : Nat := if bit (f.getD 0 0) 3 then 8 else 4
def walkRoot (f : List Dword) : Dword := f.getD 0 0 &&& ~~~0xFFF

/-- Raise a cause against a context; it is taken before the command ends. -/
def raise (s : State) (f : FaultReq) : State := { s with faults := s.faults ++ [f] }

/-- A cause of class 0x4 (R236). -/
def raiseXlat (s : State) (ctx : BitVec 16) (cause : Byte) (va detail : Dword) (x : Option ItemRef := none) : State :=
  let q : BitVec 4 := match x with | some x => x.qid | none => 0
  let n : Word := match x with | some x => x.seq | none => 0
  raise s { ctx := ctx, qid := q, seq := n, cls := 4, cause := cause, addr := va, detail := detail }

/-- A walk fetch address that is never issued (R219). -/
def guarded (s : State) (ea : Dword) : Bool :=
  inRange ea s.cfg.bar0 0x2000000 || inRange ea s.cfg.bar2 0x1000000 ||
  inRange ea s.cfg.bar4 (BitVec.ofNat 64 (2 ^ s.cfg.bar4Log.toNat)) ||
  (s.peers.any fun p => p.2.valid && inRange ea p.2.base p.2.size) ||
  (s.guards.any fun g => inRange ea g.2.1 g.2.2)

/-- Address of the entry of level `j` (R217). -/
def walkEa (f : List Dword) (j : Nat) (table va : Dword) : Dword :=
  table + BitVec.ofNat 64 (va.toNat / 2 ^ walkLo f j % 2 ^ walkW f j * walkEsize f)

/-- The address bits of an entry. -/
def walkAddr (f : List Dword) (e : Dword) : Dword :=
  let lo := fld (f.getD 2 0) 29 24
  let hi := fld (f.getD 2 0) 35 30
  if hi < lo then 0 else BitVec.ofNat 64 (fld e hi lo * 2 ^ lo)

def walkHit (s : State) (c : Context) (ea : Dword) : Option WalkEntry :=
  s.walks.find? fun w => w.inst == c.inst && w.pasid == c.pasid && w.ea == ea

/-- A translation is under way: its TLP is outstanding (R306). -/
def addXlate (s : State) (x : Xlate) : State := { regIssue s x.part.toNat 2 x.lc with xlates := s.xlates ++ [x] }

/-- Translations are over. -/
def dropXlates (s : State) (gone : Xlate → Bool) : State :=
  (s.xlates.filter gone).foldl (fun s x => regDone s x.part.toNat 2 x.lc x.due) { s with xlates := s.xlates.filter fun x => !gone x }

/-- Go on with a walk at a level: levels in the walk cache are passed, the next fetch is issued, or the walk faults (R217 to R219). -/
def walkGo : Nat → State → Context → Xlate → Dword → State
  | 0, s, _, _, _ => s
  | fuel + 1, s, c, x, table =>
    let ea := walkEa c.walkFmt x.level table x.va
    if guarded s ea then raiseXlat s c.id 0x07 x.va ea
    else match walkHit s c ea with
      | some w => walkGo fuel s c { x with level := x.level + 1 } (walkAddr c.walkFmt w.entry)
      | none => emit (addXlate s { x with ea := ea }) (.walkRead x.tag ea (walkEsize c.walkFmt))

/-- Accesses held, of the 512 that may be (R221). -/
def heldCount (s : State) : Nat := ((s.pageReqs.filter fun r => !r.withdrawn).map fun r => r.holders.length).sum

/-- Make a page request for accesses that are to be held, or join one for the same page (R220); with 512 held they wait for a free hold. -/
def pageRequest (s : State) (c : Context) (va : Dword) (write : Bool) (who : List (Option ItemRef)) : State :=
  let page := va &&& ~~~0xFFF
  let room := 512 - heldCount s
  let same (r : PageReq) : Bool := r.ctx == c.id && r.va == page && !r.withdrawn
  if s.pageReqs.any same then
    { s with pageReqs := s.pageReqs.map fun r =>
        if same r then { r with holders := r.holders ++ (who.filter fun w => !r.holders.contains w).take room, write := r.write || write } else r }
  else if room = 0 then s
  else
    let native := c.walk && bit (c.walkFmt.getD 0 0) 5
    let id := BitVec.ofNat 16 s.serial
    let r : PageReq := { id := id, ctx := c.id, va := page, write := write, native := native, holders := who.take room }
    let s := { s with serial := s.serial + 1, pageReqs := s.pageReqs ++ [r] }
    if native then s else emit (ctxTlp s c 1) (.pageRequest id c.pasid page write)

/-- Translate a page for the accesses that wait: an ATS request or a walk from the top (R216, R217). -/
def issueXlate (s : State) (c : Context) (va : Dword) (write retry : Bool) (who : List (Option ItemRef)) : State :=
  let tag := s.serial
  let s := { s with serial := s.serial + 1 }
  let lc := match who with | some x :: _ => classOf s x | _ => ctxLc s c.id
  let x : Xlate := { tag := tag, ctx := c.id, va := va, write := write, walk := c.walk, retry := retry, holders := who, lc := lc, part := c.part
                     due := match who with | some y :: _ => requestDue s c.part.toNat 2 y | _ => slackDue s c.part.toNat 2 lc }
  if c.walk then
    if va.toNat / 2 ^ (walkLo c.walkFmt 0 + walkW c.walkFmt 0) ≠ 0 then raiseXlat s c.id 0x04 va 0
    else walkGo 6 s c x (walkRoot c.walkFmt)
  else emit (addXlate s x) (.atsRequest tag c.pasid (va &&& ~~~0xFFF) write)

/-- Non-posted requests outstanding on the host link (R231). -/
def nonPosted (s : State) : Nat := (s.hostReads.filter (·.sent)).length + s.xlates.length

/-- A read or AtomicOp goes out on the host link. -/
def sendHost (s : State) (r : HostRead) : State :=
  emit { s with hostReads := s.hostReads.map fun q => if q.tag = r.tag then { q with sent := true } else q }
    (if r.cas then .hostAtomic r.tag r.addr r.dst r.value else .hostRead r.tag r.addr r.bytes)

/-- The host request queue (R308): its requests go out, as the arbiter orders them, while fewer than 1,024 are outstanding. -/
def pumpHost : Nat → State → State
  | 0, s => s
  | fuel + 1, s =>
    let waits := s.hostReads.filter fun r => !r.sent
    let l := waits.zipIdx.map fun e => (e.2, ({ band := e.1.band, due := BitVec.ofNat 16 e.1.due } : Prio))
    if 1024 ≤ nonPosted s then s
    else match arbPick (reqNow s) s.host.low l with
      | none => s
      | some i => match waits[i]? with
        | none => s
        | some r =>
          pumpHost fuel (sendHost { s with host := { s.host with low := lowAfter s.host.low { band := r.band, due := BitVec.ofNat 16 r.due } l } } r)

/-- A request joins the host request queue, counted by its regulator in the band of its issue (R306, R307). -/
def hostRequest (s : State) (r : HostRead) : State :=
  let p := r.part.toNat
  let r := { r with tag := s.serial, sent := false, band := reqBand s p 2 r.lc }
  pumpHost 1 (regIssue { s with serial := s.serial + 1, hostReads := s.hostReads ++ [r] } p 2 r.lc)

/-- Start the translation of a page for an access, unless one is in flight (R216, R217). At most 64 run at once (Table 9.4). -/
def startXlate (s : State) (c : Context) (va : Dword) (write : Bool) (who : Option ItemRef) : State :=
  let page := va &&& ~~~0xFFF
  let same (x : Xlate) : Bool := x.ctx == c.id && x.va &&& ~~~0xFFF == page
  if s.xlates.any same then
    { s with xlates := s.xlates.map fun x => if same x && !x.holders.contains who then { x with holders := x.holders ++ [who] } else x }
  else if s.pageReqs.any fun r => r.ctx == c.id && r.va == page && !r.withdrawn then pageRequest s c va write [who]
  else if 64 ≤ s.xlates.length ∨ 1024 ≤ nonPosted s then s
  else match atcHit s c va with
  | some e =>
    let a := e.addr + (va - e.va)
    if c.walk && bit (c.walkFmt.getD 0 0) 4 && bit a 62 && (if write then e.wr else e.rd) then
      queryWgen s (BitVec.ofNat 17 (fld a 61 46))
    else pageRequest s c va write [who]
  | none => issueXlate s c va write false [who]

/-! ### Window requests (R274) -/

/-- ADDR of a window request (Table 11.2). -/
def windowAddr (wgen : Byte) (win : BitVec 12) (off : Nat) : Dword :=
  BitVec.ofNat 64 (wgen.toNat * 2 ^ 56 + win.toNat * 2 ^ 44 + off)

/-- Split bytes into chunks of 192 (R274). -/
def chunks192 : Nat → List Byte → List (List Byte)
  | 0, _ => []
  | n + 1, l => if l = [] then [] else l.take 192 :: chunks192 n (l.drop 192)

/-- WRITE packets of at most 192 bytes to a window (R274), each counted by its regulator (R306). `r` names the requester of each. -/
def windowWrite (s : State) (r : WinReq) (wgen : Byte) (off : Nat) (gid : BitVec 24) (data : List Byte) (flags : List Bool) : State :=
  ((chunks192 (data.length / 192 + 1) data).zipIdx).foldl (fun s c =>
    let tag := BitVec.ofNat 16 s.serial
    let band := reqBand s r.part.toNat 1 r.lc
    let s := regIssue { s with serial := s.serial + 1, winReqs := s.winReqs ++ [{ r with tag := tag, bytes := c.1.length, band := band }] } r.part.toNat 1 r.lc
    sendPacket s { prio := some { band := band, due := BitVec.ofNat 16 r.due }, ttype := 3, dst := r.node, tag := tag, gid := if r.legacy then 0xFFFFFF else gid, len := BitVec.ofNat 13 c.1.length,
                   addr := windowAddr wgen r.window (off + 192 * c.2), data := c.1, poison := ((flags.drop (192 * c.2)).take 192).any id, legacy := r.legacy, vc := 1 }) s

/-- Request a forced point of every kernel of a context. -/
def pointKernels (s : State) (id : BitVec 16) (p : PointReq) : State :=
  { s with cores := s.cores.map fun e =>
      match e.2.kernel with
      | some k => if k.x.ctx == id then (e.1, { e.2 with point := p, forced := true }) else e
      | none => e }

/-- Evict a context: its queue, fault and translation states go to the save area (R187), 16 KiB whose layout the specification gives nowhere (log
33). Context 0 has none (R372). -/
def evict (s : State) (c : Context) : State :=
  let t := setCtx s { c with slot := 0, saved := c.saved || c.slot != 0 }
  if c.id = 0 ∨ c.slot = 0 then t
  else if !hbmRange (getSlice s c.part) c.saveAddr.toNat 16384 then
    raise t { ctx := c.id, cls := 6, cause := 0x06, addr := c.saveAddr.setWidth 64 }
  else
    devWrite { t with free := t.free + 1 } c.part true c.saveAddr.toNat ((List.range 16384).map (Config.saveByte t.free)) false c.id.toNat

/-- Withdraw the held accesses of a context into its save area (R221). -/
def withdrawHolds (s : State) (id : BitVec 16) : State :=
  { s with pageReqs := s.pageReqs.map fun r => if r.ctx = id then { r with withdrawn := true } else r }

/-- Park a context that needs the lost host: its kernels stop at forced points and it is evicted (R205). A faulted context
only keeps its records. -/
def parkCtx (s : State) (c : Context) : State :=
  if c.state = .running && !c.faulted then
    withdrawHolds (dropXlates (pointKernels (evict s { c with state := .parked }) c.id .park) fun x => x.ctx == c.id) c.id
  else s

/-! ### Ring writes -/

/-- Posted writes carry at most 512 bytes each (Table 9.8). -/
def tlpsOf (n : Nat) : Nat := (n + 511) / 512

/-- Posted writes of a range on the host link. -/
def hostWrites (s : State) (a : Dword) (data : List Byte) : State :=
  (List.range (tlpsOf data.length)).foldl (fun s k => emit s (.hostWrite (a + BitVec.ofNat 64 (512 * k)) ((data.drop (512 * k)).take 512))) s

/-- What an attempt at a write did. -/
inductive Attempt where
  | done (s : State)
  | hold (s : State)
  | fail (s : State)

/-- Try to write bytes at a virtual address of a context. A context that needs a lost host is parked (R205). -/
def tryWrite (s : State) (c : Context) (va : Dword) (data : List Byte) : Attempt :=
  let s := touchAtc s c va
  match resolve s c va .wr data.length with
  | .mem part hbm a => .done (devWrite s part hbm a data false c.id.toNat)
  | .window node win wgen off legacy =>
    let lc := ctxLc s c.id
    .done (windowWrite s { ctx := c.id, x := ⟨c.id, 0, 0⟩, node := node, window := win, use := .ring, legacy := legacy, va := va, lc := lc
                           part := c.part, due := slackDue s c.part.toNat 1 lc }
      wgen off c.gid data [])
  | .host a | .peer a => .done (hostWrites (ctxTlp s c (tlpsOf data.length)) a data)
  | .miss => .hold (startXlate s c va true none)
  | .lost => .hold (parkCtx s c)
  | .fault _ _ => .fail s

/-- Write to a ring behind every earlier ring write of the context (R233). A write that fails faults the context with
RECORD_WRITE, except a fault record for the same context (R202). -/
def ringWrite (s : State) (id : BitVec 16) (va : Dword) (data : List Byte) (faultRecord : Bool) : State :=
  match getCtx s id with
  | none => s
  | some c =>
    if s.posts.any fun p => p.1 == id then { s with posts := s.posts ++ [(id, .write va data faultRecord)] }
    else match tryWrite s c va data with
      | .done s => s
      | .hold s => { s with posts := s.posts ++ [(id, .write va data faultRecord)] }
      | .fail s => if faultRecord then s else raise s { ctx := id, cls := 6, cause := 5, addr := va }

/-- Send a context's MSI-X behind its earlier ring writes. -/
def ringMsix (s : State) (id : BitVec 16) : State :=
  match getCtx s id with
  | none => s
  | some c =>
    if s.posts.any fun p => p.1 == id then { s with posts := s.posts ++ [(id, .msix c.msix)] }
    else sendMsix (ctxTlp s c 1) c.msix

/-- Send what waits, in order, as far as translations allow; `blocked` contexts wait behind their first held write. -/
def flushPostsAux : List (BitVec 16 × Post) → List (BitVec 16) → State → State
  | [], _, s => s
  | (id, p) :: l, blocked, s =>
    if blocked.contains id then flushPostsAux l blocked { s with posts := s.posts ++ [(id, p)] }
    else match getCtx s id, p with
      | none, _ => flushPostsAux l blocked s
      | some c, .msix v => flushPostsAux l blocked (sendMsix (ctxTlp s c 1) v)
      | some c, .write va d fr =>
        match tryWrite s c va d with
        | .done s => flushPostsAux l blocked s
        | .hold s => flushPostsAux l (id :: blocked) { s with posts := s.posts ++ [(id, p)] }
        | .fail s => flushPostsAux l blocked (if fr then s else raise s { ctx := id, cls := 6, cause := 5, addr := va })

def flushPosts (s : State) : State := flushPostsAux s.posts [] { s with posts := [] }

/-- What a read that its reader acts on does to the context (R132, R156): POISON_CONSUMED or a protected-read fault, none where it is good. -/
def consumeCause (s : State) (part : BitVec 4) (hbm : Bool) (a n : Nat) : Option Byte :=
  if devProtected s part hbm a n then some 0x02 else if (devRead s part hbm a n).2 then some 0x01 else none

/-- The consumer's index of a ring, at `base + 8`: slice memory is read, and what is read there is consumed; host memory holds whatever the
host wrote. -/
def ringRidx (s : State) (c : Context) (base : Dword) : State × Dword :=
  match resolve s c (base + 8) .rd 8 with
  | .mem part hbm a =>
    let t := devReadLog s part hbm a 8 c.id.toNat
    (match consumeCause s part hbm a 8 with
      | some k => raise t { ctx := c.id, cls := 5, cause := k, addr := base + 8 }
      | none => t,
      BitVec.ofNat 64 (leNat (devRead s part hbm a 8).1))
  | _ => ({ s with free := s.free + 1 }, Config.hostWord s.free)

/-- Whether a ring of `size` entries is full at write count `w`. -/
def ringFull (w size : Nat) (r : Dword) : Bool := decide (size ≤ (BitVec.ofNat 64 w - r).toNat)

/-- Post a cookie: entry, WIDX, MSI-X, in that order (R201, R202). -/
def postCookie (s : State) (id : BitVec 16) (cookie : Word) (qid : BitVec 4) (kind : Nat) : State :=
  match getCtx s id with
  | none => s
  | some c =>
    let size := 2 ^ (6 + c.cookieLog.toNat)
    let (s, r) := ringRidx s c c.cookieBase
    if ringFull c.cookieW size r then
      let s := setCtx s { c with cookieDropped := c.cookieDropped + 1 }
      ringMsix (ringWrite s id (c.cookieBase + 0x10) (leBytes 8 (c.cookieDropped + 1)) false) id
    else
      let s := setCtx s { c with cookieW := c.cookieW + 1 }
      let e := cookie.toNat + qid.toNat * 2 ^ 32 + kind * 2 ^ 36
      let s := ringWrite s id (c.cookieBase + BitVec.ofNat 64 (0x40 + 8 * (c.cookieW % size))) (leBytes 8 e) false
      let s := ringWrite s id c.cookieBase (leBytes 8 (c.cookieW + 1)) false
      ringMsix s id

/-- Write a fault record to a context's fault ring (R188, R202). -/
def postFaultRecord (s : State) (id : BitVec 16) (rec : List Dword) (own : Bool) : State :=
  match getCtx s id with
  | none => s
  | some c =>
    let size := 2 ^ (4 + c.faultLog.toNat)
    let (s, r) := ringRidx s c c.faultBase
    if ringFull c.faultW size r then
      ringWrite (setCtx s { c with faultDropped := c.faultDropped + 1 }) id (c.faultBase + 0x10)
        (leBytes 8 (c.faultDropped + 1)) own
    else
      let s := setCtx s { c with faultW := c.faultW + 1 }
      let s := ringWrite s id (c.faultBase + BitVec.ofNat 64 (0x40 + 64 * (c.faultW % size))) (dwordBytes rec) own
      ringWrite s id c.faultBase (leBytes 8 (c.faultW + 1)) own

/-! ### Completion of items (R199, R201) -/

/-- Privileged items of every chapter (R167, R198, R235, R287, R310, R330, R353, R367, R398). -/
def itemPrivileged (opc : Nat) : Bool :=
  (decide (0x13 ≤ opc) && decide (opc ≤ 0x16)) || (decide (0x18 ≤ opc) && decide (opc ≤ 0x1D)) ||
  (decide (0x20 ≤ opc) && decide (opc ≤ 0x28)) || (decide (0x40 ≤ opc) && decide (opc ≤ 0x4A) && opc != 0x43) ||
  (decide (0x50 ≤ opc) && decide (opc ≤ 0x57) && opc != 0x56) || opc == 0x58 || opc == 0x59 || opc == 0x5B ||
  (decide (0x60 ≤ opc) && decide (opc ≤ 0x6B) && opc != 0x6A) || opc == 0x70 || opc == 0x73 || opc == 0x74 ||
  (decide (0x78 ≤ opc) && decide (opc ≤ 0x7D))

def itemGlove (opc : Nat) : Bool := decide (0x60 ≤ opc) && decide (opc ≤ 0x6C)

/-- Items whose RTP check is that the issuing context is served by a slice of the glove (R167). -/
def itemServed (opc : Nat) : Bool := opc == 0x6A || opc == 0x6C

/-- Items that always act as WAIT = 1 (R196): privileged items and the glove items. -/
def itemSerial (opc : Nat) : Bool := itemPrivileged opc || itemGlove opc

/-- A time as it is shown to a context: a tenant sees bits 9:0 clear (R366). -/
def timeFor (s : State) (id : BitVec 16) : Dword :=
  match getCtx s id with
  | some c => if c.manager then s.time else s.time &&& ~~~0x3FF
  | none => s.time

/-- The completion record (Table 8.12). -/
def completionRecord (time : Dword) (seq : Word) (opc status : Nat) (r : ItemRun) (phase : Bool) : List Dword :=
  [BitVec.ofNat 64 (seq.toNat + opc * 2 ^ 32 + status * 2 ^ 40 + r.flags.toNat * 2 ^ 48), r.result,
   BitVec.ofNat 64 ((if r.fallback then 1 else 0) + (if r.gpIndex then 2 else 0) + (if r.poison then 4 else 0) +
     r.normal * 2 ^ 16),
   BitVec.ofNat 64 (time.toNat % 2 ^ 63 + (if phase then 2 ^ 63 else 0))]

/-- RESULT of DISPATCH_DL and MIXED_STEP (R301): µs, begun ones included, by which the deadline has passed, and PREDICTED. -/
def deadlineResult (s : State) (x : ItemRef) : Dword :=
  match s.sched.monitors.find? fun m => m.x == x with
  | none => 0
  | some m =>
    let late := (s.refNs - (m.accepted + 1000 * m.dl) + 999) / 1000
    BitVec.ofNat 64 (min late (2 ^ 32 - 1) + if m.predicted then 2 ^ 32 else 0)

/-- Complete an item: record, then its cookie if NOTIFY, then the MSI-X (R201). -/
def completeItem (s : State) (x : ItemRef) (status : Nat) : State :=
  match getQueue s x.ctx x.qid with
  | none => s
  | some q =>
    match q.item x.seq with
    | none => s
    | some i =>
      let size := 2 ^ (4 + q.cplLog.toNat)
      let run := if itemOpc i = 0x11 ∨ itemOpc i = 0x12 then { i.run with result := deadlineResult s x } else i.run
      let rec_ := completionRecord (timeFor s x.ctx) i.seq (itemOpc i) status run (decide (q.cplW / size % 2 = 0))
      let q := { q with items := q.items.filter fun j => !(j.seq == x.seq)
                        cplW := q.cplW + 1
                        records := ((q.cplW, rec_) :: q.records).take 64 }
      let s := count (setQueue s q) 3 (queueKey x.ctx x.qid) 1
      let s := if i.run.hbmOut = 0 then s else match getCtx s x.ctx with
        | some c => regDoneN s c.part.toNat 0 (itemLc q i) i.run.hbmDue i.run.hbmOut
        | none => s
      let s := ringWrite s x.ctx (q.cplBase + BitVec.ofNat 64 (32 * ((q.cplW - 1) % size))) (dwordBytes rec_) false
      let s := { s with
        fenceWaits := s.fenceWaits.filter fun w => !(w.x == x)
        sched := { s.sched with waiting := s.sched.waiting.filter fun w => !(w.x == x)
                                monitors := s.sched.monitors.filter fun m => !(m.x == x) } }
      if bit (i.words.getD 0 0) 15 then postCookie s x.ctx i.seq x.qid 0 else s

/-- Complete with a result word. -/
def completeResult (s : State) (x : ItemRef) (status : Nat) (result : Dword) : State :=
  completeItem (updRun s x fun r => { r with result := result }) x status

/-- Data writes of an item that have not reached their ordering points: window writes without an answer, peer writes without the read behind them
(R233). -/
def writesOut (s : State) (x : ItemRef) : Bool :=
  (s.hostReads.any fun r => r.x == x && r.use == .fence) || s.winReqs.any fun r => r.x == x && (r.use == .write || r.use == .atomic)

/-- End an item: its record, a flag write, waits for its data writes (R233). The first cause stands. -/
def endItem (s : State) (x : ItemRef) (status : Nat) : State :=
  if writesOut s x then updRun s x fun r => { r with stop := some (r.stop.getD (BitVec.ofNat 8 status)) } else completeItem s x status

/-- The started items of a context. -/
def startedItems (s : State) (id : BitVec 16) : List ItemRef :=
  s.queues.flatMap fun e => match e.2 with
    | some q => if q.ctx == id then (q.items.filter (·.started)).map fun i => ⟨q.ctx, q.qid, i.seq⟩ else []
    | none => []

/-! ### Work and slots (R187, R295) -/

/-- Whether a context has work that calls for a slot (R187). -/
def wantsSlot (s : State) (c : Context) : Bool :=
  c.state == .running && c.slot == 0 &&
  s.queues.any fun e => match e.2 with | some q => q.ctx == c.id && (q.ridx != q.widx || q.items != []) | none => false

/-- An LC queue of a context has work. -/
def lcWork (s : State) (id : BitVec 16) : Bool :=
  s.queues.any fun e => match e.2 with | some q => q.ctx == id && q.lc && (q.ridx != q.widx || q.items != []) | none => false

/-- Whether a context's started items are suspended for the load of an LC context (R295): while one waits for its load, and while the context is
not resident. -/
def heldBack (s : State) (c : Context) : Bool :=
  c.yielding && (c.slot == 0 || s.ctxs.any fun e => match e.2 with | some d => wantsSlot s d && lcWork s d.id | none => false)

/-! ### Context faults (R188) -/

/-- The fault record (Table 8.2). -/
def faultRecord (time : Dword) (inst : Byte) (f : FaultReq) : List Dword :=
  [BitVec.ofNat 64 (f.ctx.toNat + f.qid.toNat * 2 ^ 16 + f.cls.toNat * 2 ^ 20 + f.cause.toNat * 2 ^ 24 + inst.toNat * 2 ^ 32 +
     (if f.levelF then 2 ^ 40 else 0)),
   BitVec.ofNat 64 (f.seq.toNat + f.vcore.toNat * 2 ^ 32 + f.pcore.toNat * 2 ^ 48), f.pc, f.addr, time, f.detail, 0, 0]

/-- Fault a context, once (R188). -/
def contextFault (s : State) (f : FaultReq) : State :=
  match getCtx s f.ctx with
  | none => s
  | some c =>
    if c.faulted || c.state = .closing then s
    else
      let started := startedItems s f.ctx
      let s := setCtx s { c with faulted := true, victim := f.victim }
      let s := { s with err := { s.err with esc := Tbl.upd 0 s.err.esc 1 (· + 1) } }
      let s := pointKernels s f.ctx .fault
      let s := { s with
        pageReqs := s.pageReqs.filter fun r => !(r.ctx == f.ctx)
        sched := { s.sched with suspended := s.sched.suspended.filter fun u =>
          match u.image.kernel with | some k => !(k.x.ctx == f.ctx) | none => true } }
      let s := started.foldl (fun s x => endItem s x 0x10) s
      let s := postFaultRecord s f.ctx (faultRecord (timeFor s f.ctx) c.inst f) true
      let s := logEvent s (srcQueue s f.ctx f.qid) 0x02 true (dwordBytes ((faultRecord s.time c.inst f).take 6))
      postCookie s f.ctx (if f.seq = 0 then 0 else f.seq) f.qid 2

/-- Wake the waits on fence words that a device path has raised (R200). A word that has become poisoned or protected is consumed (R132,
R156). -/
def wakeFences (s : State) : State :=
  s.fenceWaits.foldl (fun s w =>
    match getCtx s w.x.ctx with
    | none => s
    | some c =>
      match resolve s c w.va .rd 8 with
      | .mem part hbm a =>
        match consumeCause s part hbm a 8 with
        | some k =>
          raise (devReadLog s part hbm a 8 w.x.ctx.toNat) { ctx := w.x.ctx, qid := w.x.qid, seq := w.x.seq, cls := 5, cause := k, addr := w.va }
        | none => if w.value.toNat ≤ leNat (devRead s part hbm a 8).1 then completeItem s w.x 0x00 else s
      | _ => s) s

end Sys2Proof.Machine
end

