-- ==== Sys2Proof/Machine/Close.lean ====
section
/-!
DEFINITION. The last steps of teardown (R204, Table 8.14) and the reattach record (R206, Table 8.18).
-/
namespace Sys2Proof.Machine

/-! ### The reattach record -/

def raEntry (id type state inst owner : Nat) : Dword :=
  BitVec.ofNat 64 (id + type * 2 ^ 16 + state * 2 ^ 18 + inst * 2 ^ 22 + owner * 2 ^ 32)

/-- The entries: contexts, then objects, then what was torn down while parked; 248 at most. -/
def raEntries (s : State) : List Dword :=
  ((s.ctxs.filterMap fun e => match e.2 with
      | some c => if c.preserve then
          some (raEntry c.id.toNat 1 (if c.faulted then 3 else if c.state = .parked then 2 else 1) c.inst.toNat 0) else none
      | none => none) ++
    (s.objs.filterMap fun e => match e.2 with
      | some o => if o.preserve then some (raEntry o.obj.toNat 2 1 0 o.owner.toNat) else none
      | none => none) ++
    (s.host.raClosed.map fun e =>
      if e.2.1 then raEntry e.1.toNat 2 4 0 e.2.2.toNat else raEntry e.1.toNat 1 4 (e.2.2.toNat % 256) 0)).take 248

/-- Entries of PRESERVE contexts and objects in use (R186, R203). -/
def preserved (s : State) : Nat :=
  (s.ctxs.filter fun e => match e.2 with | some c => c.preserve | none => false).length +
    (s.objs.filter fun e => match e.2 with | some o => o.preserve | none => false).length

/-- Words 1 onward of the record. -/
def raBody (s : State) : List Dword :=
  let n (f : Context → Bool) : Nat := (s.ctxs.filter fun e => match e.2 with | some c => f c | none => false).length
  let es := raEntries s
  [s.host.lossTime,
   BitVec.ofNat 64 (s.host.attachId.toNat + s.host.epoch.toNat * 2 ^ 32 + s.host.cause.toNat * 2 ^ 48),
   BitVec.ofNat 64 (n (fun c => c.state == .parked) % 2 ^ 16 + s.host.faultedAtLoss.toNat * 2 ^ 16 +
     n (fun c => c.state != .parked && !c.faulted) % 2 ^ 16 * 2 ^ 32 + es.length * 2 ^ 48),
   0, 0, 0, 0] ++ es

/-- A word of the record. -/
def raWord (s : State) (i : Nat) : Dword :=
  if i = 0 then BitVec.ofNat 64 (0x5241 * 2 ^ 48 + 2 ^ 40 + (raEntries s).length * 2 ^ 32 + s.host.raGen.toNat)
  else (raBody s).getD (i - 1) 0

/-- GENERATION counts every change of the record. -/
def refreshRa (s : State) : State :=
  let b := raBody s
  if b = s.host.raLast then s else { s with host := { s.host with raLast := b, raGen := s.host.raGen + 1 } }

/-! ### Teardown, steps 4 to 6 -/

/-- Whether a context's queue belongs to what is torn down. -/
def Teardown.owns (t : Teardown) (ctx : BitVec 16) (qid : BitVec 4) : Bool :=
  if t.kind = 0 then ctx.toNat == t.id else if t.kind = 1 then queueKey ctx qid == t.id else false

/-- A kernel of it still holds a core. -/
def tdKernels (s : State) (t : Teardown) : Bool :=
  s.cores.any fun e => match e.2.kernel with | some k => t.owns k.x.ctx k.x.qid | none => false

/-- A host, fabric or translation request of it is outstanding. -/
def tdRequests (s : State) (t : Teardown) : Bool :=
  (s.hostReads.any fun r => t.owns r.x.ctx r.x.qid) ||
  (s.winReqs.any fun r => t.owns r.ctx r.x.qid && !(t.kind == 1 && r.use == .ring)) ||
  (t.kind == 0 && s.xlates.any fun x => x.ctx.toNat == t.id)

/-- The items of it that have not completed, started or not. -/
def tdItems (s : State) (t : Teardown) : List ItemRef :=
  s.queues.flatMap fun e => match e.2 with
    | some q => if t.owns q.ctx q.qid then q.items.map fun i => ⟨q.ctx, q.qid, i.seq⟩ else []
    | none => []

/-- An id that has closed: refused for 10 ms (R204). -/
def closedRecently (s : State) (kind : BitVec 2) (id : Nat) : Bool :=
  s.closed.any fun c => c.1 == kind && c.2.1 == id && decide (s.refNs < c.2.2 + 10000000)

def noteClosed (s : State) (kind : BitVec 2) (id : Nat) : State :=
  { s with closed := (kind, id, s.refNs) :: s.closed.filter fun c => !(c.1 == kind && c.2.1 == id) }

/-- Remove a memory object. -/
def removeObj (s : State) (o : MemObj) : State :=
  noteClosed { s with objs := Tbl.set none s.objs o.obj.toNat none } 2 o.obj.toNat

/-- The objects that a context owns. -/
def ownedObjs (s : State) (ctx : Nat) : List MemObj :=
  s.objs.filterMap fun e => match e.2 with | some o => if o.owner.toNat = ctx then some o else none | none => none

/-- Step 6 of a queue: its page and its settings are free. -/
def removeQueue (s : State) (key : Nat) : State :=
  { s with queues := Tbl.set none s.queues key none
           err := { s.err with itemMs := Tbl.set 0 s.err.itemMs key 0 } }

/-- Step 6 of a context: its slot, queues, objects and save area are free. -/
def removeCtx (s : State) (ctx : Nat) : State :=
  let tag := match Tbl.get none s.ctxs ctx with | some c => (c.inst, c.pasid) | none => (0, 0)
  let s := (ownedObjs s ctx).foldl removeObj s
  let s := (s.queues.filterMap fun e => if e.1 / 16 = ctx then some e.1 else none).foldl removeQueue s
  noteClosed { s with
    ctxs := Tbl.set none s.ctxs ctx none
    pageReqs := s.pageReqs.filter fun r => !(r.ctx.toNat == ctx)
    atc := s.atc.filter fun e => !(e.inst == tag.1 && e.pasid == tag.2)
    walks := s.walks.filter fun e => !(e.inst == tag.1 && e.pasid == tag.2)
    err := { s.err with waitMs := Tbl.set 0 s.err.waitMs ctx 0 } } 0 ctx

/-- The owner that is told of a close, with the value and QID of the KIND 3 cookie: of a queue its context, with the QID as the value; of an
object its owner, with the object's id and QID 0; of a context or a window nobody (DESIGN CHOICE, log 37). -/
def tdOwner (t : Teardown) : Option (BitVec 16 × Word × BitVec 4) :=
  if t.kind = 1 then some (BitVec.ofNat 16 (t.id / 16), BitVec.ofNat 32 (t.id % 16), BitVec.ofNat 4 t.id)
  else if t.kind = 0 then none
  else t.obj.map fun o => (o.owner, BitVec.ofNat 32 t.id, 0)

/-- KIND and ID of the teardown event: 1 context, 2 object, 3 queue, 4 window. -/
def tdEvent (t : Teardown) : List Byte :=
  let k := match t.kind.toNat with | 0 => 1 | 1 => 3 | 2 => 2 | _ => 4
  leBytes 1 k ++ leBytes 2 (if t.kind = 1 then t.id % 16 else t.id) ++ [if t.forced then 1 else 0]

def dropTeardown (s : State) (t : Teardown) : State :=
  { s with teardowns := s.teardowns.filter fun u => !(u.kind == t.kind && u.id == t.id && u.step == t.step) }

/-- Complete the close item: RESULT 1 if forced. -/
def tdComplete (s : State) (t : Teardown) : State :=
  match t.item with
  | some x => completeResult s x 0x00 (if t.forced then 1 else 0)
  | none => s

/-- Step 6. -/
def finishTeardown (s : State) (t : Teardown) : State :=
  let s := dropTeardown s t
  let s := if t.kind = 0 then removeCtx s t.id
    else if t.kind = 1 then removeQueue s t.id
    else if t.kind = 2 then (match t.obj with | some o => removeObj s o | none => s)
    else noteClosed { s with windows := Tbl.upd {} s.windows t.id fun w => { w with valid := false, closing := false } } 3 t.id
  let s := logEvent s srcRtp 0x11 false (tdEvent t)
  let s := match tdOwner t with
    | some (c, v, q) => (match getCtx s c with
        | some x => if x.state = .closing then s else postCookie s c v q 3
        | none => s)
    | none => s
  if t.zero then { s with teardowns := s.teardowns ++ [{ t with step := 7 }] } else tdComplete s t

/-- Steps 4 and 5 end as soon as they can. -/
def advanceTeardown (s : State) (t : Teardown) : State :=
  if t.step = 4 then
    if tdKernels s t || tdRequests s t then s
    else
      let s := (tdItems s t).foldl (fun s x => completeItem s x 0x12) s
      let u := { t with step := 5 }
      let s := { s with teardowns := s.teardowns.map fun v => if v == t then u else v }
      if t.kind = 0 && !s.host.lost && s.posts.any (fun p => p.1.toNat == t.id) then s else finishTeardown s u
  else if t.step = 5 then
    if !s.host.lost && s.posts.any (fun p => p.1.toNat == t.id) then s else finishTeardown s t
  else s

/-- The native-path record of a page request: to the fault ring of context 0, with a cookie of KIND 2 (R220). A failed write of another context's
record faults context 0 (R202). -/
def tellManager (s : State) (r : PageReq) : State :=
  let inst := match getCtx s r.ctx with | some c => c.inst | none => 0
  let f : FaultReq := { ctx := r.ctx, cls := 4, cause := 0x20, addr := r.va,
                        detail := BitVec.ofNat 64 (r.id.toNat + if r.write then 2 ^ 16 else 0) }
  postCookie (postFaultRecord s 0 (faultRecord s.time inst f) (r.ctx == 0)) 0 0 0 2

/-- Write the records of native-path requests that have none yet. -/
def tellRequests (s : State) : State :=
  let new := s.pageReqs.filter fun r => r.native && !r.told && !r.withdrawn
  if new = [] then s
  else new.foldl tellManager { s with pageReqs := s.pageReqs.map fun r => if r.native then { r with told := true } else r }

/-- The causes raised so far fault their contexts. -/
def takeFaults (s : State) : State := s.faults.foldl contextFault { s with faults := [] }

end Sys2Proof.Machine
end

