-- ==== Sys2Proof/Machine/Points.lean ====
section
/-!
DEFINITION. Kernels, directory entries and points: the end of a kernel (R83, R199), sync groups (R163), the directory
(R164), images (R92, R125), and what taking a point does for the request that waits (R90, R91, R172, R188).
-/
namespace Sys2Proof.Machine

/-! ### Kernels and their item -/

/-- The core copy of ARITH_FLAGS (R61); an S-core keeps none. -/
def coreFlags (s : State) (p : Nat) : Flags :=
  match slotKind p with
  | 0 => (getM s p).flags
  | 1 => (getV s p).flags
  | _ => 0

/-- One kernel of an item has ended (`status` 0) or been stopped with a status; the last one completes the item (R199). -/
def kernelGone (s : State) (x : ItemRef) (fl : Flags) (status : Byte) : State :=
  match getItem s x with
  | none => s
  | some i =>
    let r := { i.run with flags := i.run.flags ||| fl
                          normal := if status = 0 then i.run.normal + 1 else i.run.normal
                          kernels := i.run.kernels - 1
                          status := if status = 0 then i.run.status else status }
    let s := setItem s x { i with run := r }
    if r.kernels = 0 && !r.fbWait then completeItem s x r.status.toNat else s

/-- The point that still waits at a core when a request for its kernel is over: a move's. -/
def nextPoint (s : State) (p : Nat) : PointReq :=
  if s.moves.any fun m => m.src == p && m.stage == .point then .refit else .none

/-- The kernel on a core ends normally: flags reported to the CP, the core idle (R83). -/
def kernelEnd (s : State) (p : Nat) (clear : Bool) : State :=
  let c := getCore s p
  let fl := coreFlags s p
  let s := if clear then
      (match slotKind p with
       | 0 => updM s p fun m => { m with flags := 0 }
       | 1 => updV s p fun v => { v with flags := 0 }
       | _ => s)
    else s
  let s := setCore s p { c with run := .idle, kernel := none, wait := .none, point := nextPoint s p, forced := nextPoint s p != .none }
  match c.kernel with
  | none => s
  | some k => kernelGone s k.x fl 0

/-- The kernel on a core is stopped with a status and its image discarded. -/
def kernelStop (s : State) (p : Nat) (status : Byte) : State :=
  let c := getCore s p
  let s := setCore s p { c with run := .idle, kernel := none, wait := .none, xfers := [], point := nextPoint s p, held := none
                                forced := nextPoint s p != .none && c.forced }
  let s := match slotKind p with
    | 0 => updM s p fun m => { m with job := .none, stream := [], waves := [] }
    | 1 => updV s p fun v => { v with beat := none, results := [] }
    | _ => s
  match c.kernel with
  | none => s
  | some k => kernelGone s k.x (coreFlags s p) status

/-! ### Sync groups (R163) -/

/-- The first binding that names a group fits it, its 32 counters at 0. -/
def fitSync (s : State) (gid : BitVec 24) (part : BitVec 4) (cl : BitVec 5) (slot : BitVec 3) : State :=
  match Tbl.get none s.sync (syncKey cl slot) with
  | some _ => s
  | none => { s with sync := Tbl.set none s.sync (syncKey cl slot) (some { gid := gid, part := part }) }

/-- Release the groups that no bound vcore names. -/
def releaseSync (s : State) : State :=
  { s with sync := s.sync.filter fun e =>
      s.bindings.any fun b => b.2.state != 0 && syncKey b.2.sgCl b.2.sgSlot == e.1 }

/-! ### The directory (R164, R166) -/

/-- An unbound entry. -/
def dirUnbound : Word := 0x7FFFF

/-- The directory entry of a vcore, from slice memory; before SLICE_FIT names its place, from the CPs. An entry that no longer
decodes reads as unbound. -/
def dirEntry (s : State) (g : Glove) (v : Nat) : Word :=
  let a := g.dirAddr.toNat + 4 * v
  let sl := getSlice s g.part
  if !g.fitted then Tbl.get dirUnbound g.dir v
  else if !memRange s g.part g.dirHbm a 4 then dirUnbound
  else BitVec.ofNat 32 (leNat (if g.dirHbm then (hbmRead s sl a 4).1 else (sliceRead s sl.regions a 4).1))

/-- Write a directory entry; the package's directory caches drop it (R166). -/
def dirWrite (s : State) (g : Glove) (v : Nat) (e : Word) : State :=
  let a := g.dirAddr.toNat + 4 * v
  let sl := getSlice s g.part
  let s := if !g.fitted then (match getGlove s g.gid with
      | some h => setGlove s { h with dir := Tbl.set dirUnbound h.dir v e }
      | none => s)
    else if !memRange s g.part g.dirHbm a 4 then s
    else if g.dirHbm then hbmWrite s sl a (leBytes 4 e.toNat) false
    else sliceWrite s sl.regions a (leBytes 4 e.toNat) false
  { s with dirCache := (s.dirCache.map fun c =>
      (c.1, c.2.filter fun k => !(k.1 == g.gid.toNat * 65536 + v))).filter fun c => c.2 ≠ [] }

def dirNode (e : Word) : BitVec 17 := BitVec.ofNat 17 (fld e 16 0)
def dirKind (e : Word) : BitVec 2 := BitVec.ofNat 2 (fld e 18 17)
def dirState (e : Word) : BitVec 2 := BitVec.ofNat 2 (fld e 20 19)
def dirPack (node : BitVec 17) (kind state : BitVec 2) : Word :=
  BitVec.ofNat 32 (node.toNat + kind.toNat * 2 ^ 17 + state.toNat * 2 ^ 19)

/-- Look a vcore up through a cluster's directory cache of 256 entries, filled on a miss (R166). -/
def dirLookup (s : State) (cl : Nat) (g : Glove) (v : Nat) : State × Word :=
  let key := g.gid.toNat * 65536 + v
  let l := Tbl.get [] s.dirCache cl
  let e := match l.find? fun k => k.1 == key with
    | some k => k.2
    | none => dirEntry s g v
  ({ s with dirCache := Tbl.set [] s.dirCache cl (((key, e) :: l.filter fun k => k.1 != key).take 256) }, e)

/-- Whether a directory entry names an M-core vcore that may receive rows (R85). -/
def dirTakesRows (e : Word) : Bool := dirKind e == 0 && dirState e != 2

/-- Set only the STATE of a directory entry. -/
def dirSetState (s : State) (g : Glove) (v : Nat) (st : BitVec 2) : State :=
  let e := dirEntry s g v
  dirWrite s g v (dirPack (dirNode e) (dirKind e) st)

/-! ### Images -/

/-- What a point with masks keeps of an M-core (R90): tiles, banks and planes whose mask bit is clear arrive empty. -/
def liveM (live : BitVec 12) (m : MCore) : MCore :=
  let inBank (k : Nat) : Bool := bit live (8 + k / 2 ^ 19)
  { m with
    ob := m.ob.filter fun e => inBank e.1
    obPoison := m.obPoison.filter fun e => inBank (8 * e.1)
    plane0 := if bit live 10 then m.plane0 else {}
    plane1 := if bit live 11 then m.plane1 else {}
    tiles := (m.tiles.map fun t => if bit live t.1 then t else (t.1, { t.2 with elems := [] })).filter fun t => t.2 ≠ {} }

/-- A forced point keeps everything; its tiles are closed and its buffered stream blocks are discarded (R79, R91). -/
def forcedM (m : MCore) : MCore :=
  { m with stream := [], tiles := (m.tiles.map fun t => (t.1, { t.2 with isOpen := false })).filter fun t => t.2 ≠ {} }

def liveV (live : BitVec 12) (v : VCore) : VCore :=
  { v with
    v := v.v.filter fun e => bit live (e.1 / 4096)
    lm := v.lm.filter fun e => bit live (8 + e.1 / 131072)
    lmPoison := v.lmPoison.filter fun e => bit live (8 + e.1 / 16384) }

/-- The U region of an S-core's local memory, by its live thirds. -/
def liveLm (live : BitVec 12) (lm : Mem) : Mem := lm.filter fun e => decide (e.1 < 0x30000) && bit live (e.1 / 65536)

/-- The image that a core's point offers: declared with masks, or forced with everything. -/
def imageBody (s : State) (p : Nat) (declared : Bool) (live : BitVec 12) : ImageBody :=
  match slotKind p with
  | 0 => .m (if declared then liveM live (getM s p) else forcedM (getM s p))
  | 1 => .v (if declared then liveV live (getV s p) else { getV s p with beat := none })
  | _ => .s (getS s p).x (liveLm (if declared then live else 7) (getS s p).lm)
      ((getS s p).lmPoison.filter fun e => decide (e.1 < 0x6000) && bit (if declared then live else 7) (8 * e.1 / 65536))

/-- The image of a core at its point. On an idle vcore it holds the always-live parts only (Table 7.11). -/
def takeImage (s : State) (p : Nat) (declared : Bool) : Image :=
  let c := getCore s p
  let b := getBinding s p
  let idle := c.run == .idle
  let live : BitVec 12 := if idle then 0 else if declared then c.live else 0xFFF
  { vcore := b.vcore, gid := b.gid, pc := c.pc, wait := c.wait, kernel := c.kernel,
    run := if idle then .idle else match c.run with | .stopped m => .stopped m | _ => .running,
    live := live
    body := imageBody s p (declared || idle) live }

/-- Install an image's private part in a core of its kind. F state of an S-core stays (R125). -/
def putBody (s : State) (p : Nat) : ImageBody → State
  | .m m => setM s p m
  | .v v => setV s p v
  | .s x lm bad => updS s p fun c =>
      { c with x := x
               lm := lm.filter (fun e => decide (e.1 < 0x30000)) ++ c.lm.filter (fun e => decide (0x30000 ≤ e.1))
               lmPoison := bad ++ c.lmPoison.filter (fun e => decide (0x6000 ≤ e.1)) }

/-- A resumed core goes on when the command ends: its MWAIT is evaluated again (R93), its MLD, MST or MCONV continues (R91). -/
def kickCore (s : State) (p : Nat) : State := { s with kick := s.kick ++ [p] }

/-- Resume an image on a core (R92, R295): the instruction cache is empty (R430), and an interrupted instruction goes on at its recorded wave
or row (R91). -/
def resumeImage (s : State) (p : Nat) (i : Image) : State :=
  let s := putBody s p i.body
  kickCore (updCore s p fun c => { c with run := i.run, pc := i.pc, wait := i.wait, kernel := i.kernel, icache := [], held := none,
                                          point := .none, forced := false, live := 0, xfers := [] }) p

/-- What a vcore leaves in its core goes with it: the core's registers, memories, planes and tiles return to their values at reset, so that
the planes of the next vcore are empty (R79) and no tenant finds another's data (DESIGN CHOICE, log 140). F state of an S-core stays (R125). -/
def clearUnit (s : State) (p : Nat) : State :=
  match slotKind p with
  | 0 => setM s p {}
  | 1 => setV s p {}
  | _ => updS s p fun c =>
      { c with x := if c.pl then c.x else []
               lm := c.lm.filter fun e => decide (0x30000 ≤ e.1)
               lmPoison := c.lmPoison.filter fun e => decide (0x6000 ≤ e.1) }

/-- Clear a core that its vcore has left. -/
def clearCore (s : State) (p : Nat) : State :=
  updCore (clearUnit s p) p fun c => { credits := c.credits }

/-! ### Moves (R172) -/

/-- One entry of a VCORE_MOVE has ended with a status; the last one completes the item. Of several that fail after acceptance the last to end
gives the item's status (DESIGN CHOICE, log 152). -/
def moveItemStep (s : State) (x : Option ItemRef) (status : Nat) (dropped : Word) : State :=
  match x with
  | none => s
  | some x =>
    match getItem s x with
    | none => s
    | some i =>
      let r := { i.run with total := i.run.total - 1
                            status := if status = 0 then i.run.status else BitVec.ofNat 8 status
                            result := i.run.result + dropped.setWidth 64 }
      let s := setItem s x { i with run := r }
      if r.total = 0 then completeItem s x r.status.toNat else s

def removeMove (s : State) (m : Move) : State :=
  { s with moves := s.moves.filter fun n => !(n.src == m.src) }

/-- A move that aborts before its swap: the vcore resumes at S (Table 7.11), after a point with an empty instruction cache (R430). -/
def abortMove (s : State) (m : Move) (status : Nat) : State :=
  let s := removeMove s m
  let b := getBinding s m.src
  let s := setBinding s m.src { b with state := 1 }
  let s := match getGlove s m.gid with
    | some g => dirSetState s g m.vcore.toNat 0
    | none => s
  let s := updCore s m.src fun c =>
    { c with point := if c.point == .refit then .none else c.point
             forced := c.point != .refit && c.forced
             run := match m.stage, c.run with | .copy, .atPoint _ => .running | _, r => r
             icache := if m.stage = .copy then [] else c.icache }
  moveItemStep (if m.stage = .copy then kickCore s m.src else s) m.item status m.dropped

/-- Whether a core may carry a vcore (R162): enabled, in the partition's clusters, unbound. -/
def coreFree (s : State) (p : Nat) : Bool :=
  Tbl.get 0 s.fp.slot p == 2 && (getBinding s p).state == 0 && !(s.forwards.any fun f => f.pid == p)

/-- The swap of a local move: the old and the new entry change together (R172, R173). -/
def swapLocal (s : State) (m : Move) (img : Image) : State :=
  let b := getBinding s m.src
  let gen := b.gen + 1
  let s := resumeImage s m.dst img
  let s := setBinding s m.dst { b with gen := gen, sgCl := m.sgCl, sgSlot := m.sgSlot, state := 1, swapped := some s.refNs }
  let s := setBinding s m.src {}
  let s := clearCore s m.src
  let s := fitSync s m.gid b.part m.sgCl m.sgSlot
  let f : Forward := ⟨m.src, m.gid, m.vcore, b.gen, gen, s.node, m.dst, m.item⟩
  let s := { s with forwards := s.forwards ++ [f] }
  let s := match getGlove s m.gid with
    | some g => dirSetState s g m.vcore.toNat 0
    | none => s
  let s := releaseSync (removeMove s m)
  moveItemStep s m.item 0 m.dropped

/-- The plane's column count. -/
def npOf (fmt : Nat) : Nat := if fmt = 7 then 32 else 128

/-- K of a plane. -/
def planeK (pl : Plane) : Nat := if pl.k256 then 256 else 128

/-- Bytes of a plane as loaded, and of its scales (Tables 4.2 and 4.11); an empty plane has none. -/
def planeData (pl : Plane) : Nat := if pl.loaded then npOf pl.fmt.toNat * planeK pl * fmtBits pl.fmt.toNat / 8 else 0
def planeScales (pl : Plane) : Nat := if pl.loaded && pl.sc then npOf pl.fmt.toNat * (planeK pl / 32) else 0

/-- A plane in an image: its bytes, then the scales held beside it. -/
def planeBytes (pl : Plane) : List Byte := memRead pl.data 0 (planeData pl) ++ memRead pl.scales 0 (planeScales pl)

/-- Fill up with zero bytes. -/
def padTo (n : Nat) (l : List Byte) : List Byte := l ++ List.replicate (n - l.length) 0

/-- The parts whose LIVE bit, from bit `o` on, is set. -/
def liveParts (live : BitVec 12) (o n : Nat) (f : Nat → List Byte) : List Byte :=
  (List.range n).flatMap fun j => if bit live (o + j) then f j else []

/-- How many of the `n` parts from bit `o` on are live. -/
def liveCount (live : BitVec 12) (o n : Nat) : Nat := ((List.range n).filter fun j => bit live (o + j)).length

/-- What a core was doing, in the always-live words of its image. -/
def runCode : CoreRun → Nat
  | .idle => 4
  | .stopped m => 8 + m.toNat % 16 * 16
  | _ => 0

def runOf (w : Nat) : CoreRun :=
  if w / 4 % 2 = 1 then .idle else if w / 8 % 2 = 1 then .stopped (BitVec.ofNat 8 (w / 16 % 16)) else .running

def waitCode : CoreWait → Nat
  | .none => 0
  | .counter c v => 1 + c.toNat * 2 ^ 8 + v.toNat * 2 ^ 16
  | .tile t v => 2 + t.toNat * 2 ^ 8 + v.toNat * 2 ^ 16

def waitOf (w : Nat) : CoreWait :=
  match w % 4 with
  | 1 => .counter (BitVec.ofNat 5 (w / 2 ^ 8)) (BitVec.ofNat 16 (w / 2 ^ 16))
  | 2 => .tile (BitVec.ofNat 3 (w / 2 ^ 8)) (BitVec.ofNat 16 (w / 2 ^ 16))
  | _ => .none

/-- The resume index of an interrupted instruction: its kind, index, word and offset. -/
def jobWords : MJob → List Dword
  | .none => [0, 0, 0]
  | .wave w n => [1 + BitVec.ofNat 64 (n * 2 ^ 8), w, 0]
  | .stream w n => [2 + BitVec.ofNat 64 (n * 2 ^ 8), w, 0]
  | .copy w r o => [3 + BitVec.ofNat 64 (r * 2 ^ 8), w, BitVec.ofNat 64 o]
  | .conv w r => [4 + BitVec.ofNat 64 (r * 2 ^ 8), w, 0]

def jobOf (k : Nat) (w : Dword) (o : Nat) : MJob :=
  match k % 256 with
  | 1 => .wave w (k / 2 ^ 8)
  | 2 => .stream w (k / 2 ^ 8)
  | 3 => .copy w (k / 2 ^ 8) o
  | 4 => .conv w (k / 2 ^ 8)
  | _ => .none

def planeCode (p : Plane) : Nat := p.fmt.toNat + (if p.loaded then 16 else 0) + (if p.sc then 32 else 0) + (if p.k256 then 64 else 0)

/-- The 256 always-live bytes of an M-core's image: g1 to g15, PC, resume index, MWAIT state, a refusal not yet reported (R85), the LIVE masks. -/
def headM (i : Image) (m : MCore) : List Byte :=
  padTo 256 (((List.range 15).flatMap fun r => leBytes 8 (Tbl.get 0 m.g (r + 1)).toNat) ++ leBytes 8 i.pc.toNat ++ dwordBytes (jobWords m.job) ++
    leBytes 8 (runCode i.run + waitCode i.wait + if m.refused then 2 ^ 32 else 0) ++ leBytes 8 i.live.toNat)

/-- Its 64 always-live bytes: flag copies, tile kinds, open bits, plane formats, receive counts. -/
def flagsM (m : MCore) : List Byte :=
  let tile (t : Nat) : Tile := Tbl.get {} m.tiles t
  padTo 64 (leBytes 2 m.flags.toNat ++ ((List.range 8).flatMap fun t => leBytes 2 (tile t).flags.toNat) ++
    [BitVec.ofNat 8 (packNat 1 ((List.range 8).map fun t => if (tile t).fp32 then 1 else 0)),
     BitVec.ofNat 8 (packNat 1 ((List.range 8).map fun t => if (tile t).isOpen then 1 else 0)),
     BitVec.ofNat 8 (planeCode m.plane0), BitVec.ofNat 8 (planeCode m.plane1)] ++
    ((List.range 8).flatMap fun t => leBytes 4 (tile t).contribs))

/-- PC, wait state and LIVE masks of an S-core's image in its last 8 always-live bytes: PC in bits 32:0, the wait's flag, counter and value in 33,
38:34 and 54:39, what the core was doing in 60:55, the masks in 63:61. A PC beyond the address space stands as its last word. -/
def tailS (i : Image) : Nat :=
  let w := waitCode i.wait
  min i.pc.toNat 0x1FFFFFFFC + (w % 2 + w / 2 ^ 8 % 32 * 2 + w / 2 ^ 16 % 2 ^ 16 * 2 ^ 6) * 2 ^ 33 + runCode i.run / 4 * 2 ^ 55 + i.live.toNat % 8 * 2 ^ 61

/-- The bytes of an image (Tables 4.11 and 5.13): the always-live words, then the live parts in table order; what is not live is left out. -/
def imageBytes (i : Image) : List Byte :=
  match i.body with
  | .m m =>
    headM i m ++ flagsM m ++ (if bit i.live 10 then planeBytes m.plane0 else []) ++ (if bit i.live 11 then planeBytes m.plane1 else []) ++
      liveParts i.live 8 2 (fun j => memRead m.ob (524288 * j) 524288) ++
      liveParts i.live 0 8 fun t => (List.range 16384).flatMap fun e => partialBytes (Tbl.get 0 (Tbl.get {} m.tiles t).elems e)
  | .v v =>
    padTo 768 (((List.range 15).flatMap fun r => leBytes 8 (Tbl.get 0 v.a (r + 1)).toNat) ++ leBytes 8 i.pc.toNat ++
      leBytes 8 (runCode i.run + waitCode i.wait) ++
      ((List.range 7).flatMap fun k => leBytes 64 (Tbl.get 0 v.k (k + 1)).toNat) ++ leBytes 2 v.flags.toNat ++ leBytes 2 i.live.toNat) ++
      liveParts i.live 0 8 (fun j => (List.range 4096).flatMap fun e => leBytes 4 (Tbl.get 0 v.v (4096 * j + e)).toNat) ++
      liveParts i.live 8 4 fun j => memRead v.lm (131072 * j) 131072
  | .s x lm _ =>
    ((List.range 31).flatMap fun r => leBytes 8 (Tbl.get 0 x (r + 1)).toNat) ++ leBytes 8 (tailS i) ++
      liveParts i.live 0 3 fun j => memRead lm (65536 * j) 65536

/-- A memory holding bytes from address 0. -/
def memOf (l : List Byte) : Mem := memWrite [] 0 l

def tblOf {α : Type} [DecidableEq α] (d : α) (n : Nat) (f : Nat → α) : Tbl α :=
  (List.range n).foldl (fun t i => Tbl.set d t i (f i)) []

/-- A memory whose live parts of `n` bytes, from bit `o` of the masks on, stand one after the other in `l`. -/
def partsMem (live : BitVec 12) (o n size : Nat) (l : List Byte) : Mem :=
  ((List.range n).foldl (fun (acc : Mem × List Byte) j =>
    if bit live (o + j) then (memWrite acc.1 (size * j) (acc.2.take size), acc.2.drop size) else acc) ([], l)).1

/-- The image that bytes spell, for a core kind. -/
def imageOf (kind : Nat) (vcore : BitVec 16) (gid : BitVec 24) (l : List Byte) : Image :=
  let at8 (o : Nat) : Nat := leNat ((l.drop o).take 8)
  match kind with
  | 0 =>
    let fb (o : Nat) : Nat := leNat ((l.drop (256 + o)).take 1)
    let live := BitVec.ofNat 12 (at8 160)
    let plane (code : Nat) (on : Bool) (rest : List Byte) : Plane × List Byte :=
      let p : Plane := { loaded := code / 16 % 2 = 1, fmt := BitVec.ofNat 4 code, sc := code / 32 % 2 = 1, k256 := code / 64 % 2 = 1 }
      if on then
        ({ p with data := memOf (rest.take (planeData p)), scales := memOf ((rest.drop (planeData p)).take (planeScales p)) },
          rest.drop (planeData p + planeScales p))
      else ({}, rest)
    let p0 := plane (fb 20) (bit live 10) (l.drop 320)
    let p1 := plane (fb 21) (bit live 11) p0.2
    let tiles := p1.2.drop (524288 * liveCount live 8 2)
    let tile (t : Nat) : Tile :=
      { fp32 := fb 18 / 2 ^ t % 2 = 1, isOpen := fb 19 / 2 ^ t % 2 = 1,
        flags := BitVec.ofNat 16 (leNat ((l.drop (258 + 2 * t)).take 2)), contribs := leNat ((l.drop (278 + 4 * t)).take 4),
        elems := if bit live t then tblOf 0 16384 fun e => partialOf (tiles.drop (196608 * liveCount live 0 t + 12 * e)) else [] }
    ⟨vcore, gid, BitVec.ofNat 64 (at8 120), waitOf (at8 152 % 2 ^ 32), runOf (at8 152), none, live,
      .m { g := tblOf 0 16 fun r => if r = 0 then 0 else BitVec.ofNat 64 (at8 (8 * (r - 1)))
           ob := partsMem live 8 2 524288 p1.2, plane0 := p0.1, plane1 := p1.1
           tiles := tblOf {} 8 tile, flags := BitVec.ofNat 16 (leNat ((l.drop 256).take 2))
           job := jobOf (at8 128) (BitVec.ofNat 64 (at8 136)) (at8 144), refused := at8 152 / 2 ^ 32 % 2 = 1 }⟩
  | 1 =>
    let live := BitVec.ofNat 12 (leNat ((l.drop 586).take 2))
    let regs := l.drop 768
    let lane (e : Nat) : Word :=
      if bit live (e / 4096) then BitVec.ofNat 32 (leNat ((regs.drop (16384 * liveCount live 0 (e / 4096) + 4 * (e % 4096))).take 4)) else 0
    ⟨vcore, gid, BitVec.ofNat 64 (at8 120), waitOf (at8 128), runOf (at8 128), none, live,
      .v { a := tblOf 0 16 fun r => if r = 0 then 0 else BitVec.ofNat 64 (at8 (8 * (r - 1)))
           v := tblOf 0 32768 lane
           k := tblOf 0 8 fun k => if k = 0 then 0 else BitVec.ofNat 512 (leNat ((l.drop (136 + 64 * (k - 1))).take 64))
           lm := partsMem live 8 4 131072 (regs.drop (16384 * liveCount live 0 8)), flags := BitVec.ofNat 16 (leNat ((l.drop 584).take 2)) }⟩
  | _ =>
    let t := at8 248
    let live := BitVec.ofNat 12 (t / 2 ^ 61)
    ⟨vcore, gid, BitVec.ofNat 64 (t % 2 ^ 33),
      if t / 2 ^ 33 % 2 = 1 then .counter (BitVec.ofNat 5 (t / 2 ^ 34)) (BitVec.ofNat 16 (t / 2 ^ 39)) else .none, runOf (t / 2 ^ 55 % 64 * 4), none, live,
      .s (tblOf 0 32 fun r => if r = 0 then 0 else BitVec.ofNat 64 (at8 (8 * (r - 1)))) (partsMem live 0 3 65536 (l.drop 256)) []⟩

/-- A glove message: an MSG packet (Table 11.5). `word` is the vcore form of ADDR where a vcore is named. -/
def sendMsg (s : State) (dst : BitVec 17) (gid : BitVec 24) (vc : BitVec 2) (mcode : Nat) (ext : Nat) (addr : Dword)
    (data : List Byte) : State :=
  sendPacket s { ttype := 0x0D, dst := dst, gid := gid, vc := vc, ext := BitVec.ofNat 32 (mcode + ext * 2 ^ 8),
                 addr := addr, len := BitVec.ofNat 13 data.length, data := data }

/-- The vcore form of ADDR. -/
def vcoreAddr (gen : Byte) (v : BitVec 16) (tile row seg : Nat) : Dword :=
  BitVec.ofNat 64 (gen.toNat * 2 ^ 56 + v.toNat * 2 ^ 40 + tile * 2 ^ 37 + row * 2 ^ 30 + seg * 2 ^ 27)

/-- Send the bytes of an image to the destination member, chunk by chunk (Table 7.9 step 6). -/
def sendImage (s : State) (m : Move) (l : List Byte) : State :=
  ((chunks192 20000 l).zipIdx).foldl (fun s c =>
    sendMsg s m.node m.gid 3 0x05 c.2 (vcoreAddr 0 m.vcore 0 0 0) c.1) s

/-! ### Packets for a moving vcore (R174) -/

def staleOf (s : State) (g : BitVec 24) : Bool := match getGlove s g with | some x => x.stale | none => false

/-- Count a dropped packet in the move's result: in the move that runs, or, after its swap, in the result word of its item while that is
open (R171, R174). The count at D has no message that would carry it to S (Table 11.5). -/
def countDrop (s : State) (pid : Nat) : State :=
  let s : State := { s with
    moves := s.moves.map fun m => if m.src = pid then { m with dropped := m.dropped + 1 } else m
    moveIns := s.moveIns.map fun m => if m.pid = pid then { m with dropped := m.dropped + 1 } else m }
  match s.forwards.find? fun f => f.pid == pid with
  | some ⟨_, _, _, _, _, _, _, some x⟩ => updRun s x fun r => { r with result := r.result + 1 }
  | _ => s

/-- Room for one more 256-byte entry in the glove's stash (R174). -/
def stashRoom (s : State) (m : MoveIn) : Bool :=
  match getGlove s m.gid with
  | some g => decide (((s.moveIns.filter fun n => n.gid == m.gid).map fun n => n.stash.length).sum < 256 * g.stash)
  | none => false

/-- Keep a packet in the stash. -/
def stashPkt (s : State) (pid : Nat) (p : MeshPkt) : State :=
  { s with moveIns := s.moveIns.map fun m => if m.pid = pid ∧ stashRoom s m then { m with stash := m.stash ++ [p] } else m }

/-- The late-stale event. -/
def lateStale (s : State) (gid : BitVec 24) (v : BitVec 16) (gen : Byte) : State :=
  logEvent s srcRtp 0x06 false (leBytes 4 gid.toNat ++ leBytes 2 v.toNat ++ [gen])

/-- Count a packet that leaves for the destination member of a move. -/
def countForward (s : State) (gid : BitVec 24) (v : BitVec 16) : State :=
  { s with moves := s.moves.map fun m => if m.gid = gid ∧ m.vcore = v then { m with forwarded := m.forwarded + 1 } else m }

/-- Whom a reduce packet of a core tells its outcome (R284). -/
def senderOf (s : State) (p : MeshPkt) (v : BitVec 16) : List Contributor :=
  if p.srcPort.toNat < 10 then [kernelSender s (p.srcCl.toNat * 10 + p.srcPort.toNat) v p.tile p.row] else []

/-- Forward a mesh packet to the core or member that has the vcore. A row goes to another member as a REDUCE_TILE, through this member's tree
where it holds one (R276, R282); no fabric packet carries another packet for a core, which is dropped as late (DESIGN CHOICE, log 143). -/
def forwardMesh (s : State) (p : MeshPkt) (gid : BitVec 24) (v : BitVec 16) (node : BitVec 17) (dst : Nat) (gen : Byte)
    (from_ : List Contributor) : State :=
  if node = s.node then
    emit s (.mesh { p with dstCl := BitVec.ofNat 5 (dst / 10), dstPort := BitVec.ofNat 4 (dst % 10), gen := gen })
  else if p.type ≠ 6 then lateStale s gid v p.gen
  else
    let q : Packet :=
      { ttype := 9, gid := gid, vc := 3, fwd := true, len := BitVec.ofNat 13 p.payload.length
        addr := vcoreAddr gen v p.tile.toNat p.row.toNat p.seg.toNat, poison := p.poison.any id, data := p.payload }
    let r := regSendAll (countForward s gid v) (from_.filter fun c => match c with | .local .. => true | .packet .. => false)
    issueReduce r.1 { q with prio := r.2 } node p.contrib.toNat from_

/-- A move aborts at its destination: the core is released, and the stash, with what waits behind it, goes back to the source in arrival order,
marked forwarded (R276); where `tell`, the source is told with REFUSE and DEST_LOST (Table 7.11). -/
def abortIn (s : State) (m : MoveIn) (tell : Bool) : State :=
  let mine (p : MeshPkt) : Bool := p.dstCl.toNat * 10 + p.dstPort.toNat == m.pid && p.gen == m.gen
  let back := m.stash ++ s.meshWait.filter mine
  let s := { s with moveIns := s.moveIns.filter fun k => !(k == m), meshWait := s.meshWait.filter fun p => !mine p }
  let s := releaseSync (setBinding s m.pid {})
  let s := if tell then sendMsg s m.src m.gid 0 0x03 0 (vcoreAddr 0 m.vcore 0 0 0) (leBytes 2 m.vcore.toNat ++ [0x4B]) else s
  back.foldl (fun s p => forwardMesh s p m.gid m.vcore m.src 0 (m.gen - 1) []) s

/-- The moves into the cores of a list abort: their destination has failed. -/
def abortIns (s : State) (cs : Nat → Bool) : State := (s.moveIns.filter fun m => cs m.pid).foldl (fun s m => abortIn s m true) s

/-- What becomes of a packet for the vcore of a core port (R174). -/
inductive Steer where
  | serve
  | forward (gid : BitVec 24) (v : BitVec 16) (node : BitVec 17) (dst : Nat) (gen : Byte)
  | stash
  | drop
  | late
  deriving DecidableEq, Repr

/-- R174 for a core and a generation. -/
def steer (s : State) (pid : Nat) (gen : Byte) : Steer :=
  let b := getBinding s pid
  match s.forwards.find? fun f => f.pid == pid && f.oldGen == gen with
  | some f => if staleOf s f.gid then .drop else .forward f.gid f.vcore f.node f.dst f.newGen
  | none =>
    if b.state = 1 ∧ b.gen = gen then .serve
    else if b.state = 2 ∧ b.gen = gen then
      match s.moves.find? fun m => m.src == pid with
      | some m => if staleOf s b.gid then .drop else .forward b.gid b.vcore m.node m.dst (gen + 1)
      | none => .late
    else if b.state = 3 ∧ b.gen = gen then (if staleOf s b.gid then .drop else .stash)
    else .late

/-- Packets of a virtual channel wait at a core port, behind a full stash. -/
def portWaits (s : State) (p : MeshPkt) : Bool :=
  s.meshWait.any fun q => q.dstCl == p.dstCl && q.dstPort == p.dstPort && q.vc == p.vc

/-- Steer a packet at a core port; `serve` is what serving it does. A full stash withholds credits at the port: the packet, and later ones of
its virtual channel, wait in the mesh in their order (R141, R174). -/
def steered (s : State) (p : MeshPkt) (serve : State → Nat → State) : State :=
  let pid := p.dstCl.toNat * 10 + p.dstPort.toNat
  let b := getBinding s pid
  if portWaits s p then { s with meshWait := s.meshWait ++ [p] }
  else match steer s pid p.gen with
  | .serve => serve s pid
  | .forward gid v node dst gen => forwardMesh s p gid v node dst gen (senderOf s p v)
  | .stash => match s.moveIns.find? fun m => m.pid == pid with
    | some m => if stashRoom s m then stashPkt s pid p else { s with meshWait := s.meshWait ++ [p] }
    | none => lateStale s b.gid b.vcore p.gen
  | .drop => countDrop s pid
  | .late => lateStale s b.gid b.vcore p.gen

/-! ### Points -/

/-- At a forced point an M-core's tiles are closed and its buffered stream blocks discarded (R79, R91). -/
def closeForced (s : State) (p : Nat) (declared : Bool) : State :=
  if declared || slotKind p != 0 then s else updM s p forcedM

/-- A point of a core is taken: do what the request that waits asks. A forced point withdraws the held accesses of its kernel's context (R221). `declared` tells MSAFE's masks from a forced point. The image of a
preemption is taken here and held until its readout (R89, R126); a fault or park that meets a core with a held image keeps that one. A local
move takes its point, copies the image and swaps in this one step, with no interval between (DESIGN CHOICE, log 142). -/
def takePoint (s : State) (p : Nat) (declared : Bool) : State :=
  let c := getCore s p
  let idle := c.run == .idle
  let s := if declared || idle then s else match c.kernel with
    | some k => withdrawHolds s k.x.ctx
    | none => s
  let s := closeForced (if c.held.isSome then s else count s 1 p 4) p (declared || idle)
  match c.point with
  | .none => s
  | .preempt => setCore s p { c with run := .atPoint declared, held := some (takeImage s p declared) }
  | .abort st => kernelStop s p st
  | .fault | .park =>
    let img := c.held.getD (takeImage s p declared)
    let s := match c.kernel with
      | none => s
      | some k => match getCtx s k.x.ctx with
        | none => s
        | some x => setCtx s { x with images := x.images ++ [img] }
    setCore s p { credits := c.credits, point := nextPoint s p, forced := nextPoint s p != .none }
  | .refit =>
    match s.moves.find? fun m => m.src == p && m.stage == .point with
    | none => setCore s p { c with point := .none, forced := false }
    | some m =>
      let img := takeImage s p declared
      if m.node = s.node then
        if coreFree s m.dst || (m.item == none && Tbl.get 0 s.fp.slot m.dst == 1) then swapLocal s m img
        else abortMove s { m with stage := .copy } 0x4B
      else
        let b := getBinding s p
        let l := imageBytes img
        let s := setBinding s p { b with state := 2 }
        let s := match getGlove s m.gid with
          | some g => dirSetState s g m.vcore.toNat 1
          | none => s
        let s := setCore s p { c with run := if idle then .idle else .atPoint declared, forced := false }
        let s := { s with moves := s.moves.map fun n => if n.src == p then { n with stage := .copy, chunks := (l.length + 191) / 192 } else n }
        sendImage s m l

end Sys2Proof.Machine
end

