-- ==== Sys2Proof/Machine/Waits.lean ====
section
/-!
DEFINITION. Kernels that wait for their vcores (R199, R293): the checks of a range of vcores, the places kernels take, preemption
requests (R294, R296) and fallback programs (R301).
-/
namespace Sys2Proof.Machine

/-! ### Ranges of vcores (R199) -/

/-- An entry of a kind is aligned: 4 bytes for an S-core, 8 for the others. -/
def entryAligned (kind : Nat) (entry : Dword) : Bool := entry.toNat % (if kind = 2 then 4 else 8) == 0

/-- The first check that fails of one vcore of a context's glove: VCORE_UNBOUND, VCORE_REMOTE, VCORE_MIXED. -/
def vcoreFail (s : State) (c : Context) (ok : Nat → Bool) (v : Nat) : Option Nat :=
  match getGlove s c.gid with
  | none => some 0x24
  | some g =>
    let e := dirEntry s g v
    if decide (g.vcount ≤ v) || dirKind e == 3 || dirState e == 2 then some 0x24
    else if dirNode e ≠ s.node then some 0x23
    else if !ok (dirKind e).toNat then some 0x25
    else none

/-- The status of a range in ascending order; the first failing vcore decides. -/
def rangeFail (s : State) (c : Context) (first n : Nat) (ok : Nat → Bool) : Option Nat :=
  (List.range n).findSome? fun k => vcoreFail s c ok (first + k)

/-- Kind of a vcore, from the directory. -/
def vcoreKind (s : State) (c : Context) (v : Nat) : Nat :=
  match getGlove s c.gid with
  | some g => (dirKind (dirEntry s g v)).toNat
  | none => 3

/-- Put the kernels of a range in line, each at its vcore. -/
def enqueueKernels (s : State) (w : WaitKernel) (c : Context) (first n : Nat) (entry : Nat → Dword) (args : Nat → List Dword) : State :=
  let new := (List.range n).map fun k =>
    { w with gid := c.gid, vcore := BitVec.ofNat 16 (first + k), entry := entry (vcoreKind s c (first + k)), args := args k }
  { s with sched := { s.sched with waiting := s.sched.waiting ++ new } }

/-- The seven arguments of kernel `k` of an item: DISPATCH and DISPATCH_DL give words 3 to 9, MIXED_STEP those of R297. `idx` puts the
index in place of ARG7. -/
def kernelArgs (i : Item) (idx : Bool) (k : Nat) : List Dword :=
  let w (n : Nat) : Dword := i.words.getD n 0
  if itemOpc i = 0x11 then
    [BitVec.ofNat 64 (fld (w 4) 30 0), BitVec.ofNat 64 (fld (w 4) 43 32), BitVec.ofNat 64 (fld (w 1) 42 32), i.seq.setWidth 64, 0, 0,
     BitVec.ofNat 64 k]
  else [w 3, w 4, w 5, w 6, w 7, w 8, if idx then BitVec.ofNat 64 k else w 9]

/-! ### Preemption requests (R294, R296) -/

/-- Preemption slot `k` of a partition is free and lies in a valid HBM region of its slice. -/
def slotFree (s : State) (p k : Nat) : Bool :=
  let a := (getPart s p).preBase.toNat + k * 0x300000
  !(s.sched.suspended.any fun u => u.pre && u.part.toNat == p && u.slot == a) &&
    hbmRange (Tbl.get {} s.slices p) a 0x300000

/-- The lowest free preemption slot: its HBM address. -/
def freePreSlot (s : State) (p : Nat) : Option Nat :=
  ((List.range (getPart s p).preSlots).find? (slotFree s p)).map fun k => (getPart s p).preBase.toNat + k * 0x300000

/-- Points of a partition that are asked for and will need a slot. -/
def preemptsDue (s : State) (p : Nat) : Nat :=
  (s.cores.filter fun e => e.2.point == .preempt && (getBinding s e.1).part.toNat == p).length

/-- One more preemption of the partition finds a free slot. -/
def slotLeft (s : State) (p : Nat) : Bool :=
  decide (preemptsDue s p < ((List.range (getPart s p).preSlots).filter (slotFree s p)).length)

/-- The preempt-area and predicted-miss event. -/
def schedEvent (s : State) (x : ItemRef) (part : Nat) : State :=
  logEvent s (srcQueue s x.ctx x.qid) 0x0C false (leBytes 2 x.ctx.toNat ++ leBytes 1 x.qid.toNat ++ leBytes 4 x.seq.toNat ++ leBytes 1 part)

/-- A waiting LC kernel asks for the point of the BE kernel that runs on its vcore. -/
def requestPreempt (s : State) (w : WaitKernel) : State :=
  match findBinding s w.gid w.vcore with
  | none => s
  | some p =>
    let c := getCore s p
    let be : Bool := match c.kernel with | some k => k.be | none => false
    if !w.lc || w.noted || !be || c.point != .none || (getBinding s p).state != 1 then s
    else
      let part := (getBinding s p).part.toNat
      if slotLeft s part then setCore s p { c with point := .preempt, forced := true }
      else
        schedEvent { s with sched := { s.sched with waiting := s.sched.waiting.map fun v => if v == w then { v with noted := true } else v } }
          w.x part

def requestPreempts (s : State) : State := s.sched.waiting.foldl requestPreempt s

/-! ### Fallback programs (R301) -/

/-- Entry of a kind in the words of FALLBACK_SET: a kind in the range must have one. -/
def fbEntry (f : List Dword) (kind : Nat) : Dword := f.getD (1 + kind) 0

def fbEntryOk (f : List Dword) (kind : Nat) : Bool := decide (kind < 3) && fbEntry f kind != 0 && entryAligned kind (fbEntry f kind)

def fbFirst (f : List Dword) : Nat := fld (f.getD 0 0) 47 32
def fbCount (f : List Dword) : Nat := fld (f.getD 0 0) 63 48 + 1

/-- Dispatch the fallback program of an item whose own kernels are gone. -/
def launchFallback (s : State) (x : ItemRef) : State :=
  match getItem s x, getCtx s x.ctx with
  | some i, some c =>
    if !i.run.fbWait || i.run.kernels != 0 then s
    else
      let f := i.run.list
      match rangeFail s c (fbFirst f) (fbCount f) (fbEntryOk f) with
      | some st => completeItem s x st
      | none =>
        let n := fbCount f
        let s := setItem s x { i with run := { i.run with fbWait := false, fallback := true, kernels := n, normal := 0, flags := 0, status := 0 } }
        let p := c.part.toNat
        let s := setPart s p { getPart s p with fallbacks := (getPart s p).fallbacks + 1 }
        let dl := (s.sched.monitors.find? fun m => m.x == x).map fun m => m.accepted + 1000 * m.dl
        enqueueKernels s { x := x, lc := true, deadline := dl, accepted := i.accepted, order := i.order } c (fbFirst f) n (fbEntry f)
          (kernelArgs i (bit (f.getD 0 0) 21))
  | _, _ => s

def launchFallbacks (s : State) : State := (s.sched.monitors.map (·.x)).foldl launchFallback s

end Sys2Proof.Machine
end

