-- ==== Sys2Proof/Machine/Domains.lean ====
section
/-!
DEFINITION. Switched domains as the rest of the package meets them (R325, R326): which run, how they wake, and memory accesses that
wait for a domain.
-/
namespace Sys2Proof.Machine

/-! ### Accessors of the governor -/

def getDie (s : State) (d : Nat) : GovDie := Tbl.get {} s.gov.dies d
def setDie (s : State) (d : Nat) (x : GovDie) : State := { s with gov := { s.gov with dies := Tbl.set {} s.gov.dies d x } }
def updDie (s : State) (d : Nat) (f : GovDie → GovDie) : State := setDie s d (f (getDie s d))
def getGovPart (s : State) (p : Nat) : GovPart := Tbl.get {} s.gov.parts p
def setGovPart (s : State) (p : Nat) (x : GovPart) : State :=
  { s with gov := { s.gov with parts := Tbl.set {} s.gov.parts p x } }
def updGovPart (s : State) (p : Nat) (f : GovPart → GovPart) : State := setGovPart s p (f (getGovPart s p))

def getDomain (s : State) (d : Nat) : Domain := Tbl.get {} s.gov.domains d
def setDomain (s : State) (d : Nat) (x : Domain) : State :=
  { s with gov := { s.gov with domains := Tbl.set {} s.gov.domains d x } }

/-- A domain is in run. -/
def domainRuns (s : State) (d : Nat) : Bool := (getDomain s d).st == 0

/-- A cluster's cores receive ticks: in run, and no entry has withheld them (R327, step 2). -/
def clusterTicks (s : State) (cl : Nat) : Bool := (getDomain s cl).st == 0 && (getDomain s cl).busy == 0

/-! ### Waking (R326 to R328) -/

/-- The exit begins. A cluster leaves off in a wave (R329). -/
def startExit (s : State) (d : Nat) : State :=
  let x := getDomain s d
  let wave := decide (d < 32) && x.st == 3
  let s := setDomain s d { x with busy := 3, wave := wave }
  if wave then { s with gov := { s.gov with waves := s.gov.waves ++ [d] } } else s

/-- A source fires at a domain: 0 WORK, 1 INTR, 2 TIMER, 3 TRAY, 4 a memory access. It undoes an entry before its commit, ends one that
has committed, or wakes the domain; a disabled source does nothing. -/
def wakeDomain (s : State) (d src : Nat) : State :=
  let x := getDomain s d
  let on := src == 4 || (decide (src < 4) && bit x.wake src)
  if !on then s
  else match x.busy.toNat with
    | 1 =>
      let s := setDomain s d { x with busy := 0, item := none }
      let s := if x.st = 0 then s else startExit s d
      match x.item with
      | some i => completeItem s i 0xB4
      | none => s
    | 2 => if src = 4 ∧ x.goal = 3 then s else setDomain s d { x with woke := true }
    | 0 => if x.st = 0 ∨ (src = 4 ∧ x.st = 3) then s else startExit s d
    | _ => s

/-! ### Memory accesses (R326) -/

/-- The domains of the clusters or stacks that a range of slice memory touches. -/
def memDomains (s : State) (part : BitVec 4) (hbm : Bool) (a n : Nat) : List Nat :=
  let sl := getSlice s part
  if hbm then (hbmPieces s sl a n).map fun p => 32 + p.2.1 / 2 ^ 32 / 16
  else (slicePieces sl.regions a n).map fun p => sramBank p.1 / 32

/-- An access meets its domains, which it wakes: the state, and whether all of them are in run, so that it goes on. -/
def meetDomains (s : State) (l : List Nat) : State × Bool :=
  if s.gov.domains = [] then (s, true)
  else
    let t := l.foldl (fun s d => wakeDomain s d 4) s
    (t, l.all fun d => domainRuns t d && (getDomain t d).busy == 0)

/-- An access to a range of slice memory. -/
def meetMem (s : State) (part : BitVec 4) (hbm : Bool) (a n : Nat) : State × Bool :=
  if s.gov.domains = [] then (s, true) else meetDomains s (memDomains s part hbm a n)

end Sys2Proof.Machine
end

