-- ==== Sys2Proof/Machine/Crown.lean ====
section
/-!
DEFINITION. Glove-wide state: the epoch and the crown digest (R170, R179), crown gossip, agreement and freeze (R181, R182), the
unbinding of vcores and the end of a glove (R176), and the end of every command.
-/
namespace Sys2Proof.Machine

/-! ### Fields of glove items (Table 7.5) -/

def giGid (i : Item) : BitVec 24 := BitVec.ofNat 24 (fld (i.words.getD 1 0) 23 0)
def giRepair (i : Item) : Bool := bit (i.words.getD 1 0) 24
def giEpoch (i : Item) : Word := BitVec.ofNat 32 (fld (i.words.getD 1 0) 63 32)
def giList (i : Item) : Dword := i.words.getD 2 0
def giCount (i : Item) : Nat := fld (i.words.getD 3 0) 16 0

/-! ### Members and the crown tree -/

def memberNode (g : Glove) (r : Nat) : BitVec 17 := Tbl.get 0x1FFFF g.members r

def occupied (g : Glove) : Nat := ((List.range g.memberCount).filter fun r => memberNode g r != 0x1FFFF).length

/-- The rank of a node. -/
def rankOf (g : Glove) (node : BitVec 17) : Option Nat :=
  if node = 0x1FFFF then none else (g.members.find? fun e => e.2 == node).map (·.1)

/-- The parent that a rank reports to: (r - 1) / 2, vacant ranks passed over (R181). A member all of whose ancestors are vacant, rank 0 among
them, has none and acts as rank 0 does (DESIGN CHOICE, log 151). -/
def crownParent (g : Glove) : Nat → Nat → Option Nat
  | 0, _ => none
  | fuel + 1, r =>
    if r = 0 then none
    else
      let q := (r - 1) / 2
      if memberNode g q = 0x1FFFF then crownParent g fuel q else some q

def parentRank (g : Glove) : Option Nat := crownParent g 18 g.rank.toNat

/-- The occupied ranks that report to this member's rank. -/
def childRanks (g : Glove) : List Nat :=
  (List.range g.memberCount).filter fun r => memberNode g r != 0x1FFFF && crownParent g 18 r == some g.rank.toNat

/-- The nodes of the members that report to a rank. -/
def crownChildren (g : Glove) : List (BitVec 17) := (childRanks g).map (memberNode g)

/-- Send a message to nodes. -/
def castMsg (s : State) (g : Glove) (nodes : List (BitVec 17)) (code : Nat) (data : List Byte) (addr : Dword := 0) : State :=
  nodes.foldl (fun s n => sendMsg s n g.gid 0 code 0 addr data) s

/-- Every other member. -/
def otherMembers (s : State) (g : Glove) : List (BitVec 17) :=
  (g.members.map (·.2)).filter fun n => n != 0x1FFFF && n != s.node

/-! ### The crown -/

/-- The crown input (Table 7.12). -/
def crownInput (s : State) (g : Glove) : List Byte :=
  leBytes 4 g.gid.toNat ++ leBytes 4 (if g.stale then 1 else 0) ++ leBytes 4 g.memberCount ++ leBytes 4 g.vcount ++
  leBytes 4 (if g.twin = 0xFFFFFF then 0xFFFFFFFF else g.twin.toNat) ++
  ((List.range g.memberCount).flatMap fun r => leBytes 4 (memberNode g r).toNat) ++
  ((List.range g.vcount).flatMap fun v => leBytes 4 (dirEntry s g v &&& 0x7FFFF).toNat)

/-- Recompute the digest (R179). -/
def rehash (s : State) (gid : BitVec 24) : State :=
  match getGlove s gid with
  | none => s
  | some g => setGlove s { g with digest := sha384 (crownInput s g) }

/-- What a member's crown and the latest reports of its present children combine to (R181). A child that has sent none, or whose rank is now
vacant, adds nothing. -/
def crownCombine (g : Glove) : CrownReport :=
  let own : CrownReport := { rank := g.rank, epoch := g.epoch, digest := g.digest, count := 1 }
  let heard := g.reports.filter fun r => (childRanks g).contains r.rank.toNat
  match heard.find? (·.mismatch) with
  | some m => m
  | none =>
    let all := own :: heard
    let full := all.filter fun r => r.count != 0
    match full.findSome? fun a => (full.find? fun b => a.epoch == b.epoch && a.digest != b.digest).map fun b => (a, b) with
    | some (a, b) => { rank := g.rank, epoch := a.epoch, mismatch := true, epochB := b.epoch, rankA := a.rank, rankB := b.rank }
    | none =>
      if all.all fun r => r.epoch == g.epoch && r.count != 0 then { own with count := (all.map (·.count)).sum }
      else { rank := g.rank, epoch := all.foldl (fun m r => if r.epoch < m then r.epoch else m) g.epoch }

/-! ### Freeze (R182) -/

def freezeEvent (s : State) (g : Glove) (ea eb : Word) (ra rb : Nat) : State :=
  logEvent s srcRtp 0x07 true (leBytes 4 g.gid.toNat ++ leBytes 4 ea.toNat ++ leBytes 4 eb.toNat ++ leBytes 4 ra ++ leBytes 4 rb)

/-- A move before its swap aborts at a freeze; the RTP's own move waits (R182, Table 7.11). -/
def freezeMove (s : State) (m : Move) : State :=
  match m.item with
  | some _ => abortMove s m 0x42
  | none =>
    let s := abortMove s m 0
    { s with moves := s.moves ++ [{ m with stage := .prepare }] }

/-- Freeze a glove at this member; `tell` sends FREEZE to every other member. -/
def freezeGlove (s : State) (gid : BitVec 24) (epoch ea eb : Word) (ra rb : Nat) (tell : Bool) : State :=
  match getGlove s gid with
  | none => s
  | some g =>
    if g.frozen && g.mismatch == epoch then s
    else
      let s := setGlove s { g with frozen := true, mismatch := epoch }
      let s := freezeEvent s g ea eb ra rb
      let s := (s.moves.filter fun m => m.gid == gid).foldl freezeMove s
      if tell then castMsg s g (otherMembers s g) 0x0B (leBytes 4 epoch.toNat ++ leBytes 4 ra ++ leBytes 4 rb) else s

/-! ### The RTP's own moves (R24) -/

/-- Ask for the point of a move at its source. -/
def requestRefit (s : State) (m : Move) : State :=
  updCore s m.src fun c => if c.point == .none then { c with point := .refit, forced := m.force == 0 || c.run == .idle } else c

/-- A vcore swapped less than one steer window ago (R173). -/
def recentSwap (s : State) (gid : BitVec 24) (v : BitVec 16) : Bool :=
  (s.forwards.any fun f => f.gid == gid && f.vcore == v) ||
  match findBinding s gid v with
  | some p => (match (getBinding s p).swapped with | some t => decide (s.refNs < t + 2000000) | none => false)
  | none => false

/-- The RTP's moves that may now request their point do so (R173, R182). -/
def kickMoves (s : State) : State :=
  (s.moves.filter fun m => m.item.isNone && m.stage == .prepare).foldl (fun s m =>
    let frozen := match getGlove s m.gid with | some g => g.frozen | none => false
    if frozen || recentSwap s m.gid m.vcore then s
    else
      let n := { m with stage := .point }
      requestRefit { s with moves := s.moves.map fun k => if k == m then n else k } n) s

/-! ### Agreement and gossip (R181) -/

/-- AGREED at this member: recorded, passed down, and the end of a freeze of an earlier epoch. -/
def agreeGlove (s : State) (gid : BitVec 24) (epoch : Word) (digest : BitVec 384) : State :=
  match getGlove s gid with
  | none => s
  | some g =>
    let s := setGlove s { g with agreed := epoch, frozen := g.frozen && decide (epoch ≤ g.mismatch) }
    kickMoves (castMsg s g (crownChildren g) 0x0A (leBytes 4 epoch.toNat ++ leBytes 48 digest.toNat))

/-- Report to the parent; rank 0 agrees or freezes. -/
def sendCrown (s : State) (gid : BitVec 24) : State :=
  match getGlove s gid with
  | none => s
  | some g =>
    let r := crownCombine g
    match parentRank g with
    | some q =>
      if r.mismatch then
        castMsg s g [memberNode g q] 0x09 (leBytes 4 r.epoch.toNat ++ leBytes 4 r.epochB.toNat ++ leBytes 4 r.rankA.toNat ++ leBytes 4 r.rankB.toNat)
      else castMsg s g [memberNode g q] 0x08 (leBytes 4 r.epoch.toNat ++ leBytes 4 r.count ++ leBytes 48 r.digest.toNat)
    | none =>
      if r.mismatch then freezeGlove s gid r.epoch r.epoch r.epochB r.rankA.toNat r.rankB.toNat true
      else if r.count = occupied g ∧ r.count ≠ 0 then agreeGlove s gid r.epoch r.digest
      else s

/-! ### Epochs and binding updates (R170, R175) -/

/-- Whether an update is the next one, or belongs to the change that brought the epoch. -/
def updateFits (g : Glove) (u : BindUpdate) : Bool :=
  u.epoch == g.epoch + 1 || (u.epoch == g.epoch && g.updFrom == u.src && u.src != 0x1FFFF)

/-- Apply one update to the directory and the epoch. -/
def applyUpdate (s : State) (gid : BitVec 24) (u : BindUpdate) : State :=
  match getGlove s gid with
  | none => s
  | some g =>
    let s := dirWrite s g u.vcore.toNat (dirPack u.node u.kind 0)
    match getGlove s gid with
    | none => s
    | some g => rehash (setGlove s { g with epoch := u.epoch, updFrom := u.src }) gid

/-- Held updates that now fit follow. -/
def drainHeld : Nat → State → BitVec 24 → State
  | 0, s, _ => s
  | fuel + 1, s, gid =>
    match getGlove s gid with
    | none => s
    | some g =>
      match findIdx? (updateFits g) g.held 0 with
      | none => s
      | some i =>
        let u := g.held.getD i {}
        drainHeld fuel (applyUpdate (setGlove s { g with held := g.held.eraseIdx i }) gid u) gid

/-- An update whose epoch this member has reached otherwise freezes the glove (R175). -/
def updateConflict (s : State) (g : Glove) (u : BindUpdate) : State :=
  freezeGlove s g.gid g.epoch g.epoch u.epoch g.rank.toNat ((rankOf g u.src).getD 0) true

/-- After an epoch change: held updates, conflicts among them, and the report to the parent. -/
def epochChanged (s : State) (gid : BitVec 24) : State :=
  let s := drainHeld 17 s gid
  match getGlove s gid with
  | none => s
  | some g =>
    let late := g.held.filter fun u => decide (u.epoch ≤ g.epoch)
    let s := late.foldl (fun s u => updateConflict s g u)
      (if late = [] then s else setGlove s { g with held := g.held.filter fun u => decide (g.epoch < u.epoch) })
    sendCrown s gid

/-- An item of this member sets the epoch. -/
def setEpoch (s : State) (gid : BitVec 24) (epoch : Word) : State :=
  match getGlove s gid with
  | none => s
  | some g => epochChanged (rehash (setGlove s { g with epoch := epoch, updFrom := 0x1FFFF }) gid) gid

/-- The end of a glove item that took effect. -/
def gloveDone (s : State) (x : ItemRef) (gid : BitVec 24) (epoch : Word) : State :=
  completeItem (if epoch = 0 then s else setEpoch s gid epoch) x 0x00

/-! ### Unbinding and closing (R176) -/

/-- Free the core of a vcore. -/
def freeCore (s : State) (p : Nat) : State := clearCore (setBinding s p {}) p

/-- Kernels of vcores that hold no core: waiting or suspended ones are stopped with ABORTED. -/
def stopHeld (s : State) (hit : BitVec 24 → BitVec 16 → Bool) : State :=
  let ws := s.sched.waiting.filter fun w => hit w.gid w.vcore
  let us := s.sched.suspended.filter fun u => hit u.image.gid u.image.vcore
  let s := { s with sched := { s.sched with
    waiting := s.sched.waiting.filter fun w => !hit w.gid w.vcore
    suspended := s.sched.suspended.filter fun u => !hit u.image.gid u.image.vcore } }
  let s := ws.foldl (fun s w => kernelGone s w.x 0 0x12) s
  us.foldl (fun s u => match u.image.kernel with | some k => kernelGone s k.x 0 0x12 | none => s) s

/-- Unbind a vcore whose core is idle. -/
def unbindVcore (s : State) (g : Glove) (v : Nat) : State :=
  let s := match findBinding s g.gid (BitVec.ofNat 16 v) with
    | some p => freeCore s p
    | none => s
  dirWrite (stopHeld s fun h u => h == g.gid && u.toNat == v) g v dirUnbound

/-- The cores bound to a glove. -/
def gloveCores (s : State) (gid : BitVec 24) : List Nat :=
  s.bindings.filterMap fun e => if e.2.state != 0 && e.2.gid == gid then some e.1 else none

/-- A core on which nothing of a kernel is left. -/
def coreQuiet (s : State) (p : Nat) : Bool := (getCore s p).run == .idle && (getCore s p).kernel.isNone

/-- End a glove here (R176, R277): bindings, moves, channels, links, key slot and held kernels go. The SRAM region map stays installed
until another is (Table 12.5). -/
def closeGlove (s : State) (g : Glove) : State :=
  let s := (s.moves.filter fun m => m.gid == g.gid).foldl (fun s m => abortMove s m 0x12) s
  let s := stopHeld s fun h _ => h == g.gid
  let s := (gloveCores s g.gid).foldl freeCore s
  releaseSync { s with
    moveIns := s.moveIns.filter fun m => !(m.gid == g.gid)
    err := { s.err with gloveSeen := s.err.gloveSeen.filter fun e => e.1 != g.gid.toNat }
    slices := Tbl.upd {} s.slices g.part.toNat fun l => { l with hbm := [] }
    fab := { s.fab with keys := s.fab.keys.filter fun k => !(k.gid == g.gid) }
    gloves := Tbl.set none s.gloves g.gid.toNat none }

/-- The vcores that an unbinding item names. -/
def unbindList (i : Item) : List Nat := i.run.list.map fun w => fld w 15 0

/-- Carry out an item of `drops` once its cores have stopped. -/
def finishDrop (s : State) (x : ItemRef) : State :=
  let gone (s : State) : State := { s with drops := s.drops.filter fun y => !(y == x) }
  match getItem s x with
  | none => gone s
  | some i =>
    match getGlove s (giGid i) with
    | none => completeItem (gone s) x 0x46
    | some g =>
      if itemOpc i = 0x64 then
        let ps := (unbindList i).filterMap fun v => findBinding s g.gid (BitVec.ofNat 16 v)
        if ps.all (coreQuiet s) then
          gloveDone (releaseSync ((unbindList i).foldl (fun s v => unbindVcore s g v) (gone s))) x g.gid (giEpoch i)
        else s
      else if (gloveCores s g.gid).all (coreQuiet s) then completeItem (closeGlove (gone s) g) x 0x00
      else s

/-! ### What the end of every command does -/

/-- Wait for the commit of a change. -/
def queueChange (s : State) (c : FpChange) : State := { s with fp := { s.fp with pending := s.fp.pending ++ [c] } }

/-- A failing core that its vcore has left is retired: change 0x02 (R24). -/
def retireFailing (s : State) : State :=
  s.fp.designated.foldl (fun s e =>
    let c : Fin 320 := Fin.ofNat 320 e.1
    if (getBinding s e.1).state != 0 || s.fp.pending.any (fun | .coreReplaced d _ => d == c | _ => false) then s
    else { s with fp := { s.fp with pending := s.fp.pending ++ [.coreReplaced c (Fin.ofNat 320 (e.2 - 1))] } }) s

/-- A cluster on its way to memory-only that its last vcore has left: change 0x0C (R340). -/
def leaveClusters (s : State) : State :=
  if s.err.leaving = 0 then s
  else (setBits s.err.leaving).foldl (fun s c =>
    if s.bindings.any fun b => b.2.state != 0 && b.1 / 10 == c then s
    else { s with err := { s.err with leaving := setBit s.err.leaving c false }
                  fp := { s.fp with pending := s.fp.pending ++ [.memoryOnly (Fin.ofNat 32 c)] } }) s

/-- FABRIC_SETTLED sets once every enabled link is ACTIVE, DEGRADED or FAILED (R373). -/
def latchSettled (s : State) : State :=
  if !s.life.powered || s.life.settled then s
  else if (List.range 64).all fun n => !(getLink s n).enable || (getLink s n).up || (getLink s n).st == 9 then
    { s with life := { s.life with settled := true } }
  else s

/-- REMOVE_READY and RM_OK follow an accepted PREPARE once nothing of the host is outstanding (R377); RM_OK is not raised while FAULT_REQ#
is low (R427). -/
def latchRemove (s : State) : State :=
  if s.life.preparing && !s.life.removeReady && !s.life.faultReq && s.hostReads.isEmpty && s.posts.isEmpty then
    emit { s with life := { s.life with removeReady := true, rmOk := true } } (.pin 2 true)
  else s

/-- Every cause has been taken. -/
def clearFaults (s : State) : State := { s with faults := [] }

end Sys2Proof.Machine
end

