-- ==== Sys2Proof/Machine/Errors.lean ====
section
/-!
DEFINITION. Error records and engine resets (R334 to R340, R347): what every detected error does, and the reset of one engine.
-/
namespace Sys2Proof.Machine

/-! ### Elements -/

/-- Element codes (Table 14.3). -/
def elemCode : Element → Nat
  | .none => 0
  | .core c => 0x10000000 + c.val
  | .cp n => 0x20000000 + n.val
  | .rtp => 0x30000000
  | .sramRow c b r => 0x40000000 + c.val * 2 ^ 18 + b.val * 2 ^ 13 + r.toNat
  | .sramBank c b => 0x50000000 + c.val * 2 ^ 18 + b.val * 2 ^ 13
  | .hbmFrame c f => 0x60000000 + c.val * 2 ^ 20 + f.toNat
  | .hbmChannel c => 0x70000000 + c.val
  | .lane l k => 0x80000000 + l.val * 4 + k.toNat
  | .spareLane g => 0x90000000 + g.val
  | .crossing k i => 0xA0000000 + k.toNat * 2 ^ 8 + i.toNat
  | .clusterControl c => 0xB0000000 + c.val
  | .block n => 0xC0000000 + n.val
  | .router c => 0xD0000000 + c.val
  | .stop n => 0xD0000020 + n.val

/-- A kind of crossing (R39, Table 2.3): how many there are, and the width in bits, the depth per direction and the island clock in MHz of each. Every
crossing has one FIFO in each direction. What stands in one between two commands is timing (log 147). -/
structure Crossing where
  count : Nat
  width : Nat
  depth : Nat
  mhz : Nat

/-- Table 2.3: host PHY, fabric links, HBM channels, reference. -/
def crossings : List Crossing := [⟨1, 512, 64, 2000⟩, ⟨64, 256, 32, 1600⟩, ⟨128, 512, 32, 1250⟩, ⟨1, 16, 4, 100⟩]

/-- The element that a code names; `none` is a reserved kind or an index out of range (R353). -/
def elemOfCode (w : Word) : Option Element :=
  let v := fld w 27 0
  match fld w 31 28 with
  | 1 => if h : v < 320 then some (.core ⟨v, h⟩) else none
  | 2 => if h : v < 16 then some (.cp ⟨v, h⟩) else none
  | 3 => if v = 0 then some .rtp else none
  | 4 => if v < 2 ^ 23 then some (.sramRow (Fin.ofNat 32 (v / 2 ^ 18)) (Fin.ofNat 32 (v / 2 ^ 13)) (BitVec.ofNat 13 v)) else none
  | 5 => if v < 2 ^ 23 ∧ v % 2 ^ 13 = 0 then some (.sramBank (Fin.ofNat 32 (v / 2 ^ 18)) (Fin.ofNat 32 (v / 2 ^ 13))) else none
  | 6 => if h : v / 2 ^ 20 < 128 then some (.hbmFrame ⟨v / 2 ^ 20, h⟩ (BitVec.ofNat 20 v)) else none
  | 7 => if h : v < 128 then some (.hbmChannel ⟨v, h⟩) else none
  | 8 => if h : v / 4 < 64 then some (.lane ⟨v / 4, h⟩ (BitVec.ofNat 2 v)) else none
  | 9 => if h : v < 16 then some (.spareLane ⟨v, h⟩) else none
  | 0xA =>
    if v % 2 ^ 8 < ((crossings[v / 2 ^ 8]?).map (·.count)).getD 0 then some (.crossing (BitVec.ofNat 2 (v / 2 ^ 8)) (BitVec.ofNat 8 v)) else none
  | 0xB => if h : v < 32 then some (.clusterControl ⟨v, h⟩) else none
  | 0xC => if h : v < 10 then some (.block ⟨v, h⟩) else none
  | 0xD => if h : v < 32 then some (.router ⟨v, h⟩) else if h : v - 32 < 18 then some (.stop ⟨v - 32, h⟩) else none
  | _ => none

/-- The unit whose records name the element (Table 17.5): the model's choice among the kinds of SOURCE_ID. -/
def elemSource : Element → Nat
  | .core c => srcCluster (c.val / 10)
  | .cp n => srcCp n.val
  | .sramRow c _ _ | .sramBank c _ | .clusterControl c | .router c => srcCluster c.val
  | .hbmFrame c _ | .hbmChannel c => srcStack (c.val / 16)
  | .lane l _ => srcLink l.val
  | .spareLane g => srcLink (4 * g.val)
  | .block n => if n.val < 8 then srcStack n.val else if n.val = 8 then srcHiu else srcSec
  | _ => srcRtp

/-- The partition of an element (Table 14.2). -/
def elemPart (s : State) : Element → Option Nat
  | .core c => clusterPart s (c.val / 10)
  | .sramRow c b _ | .sramBank c b => bankPart s c.val b.val
  | .hbmFrame c _ | .hbmChannel c => channelPart s c.val
  | .lane l _ => linkPart s l.val
  | .clusterControl c => clusterPart s c.val
  | .crossing k i => if k = 1 then linkPart s i.toNat else if k = 2 then channelPart s i.toNat else none
  | _ => none

/-- Elements that have a test in service (Table 14.6). -/
def testable : Element → Bool
  | .none | .router _ | .stop _ => false
  | _ => true

def isLane : Element → Bool
  | .lane .. => true
  | _ => false

def findElem (s : State) (e : Element) : ElemErr :=
  (s.err.elems.find? fun x => x.element == e).getD { element := e }

def setElem (s : State) (x : ElemErr) : State :=
  { s with err := { s.err with elems := x :: s.err.elems.filter fun y => !(y.element == x.element) } }

/-! ### Records -/

/-- The 32-byte error record (Table 14.2). -/
def errorRecord (s : State) (sev level verdict src : Nat) (inj : Bool) (e : Element) (ctx : Option (BitVec 16)) (count : Nat)
    (detail : Dword) : List Dword :=
  let pt := elemPart s e
  [BitVec.ofNat 64 (sev + level * 2 ^ 4 + verdict * 2 ^ 8 + (if inj then 2 ^ 15 else 0) + src * 2 ^ 16 + elemCode e * 2 ^ 32),
   BitVec.ofNat 64 ((match ctx with | some c => c.toNat + 2 ^ 16 | none => 0) +
     (match pt with | some p => 2 ^ 17 + p * 2 ^ 20 | none => 0) + count % 2 ^ 32 * 2 ^ 32),
   detail, BitVec.ofNat 64 s.fp.generation.toNat]

/-- Append an error record to the event log: retained from CONTAINED upward (Table 17.6). -/
def logError (s : State) (sev level verdict src : Nat) (inj : Bool) (e : Element) (ctx : Option (BitVec 16)) (count : Nat)
    (detail : Dword) : State :=
  logEvent s (elemSource e) 0x01 (decide (1 ≤ sev)) (dwordBytes (errorRecord s sev level verdict src inj e ctx count detail))

/-- Fault a context as a victim (R337). -/
def victim (s : State) (ctx : BitVec 16) (cls : BitVec 4) (cause : Byte) (e : Element) : State :=
  raise s { ctx := ctx, cls := cls, cause := cause, detail := BitVec.ofNat 64 (elemCode e), victim := true }

/-- Severity of an error source (Table 14.4). -/
def sourceSeverity (src : Nat) : Nat :=
  match src with
  | 0x01 | 0x03 | 0x05 => 0
  | 0x02 | 0x04 => 1
  | 0x10 => 3
  | 0x11 => 4
  | 0x14 | 0x15 => 5
  | _ => 2

/-- Processor number of an S-core (R383). -/
def procOf (s : State) (pid : Nat) : Option Nat := (s.procCore.find? fun e => e.2 == pid + 1).map (·.1)

/-- Interrupt sources that an error raises (Tables 17.1 and 17.2). -/
def errorIrq (s : State) (sev : Nat) : Element → State
  | .hbmFrame c _ | .hbmChannel c => irqEdge s (112 + c.val)
  | .sramRow c _ _ | .sramBank c _ => irqEdge s (240 + c.val)
  | .core c => match procOf s c.val with
    | some q => if sev = 0 then irqPrivate s q 6 true else s
    | none => s
  | .cp n => if sev = 0 then irqPrivate s (32 + n.val) 7 true else s
  | _ => s

/-- Record an error; start its element's test unless one runs or passed within the last second (R335, R338). -/
def reportError (s : State) (src sev : Nat) (e : Element) (detail : Dword) (inj : Bool := false)
    (ctx : Option (BitVec 16) := none) : State :=
  let x := findElem s e
  let recent := match x.passed with | some t => decide (s.refNs < t + 1000000000) | none => false
  let start := testable e && !(inj && isLane e) && !x.testing && !recent
  let level := if sev < 2 then 0 else sev
  let verdict := if start || x.testing then 0 else 3
  let n := x.count + 1
  let s := logError s sev level verdict src inj e ctx n detail
  let s := { s with err := { s.err with sev := Tbl.upd 0 s.err.sev sev (· + 1) } }
  let s := errorIrq s sev e
  if e = .none then s
  else setElem s (if start then
      { x with count := n, testing := true, source := src, severity := sev, detail := detail, injected := inj }
    else { x with count := n })

/-! ### Engine resets (R347) -/

/-- A lockstep pair has stopped: CP0 to CP15, 16 the RTP (R342). -/
def pairStopped (s : State) (n : Nat) : Bool := (Tbl.get {} s.err.pairs n).stopped

/-- Contexts with a started item in effect in a partition whose slice binds a channel of a stack. -/
def stackUsers (s : State) (h : Nat) : List (BitVec 16) :=
  s.queues.filterMap fun e => match e.2 with
    | none => none
    | some q =>
      match getCtx s q.ctx with
      | none => none
      | some c =>
        let part := getSlice s c.part
        let uses := (List.range 16).any fun i =>
          bit (regionWord part i 0) 63 && (regionMask part i >>> (16 * h)).setWidth 16 != (0 : BitVec 16)
        if uses && (q.items.any fun i => i.started && i.run.active) then some q.ctx else none

/-- The contexts with a kernel, transfer or access on an engine. -/
def engineUsers (s : State) : Element → List (BitVec 16)
  | .core c => match (getCore s c.val).kernel with | some k => [k.x.ctx] | none => []
  | .block n => if n.val < 8 then stackUsers s n.val else if n.val = 8 then s.hostReads.map (·.ctx) else []
  | .crossing k _ => if k = 0 then s.hostReads.map (·.ctx) else []
  | _ => []

/-- Begin the reset of an engine: its users are victims, a move from or to it aborts (R347, R354). -/
def engineReset (s : State) (e : Element) (item : Option ItemRef) (cls : BitVec 4 := 5) (cause : Byte := 0x03) : State :=
  let s := { s with err := { s.err with
    esc := Tbl.upd 0 s.err.esc 2 (· + 1)
    resets := s.err.resets ++ [{ level := 2, target := e, item := item }]
    resetGen := Tbl.upd 0 s.err.resetGen (elemCode e) (· + 1) } }
  let s := (engineUsers s e).foldl (fun s c => victim s c cls cause e) s
  match e with
  | .core c =>
    let s := (s.moves.filter fun m => m.src == c.val || (m.node == s.node && m.dst == c.val)).foldl
      (fun s m => abortMove s m 0x4B) s
    updCore (abortIns s (· == c.val)) c.val fun k => { k with cuffed := true, run := if k.run = .idle then .idle else .hung }
  | _ => s

/-- An error of ENGINE severity: its record and its reset. A CP or RTP pair is handled by its own rules (R342, R344). -/
def engineError (s : State) (src : Nat) (e : Element) (detail : Dword) (inj : Bool := false) : State :=
  engineReset (reportError s src 2 e detail inj) e none

end Sys2Proof.Machine
end

