-- ==== Sys2Proof/Machine/Irq.lean ====
section
/-!
DEFINITION. The interrupt controller (R383 to R387): which sources are pending and deliverable, claim and completion.
-/
namespace Sys2Proof.Machine

/-- Whether a processor has a core that runs (R383). -/
def procPresent (s : State) (q : Nat) : Bool :=
  if q < 32 then Tbl.get 0 s.procCore q != 0
  else if q < 48 then bit s.fp.cpOk (q - 32)
  else q == 48

/-- The processor that a shared source reaches: 48 where its target has no core or is degraded. -/
def srcTarget (s : State) (n : Nat) : Nat :=
  let t := (getIrq s n).target.toNat
  if procPresent s t then t else 48

/-- Level inputs of private source 4 (Table 17.1), which follow from the state. -/
def privLevel4 (s : State) (q : Nat) : Bool :=
  if q < 32 then
    match Tbl.get 0 s.procCore q with
    | 0 => false
    | k + 1 => (getCore s k).point != .none
  else if q < 48 then
    s.queues.any fun e => match e.2 with | some k => k.cp.toNat == q - 32 && k.ridx != k.widx | none => false
  else
    s.queues.any fun e => match e.2 with
      | some k => (match k.items.find? (!·.started) with | some i => itemPrivileged (itemOpc i) | none => false)
      | none => false

/-- Whether private source `i` of a processor is pending. -/
def privPending (s : State) (q i : Nat) : Bool :=
  let p := getProc s q
  if i = 4 then privLevel4 s q && !bit p.pactive 4
  else if i = 7 ∧ q = 48 then bit p.ppend 7 && !bit p.pactive 7
  else bit p.ppend i

/-- Whether shared source `n` is a level source (Table 17.2; S512 to S1023 as INTR_CFG set). -/
def srcLevel (s : State) (n : Nat) : Bool := levelWired n || (decide (512 ≤ n) && (getIrq s n).level)

def srcPending (s : State) (n : Nat) : Bool :=
  let i := getIrq s n
  i.pend && !(srcLevel s n && i.active)

/-- The sources active at a processor, as priorities. -/
def activePrios (s : State) (q : Nat) : List Nat :=
  let p := getProc s q
  ((setBits p.pactive).map fun i => (Tbl.get 6 p.pprio i).toNat) ++
    (s.irqs.filterMap fun e => if e.2.active && e.2.at_.toNat == q then some e.2.prio.toNat else none)

/-- CPRI (R386). -/
def cpri (s : State) (q : Nat) : Nat := (activePrios s q).foldl max 0

/-- Pending sources of a processor that pass its mask and threshold: source number and PRIO, ascending numbers. -/
def candidates (s : State) (q : Nat) : List (Nat × Nat) :=
  let p := getProc s q
  let lim := max p.thresh.toNat (cpri s q)
  let priv := ((List.range 64).filter fun i => privPending s q i && !bit p.pmask i).map fun i => (i, (Tbl.get 6 p.pprio i).toNat)
  let shared := s.irqs.filterMap fun e =>
    if srcPending s e.1 && !e.2.mask && srcTarget s e.1 == q then some (64 + e.1, e.2.prio.toNat) else none
  (priv ++ shared).filter fun e => decide (lim < e.2)

/-- The one a claim takes: highest PRIO, lower number on ties (R387). -/
def bestOf : List (Nat × Nat) → Option (Nat × Nat)
  | [] => none
  | e :: l => match bestOf l with
    | none => some e
    | some b => if e.2 < b.2 then some b else some e

/-- Whether an S-core accepts interrupts (R114, R125): at U always, at F with IE; never at U while a point is requested. -/
def acceptsAt (pl ie point : Bool) : Bool := if pl then ie else !point

/-- A point is requested of a core and not yet taken (Table 5.15). -/
def pointDue (s : State) (p : Nat) : Bool :=
  (getCore s p).point != .none && (match (getCore s p).run with | .atPoint _ => false | _ => true)

/-- Whether a processor accepts interrupts. -/
def accepts (s : State) (q : Nat) : Bool :=
  if q < 32 then
    match Tbl.get 0 s.procCore q with
    | 0 => false
    | k + 1 => acceptsAt (getS s k).pl (getS s k).ie (pointDue s k) && !(getCore s k).cuffed
  else procPresent s q

/-- Mark a source active at a processor, and clear an edge (R387). -/
def claimSource (s : State) (q src : Nat) : State :=
  if src < 64 then
    let p := getProc s q
    let level := src = 4 ∨ (src = 7 ∧ q = 48)
    setProc s q { p with pactive := setBit p.pactive src true, ppend := if level then p.ppend else setBit p.ppend src false }
  else
    let n := src - 64
    let i := getIrq s n
    setIrq s n { i with active := true, at_ := BitVec.ofNat 6 q, pend := if srcLevel s n then i.pend else false }

/-- The claim value of Table 17.3. -/
def claimValue (e : Nat × Nat) : BitVec 16 := BitVec.ofNat 16 (e.1 + e.2 * 2 ^ 11 + 2 ^ 15)

/-- Claim at a processor: the value, and the state after. -/
def claimAt (s : State) (q : Nat) : BitVec 16 × State :=
  match bestOf (candidates s q) with
  | none => (0, s)
  | some e => (claimValue e, claimSource s q e.1)

/-- Completion of a source at a processor (R387). -/
def completeSource (s : State) (q src : Nat) : State :=
  if src < 64 then
    let p := getProc s q
    setProc s q { p with pactive := setBit p.pactive src false }
  else
    let i := getIrq s (src - 64)
    if i.active && i.at_.toNat == q then setIrq s (src - 64) { i with active := false } else s

end Sys2Proof.Machine
end

