-- ==== Sys2Proof/Machine/MCoreOps.lean ====
section
/-!
DEFINITION. Operations shared by the M-core's instructions: issue and its checks (R72 to R76, R84), waves (R80, R81) and tile
reception (R89, R145).
-/
namespace Sys2Proof.Machine

/-! ### What all three core types share -/

/-- Bring an instruction's line to the front of its set; a line that was absent has been fetched (R430). -/
def touchLine (sets : Nat) (c : Core) (line : Nat) : Core :=
  let k := line % sets
  { c with icache := Tbl.set [] c.icache k (((line :: (Tbl.get [] c.icache k).filter fun l => l != line)).take 4) }

/-- Sets of a core's cache: 8 KiB for M- and V-cores, 4 KiB for S-cores, 4 ways of 64 bytes. -/
def icacheSets (p : Nat) : Nat := if slotKind p = 2 then 16 else 32

/-- The region map that checks a core's accesses. -/
def coreMap (s : State) (p : Nat) : Tbl Dword := (getSlice s (getBinding s p).part).regions

/-- The context of the kernel on a core. -/
def coreCtx (s : State) (p : Nat) : Nat :=
  match (getCore s p).kernel with
  | some k => k.x.ctx.toNat
  | none => 0

/-- Fault the context of a core's kernel, naming the core and its instruction (R84, R119, R132). -/
def raiseCore (s : State) (p : Nat) (cls : BitVec 4) (cause : Byte) (levelF : Bool) (addr : Dword) : State :=
  let c := getCore s p
  match c.kernel with
  | none => s
  | some k => raise s { ctx := k.x.ctx, qid := k.x.qid, seq := k.x.seq, cls := cls, cause := cause, levelF := levelF,
                        vcore := k.vcore, pcore := BitVec.ofNat 10 p, pc := c.pc, addr := addr }

/-- A precise exception: the core stops at the instruction and its context is faulted (R84). -/
def coreException (s : State) (p : Nat) (cause : Byte) (addr : Dword := 0) : State :=
  let cls : BitVec 4 := if slotKind p = 0 then 1 else if slotKind p = 1 then 2 else 3
  let s := updCore s p fun c => { c with run := .stopped cause, wait := .none }
  raiseCore s p cls cause false addr

/-- A core that consumes poison stops at the consuming instruction (R132). -/
def corePoison (s : State) (p : Nat) (addr : Dword := 0) : State :=
  let s := updCore s p fun c => { c with run := .stopped 0, wait := .none }
  raiseCore s p 5 0x01 false addr

/-- The instruction at PC has issued and the next one follows. -/
def retire (s : State) (p : Nat) (next : Dword) : State :=
  let s := updCore s p fun c => touchLine (icacheSets p) { c with pc := next, wait := .none } (c.pc.toNat / 64)
  count s 1 p 0

/-- Outstanding bytes of a core (R72): at most 64 KiB. -/
def outstanding (c : Core) : Nat := (c.xfers.map (·.bytes)).sum

def overlap (a n b m : Nat) : Bool := decide (a < b + m) && decide (b < a + n) && decide (0 < n) && decide (0 < m)

/-- The local range (operand buffer) a transfer touches, and the slice range. -/
def xferLocal : XferKind → Option (Nat × Nat × Bool)
  | .load _ l => some (l, 0, true)
  | .obStore o d => some (o, d.length, true)
  | _ => none

/-- Slice ranges of a transfer: address, length, whether it writes. -/
def xferSlice (x : Xfer) : List (Nat × Nat × Bool) :=
  match x.kind with
  | .load a _ => [(a, x.bytes, false)]
  | .store a d => [(a, d.length, true)]
  | .reduce _ l => l.map fun e => (e.1, 12, true)
  | .tileRow .. => []
  | .obStore .. => []
  | .vload w a b _ => [(a, 64 * fmtBits (fld w 27 24), false), (b, if bit w 23 then 16 else 0, false)]
  | .gather _ l => l.map fun e => (e.2, 4, false)
  | .scatter _ l => l.map fun e => (e.1, 4, true)
  | .ledgerLoad _ a _ => [(a, 6144, false)]
  | .scatterBytes l => l.map fun e => (e.1, e.2.length, true)
  | .sload _ a n _ => [(a, n, false)]
  | .amo _ _ a _ _ => [(a, 8, true)]

/-- Whether an access to `n` slice bytes at `a` must wait for an outstanding transfer (R72). -/
def sliceHazard (c : Core) (a n : Nat) (write : Bool) : Bool :=
  c.xfers.any fun x => (xferSlice x).any fun r => overlap a n r.1 r.2.1 && (write || r.2.2)

/-- Whether an access to a local range must wait for an outstanding transfer into it. -/
def localHazard (c : Core) (a n : Nat) : Bool :=
  c.xfers.any fun x => match x.kind with
    | .load _ l => overlap a n l x.bytes
    | .obStore o d => overlap a n o d.length
    | _ => false

/-! ### M-core registers and issue -/

def rdG (m : MCore) (r : Nat) : Dword := if r = 0 then 0 else Tbl.get 0 m.g r
def wrG (m : MCore) (r : Nat) (v : Dword) : MCore := if r = 0 then m else { m with g := Tbl.set 0 m.g r v }

def fA (w : Dword) : Nat := fld w 55 52
def fB (w : Dword) : Nat := fld w 51 48
def fC (w : Dword) : Nat := fld w 47 44

/-- What an M-core instruction does after its opcode checks. -/
inductive MEffect where
  /-- It cannot issue yet. -/
  | wait
  | exc (cause : Byte)
  | poison
  | go (s : State)

/-- Whether the core goes on: running, no forced point waiting. -/
def canIssue (s : State) (p : Nat) : Bool :=
  let c := getCore s p
  c.run == .running && !(c.forced && c.point != .none)

/-- The first read of a lost bank is logged also where its poison stops the reader (R135). -/
def readLost (s : State) (p a n : Nat) : State := sliceLog s (coreMap s p) (getBinding s p).part a n false (coreCtx s p)

/-- The fetch checks of an M- or V-core: alignment, quota, poison. -/
def fetch8 (s : State) (p : Nat) : Option Bool :=
  let pc := (getCore s p).pc.toNat
  if pc % 8 ≠ 0 ∨ !sliceRange (coreMap s p) pc 8 then some false
  else if (sliceRead s (coreMap s p) pc 8).2 then some true
  else none

/-- Issue an M-core instruction: `opc` and `mask` are its row of Table 4.3; a word of another opcode is no such event. -/
def issueM (s : State) (c : Fin 160) (w : Dword) (opc : Nat) (mask : Dword) (body : State → Nat → MCore → MEffect) : State :=
  let p := mPid c
  let m := getM s p
  if fld w 63 56 ≠ opc ∨ !canIssue s p ∨ m.job ≠ .none then s
  else match fetch8 s p with
    | some false => coreException s p 0x0A (getCore s p).pc
    | some true => corePoison (readLost s p (getCore s p).pc.toNat 8) p (getCore s p).pc
    | none =>
      if !onlyBits w (mask ||| 0xFF00000000000000) then coreException s p 0x01
      else match body s p m with
        | .wait => s
        | .exc e => coreException s p e
        | .poison => corePoison s p
        | .go s => s

/-- A register result and the next instruction. -/
def goReg (s : State) (p : Nat) (m : MCore) (r : Nat) (v : Dword) : MEffect :=
  .go (retire (setM s p (wrG m r v)) p ((getCore s p).pc + 8))

/-- The branch conditions of R76; `none` is ILLEGAL_FORM. -/
def condHolds (cond : Nat) (a b : Dword) : Option Bool :=
  match cond with
  | 0 => some (a == b)
  | 1 => some (a != b)
  | 2 => some (a.slt b)
  | 3 => some (!a.slt b)
  | 4 => some (a.ult b)
  | 5 => some (!a.ult b)
  | _ => none

/-- `PC + 8 * OFF`, OFF signed in bits 19:0. -/
def branchTo (pc : Dword) (w : Dword) : Dword := pc + BitVec.ofInt 64 (8 * sfld w 19 0)

/-! ### Sync signals (R83, R121) -/

/-- Send a signal to a counter of the core's sync group: a SYNC packet on its way (R122). -/
def sendSignal (s : State) (p n : Nat) : State :=
  let b := getBinding s p
  { s with signals := s.signals ++ [(syncKey b.sgCl b.sgSlot, n)] }

def coreCounter (s : State) (p n : Nat) : BitVec 16 :=
  let b := getBinding s p
  syncCounter s b.sgCl b.sgSlot n

/-- The fence of MFENCE, VFENCE and SFENCE: every earlier transfer has completed (R83). -/
def fenced (s : State) (p : Nat) : Bool := (getCore s p).xfers.isEmpty

/-- A refused row is reported at the next MFENCE, MSIG or MHALT (R85). -/
def mFence (s : State) (p : Nat) (m : MCore) (k : State → MEffect) : MEffect :=
  if !fenced s p then .wait
  else if m.refused then
    .exc 0x09
  else k s

/-! ### Operand-buffer checks (R73) -/

/-- Within the buffer and within one bank. -/
def obOneBank (a n : Nat) : Bool := decide (a + n ≤ 2 ^ 20) && (n == 0 || a / 2 ^ 19 == (a + n - 1) / 2 ^ 19)

def obRead (m : MCore) (a n : Nat) : List Byte := memRead m.ob a n
def obPoisoned (m : MCore) (a n : Nat) : Bool := poisoned m.obPoison 8 a n
/-- Write the operand buffer, each byte with its poison. -/
def obCarry (m : MCore) (a : Nat) (data : List Byte) (flags : List Bool) : MCore :=
  { m with ob := memWrite m.ob a data, obPoison := poisonWrite m.obPoison 8 a flags }
def obWrite (m : MCore) (a : Nat) (data : List Byte) (bad : Bool) : MCore := obCarry m a data (flagsOf data bad)

/-- FMT and scale bit rules (R76, Table 4.4): reserved codes and scale bits a format forbids or requires. -/
def fmtForm (fmt : Nat) (sc : Bool) : Bool :=
  decide (fmt ≤ 7) && (if fmt = 0 ∨ fmt = 1 ∨ fmt = 7 then !sc else if 4 ≤ fmt ∧ fmt ≤ 6 then sc else true)

/-- K of a pairing (R69, Table 4.2). -/
def kOf (pair : Nat) : Nat := if pair = 2 then 256 else 128

def planeOf (m : MCore) (p : Bool) : Plane := if p then m.plane1 else m.plane0
def setPlane (m : MCore) (p : Bool) (q : Plane) : MCore := if p then { m with plane1 := q } else { m with plane0 := q }
def getTile (m : MCore) (t : Nat) : Tile := Tbl.get {} m.tiles t
def setTile (m : MCore) (t : Nat) (x : Tile) : MCore := { m with tiles := Tbl.set {} m.tiles t x }

/-- Whether an admitted wave is between admission and tile `t`. -/
def waveOnTile (m : MCore) (t : Nat) : Bool := m.waves.any fun w => w.tile.toNat == t
def waveOnPlane (m : MCore) (p : Bool) : Bool := m.waves.any fun w => w.weights == .plane p

/-! ### Waves (R80, R81) -/

/-- Vector `i` of an MWAVE as read at admission. -/
def mwaveWave (m : MCore) (w : Dword) (i : Nat) : Wave :=
  let fmt := fld w 35 32
  let sc := bit w 31
  let pl := planeOf m (bit w 39)
  let k := kOf ((pairing fmt pl.fmt.toNat).getD 0)
  let gx := (rdG m (fA w)).toNat + i * fld w 13 0 * 32
  let gs := (rdG m (fB w)).toNat + i * (k / 32)
  { tile := BitVec.ofNat 3 (fld w 42 40), fmtX := BitVec.ofNat 4 fmt, fmtW := pl.fmt, scX := sc, scW := pl.sc, k := k,
    colBase := if fmt = 7 then 32 * fld w 30 29 else 0, cols := npOf fmt,
    rows := [(fld w 28 22 + i, obRead m gx (k * fmtBits fmt / 8), if sc then obRead m gs (k / 32) else [])],
    weights := .plane (bit w 39) }

/-- Operand ranges of vector `i`: vector and scales. -/
def mwaveRanges (m : MCore) (w : Dword) (i : Nat) : List (Nat × Nat) :=
  let fmt := fld w 35 32
  let k := kOf ((pairing fmt (planeOf m (bit w 39)).fmt.toNat).getD 0)
  ((rdG m (fA w)).toNat + i * fld w 13 0 * 32, k * fmtBits fmt / 8) ::
    (if bit w 31 then [((rdG m (fB w)).toNat + i * (k / 32), k / 32)] else [])

/-- Bytes of a weight-streaming block (Table 4.2). -/
def blockBytes (k fmtW : Nat) (sc : Bool) : Nat := 16 * k * fmtBits fmtW / 8 + (if sc then 16 * k / 32 else 0)

/-- The fields of an MSTREAM and its register `gc` (R81). -/
structure StreamArgs where
  t : Nat
  b : Nat
  fmtW : Nat
  fmtX : Nat
  scW : Bool
  scX : Bool
  n : Nat
  ks : Nat
  cg0 : Nat
  xstr : Nat
  ascale : Nat
  gw : Nat
  gx : Nat
  k : Nat

def streamArgs (m : MCore) (w : Dword) : StreamArgs :=
  let gc := rdG m (fC w)
  { t := fld w 42 40, b := fld w 39 37 + 1, fmtW := fld w 35 32, fmtX := fld w 31 28, scW := bit w 27, scX := bit w 26,
    n := fld w 15 0, ks := fld gc 15 0, cg0 := fld gc 21 16, xstr := fld gc 47 32, ascale := fld gc 63 48,
    gw := (rdG m (fA w)).toNat, gx := (rdG m (fB w)).toNat,
    k := kOf ((pairing (fld w 31 28) (fld w 35 32)).getD 0) }

/-- Operand-buffer ranges of wave `i` of an MSTREAM. -/
def streamRanges (a : StreamArgs) (i : Nat) : List (Nat × Nat) :=
  let sl := i % a.ks
  (List.range a.b).flatMap fun b =>
    (a.gx + b * a.xstr * 32 + sl * (a.k * fmtBits a.fmtX / 8), a.k * fmtBits a.fmtX / 8) ::
      (if a.scX then [(a.ascale * 16 + b * (a.ks * (a.k / 32)) + sl * (a.k / 32), a.k / 32)] else [])

/-- Wave `i` of an MSTREAM, with the weight block that the stream port holds for it. -/
def streamWave (m : MCore) (a : StreamArgs) (i : Nat) (blk : List Byte) : Wave :=
  let sl := i % a.ks
  let cg := a.cg0 + i / a.ks
  let elems := 16 * a.k * fmtBits a.fmtW / 8
  { tile := BitVec.ofNat 3 (a.t + cg / 8), fmtX := BitVec.ofNat 4 a.fmtX, fmtW := BitVec.ofNat 4 a.fmtW, scX := a.scX,
    scW := a.scW, k := a.k, colBase := 16 * (cg % 8), cols := 16,
    rows := (List.range a.b).map fun b =>
      (b, obRead m (a.gx + b * a.xstr * 32 + sl * (a.k * fmtBits a.fmtX / 8)) (a.k * fmtBits a.fmtX / 8),
        if a.scX then obRead m (a.ascale * 16 + b * (a.ks * (a.k / 32)) + sl * (a.k / 32)) (a.k / 32) else []),
    weights := .block (blk.take elems) (blk.drop elems) }

/-- Elements with their block scales; an unscaled operand counts as scale 0x7F (R48). -/
def withScales (sc : Bool) (scales : List Byte) (vs : List FVal) : List (FVal × Nat) :=
  vs.zipIdx.map fun v => (v.1, if sc then (scales.getD (v.2 / 32) 0).toNat else 127)

def decodeVec (fmt k : Nat) (bytes : List Byte) : List FVal := (unpack bytes (fmtBits fmt) k).map (decodeElem fmt)

/-- Column `n` of the weights a wave meets, with scales. -/
def waveColumn (m : MCore) (w : Wave) (n : Nat) : List (FVal × Nat) :=
  let len := w.k * fmtBits w.fmtW.toNat / 8
  match w.weights with
  | .plane p =>
    let pl := planeOf m p
    withScales w.scW (memRead pl.scales (n * (w.k / 32)) (w.k / 32)) (decodeVec w.fmtW.toNat w.k (memRead pl.data (n * len) len))
  | .block b sc =>
    withScales w.scW ((sc.drop (n * (w.k / 32))).take (w.k / 32)) (decodeVec w.fmtW.toNat w.k ((b.drop (n * len)).take len))

/-- Add a code to a ledger element: a sum beyond the range, or a SAT code added, sets LEDGER_RANGE (R53, Table 3.6). -/
def ledgerAccumulate (x y : Ledger) : Ledger × Flags :=
  let r := ledgerAdd x y
  (r, flIf (r == satCode) flLedgerRange)

/-- One element of a ledger tile after a wave: the products in rising k, each entered under R51 and added under R53. -/
def ledgerDot (acc : Ledger) : List (FVal × Nat) → List (FVal × Nat) → Flags → Ledger × Flags
  | (a, sa) :: l, (b, sb) :: r, fl =>
    let e := ledgerEnter (ledgerProduct a b sa sb)
    let x := ledgerAccumulate acc e.1
    ledgerDot x.1 l r (fl ||| e.2 ||| x.2)
  | _, _, fl => (acc, fl)

/-- One element of an FP32 tile after a wave (R58): bits 31:0 of the element. -/
def bf16Dot (acc : Ledger) (xs ws : List (FVal × Nat)) : Ledger × Flags :=
  let r := bf16Accumulate (acc.setWidth 32) (List.zipWith (fun a b => a.1.mul b.1) xs ws)
  (r.1.setWidth 96, r.2)

/-- Add a wave's sums into its tile (R80, R81); flags to the tile and core copies (R61). -/
def waveSums (m : MCore) (w : Wave) : MCore :=
  let t := getTile m w.tile.toNat
  let r := (List.range w.cols).foldl (fun (acc : Tbl Ledger × Flags) n =>
    let col := waveColumn m w n
    w.rows.foldl (fun acc row =>
      let xs := withScales w.scX row.2.2 (decodeVec w.fmtX.toNat w.k row.2.1)
      let key := 128 * row.1 + (w.colBase + n) % 128
      let x := if t.fp32 then bf16Dot (Tbl.get 0 acc.1 key) xs col else ledgerDot (Tbl.get 0 acc.1 key) xs col 0
      (Tbl.set 0 acc.1 key x.1, acc.2 ||| x.2)) acc) (t.elems, 0)
  { setTile m w.tile.toNat { t with elems := r.1, flags := t.flags ||| (r.2 &&& flTileMask) } with flags := m.flags ||| r.2 }

/-- A core is in the reset of its engine or partition, with the cuff at its edge (R349). -/
def coreCuffed (s : State) (p : Nat) : Bool :=
  s.err.resets.any fun r =>
    (r.level == 2 && s.err.edgeEngine && r.target == .core (Fin.ofNat 320 p)) ||
    (r.level == 3 && s.err.edgePartition && clusterPart s (p / 10) == some r.part.toNat)

/-! ### Tile reception (R85, R89, R143, R145) -/

/-- Add one segment of 16 partials to an open ledger tile. `none` is a refusal. -/
def tileReceive (m : MCore) (t row seg contrib : Nat) (ps : List Ledger) : Option MCore :=
  let x := getTile m t
  if !x.isOpen || x.fp32 then none
  else
    let r := (ps.zipIdx).foldl (fun (acc : Tbl Ledger × Flags) e =>
      let key := 128 * row + 16 * seg + e.2
      let y := ledgerAccumulate (Tbl.get 0 acc.1 key) e.1
      (Tbl.set 0 acc.1 key y.1, acc.2 ||| y.2)) (x.elems, 0)
    some { setTile m t { x with elems := r.1, contribs := x.contribs + contrib, flags := x.flags ||| r.2 } with
           flags := m.flags ||| r.2 }

/-- The receive count of a tile (R145). -/
def tileCount (m : MCore) (t : Nat) : BitVec 16 := BitVec.ofNat 16 ((getTile m t).contribs / 8)

/-- Wake an M-core that waits on a receive count (R83). -/
def wakeTile (s : State) (p : Nat) : State :=
  let c := getCore s p
  match c.wait with
  | .tile t v => if canIssue s p && waitDone (tileCount (getM s p) t.toNat) v then retire s p (c.pc + 8) else s
  | _ => s

/-- The wait of a resumed core is evaluated again (R93). -/
def wakeWait (s : State) (p : Nat) : State :=
  let c := getCore s p
  match c.wait with
  | .counter k v =>
    if canIssue s p && !(getS s p).pl && waitDone (coreCounter s p k.toNat) v then retire s p (c.pc + if slotKind p = 2 then 4 else 8) else s
  | _ => wakeTile s p

/-- A partial segment reaches a tile of a core: added, or refused (R89); poison is consumed by the tile (R132). -/
def tileArrive (s : State) (p t row seg contrib : Nat) (ps : List Ledger) (bad : Bool) : State × Bool :=
  if bad then (corePoison s p, true)
  else match tileReceive (getM s p) t row seg contrib ps with
    | none => (s, false)
    | some m => (wakeTile (setM s p m) p, true)

/-- The segments of a tile row (R143). -/
def segments : Nat → List Ledger → List (List Ledger)
  | 0, _ => []
  | n + 1, l => l.take 16 :: segments n (l.drop 16)

/-- A row of this core's DEST = 3 was refused; MFENCE, MSIG or MHALT reports it (R85). -/
def refuseRow (s : State) (p : Nat) : State := updM s p fun m => { m with refused := true }

end Sys2Proof.Machine
end

