-- ==== Sys2Proof/Machine/Router.lean ====
section
/-!
DEFINITION. The mesh (R141 to R145) and the I/O ring's stops (R17): routes, what each router forwards and combines, and packets that end at a
core's port, with those that wait there (R174).
-/
namespace Sys2Proof.Machine

/-! ### Ring stops (R17, Table 1.4) -/

/-- What attaches to the ring at a stop: eight links, an HBM stack, the host interface, the security engine. -/
inductive RingBlock where
  | links (first : Nat)
  | hbm (stack : Nat)
  | host
  | security
  deriving DecidableEq, Repr

/-- Table 1.4, IOS00 to IOS17: the block, and the cluster whose edge router the stop injects at. -/
def ringStops : List (RingBlock × Nat) :=
  [(.links 0, 0), (.links 8, 1), (.links 16, 8), (.links 24, 9), (.hbm 2, 11), (.hbm 3, 13), (.hbm 7, 27), (.hbm 6, 29), (.links 48, 31),
   (.links 56, 30), (.links 40, 23), (.links 32, 22), (.hbm 4, 20), (.hbm 5, 18), (.host, 6), (.hbm 1, 4), (.hbm 0, 2), (.security, 0)]

/-- The edge router of a stop. -/
def stopRouter (n : Nat) : Nat := (ringStops.getD n (.security, 0)).2

/-- The stop of a block. -/
def stopOf (b : RingBlock) : Nat := (findIdx? (fun e => e.1 == b) ringStops 0).getD 0

/-- The stop of a link. -/
def linkStop (link : Nat) : Nat := stopOf (.links (link / 8 * 8))

/-! ### Routes (R141) -/

/-- The router at a column and a row (R12). -/
def routerAt (col row : Nat) : Nat := 8 * (2 * (row / 4) + col / 2) + 2 * (row % 4) + col % 2

/-- The places after `x` up to `y`. -/
def stepsTo (x y : Nat) : List Nat :=
  if x ≤ y then (List.range (y - x)).map (x + 1 + ·) else (List.range (x - y)).map (x - 1 - ·)

/-- The routers from `a` to `b`: along the row to the column, then along the column. -/
def meshRoute (a b : Nat) : List Nat :=
  a :: (stepsTo (clusterCol a) (clusterCol b)).map (routerAt · (clusterRow a)) ++
    (stepsTo (clusterRow a) (clusterRow b)).map (routerAt (clusterCol b))

/-- The router where a packet enters the mesh, and the one where it leaves: port 13 is that of a ring stop. -/
def srcRouter (p : MeshPkt) : Nat := if p.srcPort = 13 then stopRouter p.stop.toNat else p.srcCl.toNat
def dstRouter (p : MeshPkt) : Nat := if p.dstPort = 13 then stopRouter p.stop.toNat else p.dstCl.toNat

def pktRoute (p : MeshPkt) : List Nat := meshRoute (srcRouter p) (dstRouter p)

/-- Count a packet at every router that forwards it (Table 17.4). -/
def routed (s : State) (p : MeshPkt) : State := (pktRoute p).foldl (fun s r => count s 8 r p.vc.toNat) s

/-! ### Combining (R144) -/

/-- Whether two reduce packets are identical in the fields of R144, under one region map, and may be summed. -/
def combinable (a b : HeldPkt) : Bool :=
  let p := a.pkt
  let q := b.pkt
  p.type == q.type && p.dstCl == q.dstCl && p.dstPort == q.dstPort && p.part == q.part && p.gen == q.gen && p.len == q.len &&
  (if p.type = 5 then p.addr == q.addr else p.tile == q.tile && p.row == q.row && p.seg == q.seg) && a.map == b.map &&
  decide (p.contrib.toNat + q.contrib.toNat ≤ 255)

/-- Whether partial `j` of a packet is poisoned: a unit that holds it is (R132). -/
def partialBad (p : MeshPkt) (j : Nat) : Bool := ((p.poison.drop (12 * j)).take 12).any id

/-- The poison of a payload of 16 partials. -/
def partialFlags (f : Nat → Bool) : List Bool :=
  if (List.range 16).any f then (List.range 16).flatMap fun j => List.replicate 12 (f j) else []

/-- Partials added pairwise, CONTRIB summed; a partial is poisoned where either was. -/
def combine (p q : MeshPkt) : MeshPkt :=
  { p with contrib := p.contrib + q.contrib, payload := sumPayload p.payload q.payload
           poison := partialFlags fun j => partialBad p j || partialBad q j }

def getRouter (s : State) (cl : Nat) : List HeldPkt := Tbl.get [] s.routers cl
def setRouter (s : State) (cl : Nat) (l : List HeldPkt) : State := { s with routers := Tbl.set [] s.routers cl l }

/-- A reduce packet passes the routers of a route without hold: at each, the matching packets held there join it. -/
def carry : List Nat → State → HeldPkt → State × HeldPkt
  | [], s, h => (s, h)
  | r :: l, s, h =>
    let x := (getRouter s r).foldl (fun (acc : List HeldPkt × HeldPkt × Nat) k =>
      if combinable acc.2.1 k then (acc.1, { acc.2.1 with pkt := combine acc.2.1.pkt k.pkt }, acc.2.2 + 1) else (acc.1 ++ [k], acc.2)) ([], h, 0)
    carry l (count (countN (setRouter s r x.1) 8 r 4 x.2.2) 8 r h.pkt.vc.toNat) x.2.1

/-! ### Packets at a core's port (R174) -/

/-- A WRITE into the operand buffer or local memory of the vcore of a core port (Table 7.9 step 6). -/
def portWrite (s : State) (pid : Nat) (p : MeshPkt) : State :=
  let a := p.addr.toNat
  let n := p.payload.length
  let bad := (p.poison ++ List.replicate n false).take n
  match slotKind pid with
  | 0 => if a + n ≤ 2 ^ 20 then updM s pid fun m => obCarry m a p.payload bad else s
  | 1 => if a + n ≤ 2 ^ 19 then updV s pid fun v =>
      { v with lm := memWrite v.lm a p.payload, lmPoison := poisonWrite v.lmPoison 8 a bad } else s
  | _ => if a + n ≤ 0x30000 then updS s pid fun c =>
      { c with lm := memWrite c.lm a p.payload, lmPoison := poisonWrite c.lmPoison 8 a bad } else s

/-- The answer to a packet, back to its source port. LEN counts payload flits, the last one filled up. -/
def answer (p : MeshPkt) (type : BitVec 4) (data : List Byte) (flags : List Bool) : Out :=
  .mesh { type := type, vc := 2, dstCl := p.srcCl, dstPort := p.srcPort, srcCl := p.dstCl, srcPort := p.dstPort, stop := p.stop,
          part := p.part, addr := p.addr, gen := p.gen, tag := p.tag, len := BitVec.ofNat 8 ((data.length + 31) / 32), payload := data,
          poison := flags }

/-- Serve a packet at the core that carries its vcore: a row segment, or a write; a refused row is its sender's to learn (R85). -/
def servePkt (p : MeshPkt) (s : State) (pid : Nat) : State :=
  if coreCuffed s pid then s
  else if p.type = 6 then
    let r := if slotKind pid ≠ 0 then (s, false)
      else tileArrive s pid p.tile.toNat p.row.toNat p.seg.toNat p.contrib.toNat (pktPartials p.payload) (p.poison.any id)
    if r.2 || decide (10 ≤ p.srcPort.toNat) then r.1 else refuseRow r.1 (p.srcCl.toNat * 10 + p.srcPort.toNat)
  else emit (portWrite s pid p) (answer p 3 [] [])

/-- The packets that wait behind a full stash try again (R174). -/
def retryMesh (s : State) : State :=
  s.meshWait.foldl (fun s p => steered s p (servePkt p)) { s with meshWait := [] }

/-! ### Reduce packets (R143 to R145) -/

/-- A slice that its sender's core may no longer address: SRAM_RANGE at that core (Table 6.14). -/
def rangeRefused (s : State) (p : MeshPkt) : State :=
  let pid := p.srcCl.toNat * 10 + p.srcPort.toNat
  if 10 ≤ p.srcPort.toNat ∨ (getCore s pid).run ≠ .running then s else coreException s pid 0x07 (p.addr.setWidth 64)

/-- A reduce packet has reached its destination: port 10 adds its partials, each as one addition; a core's port steers it. -/
def reduceApply (s : State) (h : HeldPkt) : State :=
  let p := h.pkt
  let ps := pktPartials p.payload
  if p.type = 5 then
    if !sliceRange h.map p.addr.toNat 192 || decide (p.addr.toNat / 2 ^ 26 ≠ (p.addr.toNat + 191) / 2 ^ 26) then rangeRefused s p
    else sliceReduceAll (sliceLost s h.map p.part p.addr.toNat 192 true) h.map p.addr.toNat (partialBad p) ps
  else if 10 ≤ p.dstPort.toNat then s
  else steered s p (servePkt p)

/-- A reduce packet on the rest of its route: combined with a held one, held, or forwarded, router by router (R144). -/
def reduceWalk : List Nat → State → HeldPkt → State
  | [], s, h => reduceApply s h
  | r :: l, s, h =>
    let b := getRouter s r
    match findIdx? (combinable h) b 0 with
    | some i =>
      let k := b.getD i {}
      count (setRouter s r (b.set i { k with pkt := combine k.pkt h.pkt })) 8 r 4
    | none =>
      if s.mem.redHold = 0 ∨ 16 ≤ b.length then reduceWalk l (count s 8 r h.pkt.vc.toNat) h
      else setRouter s r (b ++ [h])

/-- A packet that was held at router `r` goes on. -/
def reduceOn (s : State) (r : Nat) (h : HeldPkt) : State :=
  reduceWalk ((meshRoute r (dstRouter h.pkt)).drop 1) (count s 8 r h.pkt.vc.toNat) h

end Sys2Proof.Machine
end

