-- ==== Sys2Proof/Machine/Xfers.lean ====
section
/-!
DEFINITION. The transfers of an M-core (R72, R78, R82): their pieces, the weight blocks of the stream port (R67), and what a completed
transfer does.
-/
namespace Sys2Proof.Machine

/-! ### Transfers of an M-core (R72, R78, R82) -/

/-- Append an outstanding transfer checked against a region map. -/
def addXferAt (s : State) (map : Tbl Dword) (p bytes : Nat) (bad : List Bool) (k : XferKind) : State :=
  let x : Xfer := ⟨bytes, (getBinding s p).part, map, bad, k⟩
  updCore s p fun c => { c with xfers := c.xfers ++ [x] }

/-- Append an outstanding transfer checked against the map in force. -/
def addXfer (s : State) (p bytes : Nat) (bad : List Bool) (k : XferKind) : State := addXferAt s (coreMap s p) p bytes bad k

/-- ROWS, 0 meaning 256, and row bytes of an MLD or MST. -/
def rowsOf (w : Dword) : Nat := if fld w 39 32 = 0 then 256 else fld w 39 32
def rowLen (w : Dword) : Nat := fld w 11 0 * 32

/-- Row `i` of a strided slice range: `base + i * stride`, modulo 2^64. -/
def rowAddr (base stride : Dword) (i : Nat) : Nat := (base + BitVec.ofNat 64 i * stride).toNat


/-- The bytes and flags of row `r` of a tile converted to a target (R82). -/
def convRow (m : MCore) (w : Dword) (r : Nat) : List Byte × List Ledger × Flags :=
  let t := getTile m (fld w 42 40)
  let tgt := fld w 38 36
  let es := (List.range 128).map fun n => Tbl.get 0 t.elems (128 * r + n)
  if tgt = 6 then (es.flatMap partialBytes, es, 0)
  else if t.fp32 then
    let cs := es.map fun e =>
      if tgt = 0 then (e.toNat % 2 ^ 32, (0 : Flags)) else
        let b := narrowBf16 (e.setWidth 32)
        (b.1.toNat, b.2)
    (cs.flatMap fun c => leBytes (if tgt = 0 then 4 else 2) c.1, [], cs.foldl (fun a c => a ||| c.2) 0)
  else
    let cs := es.map fun e => ledgerConvert tgt e (sfld w 35 29)
    let n := match tgt with | 0 => 4 | 1 => 2 | 5 => 4 | _ => 1
    (cs.flatMap fun c => leBytes n c.1, [], cs.foldl (fun a c => a ||| c.2) 0)

/-- Bytes of a converted row (Table 4.4). -/
def convRowBytes (tgt : Nat) : Nat := match tgt with | 0 => 512 | 1 => 256 | 5 => 512 | 6 => 1536 | _ => 128

/-- Send row `rowd` of partials to tile `tile` of vcore `vc` (R82, R166): the vcore is looked up through the cluster's directory cache; at this
member its local entry gives core and generation, else the row leaves as eight packets for NODE. -/
def sendRow (s : State) (p : Nat) (n : Nat) (vc : BitVec 16) (tile : BitVec 3) (rowd : BitVec 7) (ps : List Ledger) : State :=
  let map := (getM s p).jobMap
  let add (s : State) (dst : Nat) (gen : Byte) (ps : List Ledger) : State := addXferAt s map p n [] (.tileRow vc tile rowd dst gen ps)
  match getGlove s (getBinding s p).gid with
  | none => refuseRow (add s 0 0 []) p
  | some g =>
    let d := dirLookup s (p / 10) g vc.toNat
    if decide (g.vcount ≤ vc.toNat) || !dirTakesRows d.2 then refuseRow (add d.1 0 0 []) p
    else if dirNode d.2 = s.node then match findBinding d.1 g.gid vc with
      | none => refuseRow (add d.1 0 0 []) p
      | some q => add d.1 q (getBinding d.1 q).gen ps
    else ((segments 8 ps).zipIdx).foldl (fun s e =>
      let c := kernelSender s p vc tile rowd
      let r := regSend s c
      issueReduce r.1 { ttype := 9, gid := g.gid, vc := 3, len := 192, addr := vcoreAddr 0 vc tile.toNat rowd.toNat e.2
                        data := e.1.flatMap partialBytes, prio := some r.2 } (dirNode d.2) 1 [c]) (add d.1 0 0 [])

/-- Issue row `r` of a conversion: read it, set flags, clear it if CLR, and send it to its destination (R82). -/
def convIssue (s : State) (p : Nat) (w : Dword) (r : Nat) : State :=
  let m := getM s p
  let row := fld w 25 19 + r
  let v := convRow m w row
  let t := getTile m (fld w 42 40)
  let t := { t with
    flags := t.flags ||| (v.2.2 &&& flTileMask)
    elems := if bit w 26 then t.elems.filter fun e => !(decide (128 * row ≤ e.1) && decide (e.1 < 128 * row + 128)) else t.elems }
  let s := setM s p { setTile m (fld w 42 40) t with flags := m.flags ||| v.2.2 }
  let gd := rdG m (fA w)
  let a := rowAddr gd (rdG m (fB w)) r
  let n := convRowBytes (fld w 38 36)
  match fld w 28 27 with
  | 0 => addXferAt s m.jobMap p n [] (.obStore a v.1)
  | 1 => addXferAt s m.jobMap p n [] (.store a v.1)
  | 2 => addXferAt s m.jobMap p n [] (.reduce a (partialsAt a v.2.1))
  | _ => sendRow s p n (BitVec.ofNat 16 (fld gd 15 0)) (BitVec.ofNat 3 (fld gd 18 16)) (BitVec.ofNat 7 (fld gd 25 19 + r)) v.2.1

/-- Issue the next piece of an MLD or MST that room allows. -/
def copyIssue (s : State) (p : Nat) (w : Dword) (row off n : Nat) : State :=
  let m := getM s p
  let sa := rowAddr (rdG m (fA w)) (rdG m (fC w)) row + off
  let oa := (rdG m (fB w)).toNat + row * rowLen w + off
  if fld w 63 56 = 0x20 then addXferAt s m.jobMap p n [] (.load sa oa)
  else addXferAt s m.jobMap p n (poisonFlags m.obPoison 8 oa n) (.store sa (obRead m oa n))

/-- The stream port buffers the next weight blocks of an MSTREAM, up to 8 (R67), each as soon as there is room for it, no outstanding store of
the core writes to it (R72) and its clusters are in run (R326). R67 and R86 say that blocks are buffered and complete before their waves,
and not when they are read: as early as this (DESIGN CHOICE, log 144). -/
def fillStream : Nat → State → Nat → State
  | 0, s, _ => s
  | fuel + 1, s, p =>
    let m := getM s p
    match m.job with
    | .stream w i =>
      let a := streamArgs m w
      let b := blockBytes a.k a.fmtW a.scW
      let j := i + m.stream.length
      let at_ := a.gw + j * b
      if decide (8 ≤ m.stream.length) || decide (a.n ≤ j) || sliceHazard (getCore s p) at_ b false then s
      else
        let d := meetDomains s ((slicePieces m.jobMap at_ b).map fun k => sramBank k.1 / 32)
        if !d.2 then d.1
        else
          let r := sliceRead d.1 m.jobMap at_ b
          let s := sliceLost d.1 m.jobMap (getBinding s p).part at_ b false (coreCtx s p)
          fillStream fuel (updM s p fun m => { m with stream := m.stream ++ [⟨r.1, r.2⟩] }) p
    | _ => s

/-- Whether an interrupted instruction stands at a boundary of R91: a wave, or a row of an MCONV, MLD or MST. -/
def atBoundary : MJob → Bool
  | .copy _ _ off => off == 0
  | _ => true

/-- Advance the instruction that keeps the issue stage of a running core, piece by piece, as far as the 64 KiB of room allows (R72); a forced
point stops it at the next row boundary (R91). -/
def pumpM : Nat → State → Nat → State
  | 0, s, _ => s
  | fuel + 1, s, p =>
    let m := getM s p
    let c := getCore s p
    let room := 65536 - outstanding c
    if c.run != .running || (c.forced && c.point != .none && atBoundary m.job) then s
    else match m.job with
      | .stream .. => fillStream 8 s p
      | .copy w row off =>
        if row ≥ rowsOf w then retire (setM s p { m with job := .none }) p (c.pc + 8)
        else
          let n := min room (rowLen w - off)
          if n = 0 then s
          else
            let s := copyIssue s p w row off n
            let job := if off + n = rowLen w then MJob.copy w (row + 1) 0 else .copy w row (off + n)
            pumpM fuel (updM s p fun m => { m with job := job }) p
      | .conv w row =>
        if row ≥ fld w 18 11 then retire (setM s p { m with job := .none }) p (c.pc + 8)
        else if room < convRowBytes (fld w 38 36) || waveOnTile m (fld w 42 40) then s
        else pumpM fuel (updM (convIssue s p w row) p fun m => { m with job := .conv w (row + 1) }) p
      | _ => s

/-- Fuel for the longest instruction: 256 rows of at most three pieces each, and the end. -/
def pumpFuel : Nat := 1200

/-- The kernel of a core has written poisoned data: its item reports POISON = 1 (R132, Table 8.12). -/
def kernelPoison (s : State) (p : Nat) : State :=
  match (getCore s p).kernel with
  | none => s
  | some k => updRun s k.x fun r => { r with poison := true }

/-- Where the packets of a reduce go: one for each 192 bytes that holds any of its partials (R143). -/
def reduceGroups (base : Nat) (items : List (Nat × Ledger)) : List Nat :=
  ((List.range 32).filter fun g => items.any fun e => (e.1 - base) / 192 == g).map (base + 192 * ·)

/-- The 8 packets of a row for a tile, and the 32 of a VSTL with RED = 1 or the 8 of a row for slice memory (R143): each passes the routers of its
route, takes along what matches it there, and acts at its destination. A lane that a mask leaves out counts as 0. -/
def reduceSend (s : State) (p : Nat) (x : Xfer) (base : Nat) (items : List (Nat × Ledger)) : State :=
  (reduceGroups base items).foldl (fun s a =>
    let ps := (List.range 16).map fun j => match items.find? fun k => k.1 == a + 12 * j with | some k => k.2 | none => 0
    let first := ((items.find? fun k => decide (a ≤ k.1)).map (·.1)).getD a
    let cl := match sliceDecode x.map first with | some k => sramBank k / 32 | none => p / 10
    let pkt : MeshPkt := { type := 5, vc := 3, dstCl := BitVec.ofNat 5 cl, dstPort := 10, srcCl := BitVec.ofNat 5 (p / 10)
                           srcPort := BitVec.ofNat 4 (p % 10), part := x.part, addr := BitVec.ofNat 31 a, len := 6
                           payload := ps.flatMap partialBytes }
    let r := carry (pktRoute pkt) s ⟨pkt, x.map⟩
    sliceReduceAll (sliceLost r.1 x.map x.part a 192 true (coreCtx s p)) x.map a (partialBad r.2.pkt) (pktPartials r.2.pkt.payload)) s

/-- Reduce packets of a row that have left for other members and are not acknowledged (R284). -/
def rowPending (s : State) (p : Nat) (v : BitVec 16) (t : BitVec 3) (r : BitVec 7) : Bool :=
  let mine (c : Contributor) : Bool := match c with | .local q w u k _ _ _ => q == p && w == v && u == t && k == r | .packet .. => false
  (s.fab.comb.any fun c => c.from_.any mine) || (s.fab.reduceOut.any fun o => o.from_.any mine)

/-- A row for a tile of this package arrives at the core that had the vcore at issue: its 8 packets are steered there (R166, R174). While some of
them are on their way to another member the transfer stays outstanding (R284). -/
def rowSend (s : State) (p : Nat) (x : Xfer) (v : BitVec 16) (t : BitVec 3) (row : BitVec 7) (dst : Nat) (gen : Byte) (ps : List Ledger) : State :=
  let s := ((segments 8 ps).zipIdx).foldl (fun s e =>
    let pkt : MeshPkt := { type := 6, vc := 3, dstCl := BitVec.ofNat 5 (dst / 10), dstPort := BitVec.ofNat 4 (dst % 10)
                           srcCl := BitVec.ofNat 5 (p / 10), srcPort := BitVec.ofNat 4 (p % 10), part := x.part, gen := gen, len := 6
                           tile := t, row := row, seg := BitVec.ofNat 3 e.2, payload := e.1.flatMap partialBytes }
    let r := carry (pktRoute pkt) s ⟨pkt, []⟩
    steered r.1 r.2.pkt (servePkt r.2.pkt)) s
  if rowPending s p v t row then updCore s p fun c => { c with xfers := c.xfers ++ [{ x with kind := .tileRow v t row dst gen [] }] } else s

/-- What a completed transfer does at its destination; `refused` is a remote tile's answer (R72, R85). -/
def xferEffect (s : State) (p : Nat) (x : Xfer) (refused : Bool) : State :=
  match x.kind with
  | .load a o =>
    let d := sliceRead s x.map a x.bytes
    updM (sliceLost s x.map x.part a x.bytes false (coreCtx s p)) p fun m => obCarry m o d.1 (sliceFlags s x.map a x.bytes)
  | .obStore o d => updM s p fun m => obWrite m o d false
  | .store a d =>
    let s := if x.poison.any id then kernelPoison s p else s
    sliceCarry (sliceLost s x.map x.part a d.length true (coreCtx s p)) x.map a d (x.poison ++ List.replicate d.length false)
  | .reduce a l => reduceSend s p x a l
  | .tileRow v t row dst gen ps =>
    if ps = [] then (if refused then refuseRow s p else s) else rowSend s p x v t row dst gen ps
  | _ => s

end Sys2Proof.Machine
end

