-- ==== Sys2Proof/Machine/Settle.lean ====
section
/-!
DEFINITION. What follows at the end of every command: resumed cores, waiting packets, causes of faults, fences, teardowns, units that are
free, preemptions and quotas.
-/
namespace Sys2Proof.Machine

/-- A core resumes (R91, R93): its wait is evaluated again, and its interrupted MLD, MST, MCONV or MSTREAM goes on under the map in force. -/
def kickOne (s : State) (p : Nat) : State :=
  let s := wakeWait s p
  if slotKind p ≠ 0 then s else pumpM pumpFuel (updM s p fun m => { m with jobMap := if m.job = .none then m.jobMap else coreMap s p }) p

/-- Every core that has resumed in this command. -/
def kickCores (s : State) : State := s.kick.foldl kickOne { s with kick := [] }

/-- A failing core without a spare is retired once its vcore's point is taken and nothing of it is outstanding (R25): the image is discarded,
the vcore is left without a core, its directory STATE lost, and change 0x03 waits for its commit. -/
def finishBare (s : State) (p : Nat) : State :=
  let c := getCore s p
  let b := getBinding s p
  if c.run != .idle || c.kernel.isSome || !c.xfers.isEmpty then s
  else
    let s := { s with fp := { s.fp with bare := s.fp.bare.filter (· != p) } }
    let s := if b.state = 0 then s
      else
        let s := { s with ctxs := mapOpt (fun x => { x with images := x.images.filter fun i => !(i.gid == b.gid && i.vcore == b.vcore) }) s.ctxs }
        let s := match getGlove s b.gid with
          | some g => dirSetState s g b.vcore.toNat 2
          | none => s
        releaseSync (freeCore s p)
    queueChange s (.coreNoSpare (Fin.ofNat 320 p))

/-- The end of every command: cores that have resumed and packets behind a full stash go on, the causes the command raised fault their contexts,
raised fence words wake their waits, closing objects go on, items that stop cores end, failing cores and clusters that are free are retired,
fallback programs start, waiting LC kernels ask for points, host requests go out, FABRIC_SETTLED and RM_OK are raised, quotas follow use, and
the reattach record follows the contexts (R25, R91, R174, R176, R188, R200, R204, R206, R294, R301, R304, R308). -/
def settle (s : State) : State :=
  let s := retryMesh (kickCores s)
  let s := if s.posts = [] then s else flushPosts s
  let s := takeFaults (tellRequests s)
  let s := if s.fenceWaits = [] then s else wakeFences s
  let s := takeFaults (s.teardowns.foldl advanceTeardown s)
  let s := leaveClusters (retireFailing (s.drops.foldl finishDrop s))
  let s := s.fp.bare.foldl finishBare s
  let s := requestPreempts (takeFaults (takeFaults (launchFallbacks s)))
  let s := pumpHost s.hostReads.length s
  refreshRa (refreshParts (latchRemove (latchSettled (clearFaults s))))

end Sys2Proof.Machine
end

