-- ==== Sys2Proof/Machine/Fp.lean ====
section
/-!
DEFINITION. The floor-plan record (R20 to R29): its words, its changes, wear-out reserves and the designation of spares.
-/
namespace Sys2Proof.Machine

/-! ### Parts of the record -/

def slotState (s : State) (p : Nat) : BitVec 2 := Tbl.get 0 s.fp.slot p

/-- Core slots of a kind in one of the given states. -/
def slotCount (fp : FloorPlan) (kind : Nat) (states : List (BitVec 2)) : Nat :=
  (fp.slot.filter fun e => slotKind e.1 == kind && states.contains e.2).length

/-- Physical bank behind a logical bank. -/
def physBank (m : Memory) (cl b : Nat) : Nat :=
  match Tbl.get 0 m.bankMap (32 * cl + b) with | 0 => b | k + 1 => k

/-- Unused spare banks of a cluster. -/
def spareBanksLeft (fp : FloorPlan) (cl : Nat) : Nat := 2 - Tbl.get 0 fp.banksSpent cl

/-- The in-use physical bank of a logical bank as the record has it. -/
def recordBank (fp : FloorPlan) (cl b : Nat) : Nat :=
  match Tbl.get 0 fp.bankPhys (32 * cl + b) with | 0 => b | k + 1 => k

/-- Fewest unused spare rows in any in-use bank of a cluster; which banks are in use changes only with the commits of 0x05 and 0x07 (R22). -/
def spareRowsMin (s : State) (cl : Nat) : Nat :=
  (List.range 32).foldl (fun m b =>
    if Tbl.get false s.fp.banksGone (32 * cl + b) then m
    else min m (16 - Tbl.get 0 s.fp.rowsSpent (34 * cl + recordBank s.fp cl b))) 16

def packageRowsMin (s : State) : Nat := (List.range 32).foldl (fun m c => min m (spareRowsMin s c)) 16

/-- RESERVE_LEFT of a stack, percent. -/
def reserveLeft (s : State) (h : Nat) : Nat :=
  let total := 16 * hbmReserve s
  let left := (List.range 16).foldl (fun n c =>
    if bit s.fp.chInService (16 * h + c) then n + (hbmReserve s - Tbl.get 0 s.fp.reserveSpent (16 * h + c)) else n) 0
  100 * left / total

def reserveMin (s : State) : Nat := (List.range 8).foldl (fun m h => min m (reserveLeft s h)) 100

/-- A word of the record (Table 1.5); no record exists before the RTP builds it. -/
def fpWord (s : State) (i : Nat) : Dword :=
  let fp := s.fp
  let v : Nat :=
    if fp.capacity = 0 then 0
    else if i = 0 then 0x4650 * 2 ^ 48 + 0x01 * 2 ^ 40 + 0x48 * 2 ^ 32 + fp.generation.toNat
    else if i = 1 then fp.changeTime.toNat
    else if i = 2 then fp.computeMask.toNat + fp.lastChange.toNat * 2 ^ 32 + fp.wearWarn.toNat * 2 ^ 48
    else if i = 3 then
      slotCount fp 0 [2, 3] + slotCount fp 1 [2, 3] * 2 ^ 8 + slotCount fp 2 [2, 3] * 2 ^ 16 +
      slotCount fp 0 [1] * 2 ^ 24 + slotCount fp 1 [1] * 2 ^ 32 + slotCount fp 2 [1] * 2 ^ 40 + popcount fp.cpOk * 2 ^ 48
    else if i = 4 then
      ((List.range 32).map (spareBanksLeft fp)).sum + packageRowsMin s * 2 ^ 16 + fp.spareFree.toNat * 2 ^ 24 +
      popcount fp.chInService * 2 ^ 40 + reserveMin s * 2 ^ 48
    else if 16 ≤ i ∧ i < 48 then
      let n := i - 16
      packNat 2 ((List.range 10).map fun k => (Tbl.get 0 fp.slot (10 * n + k)).toNat) + spareBanksLeft fp n * 2 ^ 20 +
      spareRowsMin s n * 2 ^ 22 + (if bit fp.computeMask n then 2 ^ 27 else 0) + (Tbl.get 0 fp.paceMax n).toNat * 2 ^ 28
    else if i = 48 then fp.cpOk.toNat + fp.cpDegraded.toNat * 2 ^ 16 + (if fp.rtpOk then 2 ^ 32 else 0)
    else if 56 ≤ i ∧ i < 64 then
      let h := i - 56
      fld fp.chInService (16 * h + 15) (16 * h) + reserveLeft s h * 2 ^ 16 + fp.capacity.toNat * 2 ^ 24 +
      (Tbl.get 0 fp.pagesRetired h).toNat * 2 ^ 32
    else if 64 ≤ i ∧ i < 68 then
      let q := i - 64
      fld fp.linkOk (16 * q + 15) (16 * q) + fld fp.spareFree (4 * q + 3) (4 * q) * 2 ^ 16 +
      fld fp.spareUsed (4 * q + 3) (4 * q) * 2 ^ 20 +
      packNat 4 ((List.range 4).map fun j => (Tbl.get 0 fp.subst (4 * q + j)).toNat) * 2 ^ 24
    else 0
  BitVec.ofNat 64 v

/-! ### Changes (R22, Table 1.7) -/

def changeKind : FpChange → Byte
  | .coreFailing _ => 0x01
  | .coreReplaced .. => 0x02
  | .coreNoSpare _ => 0x03
  | .spareRetired _ => 0x04
  | .spareBank .. => 0x05
  | .spareRow .. => 0x06
  | .bankRetired .. => 0x07
  | .hbmPage .. => 0x08
  | .hbmChannel _ => 0x09
  | .spareLane .. => 0x0A
  | .cpDegraded _ | .rtpDegraded => 0x0B
  | .memoryOnly _ => 0x0C
  | .linkThree .. => 0x0D
  | .spareLaneBad _ => 0x0E

/-- The unit concerned. Of the two cores of change 0x02 the event names the failing one (DESIGN CHOICE, log 139: R22 does not say which); a spare
lane's pair is that of R240, lane `p % 4` of link `4 * g + p / 4`. -/
def changeElement : FpChange → Element
  | .coreFailing c | .coreReplaced c _ | .coreNoSpare c | .spareRetired c => .core c
  | .spareBank c b | .bankRetired c b => .sramBank c b
  | .spareRow c b r => .sramRow c b r
  | .hbmPage c f => .hbmFrame c f
  | .hbmChannel c => .hbmChannel c
  | .spareLane g p => .lane (Fin.ofNat 64 (4 * g.val + p.toNat / 4)) (BitVec.ofNat 2 (p.toNat % 4))
  | .cpDegraded n => .cp n
  | .rtpDegraded => .rtp
  | .memoryOnly c => .clusterControl c
  | .linkThree l k => .lane l k
  | .spareLaneBad g => .spareLane g

def setSlot (fp : FloorPlan) (p : Nat) (v : BitVec 2) : FloorPlan := { fp with slot := Tbl.set 0 fp.slot p v }

/-- SUBST of a replaced pair (Table 1.5): the link within the group in bits 1:0, the lane in bits 3:2. -/
def substCode (p : BitVec 4) : BitVec 4 := BitVec.ofNat 4 (p.toNat / 4 + 4 * (p.toNat % 4))

/-- The record fields that a change writes. `phys` is the physical bank of a spare row, or the spare bank brought in. -/
def applyChange (fp : FloorPlan) (phys : Nat) : FpChange → FloorPlan
  | .coreFailing c => setSlot fp c.val 3
  | .coreReplaced c d => { setSlot (setSlot fp c.val 0) d.val 2 with designated := Tbl.set 0 fp.designated c.val 0 }
  | .coreNoSpare c => { setSlot fp c.val 0 with designated := Tbl.set 0 fp.designated c.val 0 }
  | .spareRetired c => setSlot fp c.val 0
  | .spareBank c b => { fp with banksSpent := Tbl.upd 0 fp.banksSpent c.val (· + 1)
                                bankPhys := Tbl.set 0 fp.bankPhys (32 * c.val + b.val) (phys + 1) }
  | .spareRow c _ _ => { fp with rowsSpent := Tbl.upd 0 fp.rowsSpent (34 * c.val + phys) (· + 1) }
  | .bankRetired c b => { fp with banksGone := Tbl.set false fp.banksGone (32 * c.val + b.val) true }
  | .hbmPage c _ => { fp with pagesRetired := Tbl.upd 0 fp.pagesRetired (c.val / 16) (· + 1)
                              reserveSpent := Tbl.upd 0 fp.reserveSpent c.val (· + 1) }
  | .hbmChannel c => { fp with chInService := setBit fp.chInService c.val false }
  | .spareLane g p => { fp with spareFree := setBit fp.spareFree g.val false, spareUsed := setBit fp.spareUsed g.val true
                                subst := Tbl.set 0 fp.subst g.val (substCode p) }
  | .cpDegraded n => { fp with cpOk := setBit fp.cpOk n.val false, cpDegraded := setBit fp.cpDegraded n.val true }
  | .rtpDegraded => { fp with rtpOk := false }
  | .memoryOnly c => { fp with computeMask := setBit fp.computeMask c.val false
                               slot := fp.slot.filter fun e => e.1 / 10 != c.val }
  | .linkThree l _ => { fp with linkOk := setBit fp.linkOk l.val false }
  | .spareLaneBad g => { fp with spareFree := setBit fp.spareFree g.val false }

/-! ### Wear-out (R23, R29) -/

/-- WEAR_WARN bits of the kinds below reserve (Table 1.11); bit 0 is bit 48 of the word. -/
def wearBits (s : State) : BitVec 16 :=
  let b (i : Nat) (c : Bool) : BitVec 16 := if c then BitVec.ofNat 16 (2 ^ i) else 0
  b 0 (decide (slotCount s.fp 0 [1] < 4)) ||| b 1 (decide (slotCount s.fp 1 [1] < 4)) |||
  b 2 (decide (slotCount s.fp 2 [1] < 2)) ||| b 3 (decide (popcount s.fp.cpOk < 16)) |||
  b 4 ((List.range 32).any fun c => spareBanksLeft s.fp c == 0) ||| b 5 (decide (packageRowsMin s < 4)) |||
  b 6 (decide (reserveMin s < 25)) |||
  b 7 ((List.range 4).any fun q => decide (popcount (BitVec.ofNat 4 (fld s.fp.spareFree (4 * q + 3) (4 * q))) < 2)) |||
  b 8 (decide (3584 ≤ s.fp.repairLog.length))

/-- Set the bits of the kinds now below reserve, with one warning event for each newly set bit. -/
def wearWarnings (s : State) (e : Element) : State :=
  let new := wearBits s &&& ~~~s.fp.wearWarn
  if new = 0 then s
  else
    let w := s.fp.wearWarn ||| new
    (setBits new).foldl (fun s _ => logEvent s srcRtp 0x04 false (leBytes 4 (elemCode e) ++ leBytes 2 w.toNat))
      { s with fp := { s.fp with wearWarn := w } }

/-! ### Designation of spares (R24) -/

/-- A spare of the type that no other failing core has and that is not being retired. -/
def spareOk (s : State) (kind p : Nat) : Bool :=
  slotKind p == kind && slotState s p == 1 && !s.fp.pending.contains (.spareRetired (Fin.ofNat 320 p)) && !(s.fp.designated.any fun e => e.2 == p + 1)

/-- The spare of a failing core, the own cluster's where `own`: own cluster first, then the partition's other compute clusters by hops, number, slot. -/
def designate (s : State) (p : Nat) (own : Bool := true) : Option Nat :=
  let kind := slotKind p
  let cl := p / 10
  let inCluster (c : Nat) : Option Nat := (List.range 10).findSome? fun k => if spareOk s kind (10 * c + k) then some (10 * c + k) else none
  match (if own then inCluster cl else none) with
  | some q => some q
  | none =>
    match clusterPart s cl with
    | none => none
    | some part =>
      let cs := (List.range 32).filter fun c => c != cl && bit s.fp.computeMask c && clusterPart s c == some part
      (List.range 11).findSome? fun h => cs.findSome? fun c => if meshHops cl c = h then inCluster c else none

/-- The spare-unavailable event (R24). -/
def spareUnavailable (s : State) (e : Element) : State :=
  logEvent s srcRtp 0x04 false (leBytes 4 (elemCode e) ++ leBytes 2 s.fp.wearWarn.toNat)

/-! ### Commit (R22) -/

/-- The processor of a core follows the core that takes its place (R383). -/
def moveProc (s : State) : FpChange → State
  | .coreReplaced c d => { s with procCore := s.procCore.map fun e => if e.2 = c.val + 1 then (e.1, d.val + 1) else e }
  | .coreNoSpare c => { s with procCore := s.procCore.filter fun e => e.2 != c.val + 1 }
  | .memoryOnly c => { s with procCore := s.procCore.filter fun e => (e.2 - 1) / 10 != c.val }
  | _ => s

/-- A cluster that became memory-only leaves its partition's compute (R340). -/
def leaveCluster (s : State) : FpChange → State
  | .memoryOnly c => { s with sched := { s.sched with parts := s.sched.parts.map fun e =>
      (e.1, { e.2 with clusters := setBit e.2.clusters c.val false }) } }
  | _ => s

/-- One change: repair log, record, GENERATION, LAST_CHANGE, CHANGE_TIME and the floor-plan event. -/
def commitChange (s : State) (c : FpChange) : State :=
  let fp := s.fp
  let fp := { fp with repairLog := if fp.repairLog.length < 4096 then fp.repairLog ++ [c] else fp.repairLog }
  let phys := match c with | .spareRow cl b _ | .spareBank cl b => physBank s.mem cl.val b.val | _ => 0
  let fp := applyChange fp phys c
  let fp := { fp with generation := fp.generation + 1, lastChange := changeKind c, changeTime := s.time }
  let s := leaveCluster (moveProc { s with fp := fp } c) c
  let e := changeElement c
  let s := logEvent s srcRtp 0x03 false
    (leBytes 4 fp.generation.toNat ++ [changeKind c] ++ leBytes 4 (elemCode e))
  wearWarnings s e

/-- FLOORPLAN_COMMIT (R22): the oldest change that waits, unless the RTP is restarting (Table 1.9a). -/
def execFloorplanCommit (s : State) : Outcome :=
  match s.fp.pending with
  | [] => .next (settle s)
  | c :: l => if s.rtpDown then .next (settle s) else .next (settle (commitChange { s with fp := { s.fp with pending := l } } c))

end Sys2Proof.Machine
end

