-- ==== Sys2Proof/Machine/MCore.lean ====
section
/-!
DEFINITION. The M-core's instructions (R77 to R85), the admission of waves (R86), the arrival of their sums (R80) and
the reception of partial rows (R89).
-/
namespace Sys2Proof.Machine

/-- MNOP (R77). -/
def execMnop (c : Fin 160) (w : Dword) (s : State) : Outcome :=
  .next (settle (issueM s c w 0x00 0 fun s p _ => .go (retire s p ((getCore s p).pc + 8))))

/-- MHALT (R83): a fence, the flags reported, then cleared if CLRF; the kernel ends. -/
def execMhalt (c : Fin 160) (w : Dword) (s : State) : Outcome :=
  .next (settle (issueM s c w 0x01 1 fun s p m => mFence s p m fun s =>
    if !m.waves.isEmpty then .wait
    else .go (kernelEnd (retire s p ((getCore s p).pc + 8)) p (bit w 0))))

/-- MSAFE (R90): a declared point if one is requested, else nothing. -/
def execMsafe (c : Fin 160) (w : Dword) (s : State) : Outcome :=
  .next (settle (issueM s c w 0x02 0xFFF fun s p m =>
    let k := getCore s p
    if k.point = .none then .go (retire s p (k.pc + 8))
    else if !fenced s p || !m.waves.isEmpty then .wait
    else
      let s := retire s p (k.pc + 8)
      .go (takePoint (updCore s p fun k => { k with live := BitVec.ofNat 12 (fld w 11 0) }) p true)))

/-- MFENCE (R83). -/
def execMfence (c : Fin 160) (w : Dword) (s : State) : Outcome :=
  .next (settle (issueM s c w 0x03 0 fun s p m => mFence s p m fun s => .go (retire s p ((getCore s p).pc + 8))))

/-- MLI (R77). -/
def execMli (c : Fin 160) (w : Dword) (s : State) : Outcome :=
  .next (settle (issueM s c w 0x08 0x00F00000FFFFFFFF fun s p m =>
    goReg s p m (fA w) (BitVec.ofInt 64 (sfld w 31 0))))

/-- MADDI (R77). -/
def execMaddi (c : Fin 160) (w : Dword) (s : State) : Outcome :=
  .next (settle (issueM s c w 0x09 0x00FF0000FFFFFFFF fun s p m =>
    goReg s p m (fA w) (rdG m (fB w) + BitVec.ofInt 64 (sfld w 31 0))))

/-- MADD (R77). -/
def execMadd (c : Fin 160) (w : Dword) (s : State) : Outcome :=
  .next (settle (issueM s c w 0x0A 0x00FFF00000000000 fun s p m =>
    goReg s p m (fA w) (rdG m (fB w) + rdG m (fC w))))

/-- MSUB (R77). -/
def execMsub (c : Fin 160) (w : Dword) (s : State) : Outcome :=
  .next (settle (issueM s c w 0x0B 0x00FFF00000000000 fun s p m =>
    goReg s p m (fA w) (rdG m (fB w) - rdG m (fC w))))

/-- MSHLI (R77). -/
def execMshli (c : Fin 160) (w : Dword) (s : State) : Outcome :=
  .next (settle (issueM s c w 0x0C 0x00FF00000000003F fun s p m =>
    goReg s p m (fA w) (rdG m (fB w) <<< fld w 5 0)))

/-- MBR (R76, R77). -/
def execMbr (c : Fin 160) (w : Dword) (s : State) : Outcome :=
  .next (settle (issueM s c w 0x10 0x00FF0E00000FFFFF fun s p m =>
    let pc := (getCore s p).pc
    match condHolds (fld w 43 41) (rdG m (fA w)) (rdG m (fB w)) with
    | none => .exc 0x03
    | some b => .go (retire s p (if b then branchTo pc w else pc + 8))))

/-- MLOOP (R77): the comparison uses the computed value. -/
def execMloop (c : Fin 160) (w : Dword) (s : State) : Outcome :=
  .next (settle (issueM s c w 0x11 0x00F00000000FFFFF fun s p m =>
    let v := rdG m (fA w) - 1
    let pc := (getCore s p).pc
    .go (retire (setM s p (wrG m (fA w) v)) p (if v ≠ 0 then branchTo pc w else pc + 8))))

/-- MSIG (R83): a fence, then a signal to counter S. -/
def execMsig (c : Fin 160) (w : Dword) (s : State) : Outcome :=
  .next (settle (issueM s c w 0x18 0x1F fun s p m => mFence s p m fun s =>
    .go (sendSignal (retire s p ((getCore s p).pc + 8)) p (fld w 4 0))))

/-- MWAIT (R83): on a sync counter, or on a tile's receive count. -/
def execMwait (c : Fin 160) (w : Dword) (s : State) : Outcome :=
  .next (settle (issueM s c w 0x19 0x00F000000000011F fun s p m =>
    let k := getCore s p
    let v := (rdG m (fA w)).setWidth 16
    if bit w 8 then
      if fld w 4 3 ≠ 0 then .exc 0x03
      else if waitDone (tileCount m (fld w 2 0)) v then .go (retire s p (k.pc + 8))
      else .go (setCore s p { k with wait := .tile (BitVec.ofNat 3 (fld w 2 0)) v })
    else if waitDone (coreCounter s p (fld w 4 0)) v then .go (retire s p (k.pc + 8))
    else .go (setCore s p { k with wait := .counter (BitVec.ofNat 5 (fld w 4 0)) v })))

/-- MFLAGS (R83): the core copy, cleared in the same step if CLR, or a tile's copy, after the waves before it that are bound for the tile (R72). -/
def execMflags (c : Fin 160) (w : Dword) (s : State) : Outcome :=
  .next (settle (issueM s c w 0x1A 0x00F0000000000307 fun s p m =>
    if bit w 9 && bit w 8 then .exc 0x03
    else if bit w 8 && waveOnTile m (fld w 2 0) then .wait
    else if bit w 8 then goReg s p m (fA w) ((getTile m (fld w 2 0)).flags.setWidth 64)
    else goReg s p (if bit w 9 then { m with flags := 0 } else m) (fA w) (m.flags.setWidth 64)))

/-- The checks of MLD and MST in the order of R84, then the ordering of R72. -/
def copyStart (s : State) (p : Nat) (m : MCore) (w : Dword) (load : Bool) : MEffect :=
  let gs := rdG m (fA w)
  let go := rdG m (fB w)
  let gstr := rdG m (fC w)
  let n := rowLen w
  let rows := (List.range (rowsOf w)).map fun i => rowAddr gs gstr i
  let k := getCore s p
  if n = 0 then .exc 0x03
  else if gs.toNat % 32 ≠ 0 ∨ go.toNat % 32 ≠ 0 ∨ gstr.toNat % 32 ≠ 0 then .exc 0x05
  else if 2 ^ 20 < go.toNat + rowsOf w * n then .exc 0x06
  else if !(rows.all fun a => sliceRange (coreMap s p) a n) then .exc 0x07
  else if localHazard k go.toNat (rowsOf w * n) || (rows.any fun a => sliceHazard k a n (!load)) then .wait
  else .go (pumpM pumpFuel (setM s p { m with job := .copy w 0 0, jobMap := coreMap s p }) p)

/-- MLD (R78). -/
def execMld (c : Fin 160) (w : Dword) (s : State) : Outcome :=
  .next (settle (issueM s c w 0x20 0x00FFF0FF00000FFF fun s p m => copyStart s p m w true))

/-- MST (R78). -/
def execMst (c : Fin 160) (w : Dword) (s : State) : Outcome :=
  .next (settle (issueM s c w 0x21 0x00FFF0FF00000FFF fun s p m => copyStart s p m w false))

/-- MPLANE (R79). -/
def execMplane (c : Fin 160) (w : Dword) (s : State) : Outcome :=
  .next (settle (issueM s c w 0x28 0x00FF010FC0000000 fun s p m =>
    let fmt := fld w 35 32
    let sc := bit w 31
    let k := if bit w 30 then 256 else 128
    let gp := (rdG m (fA w)).toNat
    let gps := (rdG m (fB w)).toNat
    let n := npOf fmt * k * fmtBits fmt / 8
    let ns := if sc then npOf fmt * (k / 32) else 0
    if !fmtForm fmt sc || (bit w 30 && !(decide (4 ≤ fmt ∧ fmt ≤ 6))) then .exc 0x03
    else if gp % 32 ≠ 0 ∨ (sc ∧ gps % 4 ≠ 0) then .exc 0x05
    else if !obOneBank gp n || (sc && !obOneBank gps ns) then .exc 0x06
    else if waveOnPlane m (bit w 40) || localHazard (getCore s p) gp n || localHazard (getCore s p) gps ns then .wait
    else if obPoisoned m gp n || (sc && obPoisoned m gps ns) then .poison
    else
      let q : Plane := { loaded := true, fmt := BitVec.ofNat 4 fmt, sc := sc, k256 := bit w 30,
                         data := memOf (obRead m gp n), scales := memOf (obRead m gps ns) }
      .go (retire (setM s p (setPlane m (bit w 40) q)) p ((getCore s p).pc + 8))))

/-- MCLR (R79). -/
def execMclr (c : Fin 160) (w : Dword) (s : State) : Outcome :=
  .next (settle (issueM s c w 0x29 0x0000071000000000 fun s p m =>
    let t := fld w 42 40
    if waveOnTile m t then .wait
    else .go (retire (setM s p (setTile m t { fp32 := bit w 36, contribs := (getTile m t).contribs })) p
      ((getCore s p).pc + 8))))

/-- MTRX (R79). -/
def execMtrx (c : Fin 160) (w : Dword) (s : State) : Outcome :=
  .next (settle (issueM s c w 0x2A 0x0000071000000000 fun s p m =>
    let t := fld w 42 40
    let x := getTile m t
    let x := if bit w 36 then { x with isOpen := true, contribs := 0 } else { x with isOpen := false }
    .go (retire (setM s p (setTile m t x)) p ((getCore s p).pc + 8))))

/-- MWAVE (R80): its exceptions in the order of R84; then it keeps the issue stage until its last wave is admitted. -/
def execMwave (c : Fin 160) (w : Dword) (s : State) : Outcome :=
  .next (settle (issueM s c w 0x30 0x00FF078FFFFFFFFF fun s p m =>
    let fmt := fld w 35 32
    let pl := planeOf m (bit w 39)
    let pr := pairing fmt pl.fmt.toNat
    let n := fld w 21 14
    let t := getTile m (fld w 42 40)
    if !fmtForm fmt (bit w 31) || decide (n = 0 ∨ 128 < fld w 28 22 + n) || decide (fmt ≠ 7 ∧ fld w 30 29 ≠ 0) then .exc 0x03
    else if pl.loaded && (pr.isNone || pl.k256 != (pr == some 2)) then .exc 0x02
    else if t.fp32 != (fmt == 7) then .exc 0x04
    else if !pl.loaded then .exc 0x08
    else if (rdG m (fA w)).toNat % 32 ≠ 0 ∨ (bit w 31 ∧ (rdG m (fB w)).toNat % 4 ≠ 0) then .exc 0x05
    else if !((List.range n).all fun i => (mwaveRanges m w i).all fun r => obOneBank r.1 r.2) then .exc 0x06
    else .go (setM s p { m with job := .wave w 0 })))

/-- MSTREAM (R81). Of a vector and its scales the slices that the waves reach, min(KS, N) of them, must lie within one bank (DESIGN CHOICE, log
145: R73 asks one bank of a vector, and does not say whether slices that no wave reads count). -/
def execMstream (c : Fin 160) (w : Dword) (s : State) : Outcome :=
  .next (settle (issueM s c w 0x31 0x00FFF7EFFC00FFFF fun s p m =>
    let a := streamArgs m w
    let pr := pairing a.fmtX a.fmtW
    let last := a.cg0 + (a.n - 1) / max 1 a.ks
    let bits := a.k * fmtBits a.fmtX / 8
    let used := min a.ks a.n
    if !fmtForm a.fmtW a.scW || !fmtForm a.fmtX a.scX || decide (a.n = 0 ∨ a.ks = 0 ∨ 63 < last) ||
        decide (fld (rdG m (fC w)) 31 22 ≠ 0) then .exc 0x03
    else if pr.isNone || pr == some 3 then .exc 0x02
    else if (List.range (last - a.cg0 + 1)).any fun i => (getTile m ((a.t + (a.cg0 + i) / 8) % 8)).fp32 then .exc 0x04
    else if a.gw % 32 ≠ 0 ∨ a.gx % 32 ≠ 0 then .exc 0x05
    else if !((List.range a.b).all fun b => obOneBank (a.gx + b * a.xstr * 32) (used * bits) &&
        (!a.scX || obOneBank (a.ascale * 16 + b * (a.ks * (a.k / 32))) (used * (a.k / 32)))) then .exc 0x06
    else if !sliceRange (coreMap s p) a.gw (a.n * blockBytes a.k a.fmtW a.scW) then .exc 0x07
    else .go (pumpM pumpFuel (setM s p { m with job := .stream w 0, jobMap := coreMap s p, stream := [] }) p)))

/-- MCONV (R82): its exceptions; then it reads rows as the room for their data allows. -/
def execMconv (c : Fin 160) (w : Dword) (s : State) : Outcome :=
  .next (settle (issueM s c w 0x38 0x00FF077FFFFFF800 fun s p m =>
    let t := getTile m (fld w 42 40)
    let tgt := fld w 38 36
    let dest := fld w 28 27
    let n := fld w 18 11
    let gd := rdG m (fA w)
    let gstr := rdG m (fB w)
    let len := convRowBytes tgt
    let rows := (List.range n).map fun i => rowAddr gd gstr i
    let k := getCore s p
    if tgt = 7 ∨ n = 0 ∨ 128 < n ∨ 128 < fld w 25 19 + n then .exc 0x03
    else if fld w 35 29 ≠ 0 ∧ (t.fp32 ∨ tgt = 6) then .exc 0x03
    else if !t.fp32 && decide (2 ≤ dest ∧ tgt ≠ 6) then .exc 0x03
    else if dest = 3 ∧ 128 < fld gd 25 19 + n then .exc 0x03
    else if t.fp32 && decide (2 ≤ dest ∨ 1 < tgt) then .exc 0x04
    else if dest ≠ 3 ∧ (gd.toNat % 32 ≠ 0 ∨ gstr.toNat % 32 ≠ 0) then .exc 0x05
    else if dest = 0 ∧ !(rows.all fun a => decide (a + len ≤ 2 ^ 20)) then .exc 0x06
    else if (dest = 1 ∨ dest = 2) ∧ !(rows.all fun a => sliceRange (coreMap s p) a len) then .exc 0x07
    else if dest = 2 ∧ !(rows.all fun a => a / 2 ^ 26 == gd.toNat / 2 ^ 26 && (a + len - 1) / 2 ^ 26 == gd.toNat / 2 ^ 26) then
      .exc 0x07
    else if waveOnTile m (fld w 42 40) then .wait
    else if dest = 0 ∧ (rows.any fun a => localHazard k a len) then .wait
    else if (dest = 1 ∨ dest = 2) ∧ (rows.any fun a => sliceHazard k a len true) then .wait
    else .go (pumpM pumpFuel (setM s p { m with job := .conv w 0, jobMap := coreMap s p }) p)))

/-! ### Waves -/

/-- Whether an admission is ready but for its credit (R86): operand data in place, and the stream block complete. -/
def mReady (s : State) (p : Nat) : Bool :=
  let m := getM s p
  let k := getCore s p
  canIssue s p &&
  match m.job with
  | .wave w i => !((mwaveRanges m w i).any fun r => localHazard k r.1 r.2)
  | .stream w i => !m.stream.isEmpty && !((streamRanges (streamArgs m w) i).any fun r => localHazard k r.1 r.2)
  | _ => false

/-- WAVE_ADMIT (R35, R86): one credit, one wave; its operands are read now, its weight block has been buffered. -/
def admitWave (s : State) (p : Nat) : State :=
  let s := pumpM pumpFuel s p
  let m := getM s p
  let k := getCore s p
  if !mReady s p || decide (k.credits = 0) then s
  else
    let fin (s : State) (wv : Wave) (job : MJob) (last : Bool) : State :=
      let s := setM s p { m with job := if last then .none else job, stream := m.stream.drop 1, waves := m.waves ++ [wv] }
      let s := count (updCore s p fun k => { k with credits := k.credits - 1 }) 1 p 1
      if last then retire s p (k.pc + 8) else pumpM pumpFuel s p
    match m.job with
    | .wave w i =>
      if (mwaveRanges m w i).any fun r => obPoisoned m r.1 r.2 then corePoison (setM s p { m with job := .none }) p
      else fin s (mwaveWave m w i) (.wave w (i + 1)) (i + 1 == fld w 21 14)
    | .stream w i =>
      let a := streamArgs m w
      let blk := m.stream.headD {}
      if ((streamRanges a i).any fun r => obPoisoned m r.1 r.2) || blk.bad then corePoison (setM s p { m with job := .none, stream := [] }) p
      else fin s (streamWave m a i blk.bytes) (.stream w (i + 1)) (i + 1 == a.n)
    | _ => s

def execWaveAdmit (c : Fin 160) (s : State) : Outcome := .next (settle (admitWave s (mPid c)))

/-- WAVE_SUMS_REACH_TILE (R79, R80): the oldest admitted wave; a conversion or set-up that waited for it may then go on. -/
def execWaveSumsReachTile (c : Fin 160) (s : State) : Outcome :=
  let p := mPid c
  let m := getM s p
  match m.waves with
  | [] => .next (settle s)
  | w :: l => .next (settle (pumpM pumpFuel (setM s p { waveSums m w with waves := l }) p))

/-- TILE_RECEIVE_ROW (R89): a partial segment reaches a tile; a refusal is the sender's to learn. -/
def execTileReceiveRow (c : Fin 160) (tile : Fin 8) (row : Fin 128) (seg : Fin 8) (contrib : Byte) (ps : List Ledger)
    (poison : Bool) (s : State) : Outcome :=
  .next (settle (tileArrive s (mPid c) tile row seg contrib.toNat (ps.take 16) poison).1)

end Sys2Proof.Machine
end

