-- ==== Sys2Proof/Machine/SCoreOps.lean ====
section
/-!
DEFINITION. Operations shared by the S-core's instructions: registers and fields (R113, R117), address space (R115), issue,
traps (R118, R119, R389) and control registers (Table 5.10).
-/
namespace Sys2Proof.Machine

/-! ### Fields of R117 -/

def sRD (w : Word) : Nat := fld w 4 0
def sRA (w : Word) : Nat := fld w 9 5
def sRB (w : Word) : Nat := fld w 14 10
def sFN (w : Word) : Nat := fld w 25 15
def sImm (w : Word) : Dword := BitVec.ofInt 64 (sfld w 25 10)
def sImmU (w : Word) : Dword := BitVec.ofNat 64 (fld w 25 10)

/-- Fields used: formats R and I whole, and the parts of I that Table 5.9 and R117 name. -/
def mkR : Word := 0x03FFFFFF
def mkI : Word := 0x03FFFFFF
def mkRD : Word := 0x1F
def mkRA : Word := 0x3E0
def mkImm5 : Word := 0x7C00
def mkImm6 : Word := 0xFC00
def mkImm12 : Word := 0x3FFC00
def mkImm3 : Word := 0x1C00

def rdX (c : SCore) (r : Nat) : Dword := if r = 0 then 0 else Tbl.get 0 c.x r
def wrX (c : SCore) (r : Nat) (v : Dword) : SCore := if r = 0 then c else { c with x := Tbl.set 0 c.x r v }

/-! ### Address space (Table 5.8) -/

inductive Use where
  | read | write | fetch
  deriving DecidableEq, Repr

/-- Where an access lands: slice SRAM, an offset of local memory, or outside the rights. -/
inductive SPlace where
  | slice (a : Nat)
  | lm (off : Nat)
  | denied
  deriving DecidableEq, Repr

def sPlace (pl : Bool) (u : Use) (a n : Nat) : SPlace :=
  if a + n ≤ 0x80000000 then (if pl && u == .fetch then .denied else .slice a)
  else if 0x100000000 ≤ a ∧ a + n ≤ 0x100030000 then (if pl && u == .fetch then .denied else .lm (a - 0x100000000))
  else if 0x100030000 ≤ a ∧ a + n ≤ 0x100040000 then (if pl then .lm (a - 0x100000000) else .denied)
  else .denied

/-! ### Traps (R118, R119) -/

/-- An S-core fault at level F: a FIRMWARE_FAULT of the core, its running context a victim (R119, R337). DETAIL holds the
SCAUSE in bits 63:56 and the PC below. -/
def firmwareFault (s : State) (p : Nat) (code : Byte) : State :=
  let k := getCore s p
  let e : Element := .core (Fin.ofNat 320 p)
  let s := match k.kernel with
    | none => s
    | some r => raise s { ctx := r.x.ctx, qid := r.x.qid, seq := r.x.seq, cls := 5, cause := 0x03, levelF := true,
                          vcore := r.vcore, pcore := BitVec.ofNat 10 p, pc := k.pc,
                          detail := BitVec.ofNat 64 (elemCode e), victim := true }
  let s := engineError s 0x0D e (BitVec.ofNat 64 (code.toNat * 2 ^ 56 + k.pc.toNat % 2 ^ 56))
  updCore s p fun c => { c with cuffed := true }

/-- SSTATUS as a word (Table 5.10). -/
def sstatus (c : SCore) : Dword := BitVec.ofNat 64 ((if c.ie then 1 else 0) + (if c.pl then 2 else 0))

/-- Whether a 64-byte frame lies in the F region. -/
def frameOk (a : Dword) : Bool := decide (0x100030000 ≤ a.toNat) && decide (a.toNat + 64 ≤ 0x100040000)

/-- Write a word of the frame at `a`. -/
def frameWrite (c : SCore) (a : Dword) (i : Nat) (v : Dword) : SCore :=
  let o := a.toNat - 0x100000000 + 8 * i
  { c with lm := memWrite c.lm o (leBytes 8 v.toNat), lmPoison := poisonWrite c.lmPoison 8 o (List.replicate 8 false) }

def frameRead (c : SCore) (a : Dword) (i : Nat) : Dword :=
  BitVec.ofNat 64 (leNat (memRead c.lm (a.toNat - 0x100000000 + 8 * i) 8))

/-- The frame of R118: return PC, SSTATUS, x1 to x6. -/
def writeFrame (c : SCore) (a retPc : Dword) : SCore :=
  ([retPc, sstatus c] ++ (List.range 6).map fun i => rdX c (i + 1)).zipIdx.foldl (fun c e => frameWrite c a e.2 e.1) c

/-- Trap entry, steps 1 to 5 of R118. A frame outside the F region halts the core. -/
def trapEntry (s : State) (p : Nat) (retPc : Dword) (intr : Bool) (code : Byte) (eaddr : Dword) : State :=
  let c := getS s p
  let t := c.tsp - 64
  if !frameOk t then firmwareFault s p code
  else
    let c := { writeFrame c t retPc with
      tsp := t, pl := true, ie := false, sidle := false
      ecause := if intr then 0x8000000000000000 else code.setWidth 64
      eaddr := eaddr }
    updCore (setS s p c) p fun k => { k with pc := if intr then c.tvec + 0x40 else c.tvec }

/-- Claim into x1 and frame word 1 at the end of an entry, or at a chaining (R389). -/
def claimEntry (s : State) (p q : Nat) : State :=
  let r := claimAt s q
  let c := getS r.2 p
  let w := frameRead c c.tsp 1
  let w := (w &&& 0xFFFFF800FFFFFFFF) ||| BitVec.ofNat 64 (fld r.1 10 0 * 2 ^ 32)
  setS r.2 p (wrX (frameWrite c c.tsp 1 w) 1 (r.1.setWidth 64))

/-- An interrupt taken by an S-core (R118, R389). Its caller lets it wait while loads into registers are outstanding (log 141). -/
def takeInterrupt (s : State) (p q : Nat) : State :=
  let s := trapEntry s p (getCore s p).pc true 0 0
  if (getCore s p).cuffed then s else claimEntry s p q

/-- Whether loads into registers are outstanding. -/
def loadsOut (s : State) (p : Nat) : Bool :=
  (getCore s p).xfers.any fun x => match x.kind with | .sload .. | .amo .. => true | _ => false

/-- An exception of an S-core (R119): at U the context is faulted and the trap taken; at F a firmware fault. -/
def sException (s : State) (p : Nat) (code : Byte) (addr : Dword) : State :=
  let k := getCore s p
  if (getS s p).pl then firmwareFault s p code
  else
    let s := raiseCore s p 3 code false addr
    let s := updCore s p fun k => { k with run := .stopped code, wait := .none }
    trapEntry s p k.pc false code addr

/-- Poison consumed by an S-core (R132). -/
def sPoison (s : State) (p : Nat) (addr : Dword) : State :=
  if (getS s p).pl then firmwareFault s p 0
  else corePoison s p addr

/-! ### Issue -/

/-- Whether an S-core can issue: at F unless halted or idle in SIDLE; at U while its kernel runs and no forced point waits. -/
def canIssueS (s : State) (p : Nat) : Bool :=
  let k := getCore s p
  let c := getS s p
  !k.cuffed && !c.sidle && (c.pl || (k.run == .running && !(k.forced && k.point != .none)))

/-- Registers that outstanding loads write. -/
def sBusy (s : State) (p : Nat) (regs : List Nat) : Bool :=
  (getCore s p).xfers.any fun x => match x.kind with
    | .sload rd .. => regs.contains rd.toNat
    | .amo _ rd .. => regs.contains rd.toNat
    | _ => false

/-- The fetch check of an S-core: `none` good, `some false` the FETCH exception, `some true` poison. A misaligned PC and one outside the SRAM
quota raise FETCH as on the other cores (DESIGN CHOICE, log 145: Table 5.11 names only a range without execute right). -/
def sFetch (s : State) (p : Nat) : Option Bool :=
  let pc := (getCore s p).pc.toNat
  let c := getS s p
  if pc % 4 ≠ 0 then some false
  else match sPlace c.pl .fetch pc 4 with
    | .denied => some false
    | .slice a =>
      if !sliceRange (coreMap s p) a 4 then some false
      else if (sliceRead s (coreMap s p) a 4).2 then some true else none
    | .lm o => if poisoned c.lmPoison 8 o 4 then some true else none

inductive SEffect where
  | wait
  | exc (code : Byte) (addr : Dword)
  | poison (s : State) (addr : Dword)
  | go (s : State)

/-- Issue an S-core instruction: its opcode and fields of Table 5.9, and the registers it uses. -/
def issueS (s : State) (c : Fin 64) (w : Word) (opc : Nat) (mask : Word) (regs : List Nat)
    (body : State → Nat → SCore → SEffect) : State :=
  let p := sPid c
  if fld w 31 26 ≠ opc ∨ !canIssueS s p then s
  else
    let exc (code : Byte) (addr : Dword) : State := if loadsOut s p then s else sException s p code addr
    match sFetch s p with
    | some false => exc 0x0A (getCore s p).pc
    | some true => sPoison (readLost s p (getCore s p).pc.toNat 4) p (getCore s p).pc
    | none =>
      if !onlyBits w (mask ||| 0xFC000000) then exc 0x01 0
      else if sBusy s p regs then s
      else match body s p (getS s p) with
        | .wait => s
        | .exc e a => exc e a
        | .poison s a => sPoison s p a
        | .go s => s

def sNext (s : State) (p : Nat) : State := retire s p ((getCore s p).pc + 4)

/-- A register result and the next instruction. -/
def goX (s : State) (p : Nat) (c : SCore) (r : Nat) (v : Dword) : SEffect := .go (sNext (setS s p (wrX c r v)) p)

/-! ### Arithmetic (Table 5.9) -/

/-- ALU functions; `none` is ILLEGAL_FORM. -/
def aluOp (fn : Nat) (a b : Dword) : Option Dword :=
  let sh := b.toNat % 64
  match fn with
  | 0 => some (a + b)
  | 1 => some (a - b)
  | 2 => some (a &&& b)
  | 3 => some (a ||| b)
  | 4 => some (a ^^^ b)
  | 5 => some (a <<< sh)
  | 6 => some (a >>> sh)
  | 7 => some (a.sshiftRight sh)
  | 8 => some (if a.slt b then 1 else 0)
  | 9 => some (if a.ult b then 1 else 0)
  | 10 => some (a * b)
  | 11 => some (BitVec.ofNat 64 (a.toNat * b.toNat / 2 ^ 64))
  | 12 => some (if b = 0 then 0 else BitVec.ofInt 64 (a.toInt.tdiv b.toInt))
  | 13 => some (if b = 0 then 0 else BitVec.ofNat 64 (a.toNat / b.toNat))
  | 14 => some (if b = 0 then a else BitVec.ofInt 64 (a.toInt.tmod b.toInt))
  | 15 => some (if b = 0 then a else BitVec.ofNat 64 (a.toNat % b.toNat))
  | _ => none

/-- AMO functions: the value stored (R117, Table 5.9). `old` is the word, `rd` the previous content of RD. -/
def amoOp (fn : Nat) (old rb rd : Dword) : Dword :=
  match fn with
  | 0 => rb
  | 1 => old + rb
  | 2 => old &&& rb
  | 3 => old ||| rb
  | 4 => if old.slt rb then rb else old
  | _ => if old = rd then rb else old

/-- Extend a loaded value of `n` bytes. -/
def extendLoad (n v : Nat) (signed : Bool) : Dword :=
  if signed then BitVec.ofInt 64 (BitVec.ofNat (8 * n) v).toInt else BitVec.ofNat 64 v

/-! ### Loads, stores, AMOs -/

/-- A load of `n` bytes at RA + IMM16: ALIGN, ACCESS, SRAM_RANGE in order (R119). -/
def sLoad (n : Nat) (signed : Bool) (w : Word) (s : State) (p : Nat) (c : SCore) : SEffect :=
  let va := rdX c (sRA w) + sImm w
  let a := va.toNat
  if a % n ≠ 0 then .exc 0x05 va
  else match sPlace c.pl .read a n with
    | .denied => .exc 0x0C va
    | .lm o =>
      if poisoned c.lmPoison 8 o n then .poison s va
      else goX s p c (sRD w) (extendLoad n (leNat (memRead c.lm o n)) signed)
    | .slice a =>
      if !sliceRange (coreMap s p) a n then .exc 0x07 va
      else if sliceHazard (getCore s p) a n false || decide (65536 < outstanding (getCore s p) + n) then .wait
      else if (sliceRead s (coreMap s p) a n).2 then .poison (readLost s p a n) va
      else .go (sNext (addXfer s p n [] (.sload (BitVec.ofNat 5 (sRD w)) a n signed)) p)

/-- A store of the low `n` bytes of RD at RA + IMM16. -/
def sStore (n : Nat) (w : Word) (s : State) (p : Nat) (c : SCore) : SEffect :=
  let va := rdX c (sRA w) + sImm w
  let a := va.toNat
  let d := leBytes n (rdX c (sRD w)).toNat
  if a % n ≠ 0 then .exc 0x05 va
  else match sPlace c.pl .write a n with
    | .denied => .exc 0x0C va
    | .lm o => .go (sNext (setS s p { c with lm := memWrite c.lm o d, lmPoison := poisonWrite c.lmPoison 8 o (flagsOf d false) }) p)
    | .slice a =>
      if !sliceRange (coreMap s p) a n then .exc 0x07 va
      else if sliceHazard (getCore s p) a n true || decide (65536 < outstanding (getCore s p) + n) then .wait
      else .go (sNext (addXfer s p n [] (.store a d)) p)

/-- AMO: 8 bytes at RA; in slice SRAM it is done at the bank when the transfer completes. -/
def sAmo (w : Word) (s : State) (p : Nat) (c : SCore) : SEffect :=
  let va := rdX c (sRA w)
  let a := va.toNat
  let rb := rdX c (sRB w)
  let rd := rdX c (sRD w)
  if 5 < sFN w then .exc 0x03 0
  else if a % 8 ≠ 0 then .exc 0x05 va
  else match sPlace c.pl .write a 8 with
    | .denied => .exc 0x0C va
    | .lm o =>
      if poisoned c.lmPoison 8 o 8 then .poison s va
      else
        let old := BitVec.ofNat 64 (leNat (memRead c.lm o 8))
        goX s p { c with lm := memWrite c.lm o (leBytes 8 (amoOp (sFN w) old rb rd).toNat) } (sRD w) old
    | .slice a =>
      if !sliceRange (coreMap s p) a 8 then .exc 0x07 va
      else if sliceHazard (getCore s p) a 8 true || decide (65536 < outstanding (getCore s p) + 8) then .wait
      else if (sliceRead s (coreMap s p) a 8).2 then .poison (readLost s p a 8) va
      else .go (sNext (addXfer s p 8 [] (.amo (BitVec.ofNat 11 (sFN w)) (BitVec.ofNat 5 (sRD w)) a rb rd)) p)

/-- What a completed transfer does at an S-core. -/
def xferEffectS (s : State) (p : Nat) (x : Xfer) : State :=
  match x.kind with
  | .sload rd a n signed =>
    let d := sliceRead s x.map a n
    let s := sliceLost s x.map x.part a n false (coreCtx s p)
    if d.2 then sPoison s p (BitVec.ofNat 64 a)
    else updS s p fun c => wrX c rd.toNat (extendLoad n (leNat d.1) signed)
  | .amo fn rd a rb old =>
    let d := sliceRead s x.map a 8
    let s := sliceLost s x.map x.part a 8 true (coreCtx s p)
    let v := BitVec.ofNat 64 (leNat d.1)
    if d.2 then sPoison s p (BitVec.ofNat 64 a)
    else updS (sliceWrite s x.map a (leBytes 8 (amoOp fn.toNat v rb old).toNat) false) p fun c => wrX c rd.toNat v
  | .store a d => sliceWrite (sliceLost s x.map x.part a d.length true (coreCtx s p)) x.map a d false
  | _ => s

/-! ### Branches -/

/-- A B-format branch: RA in bits 4:0, RB in bits 9:5. -/
def sBranch (f : Dword → Dword → Bool) (w : Word) (s : State) (p : Nat) (c : SCore) : SEffect :=
  let pc := (getCore s p).pc
  let t := f (rdX c (fld w 4 0)) (rdX c (fld w 9 5))
  .go (retire s p (if t then pc + BitVec.ofInt 64 (4 * sfld w 25 10) else pc + 4))

/-! ### Control registers (Table 5.10) -/

/-- Whether a control register exists, whether U may read it, whether F may write it. -/
def csrRow (n : Nat) : Option (Bool × Bool) :=
  match n with
  | 0x000 | 0x001 | 0x002 | 0x008 => some (false, true)
  | 0x003 | 0x004 | 0x019 => some (false, false)
  | 0x010 | 0x018 => some (true, false)
  | _ => none

/-- The value of a control register. TIME at U of a tenant context has bits 9:0 clear (R366). -/
def csrRead (s : State) (p : Nat) (c : SCore) (n : Nat) : Dword :=
  match n with
  | 0x000 => sstatus c
  | 0x001 => c.tvec
  | 0x002 => c.tsp
  | 0x003 => c.ecause
  | 0x004 => c.eaddr
  | 0x008 => c.scratch
  | 0x010 =>
    let tenant := match (getCore s p).kernel with
      | some k => match getCtx s k.x.ctx with | some x => !x.manager | none => true
      | none => true
    if !c.pl && tenant then s.time &&& 0xFFFFFFFFFFFFFC00 else s.time
  | 0x018 => (getBinding s p).vcore.setWidth 64
  | _ => BitVec.ofNat 64 p

/-- Write a control register. TVEC and TSP are stored as written, aligned or not (DESIGN CHOICE, log 145: R117 does not say what a value that is no
multiple of 128 or 64 does). -/
def csrWrite (c : SCore) (n : Nat) (v : Dword) : SCore :=
  match n with
  | 0x000 => { c with ie := bit v 0 }
  | 0x001 => { c with tvec := v }
  | 0x002 => { c with tsp := v }
  | _ => { c with scratch := v }

/-- The checks of a control-register access: PRIVILEGE before ILLEGAL_FORM. -/
def csrCheck (c : SCore) (n : Nat) (write : Bool) : Option Byte :=
  match csrRow n with
  | none => some 0x03
  | some (u, w) => if !c.pl && !u then some 0x0B else if write && !w then some 0x03 else none

/-- CSRW, CSRSET and CSRCLR: the written value from old value and RA. -/
def csrModify (f : Dword → Dword → Dword) (w : Word) (s : State) (p : Nat) (c : SCore) : SEffect :=
  let n := fld w 21 10
  match csrCheck c n true with
  | some e => .exc e 0
  | none => .go (sNext (setS s p (csrWrite c n (f (csrRead s p c n) (rdX c (sRA w))))) p)

end Sys2Proof.Machine
end

