-- ==== Sys2Proof/Machine/SCore.lean ====
section
/-!
DEFINITION. The meanings of the S-core's instructions (Table 5.9, R113 to R120, R389).
-/
namespace Sys2Proof.Machine

/-! ### Arithmetic -/

/-- ALU: RD from RA and RB by FN. -/
def execAlu (c : Fin 64) (w : Word) (s : State) : Outcome :=
  .next (settle (issueS s c w 0x00 mkR [sRD w, sRA w, sRB w] fun s p x =>
    match aluOp (sFN w) (rdX x (sRA w)) (rdX x (sRB w)) with
    | none => .exc 0x03 0
    | some v => goX s p x (sRD w) v))

def execAddi (c : Fin 64) (w : Word) (s : State) : Outcome :=
  .next (settle (issueS s c w 0x01 mkI [sRD w, sRA w] fun s p x => goX s p x (sRD w) (rdX x (sRA w) + sImm w)))

def execSlti (c : Fin 64) (w : Word) (s : State) : Outcome :=
  .next (settle (issueS s c w 0x08 mkI [sRD w, sRA w] fun s p x =>
    goX s p x (sRD w) (if (rdX x (sRA w)).slt (sImm w) then 1 else 0)))

def execAndi (c : Fin 64) (w : Word) (s : State) : Outcome :=
  .next (settle (issueS s c w 0x02 mkI [sRD w, sRA w] fun s p x => goX s p x (sRD w) (rdX x (sRA w) &&& sImmU w)))

def execOri (c : Fin 64) (w : Word) (s : State) : Outcome :=
  .next (settle (issueS s c w 0x03 mkI [sRD w, sRA w] fun s p x => goX s p x (sRD w) (rdX x (sRA w) ||| sImmU w)))

def execXori (c : Fin 64) (w : Word) (s : State) : Outcome :=
  .next (settle (issueS s c w 0x04 mkI [sRD w, sRA w] fun s p x => goX s p x (sRD w) (rdX x (sRA w) ^^^ sImmU w)))

def execShli (c : Fin 64) (w : Word) (s : State) : Outcome :=
  .next (settle (issueS s c w 0x05 (mkRD ||| mkRA ||| mkImm6) [sRD w, sRA w] fun s p x =>
    goX s p x (sRD w) (rdX x (sRA w) <<< fld w 15 10)))

def execShri (c : Fin 64) (w : Word) (s : State) : Outcome :=
  .next (settle (issueS s c w 0x06 (mkRD ||| mkRA ||| mkImm6) [sRD w, sRA w] fun s p x =>
    goX s p x (sRD w) (rdX x (sRA w) >>> fld w 15 10)))

def execSari (c : Fin 64) (w : Word) (s : State) : Outcome :=
  .next (settle (issueS s c w 0x07 (mkRD ||| mkRA ||| mkImm6) [sRD w, sRA w] fun s p x =>
    goX s p x (sRD w) ((rdX x (sRA w)).sshiftRight (fld w 15 10))))

/-- LUI: IMM21 sign-extended and shifted left by 16. -/
def execLui (c : Fin 64) (w : Word) (s : State) : Outcome :=
  .next (settle (issueS s c w 0x09 0x03FFFFFF [sRD w] fun s p x =>
    goX s p x (sRD w) (BitVec.ofInt 64 (sfld w 25 5 * 65536))))

/-! ### Loads, stores, AMOs -/

def execLdb (c : Fin 64) (w : Word) (s : State) : Outcome :=
  .next (settle (issueS s c w 0x10 mkI [sRD w, sRA w] (sLoad 1 false w)))

def execLdh (c : Fin 64) (w : Word) (s : State) : Outcome :=
  .next (settle (issueS s c w 0x11 mkI [sRD w, sRA w] (sLoad 2 false w)))

def execLdw (c : Fin 64) (w : Word) (s : State) : Outcome :=
  .next (settle (issueS s c w 0x12 mkI [sRD w, sRA w] (sLoad 4 false w)))

def execLdd (c : Fin 64) (w : Word) (s : State) : Outcome :=
  .next (settle (issueS s c w 0x13 mkI [sRD w, sRA w] (sLoad 8 false w)))

def execLdbs (c : Fin 64) (w : Word) (s : State) : Outcome :=
  .next (settle (issueS s c w 0x14 mkI [sRD w, sRA w] (sLoad 1 true w)))

def execLdhs (c : Fin 64) (w : Word) (s : State) : Outcome :=
  .next (settle (issueS s c w 0x15 mkI [sRD w, sRA w] (sLoad 2 true w)))

def execLdws (c : Fin 64) (w : Word) (s : State) : Outcome :=
  .next (settle (issueS s c w 0x16 mkI [sRD w, sRA w] (sLoad 4 true w)))

def execStb (c : Fin 64) (w : Word) (s : State) : Outcome :=
  .next (settle (issueS s c w 0x18 mkI [sRD w, sRA w] (sStore 1 w)))

def execSth (c : Fin 64) (w : Word) (s : State) : Outcome :=
  .next (settle (issueS s c w 0x19 mkI [sRD w, sRA w] (sStore 2 w)))

def execStw (c : Fin 64) (w : Word) (s : State) : Outcome :=
  .next (settle (issueS s c w 0x1A mkI [sRD w, sRA w] (sStore 4 w)))

def execStd (c : Fin 64) (w : Word) (s : State) : Outcome :=
  .next (settle (issueS s c w 0x1B mkI [sRD w, sRA w] (sStore 8 w)))

def execAmo (c : Fin 64) (w : Word) (s : State) : Outcome :=
  .next (settle (issueS s c w 0x1C mkR [sRD w, sRA w, sRB w] (sAmo w)))

/-! ### Branches and jumps -/

def execBeq (c : Fin 64) (w : Word) (s : State) : Outcome :=
  .next (settle (issueS s c w 0x20 mkI [sRD w, sRA w] (sBranch (fun a b => a == b) w)))

def execBne (c : Fin 64) (w : Word) (s : State) : Outcome :=
  .next (settle (issueS s c w 0x21 mkI [sRD w, sRA w] (sBranch (fun a b => a != b) w)))

def execBlt (c : Fin 64) (w : Word) (s : State) : Outcome :=
  .next (settle (issueS s c w 0x22 mkI [sRD w, sRA w] (sBranch (fun a b => a.slt b) w)))

def execBge (c : Fin 64) (w : Word) (s : State) : Outcome :=
  .next (settle (issueS s c w 0x23 mkI [sRD w, sRA w] (sBranch (fun a b => !a.slt b) w)))

def execBltu (c : Fin 64) (w : Word) (s : State) : Outcome :=
  .next (settle (issueS s c w 0x24 mkI [sRD w, sRA w] (sBranch (fun a b => a.ult b) w)))

def execBgeu (c : Fin 64) (w : Word) (s : State) : Outcome :=
  .next (settle (issueS s c w 0x25 mkI [sRD w, sRA w] (sBranch (fun a b => !a.ult b) w)))

/-- JAL: RD gets PC + 4; PC moves by 4 × OFF21. -/
def execJal (c : Fin 64) (w : Word) (s : State) : Outcome :=
  .next (settle (issueS s c w 0x28 0x03FFFFFF [sRD w] fun s p x =>
    let pc := (getCore s p).pc
    .go (retire (setS s p (wrX x (sRD w) (pc + 4))) p (pc + BitVec.ofInt 64 (4 * sfld w 25 5)))))

/-- JALR: RD gets PC + 4; PC is RA + IMM16 with bits 1:0 cleared. -/
def execJalr (c : Fin 64) (w : Word) (s : State) : Outcome :=
  .next (settle (issueS s c w 0x29 mkI [sRD w, sRA w] fun s p x =>
    let pc := (getCore s p).pc
    .go (retire (setS s p (wrX x (sRD w) (pc + 4))) p ((rdX x (sRA w) + sImm w) &&& ~~~3))))

/-! ### Synchronisation and the end of a kernel -/

def execSfence (c : Fin 64) (w : Word) (s : State) : Outcome :=
  .next (settle (issueS s c w 0x30 0 [] fun s p _ => if fenced s p then .go (sNext s p) else .wait))

/-- SSIG: the fence, then a signal to a counter of the core's sync group. -/
def execSsig (c : Fin 64) (w : Word) (s : State) : Outcome :=
  .next (settle (issueS s c w 0x31 mkImm5 [] fun s p _ =>
    if fenced s p then .go (sendSignal (sNext s p) p (fld w 14 10)) else .wait))

/-- SWAIT: as MWAIT with SRC = 0. -/
def execSwait (c : Fin 64) (w : Word) (s : State) : Outcome :=
  .next (settle (issueS s c w 0x32 (mkImm5 ||| mkRA) [sRA w] fun s p x =>
    let v := (rdX x (sRA w)).setWidth 16
    if waitDone (coreCounter s p (fld w 14 10)) v then .go (sNext s p)
    else .go (updCore s p fun k => { k with wait := .counter (BitVec.ofNat 5 (fld w 14 10)) v })))

def execSrdc (c : Fin 64) (w : Word) (s : State) : Outcome :=
  .next (settle (issueS s c w 0x33 (mkImm5 ||| mkRD) [sRD w] fun s p x =>
    goX s p x (sRD w) ((coreCounter s p (fld w 14 10)).setWidth 64)))

/-- SSAFE (R125): a declared point where one is requested and the core is at U. -/
def execSsafe (c : Fin 64) (w : Word) (s : State) : Outcome :=
  .next (settle (issueS s c w 0x34 mkImm3 [] fun s p x =>
    if (getCore s p).point = .none ∨ x.pl then .go (sNext s p)
    else if !fenced s p then .wait
    else .go (takePoint (updCore (sNext s p) p fun k => { k with live := BitVec.ofNat 12 (fld w 12 10) }) p true)))

/-- SHALT: the fence, then the kernel ends; at F ILLEGAL_FORM. -/
def execShalt (c : Fin 64) (w : Word) (s : State) : Outcome :=
  .next (settle (issueS s c w 0x35 0 [] fun s p x =>
    if x.pl then .exc 0x03 0
    else if fenced s p then .go (kernelEnd (sNext s p) p false) else .wait))

/-! ### Control registers -/

def execCsrr (c : Fin 64) (w : Word) (s : State) : Outcome :=
  .next (settle (issueS s c w 0x38 (mkImm12 ||| mkRD) [sRD w] fun s p x =>
    match csrCheck x (fld w 21 10) false with
    | some e => .exc e 0
    | none => goX s p x (sRD w) (csrRead s p x (fld w 21 10))))

def execCsrw (c : Fin 64) (w : Word) (s : State) : Outcome :=
  .next (settle (issueS s c w 0x39 (mkImm12 ||| mkRA) [sRA w] (csrModify (fun _ a => a) w)))

def execCsrset (c : Fin 64) (w : Word) (s : State) : Outcome :=
  .next (settle (issueS s c w 0x3A (mkImm12 ||| mkRA) [sRA w] (csrModify (fun o a => o ||| a) w)))

def execCsrclr (c : Fin 64) (w : Word) (s : State) : Outcome :=
  .next (settle (issueS s c w 0x3B (mkImm12 ||| mkRA) [sRA w] (csrModify (fun o a => o &&& ~~~a) w)))

/-! ### Return and idling -/

/-- Whether the frame's status would let an interrupt in, so that TRET chains (R389). -/
def chains (s : State) (p q : Nat) (fr : Dword) : Bool :=
  acceptsAt (bit fr 1) (bit fr 0) (pointDue s p) && (bestOf (candidates s q)).isSome && !pointDue s p

/-- The restoring part of TRET: PC, SSTATUS and x1 to x6 from the frame, TSP + 64. -/
def restoreFrame (s : State) (p : Nat) : State :=
  let c := getS s p
  let fr := frameRead c c.tsp 1
  let c' := { (List.range 6).foldl (fun k i => wrX k (i + 1) (frameRead c c.tsp (i + 2))) c with
    ie := bit fr 0, pl := bit fr 1, tsp := c.tsp + 64 }
  updCore (setS s p c') p fun k => { k with pc := frameRead c c.tsp 0 }

/-- Complete the interrupt whose claim the frame holds, if it is still active (R389). -/
def completeFrame (s : State) (q : Nat) (fr : Dword) : State :=
  let n := fld fr 42 32
  let active := if n < 64 then bit (getProc s q).pactive n else (getIrq s (n - 64)).active
  if active then completeSource s q n else s

/-- TRET (R118, R389): completion, then chaining or the return; it waits while loads into registers are outstanding, so that none lands in a
register that it restores (log 141). A frame outside the F region raises ACCESS at F (DESIGN CHOICE, log 145: the rule does not say). -/
def execTret (c : Fin 64) (w : Word) (s : State) : Outcome :=
  .next (settle (issueS s c w 0x3D 0 [] fun s p x =>
    if !x.pl then .exc 0x0B 0
    else if !frameOk x.tsp then .exc 0x0C x.tsp
    else if loadsOut s p then .wait
    else
      let fr := frameRead x x.tsp 1
      match procOf s p with
      | none => .go (restoreFrame (count s 1 p 0) p)
      | some q =>
        let s := completeFrame (count s 1 p 0) q fr
        if chains s p q fr then .go (claimEntry (updCore s p fun k => { k with pc := x.tvec + 0x40 }) p q)
        else .go (restoreFrame s p)))

/-- SIDLE (Table 5.9): waits for an interrupt; at U PRIVILEGE. -/
def execSidle (c : Fin 64) (w : Word) (s : State) : Outcome :=
  .next (settle (issueS s c w 0x3E 0 [] fun s p x =>
    if !x.pl then .exc 0x0B 0
    else .go (updS (sNext s p) p fun x => { x with sidle := true })))

end Sys2Proof.Machine
end

