-- ==== Sys2Proof/Machine/Elem.lean ====
section
/-!
DEFINITION. The elementary functions of Table 5.5 to more than 64 bits, against which the error bounds of R108 are held. A magnitude is
`m * 2^e`; a fixed-point number counts units of 2^-160.
-/
namespace Sys2Proof.Machine

/-- One in fixed point. -/
def fixOne : Nat := 2 ^ 160

/-- `m * 2^e` in fixed point, rounded down. -/
def toFix (m : Nat) (e : Int) : Nat := m * 2 ^ (e + 160).toNat / 2 ^ (-(e + 160)).toNat

/-- The sum of the first terms of a series, each term got from its number and the one before it. -/
def fixSeries (next : Nat → Nat → Nat) (weigh : Nat → Nat → Nat) : Nat → Nat → Nat → Nat
  | 0, _, _ => 0
  | fuel + 1, k, t => weigh k t + fixSeries next weigh fuel (k + 1) (next k t)

/-- exp of a fixed-point number below 1. -/
def fixExp (y : Nat) : Nat := fixSeries (fun k t => t * y / fixOne / (k + 1)) (fun _ t => t) 48 0 fixOne

/-- 2 atanh (a / b) for a / b at most 1/3. -/
def fixAtanh2 (a b : Nat) : Nat :=
  let z := a * fixOne / b
  fixSeries (fun _ t => t * z / fixOne * z / fixOne) (fun k t => 2 * t / (2 * k + 1)) 56 0 z

/-- The natural logarithm of 2. -/
def fixLn2 : Nat := fixAtanh2 1 3

/-- exp of a fixed-point number: `r.1 * 2^r.2` in units of 2^-160. -/
def fixExpBig (y : Nat) : Nat :=
  let n := y / fixLn2
  fixExp (y - n * fixLn2) * 2 ^ n

/-- 2^x of `x = ± m * 2^e`. -/
def exp2Near (neg : Bool) (m : Nat) (e : Int) : Nat × Int :=
  let x : Int := if neg then -(toFix m e : Int) else toFix m e
  let n := x / fixOne
  (fixExp ((x - n * fixOne).toNat * fixLn2 / fixOne), n - 160)

/-- log2 of `m * 2^e`: sign and magnitude. -/
def log2Near (m : Nat) (e : Int) : Bool × Nat × Int :=
  let p := 2 ^ (bitLen m - 1)
  let v : Int := floorLog2 m e * fixOne + fixAtanh2 (m - p) (m + p) * fixOne / fixLn2
  (decide (v < 0), v.natAbs, -160)

/-- tanh of `m * 2^e`: x - x^3/3 where x is small. -/
def tanhNear (m : Nat) (e : Int) : Nat × Int :=
  if floorLog2 m e < -12 then (m * (3 * 2 ^ (-(2 * e)).toNat - m * m) * 2 ^ 64 / 3, 3 * e - 64)
  else
    let y := fixExpBig (2 * toFix m e)
    ((y - fixOne) * fixOne / (y + fixOne), -160)

/-- 1 / (1 + exp (-x)) of `x = ± m * 2^e`. -/
def sigmNear (neg : Bool) (m : Nat) (e : Int) : Nat × Int :=
  let y := fixExpBig (toFix m e)
  (if neg then 2 ^ 480 / (fixOne + y) else y * 2 ^ 320 / (fixOne + y), -320)

/-- Exponent of the unit in the last place of FP32 at a value of exponent `x`. -/
def ulpExp (x : Int) : Int := max (x - 23) (-149)

/-- Whether `v * 2^f` lies within `k` units in the last place of `m * 2^e`, and 2^-20 of a unit more for what `m * 2^e` is short of the exact
value. -/
def ulpNear (k m : Nat) (e : Int) (v : Nat) (f : Int) : Bool :=
  let u := ulpExp (floorLog2 m e) - 20
  let c := min u (min e f)
  let a := m * 2 ^ (e - c).toNat
  let b := v * 2 ^ (f - c).toNat
  decide (max a b - min a b ≤ (k * 2 ^ 20 + 1) * 2 ^ (u - c).toNat)

/-- A free value held within `k` units of `± m * 2^e`; outside it stands the value rounded to nearest. Infinity stands for 2^128. -/
def ulpHold (k : Nat) (neg : Bool) (r : Nat × Int) (v : Word) : Word :=
  let near : Bool := match decodeFp32 v with
    | .fin s m e => s == neg && ulpNear k r.1 r.2 m e
    | .inf s => s == neg && ulpNear k r.1 r.2 1 128
    | .nan => false
  if near then v else (toFp32 (.fin neg r.1 r.2)).1

end Sys2Proof.Machine
end

