-- ==== Sys2Proof/Machine/VCoreOps.lean ====
section
/-!
DEFINITION. Operations shared by the V-core's instructions: registers and masks (R94 to R96), issue and its checks (R99 to
R101), loads and stores (R104 to R106), lane arithmetic (R107 to R111) and results (R112).
-/
namespace Sys2Proof.Machine

def vD (w : Dword) : Nat := fld w 55 50
def vA (w : Dword) : Nat := fld w 49 44
def vB (w : Dword) : Nat := fld w 43 38
def vC (w : Dword) : Nat := fld w 37 32
def vM (w : Dword) : Nat := fld w 31 29

/-! Masks of the operand fields of R100: v, a and k in D, A, B and C, and M. -/
def mkDv : Dword := 0x00FC000000000000
def mkDa : Dword := 0x003C000000000000
def mkDk : Dword := 0x001C000000000000
def mkAv : Dword := 0x0003F00000000000
def mkAa : Dword := 0x0000F00000000000
def mkAk : Dword := 0x0000700000000000
def mkBv : Dword := 0x00000FC000000000
def mkBa : Dword := 0x000003C000000000
def mkBk : Dword := 0x000001C000000000
def mkCv : Dword := 0x0000003F00000000
def mkM : Dword := 0x00000000E0000000

def rdA (v : VCore) (r : Nat) : Dword := if r = 0 then 0 else Tbl.get 0 v.a r
def wrA (v : VCore) (r : Nat) (x : Dword) : VCore := if r = 0 then v else { v with a := Tbl.set 0 v.a r x }
def rdK (v : VCore) (r : Nat) : BitVec 512 := if r = 0 then BitVec.allOnes 512 else Tbl.get 0 v.k r
def wrK (v : VCore) (r : Nat) (x : BitVec 512) : VCore := if r = 0 then v else { v with k := Tbl.set 0 v.k r x }
def rdV (v : VCore) (r i : Nat) : Word := Tbl.get 0 v.v (512 * r + i)

/-- Register images as one list of writes. -/
def wrLanes (v : VCore) (l : List (Nat × Word)) : VCore :=
  { v with v := l.foldl (fun t e => Tbl.set 0 t e.1 e.2) v.v }

/-- Lane `i` of a ledger vector (R95). -/
def rdL (v : VCore) (n i : Nat) : Ledger :=
  BitVec.ofNat 96 ((rdV v n i).toNat + (rdV v (n + 1) i).toNat * 2 ^ 32 + (rdV v (n + 2) i).toNat * 2 ^ 64)

def wrLs (n i : Nat) (x : Ledger) : List (Nat × Word) :=
  [(512 * n + i, BitVec.ofNat 32 x.toNat), (512 * (n + 1) + i, BitVec.ofNat 32 (x.toNat / 2 ^ 32)),
   (512 * (n + 2) + i, BitVec.ofNat 32 (x.toNat / 2 ^ 64))]

/-- The unmasked lanes of a mask, ascending (R96). -/
def lanesOf (m : BitVec 512) : List Nat := setBits m

/-! ### Registers that earlier instructions still write (R72, R97): vector r is r, mask r is 64 + r, scalar r is 128 + r. -/

def resultRegs (r : VResult) : List Nat :=
  (r.lanes.map fun e => e.1 / 512) ++ (match r.mask with | some k => [64 + k.1.toNat] | none => []) ++
    (match r.scalar with | some a => [128 + a.1.toNat] | none => [])

def xferRegs : XferKind → List Nat
  | .vload w _ _ _ => [vD w]
  | .gather d _ => [d.toNat]
  | .ledgerLoad d _ _ => [d.toNat, d.toNat + 1, d.toNat + 2]
  | _ => []

/-- Whether any of the named registers is still being written. -/
def vBusy (s : State) (p : Nat) (regs : List Nat) : Bool :=
  let pend := ((getV s p).results.flatMap resultRegs) ++ ((getCore s p).xfers.flatMap fun x => xferRegs x.kind)
  regs.any fun r => pend.contains r

inductive VEffect where
  | wait
  | exc (cause : Byte)
  | poison (s : State)
  | go (s : State)

/-- Issue a V-core instruction: its row of Table 5.2, and the registers it reads and writes. -/
def issueV (s : State) (c : Fin 96) (w : Dword) (opc : Nat) (mask : Dword) (regs : List Nat)
    (body : State → Nat → VCore → VEffect) : State :=
  let p := vPid c
  let v := getV s p
  if fld w 63 56 ≠ opc ∨ !canIssue s p ∨ v.beat ≠ none then s
  else match fetch8 s p with
    | some false => coreException s p 0x0A (getCore s p).pc
    | some true => corePoison (readLost s p (getCore s p).pc.toNat 8) p (getCore s p).pc
    | none =>
      if !onlyBits w (mask ||| 0xFF00000000000000) then coreException s p 0x01
      else if vBusy s p regs then s
      else match body s p v with
        | .wait => s
        | .exc e => coreException s p e
        | .poison s => corePoison s p
        | .go s => s

def vNext (s : State) (p : Nat) : State := retire s p ((getCore s p).pc + 8)

/-- A scalar result and the next instruction. -/
def goScalar (s : State) (p : Nat) (v : VCore) (r : Nat) (x : Dword) : VEffect := .go (vNext (setV s p (wrA v r x)) p)

/-- Hand a lane instruction to the beat admission (R97). -/
def goBeats (s : State) (p : Nat) (v : VCore) (w : Dword) (n : Nat) : VEffect :=
  .go (setV s p { v with beat := some { w := w, left := n } })

/-! ### Memory (R99, R104 to R106) -/

/-- Bytes of local memory or slice SRAM, with poison. -/
def vRead (s : State) (map : Tbl Dword) (v : VCore) (slice : Bool) (a n : Nat) : List Byte × Bool :=
  if slice then sliceRead s map a n else (memRead v.lm a n, poisoned v.lmPoison 8 a n)

def vInRange (map : Tbl Dword) (slice : Bool) (a n : Nat) : Bool :=
  if slice then sliceRange map a n else decide (a + n ≤ 0x80000)

/-- The range exception of a space. -/
def vRangeExc (slice : Bool) : Byte := if slice then 0x07 else 0x06

/-- SC rules of Table 5.3. -/
def vFmtForm (fmt : Nat) (sc : Bool) : Bool :=
  decide (fmt ≤ 10) && (if 4 ≤ fmt ∧ fmt ≤ 6 then sc else if fmt = 2 ∨ fmt = 3 then true else !sc)

/-- Byte range of element `i`, relative to the array. -/
def elemRange (wd i : Nat) : Nat × Nat := (wd * i / 8, (wd * i + wd - 1) / 8 - wd * i / 8 + 1)

/-- A loaded lane: element and scale decoded (R104), with poison. -/
def vLoadLane (s : State) (map : Tbl Dword) (v : VCore) (w : Dword) (a b i : Nat) : Word × Flags × Bool :=
  let fmt := fld w 27 24
  let wd := fmtBits fmt
  let r := elemRange wd i
  let d := vRead s map v (bit w 22) (a + r.1) r.2
  let code := leNat d.1 / 2 ^ (wd * i % 8) % 2 ^ wd
  if bit w 23 then
    let sc := vRead s map v (bit w 22) (b + i / 32) 1
    let x := loadElem fmt code (some (leNat sc.1))
    (x.1, x.2, d.2 || sc.2)
  else
    let x := loadElem fmt code none
    (x.1, x.2, d.2)

/-- All unmasked lanes of a vector load: register writes, flags and poison. -/
def vLoadAll (s : State) (map : Tbl Dword) (v : VCore) (w : Dword) (a b : Nat) (m : BitVec 512) :
    List (Nat × Word) × Flags × Bool :=
  (lanesOf m).foldl (fun acc i =>
    let x := vLoadLane s map v w a b i
    (acc.1 ++ [(512 * vD w + i, x.1)], acc.2.1 ||| x.2.1, acc.2.2 || x.2.2)) ([], 0, false)

/-- Whether every byte of the unmasked lanes, and of their scales, is in range. -/
def vLanesInRange (map : Tbl Dword) (w : Dword) (a b : Nat) (m : BitVec 512) : Bool :=
  (lanesOf m).all fun i =>
    let r := elemRange (fmtBits (fld w 27 24)) i
    vInRange map (bit w 22) (a + r.1) r.2 && (!bit w 23 || vInRange map (bit w 22) (b + i / 32) 1)

/-- Join pieces that follow each other. -/
def mergePieces : List (Nat × List Byte) → List (Nat × List Byte)
  | [] => []
  | (a, d) :: l =>
    match mergePieces l with
    | (b, e) :: r => if b = a + d.length then (a, d ++ e) :: r else (a, d) :: (b, e) :: r
    | [] => [(a, d)]

/-- One stored lane of a byte-sized format: its code bytes and flags (R104). -/
def vStoreLane (fmt : Nat) (x : Word) : List Byte × Flags :=
  match fmt with
  | 8 | 9 => (leBytes 4 x.toNat, 0)
  | 7 => let r := narrowBf16 x; (leBytes 2 r.1.toNat, r.2)
  | 10 => let r := toE8m0 x; (leBytes 1 r.1, r.2)
  | f => let r := quantPlain f x; (leBytes 1 r.1, r.2)

/-- The blocks of a scaled store: element codes and scale bytes. -/
def vStoreBlocks (fmt : Nat) (xs : List Word) : Nat → List Nat × List Byte × Flags
  | 0 => ([], [], 0)
  | n + 1 =>
    let r := vStoreBlocks fmt xs n
    let q := quantBlock fmt ((xs.drop (32 * n)).take 32)
    (r.1 ++ q.1, r.2.1 ++ [BitVec.ofNat 8 q.2.1], r.2.2 ||| q.2.2)

/-- The bytes a vector store writes, as pieces, and its flags (R104). -/
def vStorePieces (v : VCore) (w : Dword) (a b : Nat) (m : BitVec 512) : List (Nat × List Byte) × Flags :=
  let fmt := fld w 27 24
  let xs := (List.range 512).map fun i => rdV v (vC w) i
  if bit w 23 then
    let r := vStoreBlocks fmt xs 16
    ([(a, pack (fmtBits fmt) r.1), (b, r.2.1)], r.2.2)
  else if fmt = 1 then
    let q := xs.map (quantPlain 1)
    ([(a, pack 4 (q.map (·.1)))], q.foldl (fun f e => f ||| e.2) 0)
  else
    let wd := fmtBits fmt / 8
    let q := (lanesOf m).map fun i => (a + wd * i, vStoreLane fmt (rdV v (vC w) i))
    (mergePieces (q.map fun e => (e.1, e.2.1)), q.foldl (fun f e => f ||| e.2.2) 0)

/-- Write pieces into local memory. -/
def lmWritePieces (v : VCore) (l : List (Nat × List Byte)) : VCore :=
  l.foldl (fun v e => { v with lm := memWrite v.lm e.1 e.2, lmPoison := poisonWrite v.lmPoison 8 e.1 (flagsOf e.2 false) }) v

/-- One scatter update of a word (R105): new value and flags. -/
def scatterWord (op : Nat) (old x : Word) : Word × Flags :=
  match op with
  | 0 => (x, 0)
  | 1 => fp32Add old x
  | 2 => (old + x, 0)
  | _ => fp32Max old x

/-- A scatter into slice SRAM, lane by lane (R105, R131). -/
def scatterSlice (s : State) (map : Tbl Dword) (op : Nat) (items : List (Nat × Word)) : State × Flags :=
  items.foldl (fun acc e =>
    let d := sliceRead acc.1 map e.1 4
    let r := scatterWord op (BitVec.ofNat 32 (leNat d.1)) e.2
    (sliceWrite acc.1 map e.1 (leBytes 4 r.1.toNat) d.2, acc.2 ||| r.2)) (s, 0)

/-- A scatter into local memory. -/
def scatterLm (v : VCore) (op : Nat) (items : List (Nat × Word)) : VCore :=
  items.foldl (fun v e =>
    let r := scatterWord op (BitVec.ofNat 32 (leNat (memRead v.lm e.1 4))) e.2
    { v with lm := memWrite v.lm e.1 (leBytes 4 r.1.toNat), flags := v.flags ||| r.2 }) v

/-- Whether a gather or scatter is outstanding: every later memory instruction waits for it (R98). -/
def gatherOut (k : Core) : Bool := k.xfers.any fun x => match x.kind with | .gather .. | .scatter .. => true | _ => false

/-! ### Lane results (R107 to R111) -/

/-- A result computed lane by lane over the unmasked lanes. -/
def laneMap (m : BitVec 512) (d : Nat) (f : Nat → Word × Flags) : VResult :=
  let l := (lanesOf m).map fun i => (512 * d + i, f i)
  { lanes := l.map fun e => (e.1, e.2.1), flags := l.foldl (fun a e => a ||| e.2.2) 0 }

def ledgerMap (m : BitVec 512) (d : Nat) (f : Nat → Ledger × Flags) : VResult :=
  let l := (lanesOf m).map fun i => (i, f i)
  { lanes := l.flatMap fun e => wrLs d e.1 e.2.1,
    flags := l.foldl (fun a e => a ||| e.2.2 ||| flIf (e.2.1 == satCode) flLedgerRange) 0 }

/-- Operand B of a lane instruction with BS (R107). -/
def laneB (v : VCore) (w : Dword) (i : Nat) : Word := if bit w 28 then (rdA v (vB w)).setWidth 32 else rdV v (vB w) i

/-- VFOP (Table 5.4). -/
def vfopLane (fn : Nat) (a b : Word) : Word × Flags :=
  match fn with
  | 0 => fp32Add a b
  | 1 => fp32Sub a b
  | 2 => fp32Mul a b
  | 3 => fp32Max a b
  | 4 => fp32Min a b
  | 5 => (a &&& 0x7FFFFFFF, 0)
  | 6 => (a ^^^ 0x80000000, 0)
  | _ => (a, 0)

/-- VIOP (Table 5.4). -/
def viopLane (fn : Nat) (a b : Word) : Word :=
  match fn with
  | 0 => a + b
  | 1 => a - b
  | 2 => a * b
  | 3 => a &&& b
  | 4 => a ||| b
  | 5 => a ^^^ b
  | 6 => a <<< (b.toNat % 32)
  | 7 => a >>> (b.toNat % 32)
  | 8 => a.sshiftRight (b.toNat % 32)
  | 9 => if a.slt b then b else a
  | _ => if b.slt a then b else a

/-- VCMP conditions EQ, NE, LT, LE, GT, GE (Table 5.4). -/
def vcmpLane (int : Bool) (cond : Nat) (a b : Word) : Bool :=
  let o : Option Ordering := if int then some (compare a.toInt b.toInt) else fp32Cmp a b
  match cond, o with
  | 1, none => true
  | _, none => false
  | 0, some r => r == .eq
  | 1, some r => r != .eq
  | 2, some r => r == .lt
  | 3, some r => r != .gt
  | 4, some r => r == .gt
  | _, some r => r != .lt

/-- VCVT (Table 5.4). -/
def vcvtLane (fn : Nat) (a : Word) : Word × Flags :=
  match fn with
  | 0 => fp32ToInt32 a
  | 1 => int32ToFp32 a
  | 2 => let r := narrowBf16 a; ((r.1.setWidth 32) <<< 16, r.2)
  | _ => fp32Floor a

/-- Exponent of 1 / (m * 2^e). -/
def rcpExp (m : Nat) (e : Int) : Int := if m = 2 ^ (bitLen m - 1) then -floorLog2 m e else -floorLog2 m e - 1

/-- Whether v * 2^f lies within one unit in the last place of 1 / (m * 2^e). -/
def rcpNear (m : Nat) (e : Int) (v : Nat) (f : Int) : Bool :=
  let u := ulpExp (rcpExp m e)
  let k := min f u
  let a := v * 2 ^ (f - k).toNat
  let b := 2 ^ (u - k).toNat
  geScaled ((a + b) * m) (k + e) 1 0 && (decide (a ≤ b) || geScaled 1 0 ((a - b) * m) (k + e))

/-- 1 / (m * 2^e), rounded toward zero. -/
def rcpDown (neg : Bool) (m : Nat) (e : Int) : Word :=
  let q := ulpExp (rcpExp m e)
  (toFp32 (.fin neg (2 ^ (-q - e).toNat / m) q)).1

/-- Exponent of 1 / √(m * 2^e). -/
def rsqrtExp (m : Nat) (e : Int) : Int :=
  let l := floorLog2 m e
  if m = 2 ^ (bitLen m - 1) ∧ l % 2 = 0 then -(l / 2) else -((l + 2) / 2)

/-- Whether v * 2^f lies within one unit in the last place of 1 / √(m * 2^e). -/
def rsqrtNear (m : Nat) (e : Int) (v : Nat) (f : Int) : Bool :=
  let u := ulpExp (rsqrtExp m e)
  let k := min f u
  let a := v * 2 ^ (f - k).toNat
  let b := 2 ^ (u - k).toNat
  geScaled ((a + b) ^ 2 * m) (2 * k + e) 1 0 && (decide (a ≤ b) || geScaled 1 0 ((a - b) ^ 2 * m) (2 * k + e))

/-- 1 / √(m * 2^e), rounded toward zero: the largest 25-bit multiple of its quantum whose square times the operand is at most 1. -/
def rsqrtDown (m : Nat) (e : Int) : Word :=
  let q := ulpExp (rsqrtExp m e)
  let n := (List.range 25).foldl (fun n i =>
    let t := n + 2 ^ (24 - i)
    if geScaled 1 0 (t ^ 2 * m) (2 * q + e) then t else n) 0
  (toFp32 (.fin false n q)).1

/-- The free value of a function, kept within its bound of Table 5.5: a value outside it is replaced by the exact one, rounded toward zero for
RCP and RSQRT and to nearest for the others (log 18). -/
def vtfValue (fn : Nat) (a : Word) : Word :=
  let v := Config.vtf (BitVec.ofNat 3 fn) a
  match fn, decodeFp32 a, decodeFp32 v with
  | 0, .fin n m e, _ => ulpHold 1 false (exp2Near n m e) v
  | 1, .fin _ m e, _ => let r := log2Near m e; ulpHold 1 r.1 r.2 v
  | 4, .fin n m e, _ => ulpHold 2 n (tanhNear m e) v
  | 5, .fin n m e, _ => ulpHold 2 false (sigmNear n m e) v
  | 2, .fin n m e, .fin k vm f => if k = n ∧ rcpNear m e vm f then v else rcpDown n m e
  | 2, .fin n m e, _ => rcpDown n m e
  | 3, .fin _ m e, .fin k vm f => if k = false ∧ rsqrtNear m e vm f then v else rsqrtDown m e
  | 3, .fin _ m e, _ => rsqrtDown m e
  | _, _, _ => v

/-- Whether a value is the exact one: 2^x, log2 x, tanh x and the sigmoid of a binary fraction are irrational but for the exact and
special cases, x = 0 among them. -/
def vtfIsExact (fn : Nat) (a v : Word) : Bool :=
  match fn, decodeFp32 a, decodeFp32 v with
  | 2, .fin _ m e, .fin _ vm f => geScaled (vm * m) (f + e) 1 0 && geScaled 1 0 (vm * m) (f + e)
  | 3, .fin _ m e, .fin _ vm f => geScaled (vm ^ 2 * m) (2 * f + e) 1 0 && geScaled 1 0 (vm ^ 2 * m) (2 * f + e)
  | 4, .fin _ m _, .fin _ vm _ => m == 0 && vm == 0
  | 5, .fin _ m _, _ => m == 0 && v == 0x3F000000
  | _, _, _ => false

/-- A function value that the specification bounds and does not fix: the free value, and the flags that follow from it (R108). -/
def vtfFree (fn : Nat) (a : Word) : Word × Flags :=
  let v := vtfValue fn a
  let inexact := !vtfIsExact fn a v
  (v, flIf inexact flFloatInexact ||| flIf (inexact && decide (v.toNat % 2 ^ 31 < 0x00800000)) flFloatUnderflow |||
    flIf (v.toNat % 2 ^ 31 == 0x7F800000) flFloatOverflow)

/-- VTF (R108, Table 5.5): exact and special cases, else the free value. -/
def vtfLane (fn : Nat) (a : Word) : Word × Flags :=
  let one : Word := 0x3F800000
  match fn, decodeFp32 a with
  | _, .nan => (0x7FC00000, flInvalid)
  | 0, .inf n => (if n then 0 else 0x7F800000, 0)
  | 0, .fin n m e =>
    if n && geScaled m e 150 0 then (0, flFloatUnderflow ||| flFloatInexact)
    else if !n && geScaled m e 128 0 then (0x7F800000, flFloatOverflow ||| flFloatInexact)
    else if m = 0 ∨ 0 ≤ e ∨ m % 2 ^ (-e).toNat = 0 then
      let x : Int := signedAt n (rneAt m e 0).1 0 0
      ((toFp32 (.fin false 1 x)).1, 0)
    else vtfFree 0 a
  | 1, .inf n => if n then (0x7FC00000, flInvalid) else (0x7F800000, 0)
  | 1, .fin n m e =>
    if m = 0 then (0xFF800000, 0)
    else if n then (0x7FC00000, flInvalid)
    else if m = 2 ^ (bitLen m - 1) then
      let x := floorLog2 m e
      ((toFp32 (.fin (decide (x < 0)) x.natAbs 0)).1, 0)
    else vtfFree 1 a
  | 2, .inf n => (if n then 0x80000000 else 0, 0)
  | 2, .fin n m e =>
    if m = 0 then (if n then 0xFF800000 else 0x7F800000, 0)
    else if !geScaled (2 * m) e 2 (-128) || (m = 2 ^ (bitLen m - 1) && floorLog2 m e == -128) then
      (if n then 0xFF800000 else 0x7F800000, flFloatOverflow ||| flFloatInexact)
    else vtfFree 2 a
  | 3, .inf n => if n then (0x7FC00000, flInvalid) else (0, 0)
  | 3, .fin n m _ =>
    if m = 0 then (if n then 0xFF800000 else 0x7F800000, 0)
    else if n then (0x7FC00000, flInvalid)
    else vtfFree 3 a
  | 4, .inf n => (if n then 0xBF800000 else one, 0)
  | 4, .fin n m e => if geScaled (10 * m) e 91 0 then (if n then 0xBF800000 else one, flFloatInexact) else vtfFree 4 a
  | _, .inf n => (if n then 0 else one, 0)
  | _, .fin n m e =>
    if !n && geScaled m e 17 0 then (one, flFloatInexact)
    else if n && geScaled m e 104 0 then (0, flFloatUnderflow ||| flFloatInexact)
    else vtfFree 5 a

/-- One halving of the fixed tree of R109 over a list of `2h` values. -/
def halve {α : Type} (f : α → α → α) (l : List α) : List α :=
  List.zipWith f (l.take (l.length / 2)) (l.drop (l.length / 2))

def treeFold {α : Type} (f : α → α → α) : Nat → List α → List α
  | 0, l => l
  | n + 1, l => treeFold f n (halve f l)

/-- VRED (R109): result word and flags. ARGMAX answers an unmasked lane wherever there is one: where every unmasked lane holds minus infinity,
the identity of a masked-off lower lane does not win (DESIGN CHOICE, log 149). -/
def vredValue (v : VCore) (fn r : Nat) (m : BitVec 512) : Word × Flags :=
  let ls := lanesOf m
  let xs := ls.map fun i => rdV v r i
  let anyNan := xs.any fp32IsNan
  match fn with
  | 0 =>
    let t := (List.range 512).map fun i => ((if m.getLsbD i then rdV v r i else 0), (0 : Flags))
    let add (a b : Word × Flags) : Word × Flags := let x := fp32Add a.1 b.1; (x.1, a.2 ||| b.2 ||| x.2)
    (treeFold add 9 t).headD (0, 0)
  | 1 => if anyNan then (0x7FC00000, flInvalid) else (xs.foldl (fun a b => (fp32Max a b).1) 0xFF800000, 0)
  | 2 => if anyNan then (0x7FC00000, flInvalid) else (xs.foldl (fun a b => (fp32Min a b).1) 0x7F800000, 0)
  | 3 => (xs.foldl (· + ·) 0, 0)
  | 4 => (xs.foldl (fun a b => if a.slt b then b else a) 0x80000000, 0)
  | 5 => (xs.foldl (fun a b => if b.slt a then b else a) 0x7FFFFFFF, 0)
  | _ =>
    if anyNan then (0xFFFFFFFF, flInvalid)
    else match ls with
      | [] => (0xFFFFFFFF, 0)
      | i :: l => (BitVec.ofNat 32 (l.foldl (fun b j => if fp32Key (rdV v r b) < fp32Key (rdV v r j) then j else b) i), 0)

/-- Whether key-index pair `a` ranks before `b` (R110). -/
def topkBefore (down : Bool) (a b : Word × Word) : Bool :=
  match fp32Cmp a.1 b.1 with
  | some .gt => !down
  | some .lt => down
  | _ => a.2.ult b.2

def topkInsert (down : Bool) (x : Word × Word) : List (Word × Word) → List (Word × Word)
  | [] => [x]
  | y :: l => if topkBefore down x y then x :: y :: l else y :: topkInsert down x l

/-- VTOPK (R110): the new list of 512 pairs. With fewer than K candidates the places behind them take the fill entry, which the rule gives to
lanes K to 511 (DESIGN CHOICE, log 150). -/
def topkList (v : VCore) (w : Dword) (m : BitVec 512) : List (Word × Word) :=
  let k := if fld w 9 0 = 0 then 512 else min 512 (fld w 9 0)
  let down := bit w 10
  let old := ((List.range k).map fun i => (rdV v (vD w) i, rdV v (vD w + 1) i)).filter fun e => !fp32IsNan e.1
  let b := (rdA v (vB w)).setWidth 32
  let new := ((lanesOf m).map fun i => (rdV v (vA w) i, b + BitVec.ofNat 32 i)).filter fun e => !fp32IsNan e.1
  let best := ((old ++ new).foldl (fun l x => topkInsert down x l) []).take k
  best ++ List.replicate (512 - best.length) (if down then 0x7F800000 else 0xFF800000, 0xFFFFFFFF)

/-- The result of a lane instruction, from its operands at its last beat. -/
def laneResult (v : VCore) (w : Dword) : VResult :=
  let m := rdK v (vM w)
  let d := vD w
  match fld w 63 56 with
  | 0x1C => laneMap m d fun _ => ((rdA v (vA w)).setWidth 32, 0)
  | 0x30 => laneMap m d fun i => vfopLane (fld w 3 0) (rdV v (vA w) i) (laneB v w i)
  | 0x31 => laneMap m d fun i => fp32Fma (rdV v (vA w) i) (laneB v w i) (rdV v (vC w) i)
  | 0x32 => laneMap m d fun i => (viopLane (fld w 3 0) (rdV v (vA w) i) (laneB v w i), 0)
  | 0x33 =>
    let r := (lanesOf m).foldl (fun (k : BitVec 512) i =>
      if vcmpLane (bit w 24) (fld w 23 21) (rdV v (vA w) i) (laneB v w i) then setBit k i true else k) 0
    { mask := some (BitVec.ofNat 3 d, r) }
  | 0x34 => laneMap (BitVec.allOnes 512) d fun i => (if m.getLsbD i then rdV v (vA w) i else rdV v (vB w) i, 0)
  | 0x35 => laneMap m d fun i => vtfLane (fld w 2 0) (rdV v (vA w) i)
  | 0x36 => laneMap m d fun i => vcvtLane (fld w 2 0) (rdV v (vA w) i)
  | 0x38 =>
    let r := vredValue v (fld w 2 0) (vA w) m
    { scalar := some (BitVec.ofNat 4 d, r.1.setWidth 64), flags := r.2 }
  | 0x39 => laneMap m d fun i => (rdV v (vA w) ((rdV v (vB w) i).toNat % 512), 0)
  | 0x3A => laneMap m d fun i => (rdV v (vA w) ((i + (rdA v (vB w)).toNat) % 512), 0)
  | 0x3B =>
    { lanes := (topkList v w m).zipIdx.flatMap fun e => [(512 * d + e.2, e.1.1), (512 * (d + 1) + e.2, e.1.2)] }
  | 0x3C => ledgerMap m d fun i => (ledgerAdd (rdL v (vA w) i) (rdL v (vB w) i), 0)
  | 0x3D => laneMap m d fun i =>
    let r := ledgerConvert (if bit w 24 then 5 else 0) (rdL v (vA w) i) (sfld w 22 16)
    (BitVec.ofNat 32 r.1, r.2)
  | 0x3E => ledgerMap m d fun i =>
    if bit w 24 then (int32ToLedger (rdV v (vA w) i), 0) else fp32ToLedger (rdV v (vA w) i)
  | _ =>
    let t := (List.range 512).map fun i => if m.getLsbD i then rdL v (vA w) i else 0
    let x := (treeFold ledgerAdd 9 t).headD 0
    { lanes := (List.range 512).flatMap fun i => wrLs d i (if i = 0 then x else 0),
      flags := flIf (x == satCode) flLedgerRange }

/-- Beats of a lane instruction (Table 5.7). -/
def laneBeats (w : Dword) : Nat :=
  match fld w 63 56 with
  | 0x35 => if fld w 2 0 ≤ 3 then 2 else 3
  | 0x38 | 0x39 | 0x3A => 2
  | 0x3C | 0x3D | 0x3E => 3
  | 0x3F => 4
  | 0x3B =>
    let k := if fld w 9 0 = 0 then 512 else fld w 9 0
    if k ≤ 64 then 8 else if k ≤ 256 then 16 else 24
  | _ => 1

/-- Registers a lane instruction uses, in the numbering of `vBusy`. -/
def laneRegs (w : Dword) : List Nat :=
  let l (n : Nat) : List Nat := [n, n + 1, n + 2]
  let b : List Nat := if bit w 28 then [128 + vB w] else [vB w]
  let k := 64 + vM w
  match fld w 63 56 with
  | 0x1C => [vD w, 128 + vA w, k]
  | 0x30 | 0x32 => [vD w, vA w, k] ++ b
  | 0x31 => [vD w, vA w, vC w, k] ++ b
  | 0x33 => [64 + vD w, vA w, k] ++ b
  | 0x34 | 0x39 => [vD w, vA w, vB w, k]
  | 0x35 | 0x36 => [vD w, vA w, k]
  | 0x38 => [128 + vD w, vA w, k]
  | 0x3A => [vD w, vA w, 128 + vB w, k]
  | 0x3B => [vD w, vD w + 1, vA w, 128 + vB w, k]
  | 0x3C => l (vD w) ++ l (vA w) ++ l (vB w) ++ [k]
  | 0x3D => [vD w, k] ++ l (vA w)
  | 0x3E => [vA w, k] ++ l (vD w)
  | _ => l (vD w) ++ l (vA w) ++ [k]

/-- Put a result in its registers; its flags join the core copy. -/
def applyResult (v : VCore) (r : VResult) : VCore :=
  let v := wrLanes { v with flags := v.flags ||| r.flags } r.lanes
  let v := match r.mask with | some k => wrK v k.1.toNat k.2 | none => v
  match r.scalar with | some a => wrA v a.1.toNat a.2 | none => v

/-- Whether a beat is ready but for its credit (R97). -/
def vReady (s : State) (p : Nat) : Bool :=
  match (getV s p).beat with
  | none => false
  | some b => (b.begun || canIssue s p) && (getCore s p).run == .running && !vBusy s p (laneRegs b.w)

/-- BEAT_ADMIT (R97): a credit, or none once begun with TARGET 0; the last beat computes the result. -/
def admitBeat (s : State) (p : Nat) : State :=
  let v := getV s p
  let k := getCore s p
  match v.beat with
  | none => s
  | some b =>
    let free := b.begun && (getMeter s (getBinding s p).part.toNat).target == 0
    if !vReady s p || (decide (k.credits = 0) && !free) then s
    else
      let s := if free then s else updCore s p fun k => { k with credits := k.credits - 1 }
      let s := count s 1 p 1
      if b.left ≤ 1 then
        retire (setV s p { v with beat := none, results := v.results ++ [laneResult v b.w] }) p (k.pc + 8)
      else setV s p { v with beat := some { b with left := b.left - 1, begun := true } }

/-- Lanes of a vector load, a gather and a ledger load land in their registers; `o` holds the memory they read. -/
def landVload (o s : State) (p : Nat) (x : Xfer) (w : Dword) (a b : Nat) (m : BitVec 512) : State :=
  let v := getV s p
  let r := vLoadAll o x.map v w a b m
  if r.2.2 then corePoison s p else setV s p (wrLanes { v with flags := v.flags ||| r.2.1 } r.1)

def landGather (o s : State) (p : Nat) (x : Xfer) (d : BitVec 6) (l : List (Nat × Nat)) : State :=
  let r := l.map fun e => (e.1, sliceRead o x.map e.2 4)
  if r.any fun e => e.2.2 then corePoison s p
  else setV s p (wrLanes (getV s p) (r.map fun e => (512 * d.toNat + e.1, BitVec.ofNat 32 (leNat e.2.1))))

def landLedger (o s : State) (p : Nat) (x : Xfer) (d : BitVec 6) (a : Nat) (m : BitVec 512) : State :=
  let r := (lanesOf m).map fun i => (i, sliceRead o x.map (a + 12 * i) 12)
  if r.any fun e => e.2.2 then corePoison s p
  else setV s p (wrLanes (getV s p) (r.flatMap fun e => wrLs d.toNat e.1 (partialOf e.2.1)))

/-- What a completed transfer does at a V-core (R104 to R106). -/
def xferEffectV (s : State) (p : Nat) (x : Xfer) : State :=
  let lost (s : State) (l : List (Nat × Nat)) (write : Bool) : State :=
    l.foldl (fun s e => sliceLost s x.map x.part e.1 e.2 write (coreCtx s p)) s
  match x.kind with
  | .vload w a b m => landVload s (lost s [(a, 64 * fmtBits (fld w 27 24))] false) p x w a b m
  | .gather d l => landGather s (lost s (l.map fun e => (e.2, 4)) false) p x d l
  | .scatter op l =>
    let r := scatterSlice (lost s (l.map fun e => (e.1, 4)) true) x.map op.toNat l
    updV r.1 p fun v => { v with flags := v.flags ||| r.2 }
  | .ledgerLoad d a m => landLedger s (lost s ((lanesOf m).map fun i => (a + 12 * i, 12)) false) p x d a m
  | .scatterBytes l =>
    l.foldl (fun s e => sliceWrite s x.map e.1 e.2 false) (lost s (l.map fun e => (e.1, e.2.length)) true)
  | .reduce a l => reduceSend s p x a l
  | _ => s

end Sys2Proof.Machine
end

