-- ==== Sys2Proof/Machine/VCore.lean ====
section
/-!
DEFINITION. The V-core's instructions (R102 to R111), the admission of beats (R97) and the arrival of results (R112).
-/
namespace Sys2Proof.Machine

/-! ### Scalar, control, sync and flag instructions (R102) -/

/-- VNOP. -/
def execVnop (c : Fin 96) (w : Dword) (s : State) : Outcome :=
  .next (settle (issueV s c w 0x00 0 [] fun s p _ => .go (vNext s p)))

/-- VHALT: as MHALT (R83). -/
def execVhalt (c : Fin 96) (w : Dword) (s : State) : Outcome :=
  .next (settle (issueV s c w 0x01 1 [] fun s p v =>
    if !fenced s p || !v.results.isEmpty then .wait else .go (kernelEnd (vNext s p) p (bit w 0))))

/-- VSAFE (R125): a declared point if one is requested, else nothing. -/
def execVsafe (c : Fin 96) (w : Dword) (s : State) : Outcome :=
  .next (settle (issueV s c w 0x02 0xFFF [] fun s p v =>
    if (getCore s p).point = .none then .go (vNext s p)
    else if !fenced s p || !v.results.isEmpty then .wait
    else .go (takePoint (updCore (vNext s p) p fun k => { k with live := BitVec.ofNat 12 (fld w 11 0) }) p true)))

/-- VFENCE: as MFENCE. -/
def execVfence (c : Fin 96) (w : Dword) (s : State) : Outcome :=
  .next (settle (issueV s c w 0x03 0 [] fun s p _ => if fenced s p then .go (vNext s p) else .wait))

/-- VLI: as MLI (R77). -/
def execVli (c : Fin 96) (w : Dword) (s : State) : Outcome :=
  .next (settle (issueV s c w 0x08 (mkDa ||| 0xFFFFFFFF) [128 + vD w] fun s p v =>
    goScalar s p v (vD w) (BitVec.ofInt 64 (sfld w 31 0))))

/-- VADDI: as MADDI. -/
def execVaddi (c : Fin 96) (w : Dword) (s : State) : Outcome :=
  .next (settle (issueV s c w 0x09 (mkDa ||| mkAa ||| 0xFFFFFFFF) [128 + vD w, 128 + vA w] fun s p v =>
    goScalar s p v (vD w) (rdA v (vA w) + BitVec.ofInt 64 (sfld w 31 0))))

/-- VADDS: as MADD. -/
def execVadds (c : Fin 96) (w : Dword) (s : State) : Outcome :=
  .next (settle (issueV s c w 0x0A (mkDa ||| mkAa ||| mkBa) [128 + vD w, 128 + vA w, 128 + vB w] fun s p v =>
    goScalar s p v (vD w) (rdA v (vA w) + rdA v (vB w))))

/-- VSUBS: as MSUB. -/
def execVsubs (c : Fin 96) (w : Dword) (s : State) : Outcome :=
  .next (settle (issueV s c w 0x0B (mkDa ||| mkAa ||| mkBa) [128 + vD w, 128 + vA w, 128 + vB w] fun s p v =>
    goScalar s p v (vD w) (rdA v (vA w) - rdA v (vB w))))

/-- VMULS (R102): the low 64 bits of the product. -/
def execVmuls (c : Fin 96) (w : Dword) (s : State) : Outcome :=
  .next (settle (issueV s c w 0x0C (mkDa ||| mkAa ||| mkBa) [128 + vD w, 128 + vA w, 128 + vB w] fun s p v =>
    goScalar s p v (vD w) (rdA v (vA w) * rdA v (vB w))))

/-- VSHLI: as MSHLI. -/
def execVshli (c : Fin 96) (w : Dword) (s : State) : Outcome :=
  .next (settle (issueV s c w 0x0D (mkDa ||| mkAa ||| 0x3F) [128 + vD w, 128 + vA w] fun s p v =>
    goScalar s p v (vD w) (rdA v (vA w) <<< fld w 5 0)))

/-- VBR: as MBR (R76, R77). -/
def execVbr (c : Fin 96) (w : Dword) (s : State) : Outcome :=
  .next (settle (issueV s c w 0x10 (mkAa ||| mkBa ||| 0xEFFFFF) [128 + vA w, 128 + vB w] fun s p v =>
    let pc := (getCore s p).pc
    match condHolds (fld w 23 21) (rdA v (vA w)) (rdA v (vB w)) with
    | none => .exc 0x03
    | some b => .go (retire s p (if b then branchTo pc w else pc + 8))))

/-- VLOOP: as MLOOP; the comparison uses the computed value. -/
def execVloop (c : Fin 96) (w : Dword) (s : State) : Outcome :=
  .next (settle (issueV s c w 0x11 (mkDa ||| 0xFFFFF) [128 + vD w] fun s p v =>
    let x := rdA v (vD w) - 1
    let pc := (getCore s p).pc
    .go (retire (setV s p (wrA v (vD w) x)) p (if x ≠ 0 then branchTo pc w else pc + 8))))

/-- KCNT (R103). -/
def execKcnt (c : Fin 96) (w : Dword) (s : State) : Outcome :=
  .next (settle (issueV s c w 0x17 (mkDa ||| mkAk) [128 + vD w, 64 + vA w] fun s p v =>
    goScalar s p v (vD w) (BitVec.ofNat 64 (popcount (rdK v (vA w))))))

/-- VSIG: as MSIG (R83): a fence, then a signal to counter S. -/
def execVsig (c : Fin 96) (w : Dword) (s : State) : Outcome :=
  .next (settle (issueV s c w 0x18 0x1F [] fun s p _ =>
    if fenced s p then .go (sendSignal (vNext s p) p (fld w 4 0)) else .wait))

/-- VWAIT: as MWAIT with SRC = 0. -/
def execVwait (c : Fin 96) (w : Dword) (s : State) : Outcome :=
  .next (settle (issueV s c w 0x19 (mkAa ||| 0x1F) [128 + vA w] fun s p v =>
    let x := (rdA v (vA w)).setWidth 16
    if waitDone (coreCounter s p (fld w 4 0)) x then .go (vNext s p)
    else .go (updCore s p fun k => { k with wait := .counter (BitVec.ofNat 5 (fld w 4 0)) x })))

/-- VFLAGS: as MFLAGS with SRC = 0: the core copy, cleared in the same step if CLR. -/
def execVflags (c : Fin 96) (w : Dword) (s : State) : Outcome :=
  .next (settle (issueV s c w 0x1A (mkDa ||| 0x200) [128 + vD w] fun s p v =>
    goScalar s p (if bit w 9 then { v with flags := 0 } else v) (vD w) (v.flags.setWidth 64)))

/-! ### Mask and move instructions (R103) -/

/-- VMOVS. -/
def execVmovs (c : Fin 96) (w : Dword) (s : State) : Outcome :=
  .next (settle (issueV s c w 0x1C (mkDv ||| mkAa ||| mkM) [] fun s p v => goBeats s p v w (laneBeats w)))

/-- VEXT. -/
def execVext (c : Fin 96) (w : Dword) (s : State) : Outcome :=
  .next (settle (issueV s c w 0x1D (mkDa ||| mkAv ||| 0x1FF) [128 + vD w, vA w] fun s p v =>
    goScalar s p v (vD w) ((rdV v (vA w) (fld w 8 0)).setWidth 64)))

/-- KOP. -/
def execKop (c : Fin 96) (w : Dword) (s : State) : Outcome :=
  .next (settle (issueV s c w 0x1E (mkDk ||| mkAk ||| mkBk ||| 7) [64 + vD w, 64 + vA w, 64 + vB w] fun s p v =>
    let a := rdK v (vA w)
    let b := rdK v (vB w)
    let r := match fld w 2 0 with | 0 => a &&& b | 1 => a ||| b | 2 => a ^^^ b | 3 => a &&& ~~~b | _ => ~~~a
    if 4 < fld w 2 0 then .exc 0x03 else .go (vNext (setV s p (wrK v (vD w) r)) p)))

/-- KSET: lanes 0 to min(A, 512) − 1. -/
def execKset (c : Fin 96) (w : Dword) (s : State) : Outcome :=
  .next (settle (issueV s c w 0x1F (mkDk ||| mkAa) [64 + vD w, 128 + vA w] fun s p v =>
    .go (vNext (setV s p (wrK v (vD w) (BitVec.ofNat 512 (2 ^ min (rdA v (vA w)).toNat 512 - 1)))) p)))

/-! ### Loads, stores, gathers and scatters (R104 to R106) -/

/-- Room for a transfer (R72, R98). -/
def roomFor (s : State) (p n : Nat) : Bool := decide (outstanding (getCore s p) + n ≤ 65536)

/-- VLD (R104). -/
def execVld (c : Fin 96) (w : Dword) (s : State) : Outcome :=
  .next (settle (issueV s c w 0x20 (mkDv ||| mkAa ||| mkBa ||| mkM ||| 0x0FC00000)
      [vD w, 128 + vA w, 128 + vB w, 64 + vM w] fun s p v =>
    let a := (rdA v (vA w)).toNat
    let b := (rdA v (vB w)).toNat
    let m := rdK v (vM w)
    let n := 64 * fmtBits (fld w 27 24)
    let ns := if bit w 23 then 16 else 0
    if !vFmtForm (fld w 27 24) (bit w 23) then .exc 0x03
    else if a % 32 ≠ 0 ∨ (bit w 23 ∧ b % 16 ≠ 0) then .exc 0x05
    else if !vLanesInRange (coreMap s p) w a b m then .exc (vRangeExc (bit w 22))
    else if gatherOut (getCore s p) then .wait
    else if bit w 22 then
      if sliceHazard (getCore s p) a n false || sliceHazard (getCore s p) b ns false || !roomFor s p (n + ns) then .wait
      else if (vLoadAll s (coreMap s p) v w a b m).2.2 then .poison (readLost (readLost s p a n) p b ns)
      else .go (vNext (addXfer s p (n + ns) [] (.vload w a b m)) p)
    else
      let r := vLoadAll s (coreMap s p) v w a b m
      if r.2.2 then .poison s else .go (vNext (setV s p (wrLanes { v with flags := v.flags ||| r.2.1 } r.1)) p)))

/-- VST (R104). -/
def execVst (c : Fin 96) (w : Dword) (s : State) : Outcome :=
  .next (settle (issueV s c w 0x21 (mkAa ||| mkBa ||| mkCv ||| mkM ||| 0x0FC00000)
      [128 + vA w, 128 + vB w, vC w, 64 + vM w] fun s p v =>
    let a := (rdA v (vA w)).toNat
    let b := (rdA v (vB w)).toNat
    let m := rdK v (vM w)
    let fmt := fld w 27 24
    let n := 64 * fmtBits fmt
    let ns := if bit w 23 then 16 else 0
    if !vFmtForm fmt (bit w 23) || ((bit w 23 || fmtBits fmt == 4 || fmtBits fmt == 6) && vM w != 0) then .exc 0x03
    else if a % 32 ≠ 0 ∨ (bit w 23 ∧ b % 16 ≠ 0) then .exc 0x05
    else if !vLanesInRange (coreMap s p) w a b m then .exc (vRangeExc (bit w 22))
    else if gatherOut (getCore s p) then .wait
    else
      let r := vStorePieces v w a b m
      let v := { v with flags := v.flags ||| r.2 }
      if bit w 22 then
        if sliceHazard (getCore s p) a n true || sliceHazard (getCore s p) b ns true || !roomFor s p (n + ns) then .wait
        else .go (vNext (addXfer (setV s p v) p (n + ns) [] (.scatterBytes r.1)) p)
      else .go (vNext (setV s p (lmWritePieces v r.1)) p)))

/-- The words a gather or scatter addresses, by unmasked lane: `B + 4 * A[i]` (R105). -/
def laneAddrs (v : VCore) (w : Dword) (m : BitVec 512) : List (Nat × Nat) :=
  (lanesOf m).map fun i => (i, (rdA v (vB w) + 4 * (rdV v (vA w) i).setWidth 64).toNat)

/-- VGATH (R98, R105). -/
def execVgath (c : Fin 96) (w : Dword) (s : State) : Outcome :=
  .next (settle (issueV s c w 0x24 (mkDv ||| mkAv ||| mkBa ||| mkM ||| 0x00400000)
      [vD w, vA w, 128 + vB w, 64 + vM w] fun s p v =>
    let l := laneAddrs v w (rdK v (vM w))
    if (rdA v (vB w)).toNat % 4 ≠ 0 then .exc 0x05
    else if !(l.all fun e => vInRange (coreMap s p) (bit w 22) e.2 4) then .exc (vRangeExc (bit w 22))
    else if !fenced s p then .wait
    else if bit w 22 && l.any fun e => (sliceRead s (coreMap s p) e.2 4).2 then .poison (l.foldl (fun s e => readLost s p e.2 4) s)
    else if bit w 22 then .go (vNext (addXfer s p (4 * l.length) [] (.gather (BitVec.ofNat 6 (vD w)) l)) p)
    else if l.any fun e => poisoned v.lmPoison 8 e.2 4 then .poison s
    else .go (vNext (setV s p (wrLanes v (l.map fun e => (512 * vD w + e.1, BitVec.ofNat 32 (leNat (memRead v.lm e.2 4)))))) p)))

/-- VSCAT (R98, R105): lanes apply in ascending order. -/
def execVscat (c : Fin 96) (w : Dword) (s : State) : Outcome :=
  .next (settle (issueV s c w 0x25 (mkAv ||| mkBa ||| mkCv ||| mkM ||| 0x00700000)
      [vA w, 128 + vB w, vC w, 64 + vM w] fun s p v =>
    let l := laneAddrs v w (rdK v (vM w))
    let items := l.map fun e => (e.2, rdV v (vC w) e.1)
    let op := fld w 21 20
    if (rdA v (vB w)).toNat % 4 ≠ 0 then .exc 0x05
    else if !(l.all fun e => vInRange (coreMap s p) (bit w 22) e.2 4) then .exc (vRangeExc (bit w 22))
    else if !fenced s p then .wait
    else if bit w 22 then .go (vNext (addXfer s p (4 * l.length) [] (.scatter (BitVec.ofNat 2 op) items)) p)
    else if op ≠ 0 ∧ (l.any fun e => poisoned v.lmPoison 8 e.2 4) then .poison s
    else .go (vNext (setV s p (scatterLm v op items)) p)))

/-- Byte range of the unmasked lanes of a ledger vector in memory: first address and length. -/
def ledgerSpan (a : Nat) (m : BitVec 512) : Nat × Nat :=
  match lanesOf m with
  | [] => (a, 0)
  | i :: l => (a + 12 * i, 12 * ((i :: l).getLastD i - i + 1))

/-- VLDL (R106). -/
def execVldl (c : Fin 96) (w : Dword) (s : State) : Outcome :=
  .next (settle (issueV s c w 0x26 (mkDv ||| mkAa ||| mkM ||| 0x00400000)
      [vD w, vD w + 1, vD w + 2, 128 + vA w, 64 + vM w] fun s p v =>
    let a := (rdA v (vA w)).toNat
    let m := rdK v (vM w)
    if 61 < vD w then .exc 0x03
    else if a % 32 ≠ 0 then .exc 0x05
    else if !((lanesOf m).all fun i => vInRange (coreMap s p) (bit w 22) (a + 12 * i) 12) then .exc (vRangeExc (bit w 22))
    else if gatherOut (getCore s p) then .wait
    else if bit w 22 then
      if sliceHazard (getCore s p) a 6144 false || !roomFor s p 6144 then .wait
      else if (lanesOf m).any fun i => (sliceRead s (coreMap s p) (a + 12 * i) 12).2 then
        .poison ((lanesOf m).foldl (fun s i => readLost s p (a + 12 * i) 12) s)
      else .go (vNext (addXfer s p 6144 [] (.ledgerLoad (BitVec.ofNat 6 (vD w)) a m)) p)
    else if (lanesOf m).any fun i => poisoned v.lmPoison 8 (a + 12 * i) 12 then .poison s
    else .go (vNext (setV s p (wrLanes v ((lanesOf m).flatMap fun i =>
      wrLs (vD w) i (partialOf (memRead v.lm (a + 12 * i) 12))))) p)))

/-- VSTL (R106, R143): with RED, partials are added at the banks. -/
def execVstl (c : Fin 96) (w : Dword) (s : State) : Outcome :=
  .next (settle (issueV s c w 0x27 (mkAa ||| mkCv ||| mkM ||| 0x00600000)
      [vC w, vC w + 1, vC w + 2, 128 + vA w, 64 + vM w] fun s p v =>
    let a := (rdA v (vA w)).toNat
    let m := rdK v (vM w)
    let span := ledgerSpan a m
    let l := (lanesOf m).map fun i => (a + 12 * i, rdL v (vC w) i)
    if 61 < vC w ∨ (bit w 21 ∧ !bit w 22) then .exc 0x03
    else if a % 32 ≠ 0 then .exc 0x05
    else if !(l.all fun e => vInRange (coreMap s p) (bit w 22) e.1 12) then .exc (vRangeExc (bit w 22))
    else if bit w 21 && decide (0 < span.2) && decide (span.1 / 2 ^ 26 ≠ (span.1 + span.2 - 1) / 2 ^ 26) then .exc 0x07
    else if gatherOut (getCore s p) then .wait
    else if bit w 22 then
      if sliceHazard (getCore s p) a 6144 true || !roomFor s p 6144 then .wait
      else if bit w 21 then .go (vNext (addXfer s p 6144 [] (.reduce a l)) p)
      else .go (vNext (addXfer s p 6144 [] (.scatterBytes (mergePieces (l.map fun e => (e.1, partialBytes e.2))))) p)
    else .go (vNext (setV s p (lmWritePieces v (mergePieces (l.map fun e => (e.1, partialBytes e.2))))) p)))

/-! ### Lane instructions: their checks, then the beat admission (R97, R107 to R111) -/

/-- The B operand mask of an instruction with BS: a vector or a scalar register. -/
def mkBs (w : Dword) : Dword := 0x10000000 ||| (if bit w 28 then mkBa else mkBv)

/-- VFOP. -/
def execVfop (c : Fin 96) (w : Dword) (s : State) : Outcome :=
  .next (settle (issueV s c w 0x30 (mkDv ||| mkAv ||| mkBs w ||| mkM ||| 0xF) [] fun s p v =>
    if 7 < fld w 3 0 then .exc 0x03 else goBeats s p v w (laneBeats w)))

/-- VFMA. -/
def execVfma (c : Fin 96) (w : Dword) (s : State) : Outcome :=
  .next (settle (issueV s c w 0x31 (mkDv ||| mkAv ||| mkBs w ||| mkCv ||| mkM) [] fun s p v => goBeats s p v w (laneBeats w)))

/-- VIOP. -/
def execViop (c : Fin 96) (w : Dword) (s : State) : Outcome :=
  .next (settle (issueV s c w 0x32 (mkDv ||| mkAv ||| mkBs w ||| mkM ||| 0xF) [] fun s p v =>
    if 10 < fld w 3 0 then .exc 0x03 else goBeats s p v w (laneBeats w)))

/-- VCMP. -/
def execVcmp (c : Fin 96) (w : Dword) (s : State) : Outcome :=
  .next (settle (issueV s c w 0x33 (mkDk ||| mkAv ||| mkBs w ||| mkM ||| 0x01E00000) [] fun s p v =>
    if 5 < fld w 23 21 then .exc 0x03 else goBeats s p v w (laneBeats w)))

/-- VSEL. -/
def execVsel (c : Fin 96) (w : Dword) (s : State) : Outcome :=
  .next (settle (issueV s c w 0x34 (mkDv ||| mkAv ||| mkBv ||| mkM) [] fun s p v => goBeats s p v w (laneBeats w)))

/-- VTF. -/
def execVtf (c : Fin 96) (w : Dword) (s : State) : Outcome :=
  .next (settle (issueV s c w 0x35 (mkDv ||| mkAv ||| mkM ||| 7) [] fun s p v =>
    if 5 < fld w 2 0 then .exc 0x03 else goBeats s p v w (laneBeats w)))

/-- VCVT. -/
def execVcvt (c : Fin 96) (w : Dword) (s : State) : Outcome :=
  .next (settle (issueV s c w 0x36 (mkDv ||| mkAv ||| mkM ||| 7) [] fun s p v =>
    if 3 < fld w 2 0 then .exc 0x03 else goBeats s p v w (laneBeats w)))

/-- VRED. -/
def execVred (c : Fin 96) (w : Dword) (s : State) : Outcome :=
  .next (settle (issueV s c w 0x38 (mkDa ||| mkAv ||| mkM ||| 7) [] fun s p v =>
    if 6 < fld w 2 0 then .exc 0x03 else goBeats s p v w (laneBeats w)))

/-- VPERM. -/
def execVperm (c : Fin 96) (w : Dword) (s : State) : Outcome :=
  .next (settle (issueV s c w 0x39 (mkDv ||| mkAv ||| mkBv ||| mkM) [] fun s p v => goBeats s p v w (laneBeats w)))

/-- VROT. -/
def execVrot (c : Fin 96) (w : Dword) (s : State) : Outcome :=
  .next (settle (issueV s c w 0x3A (mkDv ||| mkAv ||| mkBa ||| mkM) [] fun s p v => goBeats s p v w (laneBeats w)))

/-- VTOPK: a pair base above 62, or a pair that overlaps A, is ILLEGAL_FORM. -/
def execVtopk (c : Fin 96) (w : Dword) (s : State) : Outcome :=
  .next (settle (issueV s c w 0x3B (mkDv ||| mkAv ||| mkBa ||| mkM ||| 0x7FF) [] fun s p v =>
    if 62 < vD w ∨ vA w = vD w ∨ vA w = vD w + 1 then .exc 0x03 else goBeats s p v w (laneBeats w)))

/-- VLADD. -/
def execVladd (c : Fin 96) (w : Dword) (s : State) : Outcome :=
  .next (settle (issueV s c w 0x3C (mkDv ||| mkAv ||| mkBv ||| mkM) [] fun s p v =>
    if 61 < vD w ∨ 61 < vA w ∨ 61 < vB w then .exc 0x03 else goBeats s p v w (laneBeats w)))

/-- VLCVT. -/
def execVlcvt (c : Fin 96) (w : Dword) (s : State) : Outcome :=
  .next (settle (issueV s c w 0x3D (mkDv ||| mkAv ||| mkM ||| 0x017F0000) [] fun s p v =>
    if 61 < vA w then .exc 0x03 else goBeats s p v w (laneBeats w)))

/-- VTOL. -/
def execVtol (c : Fin 96) (w : Dword) (s : State) : Outcome :=
  .next (settle (issueV s c w 0x3E (mkDv ||| mkAv ||| mkM ||| 0x01000000) [] fun s p v =>
    if 61 < vD w then .exc 0x03 else goBeats s p v w (laneBeats w)))

/-- VLRED. -/
def execVlred (c : Fin 96) (w : Dword) (s : State) : Outcome :=
  .next (settle (issueV s c w 0x3F (mkDv ||| mkAv ||| mkM) [] fun s p v =>
    if 61 < vD w ∨ 61 < vA w then .exc 0x03 else goBeats s p v w (laneBeats w)))

/-! ### Events -/

/-- BEAT_ADMIT (R97). -/
def execBeatAdmit (c : Fin 96) (s : State) : Outcome := .next (settle (admitBeat s (vPid c)))

/-- RESULT_IN_REGISTER (R112): result `i` of those under way reaches its registers. -/
def execResultInRegister (c : Fin 96) (i : Nat) (s : State) : Outcome :=
  let p := vPid c
  let v := getV s p
  match v.results[i]? with
  | none => .next (settle s)
  | some r => .next (settle (setV s p (applyResult { v with results := v.results.eraseIdx i } r)))

end Sys2Proof.Machine
end

