-- ==== Sys2Proof/Machine/Pace.lean ====
section
/-!
DEFINITION. Pace meters, ticks and credits (R30 to R37), and the events of cores: cache fills, completed transfers, forced points,
sync counters and unknown opcodes.
-/
namespace Sys2Proof.Machine

/-! ### Meters -/

/-- Whether a partition holds a cluster on die `d`. -/
def partOnDie (s : State) (p d : Nat) : Bool :=
  (List.range 8).any fun k => bit ((getPart s p).clusters ||| (getPart s p).awaitClusters) (8 * d + k)

/-- A partition's bubble count F (R313). -/
def bubbleF (s : State) (p : Nat) : Nat :=
  (List.range 4).foldl (fun m d => if partOnDie s p d then max m (max (getDie s d).fCur (getDie s d).fTh) else m) s.gov.fCap

/-- One meter at a reference edge (R32, R34): TARGET as last written, ACC, the ticks released and those withheld as bubbles. -/
def meterEdge (m : PaceMeter) (f : Nat) : PaceMeter × Nat × Nat :=
  let acc := (if m.target = 0 ∧ m.written ≠ 0 then 0 else m.acc) + m.written.toNat
  let n := acc / 10
  let b := m.bubbleAcc + n * f
  ({ m with target := m.written, acc := acc % 10, bubbleAcc := b % 64 }, n - b / 64, b / 64)

/-- Every meter at an edge. -/
def metersEdge (s : State) : State :=
  (List.range 16).foldl (fun s p =>
    let r := meterEdge (getMeter s p) (bubbleF s p)
    countN (countN (setMeter s p r.1) 4 p 0 r.2.1) 4 p 2 r.2.2) s

/-- REFERENCE_EDGE (R32): an edge of the oscillator that drives the meters; 10 ns pass on the reference and the time base. -/
def execReferenceEdge (s : State) : Outcome :=
  .next (settle (metersEdge { s with refNs := s.refNs + 10, time := s.time + 10 }))

/-- REF_LOST and its source and event. -/
def setRefLost (s : State) (b : Bool) : State :=
  logEvent (irqLevel { s with refLost := b } 280 b) srcRtp 0x05 false [if b then 1 else 0]

/-- REFERENCE_LOST (R37). -/
def execReferenceLost (s : State) : Outcome :=
  .next (settle (if s.refLost then s else setRefLost s true))

/-- REFERENCE_RESTORED (R37): every ACC is 0 before the edge's addition. -/
def execReferenceRestored (s : State) : Outcome :=
  .next (settle (if !s.refLost then s
    else metersEdge { setRefLost s false with
      meters := (s.meters.map fun e => (e.1, { e.2 with acc := 0 })).filter fun e => e.2 ≠ {}
      refNs := s.refNs + 10, time := s.time + 10 }))

/-! ### Register reads that latch or advance -/

/-- A read of GOV_PM_TICKS_LO of meter `m` (R36, R402, R403): a whole read latches the high half. -/
def readTicksLo (s : State) (v : View) (m : Nat) (whole : Bool) : State :=
  if v = .host ∧ s.life.ready then { s with lastRead := 0 }
  else
    let t := counterValue s (counterId 4 m 0)
    let s := { s with lastRead := t.setWidth 32 }
    if whole then setMeter s m { getMeter s m with ticksHi := BitVec.ofNat 32 (t.toNat / 2 ^ 32) } else s

/-- GOV_PM_TICKS_LO_READ. -/
def execGovPmTicksLoRead (v : View) (m : Fin 16) (whole : Bool) (s : State) : Outcome := .next (settle (readTicksLo s v m.val whole))

/-- A read of RTP_FPR_DATA_HI (R26, R403): bits 63:32 of the indexed word; a whole read advances WORD. -/
def readFprHi (s : State) (whole : Bool) : State :=
  let t := { s with lastRead := BitVec.ofNat 32 ((fpWord s s.fp.index.toNat).toNat / 2 ^ 32) }
  if whole then { t with fp := { t.fp with index := if s.fp.index.toNat = 71 then 0 else s.fp.index + 1 } } else t

/-- RTP_FPR_DATA_HI_READ: both views read alike. -/
def execRtpFprDataHiRead (v : View) (whole : Bool) (s : State) : Outcome :=
  let _ := v
  .next (settle (readFprHi s whole))

/-! ### Ticks (R35, R322) -/

/-- The partition of a core: its vcore's, or its cluster's. -/
def corePart (s : State) (p : Nat) : Nat :=
  let b := getBinding s p
  if b.state ≠ 0 then b.part.toNat else (clusterPart s (p / 10)).getD 0

/-- Whether an M-core admits a filler wave (R322). -/
def fillerAdmits (s : State) (p : Nat) : Bool :=
  let d := p / 80
  let part := corePart s p
  slotKind p == 0 && (getDie s d).floor != 0 && decide ((getDie s d).amps < (getDie s d).filler) && !((List.range 16).any fun q => partOnDie s q d && bubbleF s q != 0) &&
    decide (s.gov.power ≤ 10 * min s.gov.cap s.gov.trayCap) && (getMeter s part).target != 0 && (getCore s p).point == .none

/-- PACE_TICK (R35): a credit, or a discarded tick counted as shortfall or idle. S-cores are unmetered; a domain that is not in run gets
none (R327). -/
def paceTick (s : State) (p : Nat) : State :=
  if slotKind p = 2 ∨ !clusterTicks s (p / 10) then s
  else
    let c := getCore s p
    if c.credits < 4 then setCore s p { c with credits := c.credits + 1 }
    else
      let ready := if slotKind p = 0 then mReady s p else vReady s p
      if ready then count (count s 1 p 3) 4 (corePart s p) 1
      else if fillerAdmits s p then count s 1 p 5
      else count s 1 p 2

def execPaceTick (c : Fin 320) (s : State) : Outcome := .next (settle (paceTick s c.val))

/-! ### Cores' events -/

/-- ICACHE_FILL (R430): line `line` (a byte address over 64) arrives at a core that runs. -/
def execIcacheFill (c : Fin 320) (line : BitVec 58) (s : State) : Outcome :=
  .next (settle (if (getCore s c.val).run = .running ∨ (getS s c.val).pl
    then updCore s c.val fun k => touchLine (icacheSets c.val) k line.toNat else s))

/-- What a completed transfer does, by the kind of core. -/
def xferEffectOf (s : State) (p : Nat) (x : Xfer) (refused : Bool) : State :=
  match slotKind p with
  | 0 => pumpM pumpFuel (xferEffect s p x refused) p
  | 1 => xferEffectV s p x
  | _ => xferEffectS s p x

/-- The slice ranges that a transfer writes. -/
def xferWrites (x : Xfer) : List (Nat × Nat) :=
  match x.kind with
  | .store a d => [(a, d.length)]
  | .reduce a l => (reduceGroups a l).flatMap fun g => (List.range 16).map fun j => (g + 12 * j, 12)
  | .scatter _ l => l.map fun e => (e.1, 4)
  | .scatterBytes l => l.map fun e => (e.1, e.2.length)
  | .amo _ _ a _ _ => [(a, 8)]
  | _ => []

/-- The slice ranges that a transfer reads. -/
def xferReads (x : Xfer) : List (Nat × Nat) :=
  match x.kind with
  | .load a _ => [(a, x.bytes)]
  | .vload _ a c _ => [(a, x.bytes), (c, 1)]
  | .ledgerLoad _ a _ => [(a, x.bytes)]
  | .gather _ l => l.map fun e => (e.2, 4)
  | .sload _ a n _ => [(a, n)]
  | _ => []

/-- The cluster domains that a transfer touches. -/
def xferDomains (x : Xfer) : List Nat :=
  (xferReads x ++ xferWrites x).flatMap fun r => (slicePieces x.map r.1 r.2).map fun p => sramBank p.1 / 32

/-- Whether a write waits for a back-invalidate snoop of one of its lines (R232). -/
def snoopWait (s : State) (x : Xfer) : Bool :=
  s.snoops != [] && (xferWrites x).any fun r => snoopsIn s x.part false r.1 r.2

/-- Reduce packets of a tile row that have left for other members and are not acknowledged (R284). -/
def fabricWait (s : State) (p : Nat) (x : Xfer) : Bool :=
  match x.kind with
  | .tileRow v t r _ _ ps => ps == [] && rowPending s p v t r
  | _ => false

/-- TRANSFER_COMPLETE (R72): outstanding transfer `i` of a core completes at its destination. A write to a line that the host holds
waits for its snoop, one to a sleeping cluster for its domain (R326); a reduce into another vcore's tile over the fabric completes with its acknowledgements. -/
def execTransferComplete (c : Fin 320) (i : Nat) (refused : Bool) (s : State) : Outcome :=
  let p := c.val
  match (getCore s p).xfers[i]? with
  | none => .next (settle s)
  | some x =>
    let m := if s.gov.domains = [] then (s, true) else meetDomains s (xferDomains x)
    let t := (xferWrites x).foldl (fun s r => snoopLines s x.part false r.1 r.2) m.1
    if !m.2 then .next (settle m.1) else if snoopWait t x || fabricWait t p x then .next (settle t)
    else .next (settle (xferEffectOf (updCore t p fun k => { k with xfers := k.xfers.eraseIdx i }) p x refused))

/-- Whether a forced point can be taken: waves, transfers, begun beats and results are through (R91, R125). -/
def drained (s : State) (p : Nat) : Bool :=
  (getCore s p).xfers.isEmpty &&
  match slotKind p with
  | 0 => (getM s p).waves.isEmpty && atBoundary (getM s p).job
  | 1 => (getV s p).results.isEmpty && (match (getV s p).beat with | some b => !b.begun | none => true)
  | _ => !(getS s p).pl

/-- FORCED_POINT_REACHED (R91, R125): the core offers its full image to the request that waits. A core that stands at a preemption point has its
image already; a fault, park or stop that comes before the readout takes that one. -/
def execForcedPointReached (c : Fin 320) (s : State) : Outcome :=
  let p := c.val
  let k := getCore s p
  let at_ : Bool := match k.run with | .atPoint _ => k.held.isNone || k.point == .preempt | _ => false
  .next (settle (if k.point == .none || !k.forced || at_ || !drained s p then s else takePoint s p false))

/-- Wake the cores that wait on a counter of a group and that its value now satisfies (R83, R122). -/
def wakeCounter (s : State) (key n : Nat) (v : BitVec 16) : State :=
  s.cores.foldl (fun s e =>
    let b := getBinding s e.1
    match e.2.wait with
    | .counter k x =>
      if b.state ≠ 0 ∧ syncKey b.sgCl b.sgSlot = key ∧ k.toNat = n ∧ waitDone v x ∧ canIssue s e.1 ∧ !(getS s e.1).pl then
        retire s e.1 (e.2.pc + if slotKind e.1 = 2 then 4 else 8)
      else s
    | _ => s) s

/-- A signal adds 1 to its counter. -/
def counterAdd (s : State) (cl : BitVec 5) (slot : BitVec 3) (n : Nat) : State :=
  match Tbl.get none s.sync (syncKey cl slot) with
  | none => s
  | some g =>
    let v := Tbl.get 0 g.counters n + 1
    wakeCounter { s with sync := Tbl.set none s.sync (syncKey cl slot) (some { g with counters := Tbl.set 0 g.counters n v }) }
      (syncKey cl slot) n v

/-- SYNC_COUNTER_ADD (R122): a signal on its way reaches its counter. -/
def execSyncCounterAdd (cl : Fin 32) (slot : Fin 8) (n : Fin 32) (s : State) : Outcome :=
  let k := (cl.val * 8 + slot.val, n.val)
  .next (settle (if s.signals.contains k
    then counterAdd { s with signals := s.signals.erase k } (BitVec.ofNat 5 cl.val) (BitVec.ofNat 3 slot.val) n.val else s))

/-! ### Unknown opcodes (R75, R101, R117) -/

def mOpcodes : List Nat :=
  [0x00, 0x01, 0x02, 0x03, 0x08, 0x09, 0x0A, 0x0B, 0x0C, 0x10, 0x11, 0x18, 0x19, 0x1A, 0x20, 0x21, 0x28, 0x29, 0x2A, 0x30,
   0x31, 0x38]

def vOpcodes : List Nat :=
  [0x00, 0x01, 0x02, 0x03, 0x08, 0x09, 0x0A, 0x0B, 0x0C, 0x0D, 0x10, 0x11, 0x17, 0x18, 0x19, 0x1A, 0x1C, 0x1D, 0x1E, 0x1F,
   0x20, 0x21, 0x24, 0x25, 0x26, 0x27] ++
  [0x30, 0x31, 0x32, 0x33, 0x34, 0x35, 0x36, 0x38, 0x39, 0x3A, 0x3B, 0x3C, 0x3D, 0x3E, 0x3F]

def sOpcodes : List Nat :=
  [0x00, 0x01, 0x02, 0x03, 0x04, 0x05, 0x06, 0x07, 0x08, 0x09, 0x10, 0x11, 0x12, 0x13, 0x14, 0x15, 0x16, 0x18, 0x19, 0x1A,
   0x1B, 0x1C, 0x20, 0x21, 0x22, 0x23, 0x24, 0x25] ++
  [0x28, 0x29, 0x30, 0x31, 0x32, 0x33, 0x34, 0x35, 0x38, 0x39, 0x3A, 0x3B, 0x3D, 0x3E]

/-- ILLEGAL_OPCODE: a word whose opcode is in no table issues and raises the exception. -/
def execIllegalOpcode (c : Fin 320) (w : Dword) (s : State) : Outcome :=
  let i := kindIndex c.val
  .next (settle (match slotKind c.val with
    | 0 => if mOpcodes.contains (fld w 63 56) then s
        else issueM s (Fin.ofNat 160 i) w (fld w 63 56) 0 fun _ _ _ => .exc 0x01
    | 1 => if vOpcodes.contains (fld w 63 56) then s
        else issueV s (Fin.ofNat 96 i) w (fld w 63 56) 0 [] fun _ _ _ => .exc 0x01
    | _ => if sOpcodes.contains (fld w 31 26) then s
        else issueS s (Fin.ofNat 64 i) (w.setWidth 32) (fld w 31 26) 0 [] fun _ _ _ => .exc 0x01 0))

end Sys2Proof.Machine
end

