-- ==== Sys2Proof/Machine/Mesh.lean ====
section
/-!
DEFINITION. Cluster memory and the mesh: packets at their destination ports (R142 to R145), scrubbing, spare banks, zeroing, frame
retirement, and the gather-pool engines (R153, R154).
-/
namespace Sys2Proof.Machine

/-! ### Packets -/

def partMap (s : State) (part : BitVec 4) : Tbl Dword := (getSlice s part).regions

/-- Bytes that a packet's LEN stands for. -/
def sectorBytes (p : MeshPkt) : Nat := 32 * p.len.toNat

/-- A packet for the memory of its destination cluster, counted at the routers, which always forward; the access then wakes the
cluster's domain and goes on where it is in run (R325, R326). -/
def atBanks (s : State) (p : MeshPkt) (f : State → State) : State :=
  let m := if p.dstPort = 10 then meetDomains s [p.dstCl.toNat] else (s, true)
  if m.2 then f (routed m.1 p) else m.1

/-- For each byte of a packet's payload, whether it is poisoned. -/
def pktFlags (p : MeshPkt) : List Bool := (p.poison ++ List.replicate p.payload.length false).take p.payload.length

/-- MESH_READ_REQ (R142): the bank serves LEN sectors. A read that does not come from a core of the owning slice sees zeros in protected lines,
and the context of a core of another slice has a protected-read fault (R156); a packet of the ring names no context (Table 6.6): the
operation that sends it records the fault. -/
def meshRead (s : State) (p : MeshPkt) : State :=
  let n := sectorBytes p
  let a := p.addr.toNat
  let map := partMap s p.part
  let pid := p.srcCl.toNat * 10 + p.srcPort.toNat
  let core := decide (p.srcPort.toNat < 10)
  let own := core && (getBinding s pid).part == p.part
  if p.dstPort ≠ 10 then s
  else if !sliceRange map a n then rangeRefused s p
  else
    let d := if own then sliceRead s map a n else devRead s p.part false a n
    let fl := if own then sliceFlags s map a n else devFlags s p.part false a n
    let s := if core && !own && sliceProtected s map a n then raiseCore s pid 5 0x02 false (p.addr.setWidth 64) else s
    emit (sliceLost s map p.part a n false) (answer p 1 d.1 fl)

def execMeshReadReq (p : MeshPkt) (s : State) : Outcome := .next (settle (atBanks s p fun s => meshRead s p))

/-- The transfer of a core that a response or acknowledgement names by its TAG. -/
def taggedXfer (s : State) (p : MeshPkt) : Option (Nat × Xfer) :=
  let pid := p.dstCl.toNat * 10 + p.dstPort.toNat
  if 10 ≤ p.dstPort.toNat then none else ((getCore s pid).xfers[p.tag.toNat]?).map fun x => (pid, x)

/-- Whether the packet's range lies in a range. -/
def within (a n b m : Nat) : Bool := decide (b ≤ a) && decide (a + n ≤ b + m)

/-- The lanes of a mask whose bytes the packet carries. -/
def lanesCarried (m : BitVec 512) (a n : Nat) (f : Nat → Nat × Nat) : BitVec 512 :=
  (lanesOf m).foldl (fun k i => if within (f i).1 (f i).2 a n then setBit k i true else k) 0

/-- MESH_READ_RESP (R142): data for a core's outstanding load lands, lane by lane for a vector load, gather or ledger load, and the old value for
an AMO; a load that has all its data is complete. -/
def readResp (s : State) (p : MeshPkt) : State :=
  let a := p.addr.toNat
  let n := p.payload.length
  match taggedXfer s p with
  | none => s
  | some (pid, x) =>
    let done (s : State) : State := updCore s pid fun k => { k with xfers := k.xfers.eraseIdx p.tag.toNat }
    let rest (s : State) (all : Bool) (k : XferKind) : State :=
      if all then done s else updCore s pid fun c => { c with xfers := c.xfers.set p.tag.toNat { x with kind := k } }
    let o := sliceCarry s x.map a p.payload (pktFlags p)
    match x.kind with
    | .vload w b c m =>
      let k := lanesCarried m a n fun i => (b + (elemRange (fmtBits (fld w 27 24)) i).1, (elemRange (fmtBits (fld w 27 24)) i).2)
      if k = 0 then s else rest (landVload o s pid x w b c k) (m &&& ~~~k == 0) (.vload w b c (m &&& ~~~k))
    | .ledgerLoad d b m =>
      let k := lanesCarried m a n fun i => (b + 12 * i, 12)
      if k = 0 then s else rest (landLedger o s pid x d b k) (m &&& ~~~k == 0) (.ledgerLoad d b (m &&& ~~~k))
    | .gather d l =>
      let k := l.filter fun e => within e.2 4 a n
      let left := l.filter fun e => !within e.2 4 a n
      if k = [] then s else rest (landGather o s pid x d k) left.isEmpty (.gather d left)
    | .amo _ rd b _ _ =>
      if !within b 8 a n then s
      else if ((pktFlags p).drop (b - a)).take 8 |>.any id then sPoison (done s) pid (BitVec.ofNat 64 b)
      else updS (done s) pid fun c => wrX c rd.toNat (BitVec.ofNat 64 (leNat ((p.payload.drop (b - a)).take 8)))
    | .load b o =>
      if !within a n b x.bytes then s
      else
        let s := updM s pid fun m => obCarry m (o + (a - b)) p.payload (pktFlags p)
        if n = x.bytes then pumpM pumpFuel (done s) pid else s
    | .sload rd b m signed =>
      if !within b m a n then s
      else if ((pktFlags p).drop (b - a)).take m |>.any id then sPoison (done s) pid (BitVec.ofNat 64 b)
      else updS (done s) pid fun c => wrX c rd.toNat (extendLoad m (leNat ((p.payload.drop (b - a)).take m)) signed)
    | _ => s

def execMeshReadResp (p : MeshPkt) (s : State) : Outcome := .next (settle (readResp (routed s p) p))

/-- MESH_WRITE (R142): applied at the bank, or written into the operand buffer or local memory of the vcore that a core port
carries (Table 7.9 step 6). -/
def meshWrite (s : State) (p : MeshPkt) : State :=
  let map := partMap s p.part
  let n := p.payload.length
  if p.dstPort = 10 then
    if !sliceRange map p.addr.toNat n then rangeRefused s p
    else emit (sliceCarry (sliceLost s map p.part p.addr.toNat n true) map p.addr.toNat p.payload (pktFlags p)) (answer p 3 [] [])
  else if 10 ≤ p.dstPort.toNat then s
  else steered s p (servePkt p)

def execMeshWrite (p : MeshPkt) (s : State) : Outcome := .next (settle (atBanks s p fun s => meshWrite s p))

/-- MESH_WRITE_ACK (R142): the write of a core that its TAG names is complete. -/
def writeAck (s : State) (p : MeshPkt) : State :=
  match taggedXfer s p with
  | none => s
  | some (pid, x) =>
    let store : Bool := match x.kind with | .store .. | .scatterBytes .. | .scatter .. | .reduce .. => true | _ => false
    if store then xferEffectOf (updCore s pid fun k => { k with xfers := k.xfers.eraseIdx p.tag.toNat }) pid x false else s

def execMeshWriteAck (p : MeshPkt) (s : State) : Outcome := .next (settle (writeAck (routed s p) p))

/-- MESH_ATOMIC (R131): one indivisible update at the bank. The payload's first byte has the function (an AMO's FN, or 8 and the
OP of VSCAT), its second and third double words the operands. -/
def meshAtomic (s : State) (p : MeshPkt) : State :=
  let map := partMap s p.part
  let a := p.addr.toNat
  let fn := leNat (p.payload.take 1)
  let rb := BitVec.ofNat 64 (leNat ((p.payload.drop 8).take 8))
  let rd := BitVec.ofNat 64 (leNat ((p.payload.drop 16).take 8))
  if p.dstPort ≠ 10 then s
  else if fn < 6 then
    if a % 8 ≠ 0 then s
    else if !sliceRange map a 8 then rangeRefused s p
    else
      let d := sliceRead s map a 8
      let s := sliceLost s map p.part a 8 true
      let v := BitVec.ofNat 64 (leNat d.1)
      emit (sliceWrite s map a (leBytes 8 (amoOp fn v rb rd).toNat) (d.2 || p.poison.any id)) (answer p 1 d.1 (flagsOf d.1 d.2))
  else if fn < 8 ∨ 12 ≤ fn ∨ a % 4 ≠ 0 then s
  else if !sliceRange map a 4 then rangeRefused s p
  else emit (scatterSlice (sliceLost s map p.part a 4 true) map (fn - 8) [(a, rb.setWidth 32)]).1 (answer p 3 [] [])

def execMeshAtomic (p : MeshPkt) (s : State) : Outcome := .next (settle (atBanks s p fun s => meshAtomic s p))

/-! ### Reduce packets (R143 to R145) -/

/-- REDUCE_SRAM (R143) on its way under the map of its issue: it combines, is held, or is added at the banks, which it wakes (R326). -/
def execReduceSram (p : MeshPkt) (s : State) : Outcome :=
  let m := meetDomains s [p.dstCl.toNat]
  .next (settle (if p.type ≠ 5 ∨ p.dstPort ≠ 10 then s
    else if !m.2 then m.1 else reduceWalk (pktRoute p) m.1 ⟨p, partMap s p.part⟩))

/-- REDUCE_TILE (R145) on its way. -/
def execReduceTile (p : MeshPkt) (s : State) : Outcome :=
  .next (settle (if p.type = 6 then reduceWalk (pktRoute p) s ⟨p, []⟩ else s))

/-- REDUCE_HOLD_EXPIRE (R144): held packet `i` of a router is forwarded along its route. One for a cluster that sleeps wakes it and waits (R326). -/
def execReduceHoldExpire (cl : Fin 32) (i : Nat) (s : State) : Outcome :=
  let l := getRouter s cl.val
  .next (settle (match l[i]? with
    | none => s
    | some h =>
      let m := if h.pkt.type = 5 then meetDomains s [h.pkt.dstCl.toNat] else (s, true)
      if m.2 then reduceOn (setRouter m.1 cl.val (l.eraseIdx i)) cl.val h else m.1))

/-- MESH_SYNC (R122): the signal of a SYNC packet, its slot and counter in ADDR, adds to its counter. -/
def execMeshSync (p : MeshPkt) (s : State) : Outcome :=
  let slot := BitVec.ofNat 3 (fld p.addr 7 5)
  let n := fld p.addr 4 0
  let k := (syncKey p.dstCl slot, n)
  let s := routed s p
  .next (settle (if p.dstPort = 11 then counterAdd { s with signals := s.signals.erase k } p.dstCl slot n else s))

/-- MESH_CONTROL (R142): the packet is at its destination; what a point request, marker or crown message then does is its own
event. -/
def execMeshControl (p : MeshPkt) (s : State) : Outcome := .next (settle (routed s p))

/-! ### Scrub, spares, zeroing, retirement -/

/-- Add to a saturating 16-bit count. -/
def satAdd (c : BitVec 16) (n : Nat) : BitVec 16 := BitVec.ofNat 16 (min 0xFFFF (c.toNat + n))

def rowKey (cl b : Nat) (row : Nat) : Nat := ((32 * cl + b) * 8192 + row) * 256

/-- The slice address of the first byte of a row, in the slice that maps its bank; 0 where none does. -/
def rowSliceAddr (s : State) (cl b row : Nat) : Nat :=
  match bankPart s cl b with
  | none => 0
  | some p =>
    match (Tbl.get {} s.slices p).regions.find? fun e => bit e.2 63 && fld e.2 36 32 == cl && bit e.2 b with
    | none => 0
    | some e =>
      let mask := BitVec.ofNat 32 (fld e.2 31 0)
      e.1 * 2 ^ 26 + (row * popcount mask + popcount (mask &&& BitVec.ofNat 32 (2 ^ b - 1))) * 256

/-- The errors of one bank row: counts, location, error records (R132). The bad words are poisoned, but in a row that a port has `written` since
they were read, whose new data stand (Table 6.14). -/
def sramErrors (s : State) (cl b : Fin 32) (row : BitVec 13) (single double : List Nat) (inj : Bool := false) (written : Bool := false) : State :=
  let e : Element := .sramRow cl b row
  let s := countN s 9 cl.val 2 single.length
  let s := { s with mem := { s.mem with
    errCe := satAdd s.mem.errCe single.length, errUe := satAdd s.mem.errUe double.length
    errCluster := BitVec.ofNat 5 cl.val, errBank := BitVec.ofNat 5 b.val, errRow := row, errIsUe := !double.isEmpty
    sramPoison := if written then s.mem.sramPoison
      else double.foldl (fun t w => Tbl.set false t (rowKey cl.val b.val row.toNat / 8 + w) true) s.mem.sramPoison } }
  let base := rowSliceAddr s cl.val b.val row.toNat
  let addr (w : Nat) : Dword := BitVec.ofNat 64 (base + 8 * w)
  let s := single.foldl (fun s w => reportError s 0x01 0 e (addr w) inj) s
  double.foldl (fun s w => reportError s 0x02 1 e (addr w) inj) s

/-- SCRUB_READ (R133): the words of the row with a single and with a double error; a row that a port has written since is not
written back. -/
def execScrubRead (cl bank : Fin 32) (row : BitVec 13) (single double : List (Fin 32)) (written : Bool) (s : State) : Outcome :=
  .next (settle (if (single.isEmpty && double.isEmpty) || Tbl.get false s.mem.bankLost (32 * cl.val + bank.val) then s
    else sramErrors s cl bank row (single.map (·.val)) (double.map (·.val)) false written))

/-- SPARE_BANK_COPY_DONE (R134, Table 6.3): the remap swaps to the spare; change 0x05 follows. -/
def execSpareBankCopyDone (cl bank : Fin 32) (s : State) : Outcome :=
  let k := 32 * cl.val + bank.val
  .next (settle (match Tbl.get 0 s.mem.bankCopy k with
    | 0 => s
    | spare + 1 =>
      let m := s.mem
      queueChange { s with mem := { m with
        bankMap := Tbl.set 0 m.bankMap k (spare + 1), bankCopy := Tbl.set 0 m.bankCopy k 0
        bankBad := Tbl.set false (Tbl.set false m.bankBad (34 * cl.val + physBank m cl.val bank.val) true)
          (34 * cl.val + spare) true } } (.spareBank cl bank)))

/-- Zero a bank: its bytes, poison and protection tags. -/
def zeroBank (m : Memory) (k : Nat) : Memory :=
  let size := 8192 * 256
  { m with
    sram := m.sram.filter fun e => e.1 / size != k
    sramPoison := m.sramPoison.filter fun e => 8 * e.1 / size != k
    sramProt := m.sramProt.filter fun e => 256 * e.1 / size != k
    bankZero := Tbl.set false m.bankZero k false }

/-- BANK_ZERO_DONE (R138, R305): the bank leaves its old partition. -/
def execBankZeroDone (cl bank : Fin 32) (s : State) : Outcome :=
  let k := 32 * cl.val + bank.val
  .next (settle (if !Tbl.get false s.mem.bankZero k then s
    else { s with
      mem := zeroBank s.mem k
      sched := { s.sched with parts := s.sched.parts.map fun e =>
        (e.1, { e.2 with awaitBanks := Tbl.upd 0 e.2.awaitBanks cl.val (fun w => setBit w bank.val false) }) } }))

/-- Copy a frame's bytes and poison to another frame. -/
def copyFrame (m : Memory) (f g : Nat) : Memory :=
  { m with
    hbm := (m.hbm.filter fun e => e.1 / 4096 == f).foldl (fun t e => Tbl.set 0 t (4096 * g + e.1 % 4096) e.2)
      (m.hbm.filter fun e => e.1 / 4096 != g)
    hbmPoison := (m.hbmPoison.filter fun e => e.1 / 64 == f).foldl (fun t e => Tbl.set false t (64 * g + e.1 % 64) e.2)
      (m.hbmPoison.filter fun e => e.1 / 64 != g) }

/-- FRAME_RETIREMENT_SWITCH (R152): the map switches to the reserve frame; change 0x08 follows. -/
def execFrameRetirementSwitch (ch : Fin 128) (frame : BitVec 20) (s : State) : Outcome :=
  let f := frameKey ch.val frame.toNat
  .next (settle (match Tbl.get 0 s.mem.frameCopy f with
    | 0 => s
    | r + 1 =>
      let old := match Tbl.get 0 s.mem.frameMap f with | 0 => f | k + 1 => frameKey ch.val k
      let m := copyFrame s.mem old (frameKey ch.val r)
      queueChange { s with mem := { m with frameMap := Tbl.set 0 m.frameMap f (r + 1), frameCopy := Tbl.set 0 m.frameCopy f 0 } }
        (.hbmPage ch frame)))

/-- A read of MSH_SRAM_ERRCNT (R407): a whole read through the manager view clears. -/
def readErrcnt (s : State) (v : View) (whole : Bool) : State :=
  let t := { s with lastRead := BitVec.ofNat 32 (s.mem.errCe.toNat + s.mem.errUe.toNat * 2 ^ 16) }
  if v = .manager ∧ whole then { t with mem := { t.mem with errCe := 0, errUe := 0 } } else t

/-- MSH_SRAM_ERRCNT_READ. -/
def execMshSramErrcntRead (v : View) (whole : Bool) (s : State) : Outcome := .next (settle (readErrcnt s v whole))

/-! ### Gather-pool engines (R153, R154) -/

/-- Descriptor word `i` of a GATHER_POOL item (Table 8.10). -/
def gpDesc (i : Item) (k : Nat) : Dword := i.words.getD (2 + k) 0

/-- Row bytes, element format and elements of a row. -/
def gpRowBytes (i : Item) : Nat := 32 * 2 ^ fld (gpDesc i 0) 42 40
def gpFmt (i : Item) : Nat := fld (gpDesc i 0) 46 43
def gpElems (i : Item) : Nat := 8 * gpRowBytes i / fmtBits (gpFmt i)
def gpBags (i : Item) : Nat := fld (gpDesc i 1) 47 32

/-- A 32-bit word of slice SRAM, with poison. -/
def slice32 (s : State) (sl : Slice) (a : Nat) : Nat × Bool :=
  let r := sliceRead s sl.regions a 4
  (leNat r.1, r.2)

def gpOffset (s : State) (sl : Slice) (i : Item) (k : Nat) : Nat := (slice32 s sl (fld (gpDesc i 3) 30 0 + 4 * k)).1

/-- Decode a row element. -/
def gpDecode (fmt c : Nat) : FVal := if fmt = 8 then decodeFp32 (BitVec.ofNat 32 c) else decodeElem fmt c

/-- The index positions of a bag, with row bytes, weight and poison; an index out of range gives none. -/
def gpRows (s : State) (sl : Slice) (i : Item) (bag : Nat) : List (Option (List Byte × FVal) × Bool) :=
  let lo := gpOffset s sl i bag
  (List.range (gpOffset s sl i (bag + 1) - lo)).map fun j =>
    let ix := slice32 s sl (fld (gpDesc i 2) 30 0 + 4 * (lo + j))
    let w := if bit (gpDesc i 0) 52 then slice32 s sl (fld (gpDesc i 4) 30 0 + 4 * (lo + j)) else (0x3F800000, false)
    if fld (gpDesc i 1) 31 0 ≤ ix.1 then (none, ix.2)
    else
      let r := hbmRead s sl (fld (gpDesc i 0) 38 0 + ix.1 * gpRowBytes i) (gpRowBytes i)
      (some (r.1, decodeFp32 (BitVec.ofNat 32 w.1)), ix.2 || w.2 || r.2)

/-- The pooled value of element `e` (R154): FP32 code or ledger partial, and flags. A MAX over a bag of which every index is at or above
TABLE_ROWS has no value to take and gives +0, as an empty bag does (DESIGN CHOICE, log 153). -/
def gpElement (i : Item) (rows : List (List Byte × FVal)) (count e : Nat) : List Byte × Flags :=
  let fmt := gpFmt i
  let weighted := bit (gpDesc i 0) 52
  let out := fld (gpDesc i 0) 51 50
  let vals := rows.map fun r =>
    let v := gpDecode fmt (elemOf r.1 (fmtBits fmt) e)
    if weighted then v.mul r.2 else v
  let narrow (w : Word) (fl : Flags) : List Byte × Flags :=
    if out = 1 then let n := narrowBf16 w; (leBytes 2 n.1.toNat, fl ||| n.2) else (leBytes 4 w.toNat, fl)
  let sum := vals.foldl (fun (acc : Ledger × Flags) v =>
    let x := ledgerEnter v
    let y := ledgerAccumulate acc.1 x.1
    (y.1, acc.2 ||| x.2 ||| y.2)) ((0 : Ledger), (0 : Flags))
  match fld (gpDesc i 0) 49 48 with
  | 1 =>
    if out = 2 then (partialBytes sum.1, sum.2)
    else
      let c := ledgerConvert (if out = 1 then 1 else 0) sum.1 0
      (leBytes (if out = 1 then 2 else 4) c.1, sum.2 ||| c.2)
  | 2 =>
    let c := ledgerConvert 0 sum.1 0
    let d := fp32DivNat (BitVec.ofNat 32 c.1) count
    narrow d.1 (sum.2 ||| c.2 ||| d.2)
  | _ =>
    match vals.map toFp32 with
    | [] => narrow 0 0
    | v :: l =>
      let m := l.foldl (fun (acc : Word × Flags) x => let r := fp32Max acc.1 x.1; (r.1, acc.2 ||| x.2 ||| r.2)) v
      narrow m.1 m.2

/-- Account for the rows that a bag reads in HBM (R152). -/
def gpRowsLost (s : State) (sl : Slice) (i : Item) (part : BitVec 4) (ctx bag : Nat) : State :=
  let lo := gpOffset s sl i bag
  (List.range (gpOffset s sl i (bag + 1) - lo)).foldl (fun t j =>
    let ix := (slice32 s sl (fld (gpDesc i 2) 30 0 + 4 * (lo + j))).1
    if fld (gpDesc i 1) 31 0 ≤ ix then t
    else hbmLost t sl part (fld (gpDesc i 0) 38 0 + ix * gpRowBytes i) (gpRowBytes i) false ctx) s

/-- Rows of the table that a bag looks up. -/
def gpLookups (s : State) (sl : Slice) (i : Item) (bag : Nat) : Nat :=
  let lo := gpOffset s sl i bag
  ((List.range (gpOffset s sl i (bag + 1) - lo)).filter fun j =>
    decide ((slice32 s sl (fld (gpDesc i 2) 30 0 + 4 * (lo + j))).1 < fld (gpDesc i 1) 31 0)).length

/-- A bag's output: bytes, flags, GP_INDEX, poison. An empty bag writes +0. -/
def gpBag (s : State) (sl : Slice) (i : Item) (bag : Nat) : List Byte × Flags × Bool × Bool :=
  let rows := gpRows s sl i bag
  let good := rows.filterMap (·.1)
  let bytes := match fld (gpDesc i 0) 51 50 with | 0 => 4 | 1 => 2 | _ => 12
  let es := (List.range (gpElems i)).map fun e =>
    if rows.isEmpty then (List.replicate bytes 0, (0 : Flags)) else gpElement i good rows.length e
  (es.flatMap (·.1), es.foldl (fun f e => f ||| e.2) 0, rows.any fun r => r.1.isNone, rows.any (·.2))

/-- GP_LOOKUP_RETURN (R154): the last lookup of a bag returns, and the bag's output is written; the last bag completes the item. -/
def gpReturn (s : State) (x : ItemRef) (bag : Nat) : State :=
  match getItem s x, getCtx s x.ctx with
  | some i, some c =>
    if itemOpc i ≠ 0x0A ∨ !i.run.active ∨ heldBack s c ∨ i.run.list.contains (BitVec.ofNat 64 bag) ∨ gpBags i ≤ bag then s
    else
      let sl := getSlice s c.part
      let r := gpBag s sl i bag
      let s := gpRowsLost s sl i c.part x.ctx.toNat bag
      let out := fld (gpDesc i 5) 30 0 + bag * fld (gpDesc i 1) 63 48 * 32
      let s := sliceWrite (sliceLost s sl.regions c.part out r.1.length true x.ctx.toNat) sl.regions out r.1 r.2.2.2
      let lo := gpOffset s sl i bag
      let s := countN s 5 (16 * fld (i.words.getD 1 0) 2 0) 3 (gpOffset s sl i (bag + 1) - lo)
      let back := min (gpLookups s sl i bag) i.run.hbmOut
      let s := regDoneN s c.part.toNat 0 (classOf s x) i.run.hbmDue back
      let run := { i.run with flags := i.run.flags ||| r.2.1, gpIndex := i.run.gpIndex || r.2.2.1, poison := i.run.poison || r.2.2.2
                              list := BitVec.ofNat 64 bag :: i.run.list, bytes := i.run.bytes + 1, hbmOut := i.run.hbmOut - back }
      let s := setItem s x { i with run := run }
      if run.bytes = gpBags i then completeItem s x 0x00 else s
  | _, _ => s

def execGpLookupReturn (x : ItemRef) (bag : Nat) (s : State) : Outcome := .next (settle (gpReturn s x bag))

end Sys2Proof.Machine
end

