-- ==== Sys2Proof/Machine/Items.lean ====
section
/-!
DEFINITION. Command items (R195 to R201): their forms and checks, starting, lists and records by virtual address, the pieces that transfer
engines move (R151, R156, R212), fence updates, and the class and regulation of the transactions they issue (R290, R306, R307).
-/
namespace Sys2Proof.Machine

/-! ### Forms (Table 8.7 and the tables of the home chapters) -/

/-- Assigned bits of words 1 onward, by opcode; none outside the table. -/
def itemForm (opc : Nat) : Option (List Dword) :=
  let a : Dword := 0xFFFFFFFFFFFFFFFF
  let g : Dword := 0xFFFFFFFF01FFFFFF
  match opc with
  | 0x00 => some []
  | 0x01 => some [a, a, 1]
  | 0x02 => some [a, a, 0xFFFFFFFF]
  | 0x03 => some [0xFFFFFFFF]
  | 0x08 => some [a, a, 0xFFFFFFFFFF]
  | 0x09 => some [a, 0xFFFFFFFFFF, a]
  | 0x0A => some [7, 0x001FFFFFFFFFFFFF, a, 0x7FFFFFFF, 0x7FFFFFFF, 0x7FFFFFFF, 0x7FFFFFFF]
  | 0x0B => some [a]
  | 0x10 => some [0x1FFFFFFFF, a, a, a, a, a, a, a, a]
  | 0x11 => some [0x7FFFFFFFFFF, a, a, 0x00000FFF7FFFFFFF, 0x00FFFFFFFFFFFFFF, 0x1FFFFFFFFFFFFFFF, a, a]
  | 0x12 => some [0x1FFFFFFFF, a, a, a, a, a, a, a, a, 0x1FFFFFFFFFFFFFFF]
  | 0x13 => some [0xFFFFFFFF003FFFFF, a, a, a]
  | 0x14 => some [a]
  | 0x15 => some [0xFFFFFFFFFFFFFF3F, 0x000FFFFF000FFFFF]
  | 0x16 => some [0xFFFFFFFFFFFFFF0F]
  | 0x18 => some [0xFF0F]
  | 0x19 => some [0x00FF07FF]
  | 0x1A => some [0x000FFFFF000F033F]
  | 0x1B => some [0xFFFFFFFFFF]
  | 0x1C | 0x1D | 0x20 | 0x24 | 0x26 => some [a]
  | 0x21 => some [0x000FFFFF0010FFFF]
  | 0x22 => some [0xFFFF]
  | 0x23 => some [0xFFFF, a]
  | 0x25 => some [0x000FFFFF001FFFFF]
  | 0x27 => some [0x000FFFFF0011FFFF]
  | 0x28 => some [a, 0x00000FFFFFFFFFFF]
  | 0x40 => some [0xFFFFFF, a]
  | 0x41 => some [0x1FFFF, a]
  | 0x42 => some [a]
  | 0x43 => some [0x1FFFF, a, a]
  | 0x44 => some [0x30000, a, a]
  | 0x45 => some [0x1FFFFFFFF]
  | 0x46 => some [a]
  | 0x47 => some [0x000FFFFF00100FFF]
  | 0x48 => some [a]
  | 0x49 => some [0x1FFFF00FF, a]
  | 0x4A => some [0x1FFFF0003]
  | 0x50 => some [0x1FFFF]
  | 0x51 => some [0x7FFFFFFFFFFFF, a]
  | 0x52 => some [0xFFFFFF7F, 0x03FFFFFFFFFFFFFF]
  | 0x53 => some [0x7F]
  | 0x54 => some [0x7FFFFFF, a, 0xFFFF]
  | 0x55 => some [0x3FFFFFF]
  | 0x56 => some [a, a, 0xFFFFFFFF, a]
  | 0x57 => some [0xFF]
  | 0x58 => some [0xF3F, a, 0xFFFF]
  | 0x59 => some [0x13F]
  | 0x5A => some [a]
  | 0x5B => some [a, a, 0]
  | 0x60 => some [g, a, 0x3FFFFFFFFFFFFFFF]
  | 0x61 => some [g, a, 0x0001FFFFFFFFFFFF, a, a, a]
  | 0x62 | 0x64 | 0x67 | 0x68 => some [g, a, 0x1FFFF]
  | 0x63 => some [g, a, 0x1FFFFFFFF]
  | 0x65 => some [g, a, 0x1FFFF, a, a]
  | 0x66 => some [g, a, 0x1FFFF, a]
  | 0x69 => some [g, a, 0x3FFFF]
  | 0x6A => some [g, a]
  | 0x6B => some [g, a, 0x1FFFFFFFFFF]
  | 0x6C => some [g, a, 0x1FFFF, a, a, a]
  | 0x70 => some [0x1FFFFFFFF]
  | 0x71 => some [0x1FFFFFFFFFFF, a, a]
  | 0x72 => some [0x1FFF, a, a]
  | 0x73 => some [0x07FF000F, a]
  | 0x74 => some [0x33F0F03FF]
  | 0x78 => some [0xFFFFFFFF]
  | 0x79 => some [0xFFFFFFFF, 7]
  | 0x7A => some [0x1FFFFF, 0x0000FFFF0000FFFF]
  | 0x7B => some [0xFFFFFFFF00000007]
  | 0x7C => some [0x103]
  | 0x7D => some [a]
  | _ => none

/-- The form checks, and the RTP's privilege or service check, in order (R196, 1 to 4). -/
def formStatus (c : Context) (q : Queue) (i : Item) : Option Nat :=
  match itemForm (itemOpc i) with
  | none => some 0x21
  | some masks =>
    if fld (iw i 0) 11 8 ≠ masks.length ∨ !onlyBits (iw i 0) 0xFFFFFFFF00FFFFFF ∨ fld (iw i 0) 13 12 = 3 ∨
        (List.zipWith onlyBits (i.words.drop 1) masks).any (!·) then some 0x20
    else if fld (iw i 0) 13 12 = 1 ∧ !q.lc then some 0x22
    else if itemPrivileged (itemOpc i) ∧ !c.manager then some 0x40
    else if itemServed (itemOpc i) ∧ c.gid ≠ BitVec.ofNat 24 (fld (iw i 1) 23 0) then some 0x46
    else none

/-! ### Starting (R196) -/

/-- The next item of a queue that has not started, and whether an earlier one has not completed. -/
def nextItem : List Item → Bool → Option (Item × Bool)
  | [], _ => none
  | i :: l, busy => if i.started then nextItem l true else some (i, busy)

/-- Whether the forced part of a teardown has stopped the items of a queue (R204). -/
def tornDown (s : State) (ctx : BitVec 16) (qid : BitVec 4) : Bool :=
  s.teardowns.any fun t => decide (4 ≤ t.step) && t.owns ctx qid

/-- Whether the rules of R196 let an item start. -/
def mayStart (s : State) (c : Context) (q : Queue) (i : Item) (busy : Bool) : Bool :=
  c.slot != 0 && !c.faulted && c.state != .parked && !heldBack s c && !tornDown s q.ctx q.qid && !q.flushing && !pairStopped s q.cp.toNat &&
  !((bit (iw i 0) 14 || itemSerial (itemOpc i)) && busy) &&
  decide ((q.items.filter (·.started)).length < 32) &&
  decide ((BitVec.ofNat 24 q.cplW - q.cidx).toNat < 2 ^ (4 + q.cplLog.toNat)) &&
  !(s.rtpDown && itemSerial (itemOpc i)) &&
  !(itemOpc i == 0x02 && decide (1024 ≤ s.fenceWaits.length))

/-- Start an item: its order and time, then its form checks. -/
def startItem (s : State) (q : Queue) (c : Context) (i : Item) : State :=
  let x : ItemRef := ⟨q.ctx, q.qid, i.seq⟩
  let s := setItem { s with serial := s.serial + 1 } x { i with started := true }
  let s := setCtx s { c with lastStart := s.serial }
  match formStatus c q i with
  | some st => completeItem s x st
  | none => s

/-- Start the next item of a queue if `ok` holds of its opcode. -/
def startNext (s : State) (ctx : BitVec 16) (qid : BitVec 4) (ok : Nat → Bool) : State :=
  match getQueue s ctx qid, getCtx s ctx with
  | some q, some c => match nextItem q.items false with
    | some (i, busy) => if ok (itemOpc i) && mayStart s c q i busy then startItem s q c i else s
    | none => s
  | _, _ => s

/-- ITEM_START. -/
def execItemStart (ctx : BitVec 16) (qid : BitVec 4) (s : State) : Outcome :=
  .next (settle (startNext s ctx qid fun _ => true))

/-- UNKNOWN_OPCODE (R198): the item starts and completes with that status. -/
def execUnknownOpcode (ctx : BitVec 16) (qid : BitVec 4) (s : State) : Outcome :=
  .next (settle (startNext s ctx qid fun opc => (itemForm opc).isNone))

/-! ### An item's own step -/

/-- The step of a started item with the given opcode whose effect has not begun; none while it is suspended (R295) or torn down (R204). -/
def onItem (s : State) (x : ItemRef) (opc : Nat) (f : Item → Context → State) : State :=
  match getItem s x, getCtx s x.ctx with
  | some i, some c =>
    if i.started && itemOpc i == opc && !i.run.active && !c.faulted && c.state != .parked && !heldBack s c && !tornDown s x.ctx x.qid &&
        !(s.rtpDown && itemSerial opc) then f i c else s
  | _, _ => s

/-- Fault the context of an item (R188). -/
def faultItem (s : State) (x : ItemRef) (cls : BitVec 4) (cause : Byte) (addr detail : Dword) : State :=
  raise s { ctx := x.ctx, qid := x.qid, seq := x.seq, cls := cls, cause := cause, addr := addr, detail := detail }

/-! ### Lists and records (R209, R212) -/

/-- The pieces of a virtual range within 4 KiB pages: offset and length. -/
def pagePieces (va n : Nat) : List (Nat × Nat) :=
  (unitsOf 4096 va n).map fun u =>
    let lo := max va (4096 * u)
    (lo - va, min (va + n) (4096 * u + 4096) - lo)

/-- What reading a list gives. -/
inductive Got where
  | ok (s : State) (bytes : List Byte)
  /-- A translation is under way. -/
  | wait (s : State)
  | lost
  | fault (s : State) (cls : BitVec 4) (cause : Byte) (addr detail : Dword)

/-- DETAIL of a window refusal or timeout (R227). -/
def windowDetail (reason : Byte) (node : BitVec 17) (win : BitVec 12) : Dword :=
  BitVec.ofNat 64 (reason.toNat + node.toNat * 2 ^ 8 + win.toNat * 2 ^ 25)

/-- What a reply from outside means for the bytes at `off` of a list. `bad` is the cause and DETAIL of a failure at its place. -/
def gotReply (s : State) (r : Reply) (va : Dword) (n off : Nat) (refused : Byte → Byte × Dword) (timeout : Byte × Dword) : Got :=
  match r with
  | .words ws => .ok s (((dwordBytes ws ++ List.replicate (off + n) 0).drop off).take n)
  | .poison => .fault s 5 0x01 va 0
  | .timeout => .fault s 4 timeout.1 va timeout.2
  | .refused k => let f := refused k; .fault s 4 f.1 va f.2
  | .unsupported | .abort => let f := refused 0; .fault s 4 f.1 va f.2

/-- The class of a read for an item, or for a context where no item names it. -/
def whoLc (s : State) (c : Context) (who : Option ItemRef) : Bool := match who with | some x => classOf s x | none => ctxLc s c.id

/-- Its request deadline. -/
def whoDue (s : State) (c : Context) (who : Option ItemRef) (t : Nat) : Nat :=
  match who with | some x => requestDue s c.part.toNat t x | none => slackDue s c.part.toNat t (ctxLc s c.id)

/-- HBM granules read for a list. -/
def listHbm (s : State) (c : Context) (who : Option ItemRef) (n : Nat) : State :=
  regPosted s c.part.toNat 0 (whoLc s c who) (whoDue s c who 0) n

/-- The read on the host link of one piece of a list: request and answer in one step (DESIGN CHOICE, log 157). -/
def listRead (s : State) (c : Context) (who : Option ItemRef) (a : Dword) (n : Nat) : State :=
  emit (regPosted { s with serial := s.serial + 1 } c.part.toNat 2 (whoLc s c who) (whoDue s c who 2) 1) (.hostRead s.serial a n)

/-- The READ_REQ of one piece of a list behind a window (R274), answered in the same step. -/
def listWindow (s : State) (c : Context) (who : Option ItemRef) (node : BitVec 17) (win : BitVec 12) (wgen : Byte) (off : Nat) (legacy : Bool)
    (n : Nat) : State :=
  let p := c.part.toNat
  let lc := whoLc s c who
  let due := whoDue s c who 1
  sendPacket (regPosted { s with serial := s.serial + 1 } p 1 lc due 1)
    { prio := some { band := reqBand s p 1 lc, due := BitVec.ofNat 16 due }, ttype := 1, dst := node, tag := BitVec.ofNat 16 s.serial, gid := if legacy then 0xFFFFFF else c.gid
      len := BitVec.ofNat 13 n, addr := windowAddr wgen win off, legacy := legacy, vc := 1 }

/-- Read one piece of a list. A failed read of host memory is a PAGE_FAULT, of a peer PEER_REFUSED, of a window WINDOW_REFUSED or
WINDOW_TIMEOUT (R227, R229). -/
def gotPiece (s : State) (c : Context) (who : Option ItemRef) (r : Reply) (base : Dword) (off n : Nat) : Got :=
  let va := base + BitVec.ofNat 64 off
  let s := touchAtc s c va
  match resolve s c va .rd n with
  | .mem part hbm a =>
    match consumeCause s part hbm a n with
    | some k => .fault (devReadLog s part hbm a n c.id.toNat) 5 k va 0
    | none => .ok (devReadLog (if hbm then listHbm s c who (unitsOf 256 a n).length else s) part hbm a n c.id.toNat) (devRead s part hbm a n).1
  | .window node win wgen o legacy =>
    gotReply (listWindow s c who node win wgen o legacy n) r va n off (fun k => (0x0A, windowDetail k node win)) (0x0B, windowDetail 0 node win)
  | .host a => gotReply (listRead s c who a n) r va n off (fun _ => (0x04, a)) (0x04, a)
  | .peer a => gotReply (listRead s c who a n) r va n off (fun _ => (0x0C, a)) (0x0C, a)
  | .miss => .wait (startXlate s c va false who)
  | .lost => .lost
  | .fault cause d => .fault s 4 cause va d

/-- Read `n` bytes at a virtual address, piece by piece. -/
def readVa (s : State) (c : Context) (who : Option ItemRef) (r : Reply) (va : Dword) (n : Nat) : Got :=
  (pagePieces va.toNat n).foldl (fun g p =>
    match g with
    | .ok s bytes => match gotPiece s c who r va p.1 p.2 with
      | .ok s b => .ok s (bytes ++ b)
      | g => g
    | g => g) (.ok s [])

/-- Act on the words of a list of an item. A list that cannot be read faults the context; a glove item completes with LIST_FAULT
first (Table 7.8). -/
def withList (s : State) (x : ItemRef) (c : Context) (r : Reply) (va : Dword) (n : Nat) (f : State → List Dword → State) : State :=
  match readVa s c (some x) r va n with
  | .ok s b => f s (leWords ((n + 7) / 8) b)
  | .wait s => s
  | .lost => parkCtx s c
  | .fault s cls cause addr detail =>
    let glove := match getItem s x with | some i => itemGlove (itemOpc i) | none => false
    faultItem (if glove then completeItem s x 0x4C else s) x cls cause addr detail

/-! ### Writes of items -/

/-- Whether a request of the item, or a back-invalidate snoop, is outstanding. -/
def waiting (s : State) (x : ItemRef) : Bool := s.snoops != [] || (s.hostReads.any fun r => r.x == x) || (s.winReqs.any fun r => r.x == x && r.use != .ring)

/-- Whether a read of the item is outstanding. -/
def reading (s : State) (x : ItemRef) : Bool :=
  (s.hostReads.any fun r => r.x == x && r.use == .copy) || (s.winReqs.any fun r => r.x == x && (r.use == .read || r.use == .gather))

/-- Issue a host or peer read. -/
def issueRead (s : State) (x : ItemRef) (c : Context) (va addr : Dword) (n : Nat) (use : ReadFor) (peer : Bool) : State :=
  hostRequest s { ctx := x.ctx, x := x, va := va, addr := addr, bytes := n, use := use, peer := peer, lc := classOf s x, part := c.part
                  due := requestDue s c.part.toNat 2 x }

/-- A 64-bit CompareAndSwap AtomicOp on the host link (R200); over CXL the line is fetched into the device's cache instead (R232). -/
def issueCas (s : State) (x : ItemRef) (c : Context) (va addr : Dword) (peer : Bool) (compare value : Dword) : State :=
  if s.host.cxl && !peer then issueRead s x c va addr 8 .atomic false
  else hostRequest s { ctx := x.ctx, x := x, va := va, addr := addr, bytes := 8, use := .atomic, dst := compare, cas := true, value := value
                       peer := peer, lc := classOf s x, part := c.part, due := requestDue s c.part.toNat 2 x }

/-- A window request record of an item. -/
def winReq (s : State) (x : ItemRef) (c : Context) (node : BitVec 17) (win : BitVec 12) (legacy : Bool) (va : Dword) (n : Nat)
    (use : WinUse) : WinReq :=
  { tag := BitVec.ofNat 16 s.serial, ctx := x.ctx, x := x, node := node, window := win, bytes := n, use := use, legacy := legacy, va := va,
    lc := classOf s x, part := c.part, due := requestDue s c.part.toNat 1 x }

/-- Issue one request packet to a window and remember it (R274). -/
def issueWin (s : State) (r : WinReq) (wgen : Byte) (off : Nat) (gid : BitVec 24) (t : BitVec 5) (len : Nat) (ext : Word) (data : List Byte) : State :=
  let r := { r with band := reqBand s r.part.toNat 1 r.lc }
  let s := regIssue { s with serial := s.serial + 1, winReqs := s.winReqs ++ [r] } r.part.toNat 1 r.lc
  sendPacket s { prio := some { band := r.band, due := BitVec.ofNat 16 r.due }, ttype := t, dst := r.node, tag := r.tag
                 gid := if r.legacy then 0xFFFFFF else gid, len := BitVec.ofNat 13 len, ext := ext, addr := windowAddr wgen r.window off
                 data := data, legacy := r.legacy, vc := 1 }

/-- Write one piece at a place. A peer write is followed by the zero-length read of R233. -/
def writePlace (s : State) (x : ItemRef) (c : Context) (p : Place) (va : Dword) (data : List Byte) (flags : List Bool) : State :=
  let pt := c.part.toNat
  let lc := classOf s x
  let posted (a : Dword) : State := hostWrites (regPosted s pt 2 lc (requestDue s pt 2 x) (tlpsOf data.length)) a data
  match p with
  | .mem part hbm a =>
    let s := if hbm then regPosted s pt 0 lc (requestDue s pt 0 x) (unitsOf 256 a data.length).length else s
    devCarry s part hbm a data flags x.ctx.toNat
  | .window node win wgen off legacy => windowWrite s (winReq s x c node win legacy va data.length .write) wgen off c.gid data flags
  | .host a => posted a
  | .peer a => issueRead (posted a) x c va a 0 .fence true
  | _ => s

/-- Complete an item once none of its requests is outstanding (R233). -/
def finishItem (s : State) (x : ItemRef) (status : Nat) (result : Dword) : State :=
  let s := updRun s x fun r => { r with result := result, status := BitVec.ofNat 8 status, active := true, total := r.bytes }
  if waiting s x then s else completeItem s x status

/-- The places of a range, if none is missing: every piece is checked before any is written. -/
def writePlaces (s : State) (x : ItemRef) (c : Context) (va : Dword) (n : Nat) : List (Nat × Nat) → Option State
  | [] => none
  | p :: l =>
    let a := va + BitVec.ofNat 64 p.1
    match resolve s c a .wr p.2 with
    | .miss => some (startXlate s c a true (some x))
    | .lost => some (parkCtx s c)
    | .fault cause d => some (faultItem s x 4 cause a d)
    | _ => writePlaces s x c va n l

/-- Write a record at a virtual address and complete the item (CROWN_READ, FLOORPLAN_READ and their like). -/
def writeRecord (s : State) (x : ItemRef) (c : Context) (va : Dword) (data : List Byte) (result : Dword) : State :=
  let ps := pagePieces va.toNat data.length
  match writePlaces s x c va data.length ps with
  | some s => s
  | none =>
    let s := ps.foldl (fun s p =>
      let a := va + BitVec.ofNat 64 p.1
      writePlace (touchAtc s c a) x c (resolve s c a .wr p.2) a ((data.drop p.1).take p.2) (List.replicate p.2 false)) s
    finishItem s x 0x00 result

/-! ### Fence updates (R200) -/

/-- Set the fence word at `va` to max(word, `value`) in one update; the item completes when it is done. -/
def fenceMax (s : State) (x : ItemRef) (c : Context) (va value : Dword) : State :=
  let s := touchAtc s c va
  match resolve s c va .atomic 8 with
  | .mem part hbm a =>
    let s := devReadLog s part hbm a 8 x.ctx.toNat
    match consumeCause s part hbm a 8 with
    | some k => faultItem s x 5 k va 0
    | none =>
      let old := leNat (devRead s part hbm a 8).1
      finishItem (if old < value.toNat then devWrite s part hbm a (leBytes 8 value.toNat) false x.ctx.toNat else s) x 0x00 0
  | .window node win wgen off legacy =>
    let s := updRun s x fun r => { r with active := true, total := r.bytes }
    issueWin s (winReq s x c node win legacy va 8 .atomic) wgen off c.gid 0x05 8 3 (leBytes 8 value.toNat)
  | .host a => issueCas (updRun s x fun r => { r with active := true, total := r.bytes }) x c va a false 0 value
  | .peer a => issueCas (updRun s x fun r => { r with active := true, total := r.bytes }) x c va a true 0 value
  | .miss => startXlate s c va true (some x)
  | .lost => parkCtx s c
  | .fault cause d => faultItem s x 4 cause va d

/-! ### Pieces of a transfer (R151, R212) -/

/-- Total bytes of a transferring item; none for other items. -/
def xferTotal (i : Item) : Option Nat :=
  match itemOpc i with
  | 0x08 => some (fld (iw i 3) 39 0)
  | 0x09 => some (fld (iw i 2) 39 0)
  | 0x44 => some (if bit (iw i 1) 16 then 0x200000 else 0x1000)
  | 0x56 => some (fld (iw i 3) 23 0 * fld (iw i 3) 31 24)
  | 0x6C => some (fld (iw i 3) 16 0)
  | _ => none

/-- The source of byte `k`: a virtual or bus address; none is the pattern of FILL. -/
def xferSrc (i : Item) (k : Nat) : Option Dword :=
  match itemOpc i with
  | 0x09 => none
  | 0x44 => some ((if bit (iw i 1) 17 then iw i 3 else iw i 2) + BitVec.ofNat 64 k)
  | 0x6C => some (iw i 2 + BitVec.ofNat 64 k)
  | _ => some (iw i 1 + BitVec.ofNat 64 k)

def xferDst (i : Item) (k : Nat) : Dword :=
  (match itemOpc i with
   | 0x08 => iw i 2
   | 0x09 => iw i 1
   | 0x44 => if bit (iw i 1) 17 then iw i 2 else iw i 3
   | 0x6C => iw i 4
   | _ => iw i 4) + BitVec.ofNat 64 k

/-- The place behind an address of a transfer: MIGRATE names a host bus address or a BAR4 offset, every other item a virtual
address. -/
def xferPlace (s : State) (c : Context) (i : Item) (write : Bool) (a : Dword) (n : Nat) : Place :=
  if itemOpc i = 0x44 then
    if bit (iw i 1) 17 == write then (if s.host.lost then .lost else .host a)
    else match apertureAt s a.toNat n with
      | some (o, y) => .mem (objPart s o) o.hbm y
      | none => .fault 0x02 0
  else resolve s c a (if write then .wr else .rd) n

/-- Bytes from `a` to its 4 KiB boundary. -/
def toPage (a : Dword) : Nat := 4096 - a.toNat % 4096

/-- Whether a local HBM place lies in a protected region: region, and offset in it (R156). -/
def protectedAt (s : State) (p : Place) : Option (BitVec 4 × Nat × Nat) :=
  match p with
  | .mem part true a =>
    let sl := getSlice s part
    match hbmRegion sl a with
    | some r => if bit (regionWord sl r 0) 62 then some (part, r, a - regionBase sl r) else none
    | none => none
  | _ => none

/-- A transfer uses the translation of one of its virtual addresses (R214). -/
def touchXfer (s : State) (c : Context) (i : Item) (a : Dword) : State := if itemOpc i = 0x44 then s else touchAtc s c a

def isSram : Place → Bool
  | .mem _ false _ => true
  | _ => false

/-- Bytes of the piece that starts at `a`, of `left` that remain (R212): to the end of its segment; for a shared or peer piece, to the
4 KiB boundary. -/
def pieceEnd (c : Context) (i : Item) (write : Bool) (a : Dword) (left : Nat) : Nat :=
  if itemOpc i = 0x44 then (if bit (iw i 1) 17 == write then min left (toPage a) else left)
  else match segHit c a with
    | some g => if fld g.w0 2 0 ≤ 1 then min left ((segSize g).toNat - (a - segBase g).toNat) else min left (toPage a)
    | none => min left (toPage a)

/-- Bytes that move next: at most 4,096 of both pieces; a local HBM source stays within a data unit and its region. -/
def pieceLen (s : State) (c : Context) (i : Item) (k total : Nat) : Nat :=
  let n := min 4096 (pieceEnd c i true (xferDst i k) (total - k))
  match xferSrc i k with
  | none => n
  | some a =>
    let n := min n (pieceEnd c i false a (total - k))
    match xferPlace s c i false a 1 with
    | .mem part true h =>
      let n := min n (0x200000 - h % 0x200000)
      match protectedAt s (.mem part true h) with
      | some (_, _, o) => min n (4096 - o % 4096)
      | none => n
    | _ => n

/-- The key slot of a region. -/
def regionSlot (s : State) (part : BitVec 4) (region : Nat) : Nat := fld (regionWord (getSlice s part) region 0) 61 56

/-- Plaintext of a piece of a protected region that enters the slice's SRAM; none where its key slot is empty (R156, R362). A slot
that is being cleared serves only the transfers issued before. -/
def decryptPiece (s : State) (x : ItemRef) (part : BitVec 4) (region off n : Nat) : Option (List Byte) :=
  let sl := getSlice s part
  let u := off / 4096
  match Tbl.get none s.trust.wkeys (regionSlot s part region) with
  | none => none
  | some k =>
    if k.clearing && !k.users.contains x then none else
    let unit := (hbmRead s sl (regionBase sl region + 4096 * u) 4096).1
    some ((List.range n).map fun j =>
      Config.xtsByte k.key (regionWord sl region 2 + BitVec.ofNat 64 u) unit (off % 4096 + j))

/-- The data of a local piece: bytes, poison, and whether it is decrypted. -/
inductive PieceData where
  | bytes (b : List Byte) (flags : List Bool) (decrypted : Bool)
  | keyEmpty
  | align
  | protectedRead

/-- The source data of a piece, by the paths of R156. `last` is what of the transfer remains after it. -/
def pieceData (s : State) (x : ItemRef) (i : Item) (src : Place) (toSram : Bool) (k n last : Nat) : PieceData :=
  match src with
  | .mem part hbm a =>
    match protectedAt s src with
    | some (_, r, o) =>
      if toSram then
        if (k = 0 ∧ o % 4096 ≠ 0) ∨ (o + n + last) % 4096 ≠ 0 then .align
        else match decryptPiece s x part r o n with
          | none => .keyEmpty
          | some b => .bytes b (devFlags s part hbm a n) true
      else .bytes (devRead s part hbm a n).1 (devFlags s part hbm a n) false
    | none =>
      if devProtected s part hbm a n then .protectedRead
      else .bytes (devRead s part hbm a n).1 (devFlags s part hbm a n) false
  | _ => .bytes ((List.range n).map fun j => BitVec.ofNat 8 ((iw i 3).toNat / 2 ^ (8 * ((k + j) % 8)))) (List.replicate n false) false

/-- Write decrypted lines, tagged protected (R156). -/
def writeProtected (s : State) (part : BitVec 4) (a : Nat) (data : List Byte) (flags : List Bool) (ctx : Nat) : State :=
  let sl := getSlice s part
  let s := sliceLost s sl.regions part a data.length true ctx
  { s with mem := sramWritePieces s.mem true (slicePieces sl.regions a data.length) data flags }

/-- The end of a transfer's data: PAIR_COMMIT updates its fence word behind the copy (R184); MIGRATE to the host reads the page once
(R222); every other transfer completes. -/
def xferEnd (s : State) (x : ItemRef) (i : Item) (c : Context) : State :=
  if waiting s x then s
  else match itemOpc i with
    | 0x6C => fenceMax s x c (iw i 5) (iw i 6)
    | 0x44 => if bit (iw i 1) 17 ∧ i.run.flags = 0 then
        issueRead (updRun s x fun r => { r with flags := 1 }) x c (iw i 2) (iw i 2) 4 .fence false
      else completeItem (updRun s x fun r => { r with flags := 0, result := 0 }) x 0x00
    | 0x56 => completeResult s x 0x00 (BitVec.ofNat 64 (fld (iw i 3) 23 0))
    | _ => completeResult s x 0x00 (BitVec.ofNat 64 i.run.bytes)

/-- Index `k` of a WGATHER, from the words of its index list (R275). -/
def gatherIndex (i : Item) (k : Nat) : Nat := fld (i.run.list.getD (k / 2) 0) (32 * (k % 2) + 31) (32 * (k % 2))

/-- The next GATHER of a WGATHER: at most 48 rows (R275). A BASE that lies in no window segment lacks the right. -/
def nextGather (s : State) (x : ItemRef) (i : Item) (c : Context) : State :=
  let rb := max 1 (fld (iw i 3) 31 24)
  let count := fld (iw i 3) 23 0
  let row := i.run.bytes / rb
  if reading s x then s
  else if count ≤ row then xferEnd s x i c
  else
    let n := min 48 (count - row)
    match resolve s c (iw i 4 + BitVec.ofNat 64 (rb * row)) .wr 1 with
    | .miss => startXlate s c (iw i 4 + BitVec.ofNat 64 (rb * row)) true (some x)
    | .lost => parkCtx s c
    | .fault cause d => faultItem s x 4 cause (iw i 4 + BitVec.ofNat 64 (rb * row)) d
    | _ =>
      match resolve s c (iw i 1) .rd 1 with
      | .window node win wgen off legacy =>
        issueWin (updRun s x fun r => { r with bytes := rb * row }) (winReq s x c node win legacy (iw i 1) (n * rb) .gather) wgen off c.gid 0x07
          (4 * n) (BitVec.ofNat 32 (rb + n * 2 ^ 8)) ((List.range n).flatMap fun k => leBytes 4 (gatherIndex i (row + k)))
      | .miss => startXlate s c (iw i 1) false (some x)
      | .lost => parkCtx s c
      | .fault cause d => faultItem s x 4 cause (iw i 1) d
      | _ => faultItem s x 4 0x01 (iw i 1) 0

/-- Granules of HBM that the engine reads for a piece of `n` bytes: a decrypting piece reads its whole data unit. -/
def hbmGranules (s : State) (src dst : Place) (n : Nat) : Nat :=
  match src with
  | .mem _ true a => if (protectedAt s src).isSome && isSram dst then 16 else (unitsOf 256 a n).length
  | _ => 0

/-- The HBM accesses of an item issue; they stay outstanding until they return (R306). -/
def hbmIssue (s : State) (x : ItemRef) (c : Context) (n : Nat) : State :=
  match getItem s x with
  | none => s
  | some i =>
    if i.run.hbmOut ≠ 0 then s
    else updRun (regIssueN s c.part.toNat 0 (classOf s x) n) x fun r => { r with hbmOut := n, hbmDue := requestDue s c.part.toNat 0 x }

/-- `n` of them return. -/
def hbmReturn (s : State) (x : ItemRef) (c : Context) (n : Nat) : State :=
  match getItem s x with
  | none => s
  | some i =>
    let k := min n i.run.hbmOut
    updRun (regDoneN s c.part.toNat 0 (classOf s x) i.run.hbmDue k) x fun r => { r with hbmOut := r.hbmOut - k }

/-- Begin the next piece: a source outside the package is read; a local one is left to the transfer engine. A stopped or suspended item begins
none. -/
def nextPiece (s : State) (x : ItemRef) : State :=
  match getItem s x, getCtx s x.ctx with
  | some i, some c =>
    match xferTotal i with
    | none => s
    | some total =>
      let k := i.run.bytes
      if i.run.stop.isSome || heldBack s c || tornDown s x.ctx x.qid then s
      else if itemOpc i = 0x56 then nextGather s x i c
      else if reading s x then s
      else if total ≤ k then xferEnd s x i c
      else
        let n := pieceLen s c i k total
        let check (a : Dword) (write : Bool) : Option State :=
          match xferPlace s c i write a (pieceEnd c i write a (total - k)) with
          | .miss => some (startXlate s c a write (some x))
          | .lost => some (parkCtx s c)
          | .fault cause d => some (faultItem s x 4 cause a d)
          | _ => none
        match xferSrc i k with
        | none => (check (xferDst i k) true).getD s
        | some a =>
          match check a false, check (xferDst i k) true with
          | some s, _ => s
          | none, some s => s
          | none, none =>
            let s := touchXfer s c i a
            match xferPlace s c i false a n with
            | .host b => issueRead s x c a b n .copy false
            | .peer b => issueRead s x c a b n .copy true
            | .window node win wgen off legacy =>
              issueWin s (winReq s x c node win legacy a n .read) wgen off c.gid 0x01 n 0 []
            | src => hbmIssue s x c (hbmGranules s src (xferPlace s c i true (xferDst i k) n) n)
  | _, _ => s

/-- Data of a piece arrives: it is written at its destination, and the transfer goes on. -/
def deliver (s : State) (x : ItemRef) (data : List Byte) (flags : List Bool) (decrypted : Bool) : State :=
  match getItem s x, getCtx s x.ctx with
  | some i, some c =>
    let a := xferDst i i.run.bytes
    if i.run.stop.isSome then s else
    let s := touchXfer s c i a
    let step (s : State) : State :=
      nextPiece (updRun s x fun r => { r with bytes := r.bytes + data.length, poison := r.poison || flags.any id,
                                              result := BitVec.ofNat 64 (r.bytes + data.length) }) x
    match xferPlace s c i true a data.length with
    | .miss => startXlate s c a true (some x)
    | .lost => parkCtx s c
    | .fault cause d => faultItem s x 4 cause a d
    | .mem part hbm h =>
      let m := meetMem s part hbm h data.length
      if !m.2 then m.1
      else if decrypted && !hbm then step (writeProtected m.1 part h data flags x.ctx.toNat)
      else step (writePlace m.1 x c (.mem part hbm h) a data flags)
    | p => step (writePlace s x c p a data flags)
  | _, _ => s

/-- The transfer engine completes the local piece of an item. A decrypting piece reads its whole data unit. -/
def enginePiece (s : State) (x : ItemRef) : State :=
  match getItem s x, getCtx s x.ctx with
  | some i, some c =>
    match xferTotal i with
    | none => s
    | some total =>
      let k := i.run.bytes
      if !i.run.active || i.run.stop.isSome || heldBack s c || tornDown s x.ctx x.qid || itemOpc i == 0x56 || reading s x || decide (total ≤ k) || c.faulted || c.state = .parked then s
      else
        let n := pieceLen s c i k total
        let src : Place := match xferSrc i k with | none => .miss | some a => xferPlace s c i false a n
        let dst := xferPlace s c i true (xferDst i k) n
        match src, xferSrc i k with
        | .mem .., _ | .miss, none =>
          let m := match src with
            | .mem part hbm a => meetMem s part hbm a n
            | _ => (s, true)
          if !m.2 then m.1
          else
          let s := m.1
          let s := match src with
            | .mem part hbm a =>
              let (a, n) := match protectedAt s src with
                | some (_, r, o) => if isSram dst then (regionBase (getSlice s part) r + 4096 * (o / 4096), 4096) else (a, n)
                | none => (a, n)
              devReadLog (hbmReturn (hbmIssue s x c (hbmGranules s src dst n)) x c (hbmGranules s src dst n)) part hbm a n x.ctx.toNat
            | _ => s
          match pieceData s x i src (isSram dst) k n (total - k - n) with
          | .bytes b flags dec => deliver s x b flags dec
          | .keyEmpty => endItem (updRun s x fun r => { r with result := BitVec.ofNat 64 k }) x 0xC3
          | .align => faultItem s x 6 0x04 (xferDst i k) 0
          | .protectedRead => faultItem s x 5 0x02 ((xferSrc i k).getD 0) 0
        | _, _ => nextPiece s x
  | _, _ => s

/-- Start a transfer. -/
def startXfer (s : State) (x : ItemRef) : State :=
  nextPiece (updRun s x fun r => { r with active := true }) x

/-- The preemption image of a suspended kernel of the item reaches its slot (R294). -/
def imageWritten (s : State) (x : ItemRef) : State :=
  match s.sched.suspended.find? fun u => !u.written && (match u.image.kernel with | some k => k.x == x | none => false) with
  | none => s
  | some u =>
    let b := imageBytes u.image
    let s := regPosted s u.part.toNat 0 false (slackDue s u.part.toNat 0 false) (unitsOf 256 u.slot b.length).length
    let s := devWrite s u.part true u.slot b false x.ctx.toNat
    { s with sched := { s.sched with suspended := s.sched.suspended.map fun v => if v == u then { v with written := true } else v } }

/-- TRANSFER_ENGINE_COMPLETE (R151). -/
def execTransferEngineComplete (x : ItemRef) (s : State) : Outcome :=
  let moving := match getItem s x with | some i => (xferTotal i).isSome | none => false
  .next (settle (if moving then enginePiece s x else imageWritten s x))

/-- Translations of a context have changed: its transfers try again. -/
def pumpItems (s : State) (ctx : BitVec 16) : State :=
  (startedItems s ctx).foldl (fun s x =>
    match getItem s x with
    | some i => if i.run.active && (xferTotal i).isSome then nextPiece s x else s
    | none => s) s

/-! ### Completions of host requests (R209, R229, R231) -/

/-- A stopped item ends with its last data write (R233). -/
def stopDone (s : State) (x : ItemRef) : State :=
  match getItem s x with
  | none => s
  | some i => match i.run.stop with
    | some st => if writesOut s x then s else completeItem s x st.toNat
    | none => s

/-- The bytes of a window write that its node did not acknowledge do not count in RESULT of a COPY or FILL (R199). -/
def uncountWrite (s : State) (r : WinReq) : State :=
  match getItem s r.x with
  | none => s
  | some i =>
    if r.use = .write ∧ (itemOpc i = 0x08 ∨ itemOpc i = 0x09) then updRun s r.x fun q => { q with result := q.result - BitVec.ofNat 64 r.bytes }
    else s

/-- Fault of a failed host or peer request. -/
def hostFail (s : State) (r : HostRead) : State := stopDone (faultItem s r.x 4 (if r.peer then 0x0C else 0x04) r.va r.addr) r.x

/-- A request of an item is done: an item that has written everything goes on. -/
def requestDone (s : State) (x : ItemRef) : State :=
  match getItem s x with
  | none => s
  | some i =>
    if i.run.stop.isSome then stopDone s x
    else if !i.run.active || waiting s x then s
    else if (xferTotal i).isSome then nextPiece s x
    else if i.run.total = i.run.bytes then completeItem s x i.run.status.toNat else s

/-- Items that end with their last write. -/
def endsWithWrite (i : Item) : Bool := [0x01, 0x0B, 0x16, 0x1C, 0x1D, 0x5A, 0x6A, 0x71, 0x72, 0x7D].contains (itemOpc i)

/-- No snoop is outstanding any more: the items that waited go on. -/
def resumeItems (s : State) : State :=
  (s.queues.flatMap fun e => match e.2 with
    | some q => (q.items.filter fun i => i.started && i.run.active && ((xferTotal i).isSome || endsWithWrite i)).map fun i =>
        (⟨q.ctx, q.qid, i.seq⟩ : ItemRef)
    | none => []).foldl requestDone s

/-- The snoops are over: the items that waited go on, and the answers to writes of held lines are sent (R232). -/
def snoopsOver (s : State) : State :=
  resumeItems (s.fab.answers.foldl sendPacket { s with fab := { s.fab with answers := [] } })

/-- The fence value that an item publishes. -/
def fenceValue (i : Item) : Dword := if itemOpc i = 0x6C then iw i 6 else iw i 2

/-- A completion for an outstanding read or AtomicOp. -/
def hostReadDone (s : State) (r : HostRead) (h : HostResult) : State :=
  let s := regDone { s with hostReads := s.hostReads.filter fun q => !(q.tag == r.tag) } r.part.toNat 2 r.lc r.due
  match h with
  | .unsupported | .abort => hostFail s r
  | .data b bad =>
    match r.use with
    | .copy => deliver s r.x b (flagsOf b bad) false
    | .atomic =>
      match getItem s r.x, getCtx s r.x.ctx with
      | some i, some c =>
        let old := BitVec.ofNat 64 (leNat b)
        if bad then faultItem s r.x 5 0x01 r.va 0
        else if s.host.cxl && !r.peer then
          completeItem (if old < fenceValue i then emit s (.hostWrite r.addr (leBytes 8 (fenceValue i).toNat)) else s) r.x 0x00
        else if old = r.dst ∨ fenceValue i ≤ old then completeItem s r.x 0x00
        else issueCas s r.x c r.va r.addr r.peer old (fenceValue i)
      | _, _ => s
    | _ => requestDone s r.x

/-- HOST_READ_COMPLETION. A completion whose length is not what was asked completes nothing; one for no request is dropped by its tag. -/
def execHostReadCompletion (tag : Nat) (h : HostResult) (s : State) : Outcome :=
  .next (settle (match s.hostReads.find? fun r => r.tag == tag && r.sent with
    | none => s
    | some r =>
      let whole : Bool := match h with | .data b _ => b.length == r.bytes | _ => true
      if whole then hostReadDone s r h else s))

end Sys2Proof.Machine
end

