-- ==== Sys2Proof/Machine/Queues.lean ====
section
/-!
DEFINITION. Queues (R189 to R197): doorbells, ring slots, flush; the items of the chapter "Contexts, queues, memory objects and events" that
open nothing: fences, cookies, copies, fills, gather-pool descriptors and the floor-plan record; contexts' resident slots (R187).
-/
namespace Sys2Proof.Machine

/-! ### Stopping items -/

/-- Request the stop of the kernel on a core, its image discarded. A core that has already reached a point for another request stops
at once; one whose image is on its way to another member is left to its move. -/
def stopCore (s : State) (p : Nat) (status : Byte) : State :=
  let c := getCore s p
  match c.run with
  | .atPoint _ => if s.moves.any fun m => m.src == p && m.stage == .copy then s else kernelStop s p status
  | .idle => s
  | _ => setCore s p { c with point := .abort status, forced := true }

def coresOf (s : State) (x : ItemRef) : List Nat :=
  s.cores.filterMap fun e => match e.2.kernel with | some k => if k.x == x then some e.1 else none | none => none

/-- Stop a started item: its kernels at forced points, or at once where it has none; its record waits for its data writes (R233). The moves of a
VCORE_MOVE run on. -/
def stopItem (s : State) (x : ItemRef) (status : Byte) : State :=
  match getItem s x with
  | none => s
  | some _ =>
    let held := (s.sched.waiting.filter fun w => w.x == x).length
    let isX (u : Suspended) : Bool := match u.image.kernel with | some k => k.x == x | none => false
    let sus := (s.sched.suspended.filter isX).length
    let running := coresOf s x
    let s := { s with sched := { s.sched with
      waiting := s.sched.waiting.filter fun w => !(w.x == x)
      suspended := s.sched.suspended.filter fun u => !isX u } }
    if held + sus + running.length = 0 then endItem s x status.toNat
    else
      let s := (List.range (held + sus)).foldl (fun s _ => kernelGone s x 0 status) s
      running.foldl (fun s p => stopCore s p status) s

/-! ### Flush (R197) -/

/-- A flush of a queue into a new epoch. -/
def flushQueue (s : State) (q : Queue) (abort : Bool) : State :=
  let started := q.items.filter (·.started)
  let s := setQueue s { q with epoch := q.epoch + 1, items := started, ridx := q.widx, nextSeq := q.nextSeq + 1, hold := false }
  if abort then started.foldl (fun s i => stopItem s ⟨q.ctx, q.qid, i.seq⟩ 0x11) s else s

/-- The queue of a doorbell page. -/
def queueOfPage (s : State) (page : Nat) : Option Queue :=
  s.queues.findSome? fun e => match e.2 with | some q => if q.page.toNat = page then some q else none | none => none

/-- STALE of a doorbell page counts. -/
def countStale (s : State) (page : Nat) : State :=
  { s with host := { s.host with stale := Tbl.upd 0 s.host.stale page (· + 1) } }

/-- A write that HIU_DB_WRITE of a queue ignores. -/
def staleDoorbell (s : State) (q : Queue) : State := count (countStale s q.page.toNat) 3 (queueKey q.ctx q.qid) 2

/-- HIU_DB_WRITE (R192): a page without a queue has no open queue, and the write is ignored and counted. -/
def dbWrite (s : State) (page : Nat) (v : Word) : State :=
  match queueOfPage s page with
  | none => countStale s page
  | some q =>
    let w := BitVec.ofNat 24 (fld v 23 0)
    if BitVec.ofNat 8 (fld v 31 24) ≠ q.epoch ∨ q.closing ∨ 2 ^ 23 ≤ (w - q.widx).toNat then staleDoorbell s q
    else
      let s := setQueue s { q with widx := w, hold := false }
      if 2 ^ (4 + q.ringLog.toNat) < (w - q.ridx).toNat then
        raise s { ctx := q.ctx, qid := q.qid, cls := 6, cause := 0x03 }
      else s

def execHiuDbWrite (page : Fin 4096) (v : Word) (s : State) : Outcome := .next (settle (dbWrite s page.val v))

/-- HIU_DB_CPL_READ (R193). -/
def dbCplRead (s : State) (page : Nat) (v : Word) : State :=
  match queueOfPage s page with
  | none => s
  | some q => setQueue s { q with cidx := BitVec.ofNat 24 (fld v 23 0) }

def execHiuDbCplRead (page : Fin 4096) (v : Word) (s : State) : Outcome := .next (settle (dbCplRead s page.val v))

/-- HIU_DB_FLUSH (R197). -/
def dbFlush (s : State) (page : Nat) (v : Word) : State :=
  match queueOfPage s page with
  | none => s
  | some q => if BitVec.ofNat 8 (fld v 7 0) = q.epoch then flushQueue s q (bit v 8) else s

def execHiuDbFlush (page : Fin 4096) (v : Word) (s : State) : Outcome := .next (settle (dbFlush s page.val v))

/-! ### Slots (R196) -/

/-- Whether a queue has a slot to fetch and may fetch it. -/
def mayFetch (s : State) (q : Queue) : Bool :=
  match getCtx s q.ctx with
  | none => false
  | some c => c.slot != 0 && !c.faulted && c.state == .running && !q.closing && !q.hold && q.ridx != q.widx && !s.life.preparing && !pairStopped s q.cp.toNat

/-- The fetched slot's header decides. -/
def takeSlot (s : State) (q : Queue) (ws : List Dword) : State :=
  let h := ws.getD 0 0
  let seq : Word := BitVec.ofNat 32 (fld h 63 32)
  let behind := (q.nextSeq - seq).toNat
  if BitVec.ofNat 8 (fld h 23 16) ≠ q.epoch then setQueue s { q with hold := true }
  else if behind = 0 then
    let i : Item := { seq := seq, words := ws.take (fld h 11 8 + 1), accepted := s.refNs, order := s.serial }
    count (setQueue { s with serial := s.serial + 1 } { q with items := q.items ++ [i], nextSeq := q.nextSeq + 1, ridx := q.ridx + 1 })
      3 (queueKey q.ctx q.qid) 0
  else if behind ≤ 2 ^ 31 then countStale (setQueue s { q with hold := true }) q.page.toNat
  else raise s { ctx := q.ctx, qid := q.qid, seq := seq, cls := 6, cause := 0x01 }

/-- The turns of a CP in a class. -/
def turnKey (q : Queue) : Nat := 2 * q.cp.toNat + if q.lc then 1 else 0

/-- Whether it is a queue's turn among the queues of its class at its CP: the next one, by context and queue id, after the one fetched last
(R292). -/
def fetchTurn (s : State) (q : Queue) : Bool :=
  let rank (p : Queue) : Nat := (queueKey p.ctx p.qid + 2 ^ 20 - Tbl.get 0 s.sched.fetched (turnKey q)) % 2 ^ 20
  s.queues.all fun e => match e.2 with
    | some p => !(turnKey p == turnKey q && mayFetch s p) || decide (rank q ≤ rank p)
    | none => true

/-- SLOT_FETCH (R196). A BE queue waits while an LC queue of the same CP has a slot to fetch, and every queue for its turn (R292). -/
def slotFetch (s : State) (ctx : BitVec 16) (qid : BitVec 4) (r : Reply) : State :=
  match getQueue s ctx qid, getCtx s ctx with
  | some q, some c =>
    let lcWaits := !q.lc && s.queues.any fun e => match e.2 with | some p => p.lc && p.cp == q.cp && mayFetch s p | none => false
    if !mayFetch s q || lcWaits || !fetchTurn s q then s
    else
      let s := { s with sched := { s.sched with fetched := Tbl.set 0 s.sched.fetched (turnKey q) (queueKey ctx qid + 1) } }
      let va := q.ringBase + BitVec.ofNat 64 (128 * (q.ridx.toNat % 2 ^ (4 + q.ringLog.toNat)))
      let f (s : State) (cls : BitVec 4) (cause : Byte) (d : Dword) : State :=
        raise s { ctx := ctx, qid := qid, cls := cls, cause := cause, addr := va, detail := d }
      match gotPiece s c none r va 0 128 with
      | .ok s b => takeSlot (irqPrivate s (32 + q.cp.toNat) 5 true) q (leWords 16 b)
      | .wait s => s
      | .lost => parkCtx s c
      | .fault s cls cause _ d => if cls = 4 ∧ (cause = 0x04 ∨ cause = 0x0C) then f s 6 0x02 d else f s cls cause d
  | _, _ => s

def execSlotFetch (ctx : BitVec 16) (qid : BitVec 4) (r : Reply) (s : State) : Outcome := .next (settle (slotFetch s ctx qid r))

/-! ### Items without a list -/

/-- NOP. -/
def execNop (x : ItemRef) (s : State) : Outcome := .next (settle (onItem s x 0x00 fun _ _ => completeItem s x 0x00))

/-- FENCE_SIGNAL (R200). -/
def fenceSignal (s : State) (x : ItemRef) : State :=
  onItem s x 0x01 fun i c =>
    if (iw i 1).toNat % 8 ≠ 0 then completeItem s x 0x20
    else if bit (iw i 3) 0 then writeRecord s x c (iw i 1) (leBytes 8 (iw i 2).toNat) 0
    else fenceMax s x c (iw i 1) (iw i 2)

def execFenceSignal (x : ItemRef) (s : State) : Outcome := .next (settle (fenceSignal s x))

/-- FENCE_WAIT (R200): `r` is the word where it lies outside the package. With 1,024 waits pending the item waits. -/
def fenceWait (s : State) (x : ItemRef) (r : Reply) : State :=
  onItem s x 0x02 fun i c =>
    if (iw i 1).toNat % 8 ≠ 0 then completeItem s x 0x20
    else if 1024 ≤ s.fenceWaits.length then s
    else withList s x c r (iw i 1) 8 fun s ws =>
      if (iw i 2).toNat ≤ (ws.getD 0 0).toNat then completeItem s x 0x00
      else
        let w : FenceWait := { x := x, va := iw i 1, value := iw i 2 }
        updRun { s with fenceWaits := s.fenceWaits ++ [w] } x fun q => { q with active := true }

def execFenceWait (x : ItemRef) (r : Reply) (s : State) : Outcome := .next (settle (fenceWait s x r))

def findWait (s : State) (x : ItemRef) : Option FenceWait := s.fenceWaits.find? fun w => w.x == x

/-- FENCE_WAIT_REREAD (R200): a word outside the package, as it now reads; for a word behind a window `h` is the data of its read. -/
def execFenceWaitReread (x : ItemRef) (h : HostResult) (s : State) : Outcome :=
  .next (settle (match findWait s x, getCtx s x.ctx with
    | some w, some c =>
      let seen (s failed : State) : State := match h with
        | .data b bad =>
          if bad then faultItem s x 5 0x01 w.va 0
          else if w.value.toNat ≤ leNat b then completeItem s x 0x00 else s
        | _ => failed
      let s := touchAtc s c w.va
      match resolve s c w.va .rd 8 with
      | .host a =>
        let t := listRead s c (some x) a 8
        seen t (faultItem t x 4 0x04 w.va a)
      | .peer a =>
        let t := listRead s c (some x) a 8
        seen t (faultItem t x 4 0x0C w.va a)
      | .window node win wgen o legacy =>
        let t := listWindow s c (some x) node win wgen o legacy 8
        seen t t
      | .miss => startXlate s c w.va false (some x)
      | .fault cause d => faultItem s x 4 cause w.va d
      | .lost => parkCtx s c
      | .mem .. => s
    | _, _ => s))

/-- FENCE_WAIT_TIMEOUT (R200). -/
def execFenceWaitTimeout (x : ItemRef) (s : State) : Outcome :=
  .next (settle (match findWait s x, getItem s x with
    | some _, some i => if fld (iw i 3) 31 0 ≠ 0 then completeItem s x 0x02 else s
    | _, _ => s))

/-- COOKIE (R201). -/
def execCookie (x : ItemRef) (s : State) : Outcome :=
  .next (settle (onItem s x 0x03 fun i _ =>
    completeItem (postCookie s x.ctx (BitVec.ofNat 32 (fld (iw i 1) 31 0)) x.qid 1) x 0x00))

/-- COPY (R199): BYTES from 1. -/
def execCopy (x : ItemRef) (s : State) : Outcome :=
  .next (settle (onItem s x 0x08 fun i _ => if fld (iw i 3) 39 0 = 0 then completeItem s x 0x20 else startXfer s x))

/-- FILL (R199): DST 8-byte aligned, BYTES a multiple of 8, 0 included. -/
def execFill (x : ItemRef) (s : State) : Outcome :=
  .next (settle (onItem s x 0x09 fun i _ =>
    if (iw i 1).toNat % 8 ≠ 0 ∨ fld (iw i 2) 39 0 % 8 ≠ 0 then completeItem s x 0x20 else startXfer s x))

/-- FLOORPLAN_READ (R26, R27): the 576-byte record of one generation. -/
def execFloorplanRead (x : ItemRef) (s : State) : Outcome :=
  .next (settle (onItem s x 0x0B fun i c =>
    if (iw i 1).toNat % 8 ≠ 0 then completeItem s x 0x20
    else writeRecord s x c (iw i 1) (dwordBytes ((List.range 72).map (fpWord s))) 0))

/-! ### GATHER_POOL (R153, R154) -/

/-- Field values of a descriptor that Table 6.11 does not allow. -/
def gpMalformed (i : Item) : Bool :=
  let w := gpDesc i 0
  let pool := fld w 49 48
  !([0, 2, 3, 7, 8].contains (gpFmt i)) || decide (5 < fld w 42 40) || pool == 0 || fld w 51 50 == 3 ||
  (fld w 51 50 == 2 && pool != 1) || (bit w 52 && pool == 3) || gpBags i == 0 || fld w 38 0 % gpRowBytes i != 0

/-- The region that holds the table: its number, if the whole table lies in it. -/
def gpRegion (sl : Slice) (i : Item) : Option Nat :=
  let a := fld (gpDesc i 0) 38 0
  let n := fld (gpDesc i 1) 31 0 * gpRowBytes i
  match hbmRegion sl a with
  | some r => if a + n ≤ regionBase sl r + regionSize sl r then some r else none
  | none => none

/-- Whether a region's channels all lie in stack `h`. -/
def stackLocal (sl : Slice) (r h : Nat) : Bool := regionMask sl r &&& ~~~(BitVec.ofNat 128 (0xFFFF * 2 ^ (16 * h))) == 0

/-- The index and weight lists that a GATHER_POOL item reads: address and length. -/
def gpLists (s : State) (sl : Slice) (i : Item) (total : Nat) : List (Nat × Nat) :=
  let lo := gpOffset s sl i 0
  let at_ (a : Nat) : Nat × Nat := (a + 4 * lo, 4 * (total - lo))
  at_ (fld (gpDesc i 2) 30 0) :: if bit (gpDesc i 0) 52 then [at_ (fld (gpDesc i 4) 30 0)] else []

/-- GATHER_POOL: the checks, then the lookups, whose ends are GP_LOOKUP_RETURN. The engine acts on its lists: poison or a protected line there
faults the context (R132, R156). -/
def gatherPool (s : State) (x : ItemRef) : State :=
  onItem s x 0x0A fun i c =>
    let sl := getSlice s c.part
    if gpMalformed i then completeItem s x 0x20
    else match gpRegion sl i with
      | none => completeItem s x 0x26
      | some r =>
        if !stackLocal sl r (fld (iw i 1) 2 0) then completeItem s x 0x26
        else if bit (regionWord sl r 0) 62 then completeItem s x 0x27
        else
          let n := gpBags i
          let off := fld (gpDesc i 3) 30 0
          let bad := !sliceRange sl.regions off (4 * (n + 1))
          if bad then faultItem s x 4 0x02 (BitVec.ofNat 64 off) 0
          else match consumeCause s c.part false off (4 * (n + 1)) with
          | some k => faultItem (devReadLog s c.part false off (4 * (n + 1)) x.ctx.toNat) x 5 k (BitVec.ofNat 64 off) 0
          | none =>
          if (List.range n).any fun k => decide (gpOffset s sl i (k + 1) < gpOffset s sl i k) then completeItem s x 0x20
          else
            let total := gpOffset s sl i n
            let idx := fld (gpDesc i 2) 30 0
            let wts := fld (gpDesc i 4) 30 0
            let out := fld (gpDesc i 5) 30 0
            let rowOut := gpElems i * (match fld (gpDesc i 0) 51 50 with | 0 => 4 | 1 => 2 | _ => 12)
            let outEnd := (n - 1) * fld (gpDesc i 1) 63 48 * 32 + rowOut
            let f (a : Nat) : State := faultItem s x 4 0x02 (BitVec.ofNat 64 a) 0
            if !sliceRange sl.regions (idx + 4 * gpOffset s sl i 0) (4 * (total - gpOffset s sl i 0)) then f idx
            else if bit (gpDesc i 0) 52 && !sliceRange sl.regions (wts + 4 * gpOffset s sl i 0) (4 * (total - gpOffset s sl i 0)) then f wts
            else if !sliceRange sl.regions out outEnd then f out
            else
              let lists := gpLists s sl i total
              let t := ((off, 4 * (n + 1)) :: lists).foldl (fun t l => devReadLog t c.part false l.1 l.2 x.ctx.toNat) s
              match lists.findSome? fun l => (consumeCause s c.part false l.1 l.2).map fun k => (l.1, k) with
              | some (a, k) => faultItem t x 5 k (BitVec.ofNat 64 a) 0
              | none =>
                hbmIssue (updRun t x fun q => { q with active := true }) x c ((List.range n).map (gpLookups s sl i)).sum

def execGatherPool (x : ItemRef) (s : State) : Outcome := .next (settle (gatherPool s x))

/-! ### Resident slots (R187, R303) -/


def residents (s : State) : List Context := s.ctxs.filterMap fun e => match e.2 with | some c => if c.slot ≠ 0 then some c else none | none => none

/-- The lowest free slot of 48; slot 0 is context 0's (R372). -/
def freeSlot (s : State) : Option Nat := (List.range 48).find? fun n => n != 0 && !((residents s).any fun c => c.slot == n + 1)

/-- An item that is not suspended: a kernel of it runs or waits, or it has none; where its context is held back, only kernels on cores and
requests outstanding move. -/
def itemMoving (s : State) (c : Context) (x : ItemRef) : Bool :=
  coresOf s x != [] ||
  if heldBack s c then waiting s x
  else (s.sched.waiting.any fun w => w.x == x) || !(s.sched.suspended.any fun u => match u.image.kernel with | some k => k.x == x | none => false)

/-- A context that may be evicted: not pinned, no item started that is not suspended, and no item fetched (R187, R295). -/
def evictable (s : State) (c : Context) : Bool :=
  !c.pin && s.queues.all fun e => match e.2 with
    | some q => q.ctx != c.id || q.items.all fun i => i.started && !itemMoving s c ⟨q.ctx, q.qid, i.seq⟩
    | none => true

/-- The victim: the one whose last item started longest ago. -/
def victimOf (l : List Context) : Option Context :=
  l.foldl (fun v c => match v with
    | none => some c
    | some b => if c.lastStart < b.lastStart then some c else v) none

/-- The segment descriptors at SEG_ADDR (R210). -/
def loadSegs (s : State) (c : Context) : List Segment :=
  let ws := leWords 32 (hbmRead s (getSlice s c.part) c.segAddr.toNat 256).1
  (List.range 8).map fun i => ⟨ws.getD (4 * i) 0, ws.getD (4 * i + 1) 0, ws.getD (4 * i + 2) 0, ws.getD (4 * i + 3) 0⟩

/-- The suspended items of contexts that have kept their slots go on, once no load waits for one (R295). -/
def endYield (s : State) : State :=
  (s.ctxs.filterMap (·.2)).foldl (fun s c =>
    if !c.yielding || heldBack s c then s else pumpItems (setCtx s { c with yielding := false }) c.id) s

/-- Load a context into a slot: its segment descriptors are read, and its states where an eviction has written them. A save area that its slice
cannot reach faults it (Table 8.3), and so do poisoned descriptors (R132). Its suspended items go on (R295). -/
def loadInto (s : State) (c : Context) (slot : Nat) : State :=
  let sl := getSlice s c.part
  if !hbmRange sl c.saveAddr.toNat 16384 || !hbmRange sl c.segAddr.toNat 256 then
    raise s { ctx := c.id, cls := 6, cause := 0x06, addr := c.saveAddr.setWidth 64 }
  else
    let s := hbmLost s sl c.part c.segAddr.toNat 256 false c.id.toNat
    let s := if c.saved then hbmLost s sl c.part c.saveAddr.toNat 16384 false c.id.toNat else s
    match consumeCause s c.part true c.segAddr.toNat 256 with
    | some k => raise s { ctx := c.id, cls := 5, cause := k, addr := c.segAddr.setWidth 64 }
    | none => endYield (pumpItems (setCtx s { c with slot := slot + 1, segs := loadSegs s c, yielding := false }) c.id)

/-- Suspend a best-effort context's started items so that it can be evicted (R295): its kernels are asked for points, and its other items begin
nothing more. -/
def suspendBe (s : State) (l : List Context) : State :=
  let be := l.filter fun c => !c.pin && s.queues.all fun e => match e.2 with | some q => q.ctx != c.id || !q.lc | none => true
  match victimOf be with
  | none => s
  | some v => { setCtx s { v with yielding := true } with cores := s.cores.map fun e => match e.2.kernel with
      | some k => if k.x.ctx == v.id && e.2.point == .none then (e.1, { e.2 with point := .preempt, forced := true }) else e
      | none => e }

/-- A slot for a context (R187): the lowest free one, else a victim's; a partition at its SLOTS evicts only its own contexts. Without a victim
the load waits, and an LC context has a best-effort one suspended (R295). -/
def slotFor (s : State) (c : Context) : State × Option Nat :=
  let own := (residents s).filter fun r => inPart r c.part.toNat
  let full := c.id != 0 && decide ((getPart s c.part.toNat).slots ≤ own.length)
  let pool := if full then own else residents s
  let freed : State × Option Nat := match victimOf (pool.filter (evictable s)) with
    | some v => (evict s v, some (v.slot - 1))
    | none => (if lcWork s c.id then suspendBe s pool else s, none)
  if full then freed
  else match freeSlot s with
    | some n => (s, some n)
    | none => freed

/-- CONTEXT_LOAD. -/
def contextLoad (s : State) (ctx : BitVec 16) : State :=
  match getCtx s ctx with
  | none => s
  | some c =>
    if !wantsSlot s c then s
    else match slotFor s c with
      | (s, some n) => loadInto s c n
      | (s, none) => s

def execContextLoad (ctx : BitVec 16) (s : State) : Outcome := .next (settle (contextLoad s ctx))

end Sys2Proof.Machine
end

