-- ==== Sys2Proof/Machine/Teardown.lean ====
section
/-!
DEFINITION. Opening and closing contexts, queues and memory objects (R186 to R189, R203, R204), host loss, parking and reattach
(R205 to R208).
-/
namespace Sys2Proof.Machine

/-! ### Contexts (R185, R186) -/

/-- Assigned bits of a context descriptor (Table 8.1). -/
def ctxMasks : List Dword :=
  [0x00FFFFFFFF7FFFFF, 0x000FFFFF7FFFFFFF, 0x7FFFFFFFFF, 0x7FFFFFFFFF, 0xFFFFFFFFFFFFFFFF, 0xFF, 0xFFFFFFFFFFFFFFFF, 0]

def ctxOf (ws : List Dword) : Context :=
  let w (i : Nat) : Dword := ws.getD i 0
  { id := BitVec.ofNat 16 (fld (w 0) 15 0), part := BitVec.ofNat 4 (fld (w 0) 19 16), manager := bit (w 0) 20, preserve := bit (w 0) 21,
    pin := bit (w 0) 22, inst := BitVec.ofNat 8 (fld (w 0) 31 24), gid := BitVec.ofNat 24 (fld (w 0) 55 32),
    pasid := BitVec.ofNat 20 (fld (w 1) 19 0), msix := BitVec.ofNat 11 (fld (w 1) 30 20), grace := BitVec.ofNat 20 (fld (w 1) 51 32),
    segAddr := BitVec.ofNat 39 (fld (w 2) 38 0), saveAddr := BitVec.ofNat 39 (fld (w 3) 38 0), cookieBase := w 4,
    cookieLog := BitVec.ofNat 4 (fld (w 5) 3 0), faultLog := BitVec.ofNat 4 (fld (w 5) 7 4), faultBase := w 6 }

/-- A descriptor image that breaks Table 8.1 or R224: OBJ_INVALID. -/
def ctxBroken (s : State) (ws : List Dword) : Bool :=
  let c := ctxOf ws
  (List.zipWith onlyBits ws ctxMasks).any (!·) || decide (10 < c.cookieLog.toNat) || decide (8 < c.faultLog.toNat) ||
  c.saveAddr.toNat % 16384 != 0 || c.cookieBase.toNat % 4096 != 0 || c.faultBase.toNat % 4096 != 0 ||
  (s.ctxs.any fun e => match e.2 with | some d => d.pasid == c.pasid && d.inst != c.inst && d.id != c.id | none => false)

def pinnedCount (s : State) : Nat := (s.ctxs.filter fun e => match e.2 with | some c => c.pin | none => false).length

/-- The first rejection of Table R186 that holds. -/
def ctxReject (s : State) (by_ c : Context) : Option Nat :=
  let served : Bool := match getGlove s c.gid with | some g => g.part == c.part | none => false
  if c.manager && !by_.manager then some 0x40
  else if !served then some 0x46
  else if (getCtx s c.id).isSome || closedRecently s 0 c.id.toNat then some 0x28
  else if c.pin && decide (32 ≤ pinnedCount s) then some 0x4A
  else if c.preserve && decide (248 ≤ preserved s) then some 0x4A
  else none

/-- The rejections of R303. -/
def ctxQuota (s : State) (c : Context) : Option Nat :=
  let p := getPart s c.part.toNat
  if !bit p.insts c.inst.toNat then some 0xA1
  else if p.ctxMax ≤ (partCtxs s c.part.toNat).length then some 0xA2
  else none

/-- The lowest status among the groups of rules that the specification gives no order (log entry on CTX_OPEN). -/
def leastStatus (l : List (Option Nat)) : Option Nat :=
  l.foldl (fun m e => match m, e with
    | none, e => e
    | m, none => m
    | some a, some b => some (min a b)) none

def ctxOpenStatus (s : State) (by_ : Context) (ws : List Dword) : Option Nat :=
  leastStatus [ctxReject s by_ (ctxOf ws), if ctxBroken s ws then some 0x29 else none, ctxQuota s (ctxOf ws)]

/-- CTX_OPEN (R186, R303). -/
def ctxOpen (s : State) (x : ItemRef) (r : Reply) : State :=
  onItem s x 0x20 fun i c => withList s x c r (iw i 1) 64 fun s ws =>
    match ctxOpenStatus s c ws with
    | some st => completeItem s x st
    | none => completeItem (setCtx s (ctxOf ws)) x 0x00

def execCtxOpen (x : ItemRef) (r : Reply) (s : State) : Outcome := .next (settle (ctxOpen s x r))

/-! ### Teardown (R204, Table 8.14) -/

/-- Step 1 begins; the item waits for step 6. -/
def beginTeardown (s : State) (t : Teardown) : State :=
  let s := match t.item with
    | some x => updRun s x fun q => { q with active := true, total := 1 }
    | none => s
  { s with teardowns := s.teardowns ++ [t] }

/-- STATE closing for a context and its queues and objects. -/
def closeCtx (s : State) (c : Context) : State :=
  let s := setCtx s { c with state := .closing }
  { s with
    objs := mapOpt (fun o => if o.owner = c.id then { o with closing := true } else o) s.objs
    queues := mapOpt (fun q => if q.ctx = c.id then { q with closing := true } else q) s.queues }

/-- CTX_CLOSE: an unknown context, context 0 or the issuing context is no value allowed. -/
def ctxClose (s : State) (x : ItemRef) : State :=
  onItem s x 0x21 fun i _ =>
    let id := BitVec.ofNat 16 (fld (iw i 1) 15 0)
    match getCtx s id with
    | none => completeItem s x 0x20
    | some c =>
      if id = 0 ∨ id = x.ctx then completeItem s x 0x20
      else if c.state = .closing then completeItem s x 0x28
      else beginTeardown (closeCtx s c) { kind := 0, id := id.toNat, item := some x }

def execCtxClose (x : ItemRef) (s : State) : Outcome := .next (settle (ctxClose s x))

/-- The kernels of what is torn down that hold no core are dropped; the others are asked for points, their images discarded. -/
def stopOwned (s : State) (t : Teardown) : State :=
  let own (x : ItemRef) : Bool := t.owns x.ctx x.qid
  let ownImg (u : Image) : Bool := match u.kernel with | some k => own k.x | none => false
  let s := { s with sched := { s.sched with
    waiting := s.sched.waiting.filter fun w => !own w.x
    suspended := s.sched.suspended.filter fun u => !ownImg u.image } }
  (s.cores.filterMap fun e => match e.2.kernel with | some k => if own k.x then some e.1 else none | none => none).foldl
    (fun s p => stopCore s p 0x12) s

/-- A window is closing: it names an object that is torn down (R225). -/
def closeWindowsOf (s : State) (obj : BitVec 16 → Bool) : State :=
  { s with windows := s.windows.map fun e => (e.1, if e.2.valid && obj e.2.obj then { e.2 with closing := true } else e.2) }

/-- Step 3: forced points and the cuff. -/
def cuffTeardown (s : State) (t : Teardown) : State :=
  let s := stopOwned s t
  let s := if t.kind = 0 then closeWindowsOf s fun o => (ownedObjs s t.id).any fun m => m.obj == o
    else if t.kind = 2 then closeWindowsOf s fun o => o.toNat == t.id
    else s
  let s := if t.kind = 0 then
      { s with
        objs := mapOpt (fun o => if o.owner.toNat = t.id then { o with cuffed := true } else o) s.objs
        pageReqs := s.pageReqs.map fun r => if r.ctx.toNat = t.id then { r with withdrawn := true } else r }
    else if t.kind = 2 then
      { s with objs := mapOpt (fun o => if o.obj.toNat = t.id then { o with cuffed := true } else o) s.objs }
    else if t.kind = 3 then { s with windows := Tbl.upd {} s.windows t.id fun w => { w with closing := true } }
    else s
  { s with teardowns := s.teardowns.map fun v => if v == t then { t with step := 4 } else v }

/-- A transfer in progress names an object through a segment of its context. -/
def objBusy (s : State) (obj : Nat) : Bool :=
  s.queues.any fun e => match e.2 with
    | none => false
    | some q => match getCtx s q.ctx with
      | none => false
      | some c => q.items.any fun i =>
          let names (a : Dword) : Bool := match segHit c a with
            | some g => fld g.w0 2 0 == 0 && fld g.w2 15 0 == obj
            | none => false
          i.started && i.run.active && (xferTotal i).isSome && itemOpc i != 0x44 &&
            (names (xferDst i i.run.bytes) || (match xferSrc i i.run.bytes with | some a => names a | none => false))

/-- Whether what is being closed is idle. -/
def tdIdle (s : State) (t : Teardown) : Bool :=
  (tdItems s t).isEmpty && !tdKernels s t && !tdRequests s t &&
  match t.kind.toNat with
  | 0 => !(s.posts.any fun p => p.1.toNat == t.id) && (ownedObjs s t.id).all fun o => !objBusy s o.obj.toNat
  | 2 => !objBusy s t.id
  | _ => true

/-- TEARDOWN_GRACE_EXPIRE: the object of teardown `i` did not go idle within its grace. -/
def execTeardownGraceExpire (i : Nat) (s : State) : Outcome :=
  .next (settle (match s.teardowns[i]? with
    | none => s
    | some t =>
      if t.step ≠ 2 then s
      else
        let u := { t with forced := true }
        cuffTeardown { s with teardowns := s.teardowns.map fun v => if v == t then u else v } u))

/-- TEARDOWN_IDLE. -/
def execTeardownIdle (i : Nat) (s : State) : Outcome :=
  .next (settle (match s.teardowns[i]? with
    | none => s
    | some t => if t.step = 2 ∧ tdIdle s t then cuffTeardown s t else s))

/-- TEARDOWN_REQUEST_TIMEOUT: what is outstanding after 1,000 µs is given up; later replies find no request. -/
def execTeardownRequestTimeout (i : Nat) (s : State) : Outcome :=
  .next (settle (match s.teardowns[i]? with
    | none => s
    | some t =>
      if t.step ≠ 4 then s
      else
        let hs := s.hostReads.filter fun r => t.owns r.x.ctx r.x.qid
        let ws := s.winReqs.filter fun r => t.owns r.ctx r.x.qid && !(t.kind == 1 && r.use == .ring)
        let s := hs.foldl (fun s r => regDone s r.part.toNat 2 r.lc r.due) s
        let s := ws.foldl (fun s r => regDone s r.part.toNat 1 r.lc r.due) s
        dropXlates { s with
          hostReads := s.hostReads.filter fun r => !t.owns r.x.ctx r.x.qid
          winReqs := s.winReqs.filter fun r => !ws.contains r } fun v => t.kind == 0 && v.ctx.toNat == t.id))

/-- Zero an object's range. -/
def zeroObj (s : State) (part : BitVec 4) (o : MemObj) : State :=
  let z := List.replicate o.size.toNat (0 : Byte)
  if o.hbm then hbmWrite s (getSlice s part) o.base.toNat z false
  else sliceWrite s (getSlice s part).regions o.base.toNat z false

/-- MEM_ZERO_DONE: step 7, after which the item completes. -/
def execMemZeroDone (obj : BitVec 16) (s : State) : Outcome :=
  .next (settle (match s.teardowns.find? fun t => t.kind == 2 && t.id == obj.toNat && t.step == 7 with
    | none => s
    | some t => match t.obj with
      | none => s
      | some o => tdComplete (dropTeardown (zeroObj s t.part o) t) t))

/-! ### CTX_RESUME, CTX_UNPARK -/

/-- CTX_RESUME (R188): flush every queue with abort, discard the saved images. A context that is not faulted stays as it is. -/
def ctxResume (s : State) (x : ItemRef) : State :=
  onItem s x 0x22 fun i _ =>
    let id := BitVec.ofNat 16 (fld (iw i 1) 15 0)
    match getCtx s id with
    | none => completeItem s x 0x20
    | some c =>
      if c.state = .closing then completeItem s x 0x28
      else if recordStuck s 0x02 0 (BitVec.ofNat 32 id.toNat) 2 then s
      else if !c.faulted then completeItem s x 0x00
      else
        let s := setCtx s { c with faulted := false, victim := false, images := [] }
        let s := (s.cores.filterMap fun e => match e.2.kernel with | some k => if k.x.ctx = id then some e.1 else none | none => none).foldl
          (fun s p => stopCore s p 0x10) s
        let s := (listOpt (fun q => q.ctx == id) s.queues).foldl
          (fun s q => flushQueue s q true) s
        completeItem s x 0x00

def execCtxResume (x : ItemRef) (s : State) : Outcome := .next (settle (ctxResume s x))

/-- Write a queue's last completion records again, oldest first (R205, R207). -/
def rewriteRecords (s : State) (q : Queue) : State :=
  q.records.reverse.foldl (fun s r =>
    ringWrite s q.ctx (q.cplBase + BitVec.ofNat 64 (32 * (r.1 % 2 ^ (4 + q.cplLog.toNat)))) (dwordBytes r.2) false) s

/-- Resume a saved image where its vcore now is, or keep it until the core is free. -/
def unparkImage (s : State) (c : Context) (i : Image) : State :=
  match findBinding s i.gid i.vcore with
  | none => match i.kernel with
    | some k => kernelGone s k.x 0 0x12
    | none => s
  | some p =>
    if (getCore s p).run = .idle ∧ (getCore s p).kernel = none then resumeImage s p i
    else { s with sched := { s.sched with
      suspended := s.sched.suspended ++ [{ image := i, part := c.part, slot := c.saveAddr.toNat, pre := false, written := true }] } }

/-- The new descriptor of an unparked context: rings, save area and identity in the host may move, the slice may not. -/
def unparkDescr (old new : Context) : Option Context :=
  if new.id ≠ old.id ∨ new.part ≠ old.part ∨ new.gid ≠ old.gid ∨ new.inst ≠ old.inst ∨ new.manager ≠ old.manager then none
  else some { old with
    preserve := new.preserve, pin := new.pin, pasid := new.pasid, msix := new.msix, grace := new.grace, segAddr := new.segAddr,
    saveAddr := new.saveAddr, cookieBase := new.cookieBase, cookieLog := new.cookieLog, faultLog := new.faultLog, faultBase := new.faultBase }

/-- A kernel of the context that has not reached its park point yet goes on: a preemption under way still takes its image. -/
def keepRunning (s : State) (p : Nat) : State :=
  let c := getCore s p
  let next := if c.held.isSome then PointReq.preempt else nextPoint s p
  kickCore (setCore s p { c with point := next, forced := next != .none }) p

/-- Load a parked context into a slot and set it going again (R207). -/
def unpark (s : State) (c : Context) (slot : Nat) : State :=
  let d := { c with state := .running, images := [] }
  let s := loadInto (setCtx s d) d slot
  let s := (s.cores.filterMap fun e => match e.2.kernel with
    | some k => if k.x.ctx = c.id ∧ e.2.point = .park then some e.1 else none
    | none => none).foldl keepRunning s
  let s := (listOpt (fun q => q.ctx == c.id) s.queues).foldl rewriteRecords s
  pumpItems (c.images.foldl (fun s i => unparkImage s c i) s) c.id

/-- Unpark once the context has a slot (R187); the item waits for one. -/
def unparkItem (s : State) (x : ItemRef) (c : Context) : State :=
  match slotFor s c with
  | (s, some n) => completeItem (unpark s c n) x 0x00
  | (s, none) => s

/-- CTX_UNPARK. -/
def ctxUnpark (s : State) (x : ItemRef) (r : Reply) : State :=
  onItem s x 0x23 fun i by_ =>
    match getCtx s (BitVec.ofNat 16 (fld (iw i 1) 15 0)) with
    | none => completeItem s x 0x28
    | some c =>
      if c.state ≠ .parked then completeItem s x 0x28
      else if iw i 2 = 0 then unparkItem s x c
      else withList s x by_ r (iw i 2) 64 fun s ws =>
        if ctxBroken s ws then completeItem s x 0x29
        else match unparkDescr c (ctxOf ws) with
          | none => completeItem s x 0x29
          | some d => unparkItem s x d

def execCtxUnpark (x : ItemRef) (r : Reply) (s : State) : Outcome := .next (settle (ctxUnpark s x r))

/-! ### Queues (R189, R190) -/

def queueOf (ws : List Dword) : Queue :=
  let w (i : Nat) : Dword := ws.getD i 0
  { ctx := BitVec.ofNat 16 (fld (w 0) 19 4), qid := BitVec.ofNat 4 (fld (w 0) 3 0), page := BitVec.ofNat 12 (fld (w 0) 31 20),
    lc := decide (fld (w 0) 33 32 = 1), ringLog := BitVec.ofNat 4 (fld (w 0) 37 34), cplLog := BitVec.ofNat 4 (fld (w 0) 41 38),
    grace := BitVec.ofNat 20 (fld (w 0) 61 42), ringBase := w 1, cplBase := w 2, sched := w 3 }

/-- The CP that serves a new queue: the healthy one with the fewest queues, the lowest number on ties (the model's choice). -/
def assignCp (s : State) : BitVec 4 :=
  let load (n : Nat) : Nat := (s.queues.filter fun e => match e.2 with | some q => q.cp.toNat == n | none => false).length
  let best := ((List.range 16).filter fun n => bit s.fp.cpOk n).foldl (fun m n => match m with
    | none => some n
    | some b => if load n < load b then some n else some b) none
  BitVec.ofNat 4 (best.getD 0)

def queueBroken (s : State) (ws : List Dword) : Bool :=
  let q := queueOf ws
  (List.zipWith onlyBits ws [0x3FFFFFFFFFFFFFFF, 0xFFFFFFFFFFFFFFFF, 0xFFFFFFFFFFFFFFFF, 0x00FFFFFF7FFFFFFF]).any (!·) ||
  (getCtx s q.ctx).isNone || (getQueue s q.ctx q.qid).isSome || (queueOfPage s q.page.toNat).isSome ||
  !([1, 2].contains (fld (ws.getD 0 0) 33 32)) || decide (12 < q.ringLog.toNat) || decide (12 < q.cplLog.toNat) || decide (100 < fld q.sched 30 24) ||
  q.ringBase.toNat % 4096 != 0 || q.cplBase.toNat % 4096 != 0

def queueOpenStatus (s : State) (ws : List Dword) : Option Nat :=
  let q := queueOf ws
  let closing : Bool := (match getCtx s q.ctx with | some c => c.state == .closing | none => false) ||
    (match getQueue s q.ctx q.qid with | some k => k.closing | none => false)
  if closing then some 0x28 else if queueBroken s ws then some 0x29 else none

/-- QUEUE_OPEN. -/
def queueOpen (s : State) (x : ItemRef) (r : Reply) : State :=
  onItem s x 0x24 fun i c => withList s x c r (iw i 1) 32 fun s ws =>
    match queueOpenStatus s ws with
    | some st => completeItem s x st
    | none => completeItem (setQueue s { queueOf ws with cp := assignCp s }) x 0x00

def execQueueOpen (x : ItemRef) (r : Reply) (s : State) : Outcome := .next (settle (queueOpen s x r))

/-- QUEUE_CLOSE: an unknown queue or the issuing queue is no value allowed. -/
def queueClose (s : State) (x : ItemRef) : State :=
  onItem s x 0x25 fun i _ =>
    let id := BitVec.ofNat 16 (fld (iw i 1) 15 0)
    let qid := BitVec.ofNat 4 (fld (iw i 1) 19 16)
    match getQueue s id qid with
    | none => completeItem s x 0x20
    | some q =>
      if id = x.ctx ∧ qid = x.qid then completeItem s x 0x20
      else if q.closing then completeItem s x 0x28
      else beginTeardown (setQueue s { q with closing := true }) { kind := 1, id := queueKey id qid, item := some x }

def execQueueClose (x : ItemRef) (s : State) : Outcome := .next (settle (queueClose s x))

/-! ### Memory objects (R203) -/

def objOf (ws : List Dword) : MemObj :=
  let w (i : Nat) : Dword := ws.getD i 0
  { obj := BitVec.ofNat 16 (fld (w 0) 15 0), owner := BitVec.ofNat 16 (fld (w 0) 31 16), hbm := bit (w 0) 32, preserve := bit (w 0) 34,
    grace := BitVec.ofNat 20 (fld (w 0) 55 36), base := BitVec.ofNat 39 (fld (w 1) 38 0), size := BitVec.ofNat 39 (fld (w 2) 38 0) }

/-- OBJ_INVALID. Context 0 has no slice in which an object could lie (R372). -/
def objBroken (s : State) (ws : List Dword) : Bool :=
  let o := objOf ws
  (List.zipWith onlyBits ws [0x00FFFFF5FFFFFFFF, 0x7FFFFFFFFF, 0x7FFFFFFFFF, 0]).any (!·) ||
  o.base.toNat % 4096 != 0 || o.size.toNat % 4096 != 0 ||
  match getCtx s o.owner with
  | none => true
  | some c => c.state == .closing || c.id == 0 || !memRange s c.part o.hbm o.base.toNat o.size.toNat

def memOpenStatus (s : State) (ws : List Dword) : Option Nat :=
  let o := objOf ws
  if (getObj s o.obj).isSome || closedRecently s 2 o.obj.toNat then some 0x28
  else if objBroken s ws then some 0x29
  else if o.preserve && decide (248 ≤ preserved s) then some 0x4A
  else none

/-- MEM_OPEN. -/
def memOpen (s : State) (x : ItemRef) (r : Reply) : State :=
  onItem s x 0x26 fun i c => withList s x c r (iw i 1) 32 fun s ws =>
    match memOpenStatus s ws with
    | some st => completeItem s x st
    | none => completeItem (setObj s (objOf ws)) x 0x00

def execMemOpen (x : ItemRef) (r : Reply) (s : State) : Outcome := .next (settle (memOpen s x r))

/-- MEM_CLOSE. -/
def memClose (s : State) (x : ItemRef) : State :=
  onItem s x 0x27 fun i _ =>
    match getObj s (BitVec.ofNat 16 (fld (iw i 1) 15 0)) with
    | none => completeItem s x 0x20
    | some o =>
      if o.closing then completeItem s x 0x28
      else beginTeardown (setObj s { o with closing := true })
        { kind := 2, id := o.obj.toNat, item := some x, zero := bit (iw i 1) 16, obj := some o, part := objPart s o }

def execMemClose (x : ItemRef) (s : State) : Outcome := .next (settle (memClose s x))

/-! ### Host loss (R205) -/

/-- HOST_ATTACH (R206). HOLD above 3,600 is no value allowed. -/
def hostAttach (s : State) (x : ItemRef) : State :=
  onItem s x 0x28 fun i _ =>
    if 3600 < fld (iw i 2) 43 32 then completeItem s x 0x20
    else completeItem { s with host := { s.host with
      nonce := iw i 1, attachId := BitVec.ofNat 32 (fld (iw i 2) 31 0), hold := BitVec.ofNat 12 (fld (iw i 2) 43 32) } } x 0x00

def execHostAttach (x : ItemRef) (s : State) : Outcome := .next (settle (hostAttach s x))

def distinct (l : List (BitVec 16)) : List (BitVec 16) := l.foldl (fun m c => if m.contains c then m else m ++ [c]) []

/-- SB_ALERT# is low while an unmasked alert bit is set (R422). -/
def alertLow (s : State) : Bool := s.regs.trayAlert &&& ~~~s.regs.trayMask != 0

/-- Write the alert bits or the mask, and drive SB_ALERT# (pin 4) where its level changes. -/
def setAlerts (s : State) (alert mask : BitVec 6) : State :=
  let t := { s with regs := { s.regs with trayAlert := alert, trayMask := mask } }
  if alertLow t = alertLow s then t else emit t (.pin 4 (!alertLow t))

def setAlert (s : State) (b : Nat) : State := setAlerts s (setBit s.regs.trayAlert b true) s.regs.trayMask

/-- A host loss: the first trigger counts it, faults the contexts with a host read outstanding, withdraws translations, and reports
it (R205). -/
def hostLoss (s : State) (cause : BitVec 4) : State :=
  if s.host.lost then s
  else
    let hit := (distinct (s.hostReads.map (·.ctx))).filter fun c => match getCtx s c with
      | some d => !d.faulted && d.state != .closing
      | none => false
    let xl := (distinct (s.xlates.map (·.ctx) ++ (s.pageReqs.filter fun r => !r.withdrawn).map (·.ctx))).filter fun c => !hit.contains c
    let s := { s with
      host := { s.host with lost := true, epoch := s.host.epoch + 1, cause := cause, lossTime := s.time, raClosed := [],
                            faultedAtLoss := BitVec.ofNat 16 hit.length }
      regs := { s.regs with mgrOpen := false } }
    let reads := s.hostReads
    let s := reads.foldl (fun s r => regDone s r.part.toNat 2 r.lc r.due) s
    let s := reads.foldl (fun s r => raise s { ctx := r.ctx, qid := r.x.qid, seq := r.x.seq, cls := 8, cause := 1 }) s
    let s := dropXlates s fun _ => true
    let s := { s with
      hostReads := []
      pageReqs := s.pageReqs.map fun r => { r with withdrawn := true }
      atc := []
      walks := []
      invals := []
      cohHeld := []
      snoops := [] }
    let s := snoopsOver (takeFaults s)
    let s := xl.foldl (fun s c => match getCtx s c with | some d => parkCtx s d | none => s) s
    setAlert (logEvent (irqLevel s 281 true) srcHiu 0x0F true (leBytes 2 s.host.epoch.toNat ++ leBytes 1 cause.toNat)) 0

/-- HOST_LINK_STATE_CHANGE: leaving L0 arms the 1 ms of R205, returning cancels it. The link trains as CXL where the host offers it and it is
enabled (R232). -/
def execHostLinkStateChange (k : HostLinkState) (s : State) : Outcome :=
  .next (settle (match k with
    | .l0 offer =>
      if s.host.perst || !s.life.hostEn then s
      else { s with host := { s.host with l0 := true, down := false, cxl := if s.host.l0 then s.host.cxl else offer && s.regs.cxlEn } }
    | .left => if s.host.l0 then { s with host := { s.host with l0 := false, down := true } } else s))

/-- HOST_LINK_DOWN_TIMEOUT. -/
def execHostLinkDownTimeout (s : State) : Outcome :=
  .next (settle (if s.host.down && !s.host.l0 then hostLoss { s with host := { s.host with down := false } } 1 else s))

/-- A reset of the host interface: its configuration and indirect pairs, never the always-on registers (R208). -/
def hostIfReset (s : State) : State :=
  { s with
    cfg := {}
    apertures := if s.cfg.bar4Log = 39 then s.apertures else []
    host := { s.host with l0 := false, down := false, cxl := false }
    regs := { s.regs with mgrPair := {}, hostPair := {} } }

/-- HOT_RESET_RECEIVED: over a link in L0. -/
def execHotResetReceived (s : State) : Outcome :=
  .next (settle (if s.host.l0 then hostIfReset (hostLoss s 2) else s))

/-- PERST_ASSERT. -/
def execPerstAssert (s : State) : Outcome :=
  .next (settle (if s.host.perst then s
    else
      let t := hostIfReset (hostLoss s 3)
      { t with host := { t.host with perst := true } }))

/-- PERST_RELEASE (R373): not before HOST_EN rises. -/
def execPerstRelease (s : State) : Outcome :=
  .next (settle (if s.host.perst && s.life.hostEn then { s with host := { s.host with perst := false } } else s))

/-- CONTEXT_PARK: a context next needs the lost host. -/
def execContextPark (ctx : BitVec 16) (s : State) : Outcome :=
  .next (settle (match getCtx s ctx with
    | some c => if s.host.lost then parkCtx s c else s
    | none => s))

/-- A read of HIU_RA_DATA_HI (R206, R403): bits 63:32 of the indexed word; a whole read advances WORD. -/
def readRaHi (s : State) (whole : Bool) : State :=
  let t := { s with lastRead := BitVec.ofNat 32 ((raWord s s.host.raIndex.toNat).toNat / 2 ^ 32) }
  if whole then { t with host := { t.host with raIndex := s.host.raIndex + 1 } } else t

/-- HIU_RA_DATA_HI_READ: both views read alike. -/
def execHiuRaDataHiRead (v : View) (whole : Bool) (s : State) : Outcome :=
  let _ := v
  .next (settle (readRaHi s whole))

/-- Context 0 as at Ready (R372): it holds the manager right, is pinned in resident slot 0 and serves no glove. -/
def managerCtx : Context := { id := 0, manager := true, pin := true, slot := 1 }

/-- A match: the fence lifts, and the manager can open its queue as at Ready (R206, R374). -/
def reattach (s : State) : State :=
  let old := (getCtx s 0).getD managerCtx
  let s := setCtx s { old with state := .running, faulted := false, victim := false, slot := 1, images := [] }
  let s := removeQueue { s with posts := s.posts.filter fun p => !(p.1 == 0) } 0
  let s := { s with host := { s.host with lost := false } }
  logEvent (irqLevel s 281 false) srcHiu 0x0F true (leBytes 2 s.host.epoch.toNat ++ [0])

/-- A write of HIU_REATTACH_HI compares (R206). -/
def reattachWrite (s : State) (d : Word) : State :=
  if s.host.locked then s
  else if s.host.nonce = BitVec.ofNat 64 (d.toNat * 2 ^ 32 + s.host.raLo.toNat) then (if s.host.lost then reattach s else s)
  else
    let n := s.host.mismatches + 1
    { s with host := { s.host with mismatches := n, fails := BitVec.ofNat 4 (min 15 n), locked := decide (16 ≤ n) } }

/-- HIU_REATTACH_HI takes effect through either view (R402), unless its block is frozen (R409). -/
def execHiuReattachHi (v : View) (d : Word) (s : State) : Outcome :=
  let _ := v
  .next (settle (if bit s.regs.frozen 0 then s else reattachWrite s d))

/-- Tear a parked context down with grace 0. -/
def holdClose (s : State) (c : Context) : State :=
  let objs := ownedObjs s c.id.toNat
  let new := (if c.preserve then [(c.id, false, c.inst.setWidth 16)] else []) ++
    ((objs.filter (·.preserve)).map fun o => (o.obj, true, o.owner))
  let t : Teardown := { kind := 0, id := c.id.toNat, forced := true }
  let s := { s with host := { s.host with raClosed := s.host.raClosed ++ new } }
  cuffTeardown (beginTeardown (closeCtx s c) t) t

/-- REATTACH_HOLD_EXPIRE. -/
def execReattachHoldExpire (s : State) : Outcome :=
  .next (settle (if !s.host.lost then s
    else (listOpt (fun c => c.state == .parked) s.ctxs).foldl holdClose s))

end Sys2Proof.Machine
end

