-- ==== Sys2Proof/Machine/Xlate.lean ====
section
/-!
DEFINITION. Address translation and windows (the chapter "Address translation, shared memory and windows"): segments, ATS and direct
walks, page requests, migration, windows at their owner, peers, the BAR4 aperture, coherent windows and PCI configuration.
-/
namespace Sys2Proof.Machine

/-! ### Segments (R210, R213) -/

def segOf (ws : List Dword) (i : Nat) : Segment :=
  ⟨ws.getD (4 * i) 0, ws.getD (4 * i + 1) 0, ws.getD (4 * i + 2) 0, ws.getD (4 * i + 3) 0⟩

def segValid (g : Segment) : Bool := bit g.w0 3

/-- First address and first address past a segment. -/
def segSpan (g : Segment) : Nat × Nat := ((segBase g).toNat, (segBase g).toNat + (segSize g).toNat)

/-- Two valid segments overlap. -/
def segsOverlap : List Segment → Bool
  | [] => false
  | g :: l => (segValid g && l.any fun h => segValid h && decide ((segSpan g).1 < (segSpan h).2) && decide ((segSpan h).1 < (segSpan g).2)) ||
      segsOverlap l

/-- Assigned bits of word 2 by kind. -/
def segMask2 (kind : Nat) : Dword := match kind with | 0 => 0xFFFF | 1 => 0x1FFFFFFFFF | 2 => 0xF | _ => 0

/-- SEG_INVALID, of any entry that MASK selects, valid or not. -/
def segBad (g : Segment) : Bool :=
  let k := fld g.w0 2 0
  decide (3 < k) || !onlyBits g.w0 0xFFFFFFFFFFFFF0FF || !onlyBits g.w1 0xFFFFFFFFFFFFF000 || !onlyBits g.w2 (segMask2 k) ||
  segSize g == 0 || decide (2 ^ 64 < (segSpan g).2) || (bit g.w0 7 && k != 1) || (k == 3 && g.w3 != 0) || (k == 1 && decide (2 ^ 44 ≤ g.w3.toNat))

/-- SEG_TARGET, of any entry that MASK selects. -/
def segNoTarget (s : State) (c : Context) (g : Segment) : Bool :=
  match fld g.w0 2 0 with
  | 0 => (match getObj s (BitVec.ofNat 16 (fld g.w2 15 0)) with
    | none => true
    | some o => o.closing || objPart s o != c.part || objInst s o != c.inst || (getCtx s o.owner).isNone)
  | 1 => fld g.w2 16 0 == 0x1FFFF
  | 2 => !(Tbl.get {} s.peers (fld g.w2 3 0)).valid
  | _ => false

/-- The segments of a context: of its slot, or of its save area. -/
def curSegs (s : State) (c : Context) : List Segment :=
  if c.slot ≠ 0 then (List.range 8).map fun i => c.segs.getD i ⟨0, 0, 0, 0⟩ else loadSegs s c

def segWords (l : List Segment) : List Dword := l.flatMap fun g => [g.w0, g.w1, g.w2, g.w3]

/-- SEG_SET. -/
def segSet (s : State) (x : ItemRef) (r : Reply) : State :=
  onItem s x 0x40 fun i by_ =>
    match getCtx s (BitVec.ofNat 16 (fld (iw i 1) 15 0)) with
    | none => completeItem s x 0x20
    | some c => withList s x by_ r (iw i 2) 256 fun s ws =>
      let mask := fld (iw i 1) 23 16
      let picked := ((List.range 8).filter fun k => mask / 2 ^ k % 2 = 1).map (segOf ws)
      let new := ((curSegs s c).zipIdx).map fun e => if mask / 2 ^ e.2 % 2 = 1 then segOf ws e.2 else e.1
      if segsOverlap new then completeItem s x 0x60
      else if picked.any segBad then completeItem s x 0x61
      else if picked.any (segNoTarget s c) then completeItem s x 0x62
      else
        let s := if c.id = 0 then s else devWrite s c.part true c.segAddr.toNat (dwordBytes (segWords new)) false c.id.toNat
        completeItem (if c.slot ≠ 0 then setCtx s { c with segs := new } else s) x 0x00

def execSegSet (x : ItemRef) (r : Reply) (s : State) : Outcome := .next (settle (segSet s x r))

/-! ### Direct walk mode (R217) -/

/-- A level that can hold a leaf. -/
def leafLevel (f : List Dword) (j : Nat) : Bool := j + 1 == walkLevels f || bit (f.getD 2 0) (19 + j)

/-- WALK_FORMAT_INVALID. -/
def walkBad (f : List Dword) : Bool :=
  let n := walkLevels f
  let w2 := f.getD 2 0
  let width := 8 * walkEsize f
  !onlyBits (f.getD 0 0) 0xFFFFFFFFFFFFF03F || !onlyBits (f.getD 1 0) 0x0003FFFFFFFFFFFF || !onlyBits w2 0x0000000FFFFFFFFF || f.getD 3 0 != 0 ||
  n == 0 || decide (5 < n) ||
  ((List.range n).any fun j => walkW f j == 0 || decide (12 < walkW f j) ||
    (leafLevel f j && walkLo f j != 12 && decide (walkLo f j < 21))) ||
  [fld w2 5 0, fld w2 11 6, fld w2 18 13, fld w2 29 24, fld w2 35 30].any fun b => decide (width ≤ b)

/-- WALK_SET. Translations in flight start again in the new mode. -/
def walkSet (s : State) (x : ItemRef) (r : Reply) : State :=
  onItem s x 0x41 fun i by_ =>
    let id := BitVec.ofNat 16 (fld (iw i 1) 15 0)
    let install (s : State) (c : Context) : State :=
      completeItem (pumpItems (dropXlates (setCtx s c) fun v => v.ctx == id) id) x 0x00
    match getCtx s id with
    | none => completeItem s x 0x20
    | some c =>
      if !bit (iw i 1) 16 then install s { c with walk := false }
      else withList s x by_ r (iw i 2) 32 fun s ws =>
        if walkBad ws then completeItem s x 0x63 else install s { c with walk := true, walkFmt := ws }

def execWalkSet (x : ItemRef) (r : Reply) (s : State) : Outcome := .next (settle (walkSet s x r))

/-- WALK_GUARD (R219): 16 ranges of BASE and SIZE. -/
def walkGuard (s : State) (x : ItemRef) (r : Reply) : State :=
  onItem s x 0x42 fun i c => withList s x c r (iw i 1) 256 fun s ws =>
    completeItem { s with guards := tblOf (0, 0) 16 fun k => if ws.getD (2 * k + 1) 0 = 0 then (0, 0) else (ws.getD (2 * k) 0, ws.getD (2 * k + 1) 0) } x 0x00

def execWalkGuard (x : ItemRef) (r : Reply) (s : State) : Outcome := .next (settle (walkGuard s x r))

/-! ### The translation caches -/

/-- Bytes that an entry maps. -/
def AtcEntry.bytes (e : AtcEntry) : Nat := if e.big then 0x200000 else 0x1000

/-- Whether an entry maps some byte of a range; a range past the top of the address space ends there. -/
def AtcEntry.meets (e : AtcEntry) (va size : Nat) : Bool := decide (e.va.toNat < va + size) && decide (va < e.va.toNat + e.bytes)

/-- Install an entry for the page of `va` mapped to the bus address `a` of `va`; 8,192 are kept, the least recently used goes first (R214). -/
def installAtc (s : State) (c : Context) (va a : Dword) (big rd wr : Bool) : State :=
  let m : Dword := if big then 0x1FFFFF else 0xFFF
  let e : AtcEntry := { inst := c.inst, pasid := c.pasid, va := va &&& ~~~m, addr := a &&& ~~~m, big := big, rd := rd, wr := wr }
  { s with atc := (e :: s.atc.filter fun d => !(d.inst == e.inst && d.pasid == e.pasid && d.meets e.va.toNat e.bytes)).take 8192 }

/-- A translation is known: install it, or fault a write whose page stays read-only after a page request (R216, R217, R236). -/
def mapped (s : State) (c : Context) (x : Xlate) (a : Dword) (big rd wr : Bool) : State :=
  if x.retry && x.write && !wr then raiseXlat s c.id 0x05 x.va 0
  else pumpItems (installAtc s c x.va a big rd wr) c.id

/-- ATC_INVAL (R235). -/
def atcInval (s : State) (x : ItemRef) : State :=
  onItem s x 0x43 fun i by_ =>
    let id := BitVec.ofNat 16 (fld (iw i 1) 15 0)
    let all := bit (iw i 1) 16
    if id ≠ x.ctx ∧ !by_.manager then completeItem s x 0x40
    else match getCtx s id with
      | none => completeItem s x 0x20
      | some c =>
        if !all ∧ ((iw i 2).toNat % 4096 ≠ 0 ∨ (iw i 3).toNat % 4096 ≠ 0) then completeItem s x 0x20
        else
          let va := (iw i 2).toNat
          let n := (iw i 3).toNat
          let hit (e : AtcEntry) : Bool := e.inst == c.inst && e.pasid == c.pasid && (all || e.meets va n)
          let again := s.xlates.filter fun v => v.ctx == id && v.walk && (all || (decide (va ≤ v.va.toNat) && decide (v.va.toNat < va + n)))
          let s := dropXlates { s with
            atc := s.atc.filter fun e => !hit e
            walks := s.walks.filter fun w => !(w.inst == c.inst && w.pasid == c.pasid) } again.contains
          completeItem (again.foldl (fun s v => issueXlate s c v.va v.write v.retry v.holders) s) x 0x00

def execAtcInval (x : ItemRef) (s : State) : Outcome := .next (settle (atcInval s x))

/-! ### ATS (R216) -/

/-- ATS_COMPLETION. -/
def atsCompletion (s : State) (tag : Nat) (a : AtsResult) : State :=
  match s.xlates.find? fun v => v.tag == tag && !v.walk with
  | none => s
  | some v =>
    let s := dropXlates s fun u => u.tag == tag
    match getCtx s v.ctx with
    | none => s
    | some c => match a with
      | .mapped addr big rd wr =>
        if !rd && !wr then pageRequest s c v.va v.write v.holders
        else mapped s c v addr (big && addr.toNat % 0x200000 == 0) rd wr
      | _ => raiseXlat s c.id 0x09 v.va 0

def execAtsCompletion (tag : Nat) (a : AtsResult) (s : State) : Outcome := .next (settle (atsCompletion s tag a))

/-- ATS_INVALIDATE_REQUEST: matching entries go, whatever the instance; the reads translated under them are noted. -/
def atsInvalidate (s : State) (pasid : BitVec 20) (base size : Dword) (itag : BitVec 5) : State :=
  let hit (e : AtcEntry) : Bool := e.pasid == pasid && e.meets base.toNat size.toNat
  let gone := s.atc.filter hit
  let tags := (s.hostReads.filter fun r => gone.any fun e => decide ((r.addr - e.addr).toNat < e.bytes)).map (·.tag)
  let again := s.xlates.filter fun v => match getCtx s v.ctx with
    | some c => c.pasid == pasid && decide (base.toNat ≤ v.va.toNat) && decide (v.va.toNat < base.toNat + size.toNat)
    | none => false
  let s := dropXlates { s with
    atc := s.atc.filter fun e => !hit e
    walks := s.walks.filter fun w => !(w.pasid == pasid)
    invals := s.invals ++ [(itag, tags)] } again.contains
  again.foldl (fun s v => match getCtx s v.ctx with
    | some c => issueXlate s c v.va v.write v.retry v.holders
    | none => s) s

def execAtsInvalidateRequest (pasid : BitVec 20) (base size : Dword) (itag : BitVec 5) (s : State) : Outcome :=
  .next (settle (atsInvalidate s pasid base size itag))

/-- INVALIDATE_COMPLETION: sent once every read translated under an invalidated entry has completed. -/
def execInvalidateCompletion (itag : BitVec 5) (s : State) : Outcome :=
  .next (settle (match s.invals.find? fun v => v.1 == itag with
    | none => s
    | some v =>
      if s.hostReads.any fun r => v.2.contains r.tag then s
      else emit { s with invals := s.invals.erase v } (.invalidateCompletion itag)))

/-! ### Walks (R217 to R219) -/

/-- A walk that has ended well leaves its non-leaf entries in the walk cache of 1,024. -/
def cacheWalk (s : State) (c : Context) (path : List (Dword × Dword)) : State :=
  { s with walks := ((path.map fun p => ({ inst := c.inst, pasid := c.pasid, ea := p.1, entry := p.2 } : WalkEntry)) ++
      s.walks.filter fun w => !(path.any fun p => w.inst == c.inst && w.pasid == c.pasid && w.ea == p.1)).take 1024 }

/-- The fetched entry of a walk's level decides (R217). -/
def walkEntry (s : State) (c : Context) (v : Xlate) (e : Dword) : State :=
  let f := c.walkFmt
  let w2 := f.getD 2 0
  if !bit e (fld w2 5 0) then pageRequest s c v.va v.write v.holders
  else
    let a := walkAddr f e
    let j := v.level
    let page := 2 ^ walkLo f j
    if j + 1 = walkLevels f ∨ (bit w2 (19 + j) ∧ bit e (fld w2 18 13)) then
      if a.toNat % page ≠ 0 ∨ (bit (f.getD 0 0) 4 ∧ bit a 63) then raiseXlat s c.id 0x08 v.va v.ea
      else
        let pa := a + BitVec.ofNat 64 (v.va.toNat % page)
        mapped (cacheWalk s c v.path) c v pa (decide (21 ≤ walkLo f j)) true (bit e (fld w2 11 6) == bit w2 12)
    else walkGo 6 s c { v with level := j + 1, path := v.path ++ [(v.ea, e)], tag := v.tag } a

/-- WALK_FETCH_COMPLETE. -/
def walkFetch (s : State) (tag : Nat) (h : HostResult) : State :=
  match s.xlates.find? fun v => v.tag == tag && v.walk with
  | none => s
  | some v =>
    let s' := dropXlates s fun u => u.tag == tag
    match getCtx s v.ctx with
    | none => s'
    | some c => match h with
      | .data b bad =>
        if b.length ≠ walkEsize c.walkFmt then s
        else if bad then raiseXlat s' c.id 0x06 v.va v.ea
        else walkEntry s' c v (BitVec.ofNat 64 (leNat b))
      | _ => raiseXlat s' c.id 0x06 v.va v.ea

def execWalkFetchComplete (tag : Nat) (h : HostResult) (s : State) : Outcome := .next (settle (walkFetch s tag h))

/-! ### Page requests (R220, R221) -/

/-- The held accesses of a request are released for translation again: what was cached for the page goes first. -/
def releaseHolds (s : State) (r : PageReq) : State :=
  let s := { s with pageReqs := s.pageReqs.filter fun q => !(q.id == r.id) }
  if r.withdrawn then s
  else match getCtx s r.ctx with
    | none => s
    | some c =>
      let s := { s with atc := s.atc.filter fun e => !(e.inst == c.inst && e.pasid == c.pasid && e.meets r.va.toNat 0x1000) }
      issueXlate s c r.va r.write true r.holders

/-- A request has failed: PAGE_FAULT. -/
def failHolds (s : State) (r : PageReq) : State :=
  let s := { s with pageReqs := s.pageReqs.filter fun q => !(q.id == r.id) }
  if r.withdrawn then s else raiseXlat s r.ctx 0x04 r.va 0

/-- PAGE_REQUEST_RESPONSE on the PRI path. -/
def execPageRequestResponse (req : BitVec 16) (success : Bool) (s : State) : Outcome :=
  .next (settle (match s.pageReqs.find? fun r => r.id == req && !r.native with
    | none => s
    | some r => if success then releaseHolds s r else failHolds s r))

/-- PAGE_REQUEST_TIMEOUT on either path. -/
def execPageRequestTimeout (req : BitVec 16) (s : State) : Outcome :=
  .next (settle (match s.pageReqs.find? fun r => r.id == req with
    | none => s
    | some r => failHolds s r))

/-- FAULT_RESPOND on the native path. -/
def faultRespond (s : State) (x : ItemRef) : State :=
  onItem s x 0x45 fun i _ =>
    match s.pageReqs.find? fun r => r.native && r.id.toNat == fld (iw i 1) 31 16 && r.ctx.toNat == fld (iw i 1) 15 0 with
    | none => completeItem s x 0x66
    | some r => completeItem (if bit (iw i 1) 32 then failHolds s r else releaseHolds s r) x 0x00

def execFaultRespond (x : ItemRef) (s : State) : Outcome := .next (settle (faultRespond s x))

/-- The places of the piece that a transfer has under way. -/
def pieceMem (s : State) (x : ItemRef) : List (Place × Nat) :=
  match getItem s x, getCtx s x.ctx with
  | some i, some c => match xferTotal i with
    | some total =>
      let k := i.run.bytes
      let n := pieceLen s c i k total
      if !i.run.active || decide (total ≤ k) then []
      else (xferPlace s c i true (xferDst i k) n, n) :: ((xferSrc i k).map fun a => (xferPlace s c i false a n, n)).toList
    | none => []
  | _, _ => []

/-- An access to a range of slice memory has been issued: a core's transfer, or the piece of another item. -/
def memBusy (s : State) (x : ItemRef) (part : BitVec 4) (hbm : Bool) (a n : Nat) : Bool :=
  (!hbm && s.cores.any fun e => (getBinding s e.1).part == part && e.2.xfers.any fun t => (xferReads t ++ xferWrites t).any fun r => overlap a n r.1 r.2) ||
  (s.ctxs.any fun e => (startedItems s (BitVec.ofNat 16 e.1)).any fun y => !(y == x) && (pieceMem s y).any fun p => match p.1 with
    | .mem q h b => q == part && h == hbm && overlap a n b p.2
    | _ => false)

/-- MIGRATE (R222): it waits until every access already issued to either of its pages has completed. -/
def migrate (s : State) (x : ItemRef) : State :=
  onItem s x 0x44 fun i _ =>
    let n := if bit (iw i 1) 16 then 0x200000 else 0x1000
    if (iw i 2).toNat % n ≠ 0 ∨ (iw i 3).toNat % n ≠ 0 then completeItem s x 0x20
    else if s.hostReads.any fun r => decide (r.addr.toNat < (iw i 2).toNat + n) && decide ((iw i 2).toNat < r.addr.toNat + r.bytes) then s
    else match apertureAt s (iw i 3).toNat n with
      | some (o, a) => if memBusy s x (objPart s o) o.hbm a n then s else startXfer s x
      | none => startXfer s x

def execMigrate (x : ItemRef) (s : State) : Outcome := .next (settle (migrate s x))

/-! ### Windows, peers, apertures, decoders -/

/-- WINDOW_OPEN (R225). -/
def windowOpen (s : State) (x : ItemRef) (r : Reply) : State :=
  onItem s x 0x46 fun i c => withList s x c r (iw i 1) 16 fun s ws =>
    let w0 := ws.getD 0 0
    let w1 := ws.getD 1 0
    let k := fld w1 28 17
    let old := Tbl.get {} s.windows k
    let objOk : Bool := match getObj s (BitVec.ofNat 16 (fld w0 15 0)) with
      | some o => !o.closing && (getCtx s o.owner).isSome && (objInst s o).toNat == fld w0 31 24
      | none => false
    if old.valid || closedRecently s 3 k then completeItem s x 0x64
    else if !onlyBits w0 0x80FFFFFFFFFFFFFF || !onlyBits w1 0x1FFFFFFFFF || fld w0 21 20 == 3 || !objOk || (bit w0 22 && bit w0 23) then
      completeItem s x 0x29
    else
      let w : Window := { obj := BitVec.ofNat 16 (fld w0 15 0), rights := BitVec.ofNat 4 (fld w0 19 16), filter := BitVec.ofNat 2 (fld w0 21 20),
                          legacyOk := bit w0 22, keyed := bit w0 23, inst := BitVec.ofNat 8 (fld w0 31 24), gid := BitVec.ofNat 24 (fld w0 55 32),
                          valid := true, node := BitVec.ofNat 17 (fld w1 16 0), wgen := old.wgen + 1 }
      completeResult { s with windows := Tbl.set {} s.windows k w } x 0x00 (w.wgen.setWidth 64)

def execWindowOpen (x : ItemRef) (r : Reply) (s : State) : Outcome := .next (settle (windowOpen s x r))

/-- WINDOW_CLOSE (R225). -/
def windowClose (s : State) (x : ItemRef) : State :=
  onItem s x 0x47 fun i _ =>
    let k := fld (iw i 1) 11 0
    let w := Tbl.get {} s.windows k
    if !w.valid then completeItem s x 0x65
    else if s.teardowns.any fun t => t.kind == 3 && t.id == k then completeItem s x 0x28
    else beginTeardown s { kind := 3, id := k, item := some x, obj := getObj s w.obj }

def execWindowClose (x : ItemRef) (s : State) : Outcome := .next (settle (windowClose s x))

/-- PEER_SET (R229). -/
def peerSet (s : State) (x : ItemRef) (r : Reply) : State :=
  onItem s x 0x48 fun i c => withList s x c r (iw i 1) 16 fun s ws =>
    let w0 := ws.getD 0 0
    let w1 := ws.getD 1 0
    if !onlyBits w0 0xFFFFFFFFFFFFF01F || !onlyBits w1 0xFFFFFFFFFFFFF000 then completeItem s x 0x29
    else
      let p : Peer := if bit w0 4 then { valid := true, base := w0 &&& ~~~0xFFF, size := w1 } else {}
      completeItem { s with peers := Tbl.set {} s.peers (fld w0 3 0) p } x 0x00

def execPeerSet (x : ItemRef) (r : Reply) (s : State) : Outcome := .next (settle (peerSet s x r))

/-- APERTURE_SET (R230). -/
def apertureSet (s : State) (x : ItemRef) : State :=
  onItem s x 0x49 fun i _ =>
    let k := fld (iw i 1) 7 0
    let o := BitVec.ofNat 16 (fld (iw i 1) 31 16)
    if !bit (iw i 1) 32 then completeItem { s with apertures := Tbl.set {} s.apertures k {} } x 0x00
    else
      let ok : Bool := match getObj s o with
        | some m => !m.closing && decide ((iw i 2).toNat < m.size.toNat) && (iw i 2).toNat % slotSize s == 0
        | none => false
      if !ok then completeItem s x 0x67
      else completeItem { s with apertures := Tbl.set {} s.apertures k { valid := true, obj := o, offset := iw i 2 } } x 0x00

def execApertureSet (x : ItemRef) (s : State) : Outcome := .next (settle (apertureSet s x))

/-- HDM_SET (R232). -/
def hdmSet (s : State) (x : ItemRef) : State :=
  onItem s x 0x4A fun i _ =>
    let o := BitVec.ofNat 16 (fld (iw i 1) 31 16)
    let isOpen : Bool := match getObj s o with | some m => !m.closing | none => false
    if !s.host.cxl then completeItem s x 0x68
    else if !bit (iw i 1) 32 then completeItem { s with hdm := Tbl.set 0 s.hdm (fld (iw i 1) 1 0) 0 } x 0x00
    else if !isOpen then completeItem s x 0x29
    else completeItem { s with hdm := Tbl.set 0 s.hdm (fld (iw i 1) 1 0) (o.toNat + 1) } x 0x00

def execHdmSet (x : ItemRef) (s : State) : Outcome := .next (settle (hdmSet s x))

/-! ### Timeouts of requests (R219, R227) -/

/-- WINDOW_TIMEOUT: the requester faults; a ring write of a context is a RECORD_WRITE. -/
def windowTimeout (s : State) (tag : BitVec 16) : State :=
  match s.winReqs.find? fun r => r.tag == tag with
  | none => s
  | some r =>
    let s := regDone { s with winReqs := s.winReqs.filter fun q => !(q.tag == tag) } r.part.toNat 1 r.lc r.due
    if r.use = .ring then raise s { ctx := r.ctx, cls := 6, cause := 5, addr := r.va }
    else stopDone (faultItem (uncountWrite s r) r.x 4 0x0B r.va (windowDetail 0 r.node r.window)) r.x

def execWindowTimeout (tag : BitVec 16) (s : State) : Outcome := .next (settle (windowTimeout s tag))

/-- COMPLETION_TIMEOUT: of a read or AtomicOp of an item, of a walk fetch, or of an ATS request. -/
def completionTimeout (s : State) (tag : Nat) : State :=
  match s.hostReads.find? fun r => r.tag == tag && r.sent with
  | some r => hostFail (regDone { s with hostReads := s.hostReads.filter fun q => !(q.tag == tag) } r.part.toNat 2 r.lc r.due) r
  | none => match s.xlates.find? fun v => v.tag == tag with
    | none => s
    | some v =>
      raiseXlat (dropXlates s fun u => u.tag == tag) v.ctx (if v.walk then 0x06 else 0x09) v.va (if v.walk then v.ea else 0)

def execCompletionTimeout (tag : Nat) (s : State) : Outcome := .next (settle (completionTimeout s tag))

/-! ### The aperture (R230) -/

/-- Serve an atomic update of `n` bytes at slice memory: the old value is returned, poison stays (R132). -/
def apertureAtomic (s : State) (o : MemObj) (a n : Nat) (f : Nat → Nat) : State :=
  let b := devRead s (objPart s o) o.hbm a n
  let s := hostSideWrite s (objPart s o) o.hbm a (leBytes n (f (leNat b.1))) b.2
  emit s (.bar4Reply b.1 b.2)

def bar4Bytes : Bar4Op → Nat
  | .read n => n
  | .write d => d.length
  | .fetchAdd n _ | .swap n _ | .cas n _ _ => n

/-- Sizes that the completer supports (Table 9.8). -/
def bar4Supported (off : Nat) : Bar4Op → Bool
  | .read _ | .write _ => true
  | .fetchAdd n _ | .swap n _ => (n == 4 || n == 8) && off % n == 0
  | .cas n _ _ => (n == 4 || n == 8 || n == 16) && off % n == 0

/-- BAR4_ACCESS. -/
def bar4Access (s : State) (off : Nat) (op : Bar4Op) : State :=
  match apertureAt s off (bar4Bytes op) with
  | none => emit s .bar4Unsupported
  | some (o, a) =>
    let m := meetMem s (objPart s o) o.hbm a (bar4Bytes op)
    if !bar4Supported off op || !s.cfg.mse || s.cfg.d3hot then emit s .bar4Unsupported
    else if !m.2 then m.1
    else
      let s := m.1
      match op with
      | .read n =>
        let b := devRead s (objPart s o) o.hbm a n
        emit (devReadLog s (objPart s o) o.hbm a n) (.bar4Reply b.1 b.2)
      | .write d => hostSideWrite s (objPart s o) o.hbm a d false
      | .fetchAdd n v => apertureAtomic s o a n fun x => (x + v.toNat) % 2 ^ (8 * n)
      | .swap n v => apertureAtomic s o a n fun _ => v.toNat % 2 ^ (8 * n)
      | .cas n c v => apertureAtomic s o a n fun x => if x = c.toNat % 2 ^ (8 * n) then v.toNat % 2 ^ (8 * n) else x

def execBar4Access (off : BitVec 39) (op : Bar4Op) (s : State) : Outcome := .next (settle (bar4Access s off.toNat op))

/-- BAR4_RESIZE (R401): powers of two from 512 MiB to 512 GiB. -/
def execBar4Resize (log2 : BitVec 6) (s : State) : Outcome :=
  .next (settle (if s.cfg.mse || decide (log2.toNat < 29) || decide (39 < log2.toNat) then s
    else { s with cfg := { s.cfg with bar4Log := log2 }, apertures := [] }))

/-! ### Coherent windows (R232) -/

/-- An outstanding snoop is answered: what waited for it goes on. -/
def snoopDone (s : State) (line : Nat) : State :=
  let s := { s with snoops := s.snoops.filter fun k => !(k == line) }
  if s.snoops ≠ [] then s else snoopsOver s

/-- COHERENT_WINDOW_ACCESS: the host's lines stay noted; protected lines read as zeros. -/
def coherentAccess (s : State) (dec : Nat) (off : Nat) (op : CohOp) : State :=
  if !s.host.cxl then s
  else match Tbl.get 0 s.hdm dec with
    | 0 => s
    | k + 1 => match getObj s (BitVec.ofNat 16 k) with
      | none => s
      | some o =>
        let part := objPart s o
        let a := o.base.toNat + off
        let ok (n : Nat) : Bool := !o.cuffed && decide (off + n ≤ o.size.toNat) && memRange s part o.hbm a n
        let n := match op with | .hostRead n => n | .hostWrite d => d.length | .snoopDone => 0
        let m := if ok n then meetMem s part o.hbm a n else (s, true)
        if !m.2 then m.1
        else
        let s := m.1
        match op with
        | .hostRead n =>
          if !ok n then s
          else
            let b := devRead s part o.hbm a n
            let lines := (unitsOf 64 a n).map (cohLine part o.hbm)
            emit { devReadLog s part o.hbm a n with
              cohHeld := s.cohHeld ++ lines.filter fun l => !(s.cohHeld.contains l) } (.cohReply b.1 b.2)
        | .hostWrite d => if !ok d.length then s else hostSideWrite s part o.hbm a d false
        | .snoopDone => snoopDone s (cohLine part o.hbm (a / 64))

def execCoherentWindowAccess (dec : BitVec 2) (off : Dword) (op : CohOp) (s : State) : Outcome :=
  .next (settle (coherentAccess s dec.toNat off.toNat op))

/-! ### PCI configuration (R401) -/

/-- A dword of configuration space: identification, command, class code and base address registers; others are not described. -/
def cfgRead (s : State) (reg : Nat) : Word :=
  match reg with
  | 0 => 0x00071F6A
  | 1 => (Tbl.get 0 s.cfg.other 1 &&& ~~~2) ||| (if s.cfg.mse then 2 else 0)
  | 2 => 0x12000000 ||| (Config.cfgWord 2 0 &&& 0xFF)
  | 4 => s.cfg.bar0.setWidth 32 ||| 4
  | 5 => (s.cfg.bar0 >>> 32).setWidth 32
  | 6 => s.cfg.bar2.setWidth 32 ||| 4
  | 7 => (s.cfg.bar2 >>> 32).setWidth 32
  | 8 => s.cfg.bar4.setWidth 32 ||| 0xC
  | 9 => (s.cfg.bar4 >>> 32).setWidth 32
  | n =>
    let w := Config.cfgWord n (Tbl.get 0 s.cfg.other n)
    if n = Config.pmReg then (w &&& ~~~3) ||| (if s.cfg.d3hot then 3 else 0) else w

/-- Replace the low or high half of a base address; bits below the size stay 0. -/
def barWrite (old : Dword) (log2 : Nat) (high : Bool) (w : Word) : Dword :=
  let v := if high then BitVec.ofNat 64 (w.toNat * 2 ^ 32 + old.toNat % 2 ^ 32) else BitVec.ofNat 64 (old.toNat / 2 ^ 32 * 2 ^ 32 + w.toNat)
  BitVec.ofNat 64 (v.toNat / 2 ^ log2 * 2 ^ log2)

def cfgWrite (s : State) (reg : Nat) (w : Word) : State :=
  let c := s.cfg
  match reg with
  | 0 | 2 => s
  | 1 => { s with cfg := { c with mse := bit w 1, other := Tbl.set 0 c.other 1 w } }
  | 4 => { s with cfg := { c with bar0 := barWrite c.bar0 25 false w } }
  | 5 => { s with cfg := { c with bar0 := barWrite c.bar0 25 true w } }
  | 6 => { s with cfg := { c with bar2 := barWrite c.bar2 24 false w } }
  | 7 => { s with cfg := { c with bar2 := barWrite c.bar2 24 true w } }
  | 8 => { s with cfg := { c with bar4 := barWrite c.bar4 c.bar4Log.toNat false w } }
  | 9 => { s with cfg := { c with bar4 := barWrite c.bar4 c.bar4Log.toNat true w } }
  | n => { s with cfg := { c with other := Tbl.set 0 c.other n w, d3hot := if n = Config.pmReg then fld w 1 0 == 3 else c.d3hot } }

/-- CONFIGURATION_REQUEST (R372): answered with Retry Status before Ready. -/
def execConfigurationRequest (write : Option Word) (reg : BitVec 10) (s : State) : Outcome :=
  .next (settle (if !s.life.ready then emit s .cfgRetry
    else match write with
      | none => emit s (.cfgReply (cfgRead s reg.toNat))
      | some w => emit (cfgWrite s reg.toNat w) (.cfgReply 0)))

end Sys2Proof.Machine
end

