-- ==== Sys2Proof/Machine/Recv.lean ====
section
/-!
DEFINITION. The receive side of the Eomen fabric: the checks of a packet at its destination (R270, R272, R276, R279), before any
command of a packet acts on it.
-/
namespace Sys2Proof.Machine

/-- The ring stop takes a packet out of its link's receive buffer and returns its credit in a CTRL flit (R249). -/
def takeRx (s : State) (p : Packet) : State :=
  let n := p.link.toNat
  let l := getLink s n
  match findIdx? (· == p) l.rxBuf 0 with
  | none => s
  | some i =>
    let l := { l with rxBuf := l.rxBuf.eraseIdx i, ccumOut := Tbl.upd 0 l.ccumOut p.vc.toNat (· + 1) }
    emitFlit (setLink s n l) n l.ctrlFlit

/-- The VC of a message code (Table 11.5). -/
def msgVc (m : Nat) : Option (BitVec 2) :=
  match m with
  | 5 => some 3
  | 6 => some 2
  | _ => if 1 ≤ m ∧ m ≤ 0x0F then some 0 else none

/-- The VC of a packet type (Table 11.3); a message's follows its code. -/
def typeVc (p : Packet) : Option (BitVec 2) :=
  match p.ttype.toNat with
  | 0x01 | 0x03 | 0x05 | 0x07 | 0x0B => some 1
  | 0x02 | 0x04 | 0x06 | 0x0A | 0x0C => some 2
  | 0x08 | 0x09 => some 3
  | 0x0D => some p.vc
  | 0x0E => some 0
  | _ => none

/-- A response type. -/
def isResponse (t : BitVec 5) : Bool := t == 0x02 || t == 0x04 || t == 0x06 || t == 0x0A || t == 0x0C

/-- A packet that R270 drops as malformed, as far as its header shows. -/
def badHeader (p : Packet) : Bool :=
  typeVc p != some p.vc || p.rsvd != 0 || (p.ttype == 0x09 && fld p.addr 26 0 != 0)

def msgCode (p : Packet) : Nat := fld p.ext 7 0

/-- A message whose code or VC Table 11.5 does not have, or, of one that names a vcore, whose ADDR has reserved bits set. -/
def badMsg (p : Packet) : Bool :=
  p.ttype == 0x0D && (msgVc (msgCode p) != some p.vc || (decide (1 ≤ msgCode p ∧ msgCode p ≤ 7) && fld p.addr 26 0 != 0))

def countDup (s : State) : State := { s with fab := { s.fab with dup := s.fab.dup + 1 } }

/-- A keyed reduce packet of a glove that this package has left: its key is gone, and it is answered NO_TREE (Table 11.9; DEDUCED, log 159). -/
def leftReduce (s : State) (p : Packet) : Bool :=
  p.keyed && (p.ttype == 8 || p.ttype == 9) && (getGlove s p.gid).isNone && (findSlot s p.gid).isNone

/-- The checks of R279: the packet as it may be used, or none. -/
def keyCheck (s : State) (p : Packet) : Option Packet :=
  match findSlot s p.gid with
  | none => if p.keyed && !leftReduce s p then none else some p
  | some k =>
    if p.keyed then
      match k.key p.kgen with
      | none => none
      | some key =>
        (Config.gcmOpen key (packetIv p) (packetAad p) (leBytes 4 p.ext.toNat ++ padData p.data) p.gcmTag).map fun pt =>
          { p with ext := BitVec.ofNat 32 (leNat (pt.take 4)), data := (pt.drop 4).take p.len.toNat }
    else if k.require && !(isResponse p.ttype && statusOnly p.status) then none
    else some p

/-- A key failure: counted and logged (R279). -/
def keyFail (s : State) (p : Packet) : State :=
  logEvent { s with fab := { s.fab with authFail := s.fab.authFail + 1 } } srcSec 0x0A false
    (leBytes 4 p.gid.toNat ++ leBytes 4 p.src.toNat ++ [if p.kgen then 1 else 0])

/-- The stream judgement of R272: the entry after it, and whether the packet is accepted. -/
def streamCheck (e : StreamRx) (p : Packet) : StreamRx × Bool :=
  let d := (p.incarn - e.incarn).toNat
  let fresh := !e.valid || decide (1 ≤ d ∧ d ≤ 127)
  if !fresh && p.incarn != e.incarn then (e, false)
  else
    let e : StreamRx := if fresh then { valid := true, incarn := p.incarn, last := [] } else e
    let last := Tbl.get 0 e.last p.vc.toNat
    if last < p.seq then ({ e with last := Tbl.set 0 e.last p.vc.toNat p.seq }, true) else (e, false)

/-- What arrives of a packet at its destination: form, key and stream checks, in this order. -/
def receive (s : State) (p : Packet) : State × Option Packet :=
  let s := takeRx s p
  if badHeader p then (countDup s, none)
  else match keyCheck s p with
    | none => (keyFail s p, none)
    | some q =>
      let r := streamCheck (Tbl.get {} s.fab.rst p.src.toNat) p
      let s := { s with fab := { s.fab with rst := Tbl.set {} s.fab.rst p.src.toNat r.1 } }
      if !r.2 || badMsg q then (countDup s, none) else (s, some q)

/-- Whether a packet arrives here at all (R262, R264). -/
def arrives (s : State) (p : Packet) : Bool := s.fab.nodeValid && p.dst == s.node

/-- A packet of a type reaches its destination. -/
def onPacket (s : State) (p : Packet) (t : BitVec 5) (f : State → Packet → State) : State :=
  if p.ttype ≠ t ∨ !arrives s p then s
  else match receive s p with
    | (s, none) => s
    | (s, some q) => f s q

/-- A message of a code reaches its destination; `p` carries another code once opened: no such event. -/
def onMsg (s : State) (p : Packet) (code : Nat) (f : State → Packet → State) : State :=
  if p.ttype ≠ 0x0D ∨ !arrives s p then s
  else match receive s p with
    | (t, none) => t
    | (t, some q) => if msgCode q = code then f t q else s

/-- A message of a glove that is open here; others are dropped. -/
def onGloveMsg (s : State) (p : Packet) (code : Nat) (f : State → Packet → Glove → State) : State :=
  onMsg s p code fun s q => match getGlove s q.gid with
    | some g => f s q g
    | none => s

/-- The `n`-byte field at byte `o` of a message. -/
def msgField (p : Packet) (o n : Nat) : Nat := leNat ((p.data.drop o).take n)

/-- MALFORMED_PACKET (R270, R276): dropped and counted. A message that is malformed only inside is found once it is opened. -/
def execMalformedPacket (p : Packet) (s : State) : Outcome :=
  .next (settle (if !arrives s p then s
    else if badHeader p || p.ttype == 0x0D then
      (match receive s p with
       | (t, none) => t
       | (_, some _) => s)
    else s))

end Sys2Proof.Machine
end

