-- ==== Sys2Proof/Machine/Gloves.lean ====
section
/-!
DEFINITION. Glove command items and refit (R160 to R184): the items of Table 7.4, the moves of Table 7.9, and the messages of gloves.
-/
namespace Sys2Proof.Machine

/-! ### Shared checks (R167 to R170, R182) -/

/-- The glove of an item, or the first status of R196: unknown glove, frozen, epoch. `wide`: the item changes glove-wide state. -/
def preGlove (s : State) (i : Item) (wide frozenOk : Bool) : Except Nat Glove :=
  match getGlove s (giGid i) with
  | none => .error 0x46
  | some g =>
    let e := giEpoch i
    let ok := if e = 0 then !wide else if giRepair i then decide (g.epoch < e) else e == g.epoch + 1
    if g.frozen && !giRepair i && !frozenOk then .error 0x42
    else if !ok then .error 0x41
    else .ok g

/-- Read an item's list of `n` bytes; LIST is 8-byte aligned. -/
def gloveList (s : State) (x : ItemRef) (i : Item) (c : Context) (r : Reply) (n : Nat) (f : State → List Dword → State) : State :=
  if (giList i).toNat % 8 ≠ 0 then completeItem s x 0x20
  else withList s x c r (giList i) n f

/-- Bytes of a member list: COUNT 0 is 131,072 entries. -/
def memberBytes (i : Item) : Nat := 8 * if giCount i = 0 then 131072 else giCount i

/-- The first status of a list of entries' statuses: the first failing entry decides, its lowest status (R196). -/
def firstStatus (l : List (List Nat)) : Option Nat :=
  l.findSome? fun e => leastStatus (e.map some)

def stIf (b : Bool) (n : Nat) : List Nat := if b then [n] else []

/-! ### Entries (Table 7.7) -/

def enRank (w : Dword) : Nat := fld w 33 17
def enNode (w : Dword) : BitVec 17 := BitVec.ofNat 17 (fld w 16 0)

def beVcore (w : Dword) : BitVec 16 := BitVec.ofNat 16 (fld w 15 0)
def beNode (w : Dword) : BitVec 17 := BitVec.ofNat 17 (fld w 32 16)
def beKind (w : Dword) : BitVec 2 := BitVec.ofNat 2 (fld w 34 33)
def bePcore (w : Dword) : Nat := fld w 44 35
def beCl (w : Dword) : BitVec 5 := BitVec.ofNat 5 (fld w 49 45)
def beSlot (w : Dword) : BitVec 3 := BitVec.ofNat 3 (fld w 52 50)

/-- Reserved bits of a list's entries. -/
def entryBad (w mask : Dword) : List Nat := stIf (!onlyBits w mask) 0x20
def entriesBad (ws : List Dword) (mask : Dword) : Bool := ws.any fun w => !onlyBits w mask

def memberMask : Dword := 0x3FFFFFFFF
def bindMask : Dword := 0x1FFFFFFFFFFFFF
def unbindMask : Dword := 0xFFFF

/-- Whether two entries name one rank. -/
def dupRanks : List Dword → Bool
  | [] => false
  | w :: l => (l.any fun v => enRank v == enRank w) || dupRanks l

/-- Members with entries put in. -/
def putMembers (m : Tbl (BitVec 17)) (ws : List Dword) : Tbl (BitVec 17) :=
  ws.foldl (fun t w => Tbl.set 0x1FFFF t (enRank w) (enNode w)) m

def topRank (n : Nat) (ws : List Dword) : Nat := ws.foldl (fun m w => max m (enRank w + 1)) n

/-! ### GLOVE_OPEN (R170, R176) -/

/-- The partition already is a slice. -/
def sliceTaken (s : State) (p : Nat) : Bool := s.gloves.any fun e => match e.2 with | some g => g.part.toNat == p | none => false

def gloveOpenWith (s : State) (x : ItemRef) (i : Item) (ws : List Dword) : State :=
  let w := i.words.getD 3 0
  let rank := fld w 33 17
  let part := fld w 61 58
  let vcount := fld w 50 34
  let members := putMembers [] ws
  let g : Glove := { gid := giGid i, rank := BitVec.ofNat 17 rank, vcount := vcount, stale := bit w 51, stash := fld w 57 52,
                     part := BitVec.ofNat 4 part, epoch := giEpoch i, members := members, memberCount := topRank 0 ws }
  if entriesBad ws memberMask ∨ dupRanks ws then completeItem s x 0x20
  else if s.node = 0x1FFFF ∨ !s.fab.nodeValid ∨ memberNode g rank ≠ s.node then completeItem s x 0x46
  else if vcount = 0 ∨ 65536 < vcount ∨ fld w 57 52 = 0 ∨ !(getPart s part).valid ∨ sliceTaken s part then completeItem s x 0x4A
  else
    let s := updGovPart s part fun v => { v with glove := 200, round := 0 }
    completeItem (epochChanged (rehash (setGlove s g) g.gid) g.gid) x 0x00

def execGloveOpen (x : ItemRef) (r : Reply) (s : State) : Outcome :=
  .next (settle (onItem s x 0x60 fun i c =>
    if (getGlove s (giGid i)).isSome then completeItem s x 0x4D
    else gloveList s x i c r (memberBytes i) fun s ws => gloveOpenWith s x i ws))

/-! ### SLICE_FIT, CHANNEL_REFIT (R136, R150, R162, R164) -/

/-- Banks of a cluster that are lost (change 0x07). -/
def lostBanks (s : State) (cl : Nat) : Word :=
  (List.range 32).foldl (fun m b => setBit m b (Tbl.get false s.mem.bankLost (32 * cl + b))) 0

/-- A region map that breaks R136, or names a lost bank, which is over quota (Table 12.5). -/
def mapBad (s : State) (part : Nat) (ws : List Dword) : Bool :=
  ws.any fun e => !onlyBits e 0x8000001FFFFFFFFF ||
    (bit e 63 && BitVec.ofNat 32 (fld e 31 0) &&& (~~~(Tbl.get 0 (getPart s part).banks (fld e 36 32)) ||| lostBanks s (fld e 36 32)) != (0 : Word))

/-- A slice's regions from descriptor words. -/
def hbmTable (ws : List Dword) : Tbl Dword := (ws.zipIdx).foldl (fun t e => Tbl.set 0 t e.2 e.1) []

/-- Frames that a region uses in each of its channels: first, and one past the last. -/
def regionFrames (sl : Slice) (i : Nat) : Nat × Nat :=
  let f := fld (regionWord sl i 1) 58 39
  let n := max 1 (popcount (regionMask sl i))
  (f, f + (regionSize sl i + 4096 * n - 1) / (4096 * n))

/-- A descriptor that breaks Table 6.10 by itself. -/
def regionBad (s : State) (sl : Slice) (i : Nat) : Bool :=
  !onlyBits (regionWord sl i 0) 0xFF00007FFFFFFFFF || !onlyBits (regionWord sl i 1) 0x07FFFFFFFFFFFFFF ||
  (bit (regionWord sl i 0) 63 &&
    (regionBase sl i % 0x200000 != 0 || regionSize sl i % 0x200000 != 0 ||
     decide (popcount (regionMask sl i) * (hbmFrames s - fld (regionWord sl i 1) 58 39) * 4096 < regionSize sl i) ||
     decide (2 ^ 39 < regionBase sl i + regionSize sl i)))

/-- A protected region whose key slot is empty, or bound to another partition (R362). -/
def regionKeyless (s : State) (part : BitVec 4) (sl : Slice) (i : Nat) : Bool :=
  bit (regionWord sl i 0) 63 && bit (regionWord sl i 0) 62 &&
  (match Tbl.get none s.trust.wkeys (fld (regionWord sl i 0) 61 56) with
   | some k => k.part != part
   | none => true)

/-- Two regions that overlap in addresses or in the frames of a shared channel. -/
def regionsClash (sl : Slice) (i j : Nat) : Bool :=
  let a := regionFrames sl i
  let b := regionFrames sl j
  bit (regionWord sl i 0) 63 && bit (regionWord sl j 0) 63 &&
  ((decide (regionBase sl i < regionBase sl j + regionSize sl j) && decide (regionBase sl j < regionBase sl i + regionSize sl i)) ||
   (regionMask sl i &&& regionMask sl j != 0 && decide (a.1 < b.2) && decide (b.1 < a.2)))

/-- The channels of a slice that may be named: those of the partition, and those bound already (Table 12.5). -/
def channelsAllowed (s : State) (g : Glove) : BitVec 128 := (getPart s g.part.toNat).channels ||| g.channels

/-- Channels bound to another slice. -/
def channelsElsewhere (s : State) (part : Nat) : BitVec 128 :=
  s.gloves.foldl (fun m e => match e.2 with | some h => if h.part.toNat = part then m else m ||| h.channels | none => m) 0

/-- The status of a channel set with its regions; the lowest of those that hold. -/
def hbmStatus (s : State) (g : Glove) (ch : BitVec 128) (sl : Slice) : Option Nat :=
  let named := channelsNamed sl
  leastStatus [
    if ch &&& channelsElsewhere s g.part.toNat ≠ 0 ∨ named &&& g.channels &&& ~~~ch ≠ 0 then some 0x48 else none,
    if ch &&& ~~~(channelsAllowed s g) ≠ 0 ∨ named &&& ~~~ch ≠ 0 ∨ (List.range 16).any (regionBad s sl) ∨
        (List.range 16).any (regionKeyless s g.part sl) ∨
        ((List.range 16).any fun i => (List.range i).any fun j => regionsClash sl i j) then some 0x49 else none]

def wordMask (lo hi : Dword) : BitVec 128 := BitVec.ofNat 128 (lo.toNat + hi.toNat * 2 ^ 64)

/-- The bytes of the directory as it stands. -/
def dirBytes (s : State) (g : Glove) : List Byte := (List.range g.vcount).flatMap fun v => leBytes 4 (dirEntry s g v).toNat

def sliceFitWith (s : State) (x : ItemRef) (i : Item) (g : Glove) (ws : List Dword) : State :=
  let w := i.words.getD 3 0
  let hbm := bit w 17
  let stash := BitVec.ofNat 31 (fld w 48 18)
  let dir := i.words.getD 4 0
  let ch := wordMask (i.words.getD 5 0) (i.words.getD 6 0)
  let sl : Slice := { regions := hbmTable (ws.take 32), hbm := hbmTable (ws.drop 32) }
  let t : State := { s with slices := Tbl.set {} s.slices g.part.toNat sl }
  let bad := mapBad s g.part.toNat (ws.take 32) || dir.toNat % 256 != 0 || stash.toNat % 65536 != 0 ||
    !sliceRange sl.regions stash.toNat (65536 * g.stash) || !memRange t g.part hbm dir.toNat (4 * g.vcount)
  match leastStatus [hbmStatus s g ch sl, if bad then some 0x49 else none] with
  | some st => completeItem s x st
  | none =>
    let b := dirBytes s g
    let t := setGlove t { g with fitted := true, dir := [], dirHbm := hbm, dirAddr := dir, stashAddr := stash, channels := ch }
    let t := if hbm then hbmWrite t sl dir.toNat b false else sliceWrite t sl.regions dir.toNat b false
    gloveDone { t with dirCache := (t.dirCache.map fun c => (c.1, c.2.filter fun k => k.1 / 65536 != g.gid.toNat)).filter fun c => c.2 ≠ [] }
      x g.gid (giEpoch i)

def execSliceFit (x : ItemRef) (r : Reply) (s : State) : Outcome :=
  .next (settle (onItem s x 0x61 fun i c =>
    match preGlove s i false false with
    | .error st => completeItem s x st
    | .ok g => gloveList s x i c r 896 fun s ws => sliceFitWith s x i g ws))

/-- CHANNEL_REFIT: descriptors and channel set in one step (R176). -/
def channelRefitWith (s : State) (x : ItemRef) (i : Item) (g : Glove) (ws : List Dword) : State :=
  let ch := wordMask (i.words.getD 4 0) (i.words.getD 5 0)
  let sl : Slice := { getSlice s g.part with hbm := hbmTable ws }
  match hbmStatus s g ch sl with
  | some st => completeItem s x st
  | none =>
    gloveDone (setGlove { s with slices := Tbl.set {} s.slices g.part.toNat sl } { g with channels := ch }) x g.gid (giEpoch i)

def execChannelRefit (x : ItemRef) (r : Reply) (s : State) : Outcome :=
  .next (settle (onItem s x 0x65 fun i c =>
    match preGlove s i false false with
    | .error st => completeItem s x st
    | .ok g => gloveList s x i c r 640 fun s ws => channelRefitWith s x i g ws))

/-- LINK_REFIT: links of the partition, or bound already (Table 12.5). -/
def execLinkRefit (x : ItemRef) (s : State) : Outcome :=
  .next (settle (onItem s x 0x66 fun i _ =>
    match preGlove s i false false with
    | .error st => completeItem s x st
    | .ok g =>
      let m := i.words.getD 4 0
      if m &&& ~~~((getPart s g.part.toNat).links ||| g.links) ≠ 0 then completeItem s x 0x4A
      else gloveDone (setGlove s { g with links := m, linked := true }) x g.gid (giEpoch i)))

/-! ### Binding (R162, R163, R169) -/

/-- Whether a core may carry a vcore of a kind for a glove. -/
def coreStatus (s : State) (g : Glove) (pc : Nat) (kind : BitVec 2) (cl : BitVec 5) (slot : BitVec 3) : List Nat :=
  let part := getPart s g.part.toNat
  let group : Bool := match Tbl.get none s.sync (syncKey cl slot) with | some k => k.gid == g.gid | none => true
  if 320 ≤ pc then [0x44]
  else if slotKind pc ≠ kind.toNat then [0x45]
  else stIf (!coreFree s pc || !bit s.fp.computeMask (pc / 10) || !bit part.clusters (pc / 10) || !bit part.clusters cl.toNat || !bit s.fp.computeMask cl.toNat || !group) 0x44

/-- Statuses of bind entries in list order; earlier entries take their vcore and core. -/
def bindStatuses (s : State) (g : Glove) : List Dword → List (BitVec 16) → List Nat → List (List Nat)
  | [], _, _ => []
  | w :: l, vs, ps =>
    let v := beVcore w
    let here := beNode w == s.node
    let st := entryBad w bindMask ++
      if g.vcount ≤ v.toNat then [0x4A]
      else
        stIf (!isMember g (beNode w)) 0x46 ++ stIf (beKind w == 3) 0x45 ++
        stIf (dirKind (dirEntry s g v.toNat) != 3 || vs.contains v) 0x43 ++
        (if here && beKind w != 3 then coreStatus s g (bePcore w) (beKind w) (beCl w) (beSlot w) ++ stIf (ps.contains (bePcore w)) 0x44 else [])
    st :: bindStatuses s g l (v :: vs) (if here then bePcore w :: ps else ps)

/-- Bind one vcore: the directory here, and the core at its member (R176: idle; the first generation is 0). -/
def bindVcore (s : State) (g : Glove) (w : Dword) : State :=
  let s := dirWrite s g (beVcore w).toNat (dirPack (beNode w) (beKind w) 0)
  if beNode w = s.node then
    fitSync (setBinding s (bePcore w) { vcore := beVcore w, gid := g.gid, sgCl := beCl w, sgSlot := beSlot w, state := 1, part := g.part })
      g.gid g.part (beCl w) (beSlot w)
  else s

def vcoreBindWith (s : State) (x : ItemRef) (i : Item) (g : Glove) (ws : List Dword) : State :=
  match firstStatus (bindStatuses s g ws [] []) with
  | some st => completeItem s x st
  | none => gloveDone (ws.foldl (fun s w => bindVcore s g w) s) x g.gid (giEpoch i)

def execVcoreBind (x : ItemRef) (r : Reply) (s : State) : Outcome :=
  .next (settle (onItem s x 0x62 fun i c =>
    match preGlove s i true false with
    | .error st => completeItem s x st
    | .ok g => gloveList s x i c r (8 * giCount i) fun s ws => vcoreBindWith s x i g ws))

/-- Whether a vcore is moving, out or in. -/
def vcoreMoving (s : State) (gid : BitVec 24) (v : BitVec 16) : Bool :=
  (s.moves.any fun m => m.gid == gid && m.vcore == v) || (s.moveIns.any fun m => m.gid == gid && m.vcore == v)

/-- Wait for cores to stop: an active item that `settle` carries out. -/
def startDrop (s : State) (x : ItemRef) (list : List Dword) (ps : List Nat) : State :=
  let s := updRun s x fun q => { q with active := true, total := 1, list := list }
  ps.foldl (fun s p => stopCore s p 0x12) { s with drops := s.drops ++ [x] }

def vcoreUnbindWith (s : State) (x : ItemRef) (g : Glove) (ws : List Dword) : State :=
  let one (w : Dword) : List Nat :=
    let v := BitVec.ofNat 16 (fld w 15 0)
    entryBad w unbindMask ++
      if g.vcount ≤ v.toNat then [0x4A]
      else stIf (dirState (dirEntry s g v.toNat) == 1 || vcoreMoving s g.gid v) 0x43
  match firstStatus (ws.map one) with
  | some st => completeItem s x st
  | none => startDrop s x ws (ws.filterMap fun w => findBinding s g.gid (BitVec.ofNat 16 (fld w 15 0)))

/-- VCORE_UNBIND: kernels stop at forced points; then the vcores are free (R176). -/
def execVcoreUnbind (x : ItemRef) (r : Reply) (s : State) : Outcome :=
  .next (settle (onItem s x 0x64 fun i c =>
    match preGlove s i true false with
    | .error st => completeItem s x st
    | .ok g => gloveList s x i c r (8 * giCount i) fun s ws => vcoreUnbindWith s x g ws))

/-! ### Members (R169, R176) -/

def memberJoinWith (s : State) (x : ItemRef) (i : Item) (g : Glove) (ws : List Dword) : State :=
  let taken (w : Dword) : Bool := memberNode g (enRank w) != 0x1FFFF && memberNode g (enRank w) != enNode w
  if entriesBad ws memberMask ∨ dupRanks ws ∨ ws.any taken then completeItem s x 0x20
  else gloveDone (setGlove s { g with members := putMembers g.members ws, memberCount := topRank g.memberCount ws }) x g.gid (giEpoch i)

def execMemberJoin (x : ItemRef) (r : Reply) (s : State) : Outcome :=
  .next (settle (onItem s x 0x67 fun i c =>
    match preGlove s i true false with
    | .error st => completeItem s x st
    | .ok g => gloveList s x i c r (memberBytes i) fun s ws => memberJoinWith s x i g ws))

/-- Whether a member holds a vcore, by the directory. -/
def holdsVcores (s : State) (g : Glove) (nodes : List (BitVec 17)) : Bool :=
  (List.range g.vcount).any fun v =>
    let e := dirEntry s g v
    dirKind e != 3 && nodes.contains (dirNode e)

def memberLeaveWith (s : State) (x : ItemRef) (i : Item) (g : Glove) (ws : List Dword) : State :=
  let one (w : Dword) : List Nat :=
    entryBad w memberMask ++ stIf (enNode w == 0x1FFFF || memberNode g (enRank w) != enNode w) 0x46 ++ stIf (holdsVcores s g [enNode w]) 0x47
  match firstStatus (ws.map one) with
  | some st => completeItem s x st
  | none =>
    if (ws.map enNode).contains s.node then completeItem (closeGlove s g) x 0x00
    else gloveDone (setGlove s { g with
        members := ws.foldl (fun t w => Tbl.set 0x1FFFF t (enRank w) 0x1FFFF) g.members
        reports := g.reports.filter fun q => !((ws.map enRank).contains q.rank.toNat) }) x g.gid (giEpoch i)

def execMemberLeave (x : ItemRef) (r : Reply) (s : State) : Outcome :=
  .next (settle (onItem s x 0x68 fun i c =>
    match preGlove s i true false with
    | .error st => completeItem s x st
    | .ok g => gloveList s x i c r (memberBytes i) fun s ws => memberLeaveWith s x i g ws))

/-- A kernel of a glove runs, waits or is suspended here. -/
def gloveBusy (s : State) (gid : BitVec 24) : Bool :=
  ((gloveCores s gid).any fun p => !coreQuiet s p) || (s.sched.waiting.any fun w => w.gid == gid) ||
  (s.sched.suspended.any fun u => u.image.gid == gid)

/-- GLOVE_CLOSE: with ABORT = 0 it is rejected while a kernel runs (Table 7.6). -/
def execGloveClose (x : ItemRef) (s : State) : Outcome :=
  .next (settle (onItem s x 0x69 fun i _ =>
    match preGlove s i false true with
    | .error st => completeItem s x st
    | .ok g =>
      if gloveBusy s g.gid && !bit (i.words.getD 3 0) 17 then completeItem s x 0x4D
      else startDrop s x [] (gloveCores s g.gid)))

/-! ### Crown record and pairs (R180, R183, R184) -/

/-- The crown record (Table 7.13). -/
def crownRecord (g : Glove) : List Byte :=
  leBytes 8 (g.gid.toNat + (if g.frozen then 2 ^ 32 else 0) + (if g.agreed = g.epoch then 2 ^ 33 else 0)) ++
  leBytes 8 g.epoch.toNat ++ leBytes 8 g.agreed.toNat ++ leBytes 48 g.digest.toNat ++ leBytes 8 g.mismatch.toNat

/-- An item served by a slice of its glove (R167); it changes no glove-wide state, so EPOCH is 0. -/
def servedGlove (s : State) (i : Item) : Except Nat Glove :=
  match getGlove s (giGid i) with
  | none => .error 0x46
  | some g => if giEpoch i ≠ 0 then .error 0x20 else .ok g

/-- CROWN_READ. A record address that faults completes the item with LIST_FAULT and faults the context (Table 7.8). -/
def execCrownRead (x : ItemRef) (s : State) : Outcome :=
  .next (settle (onItem s x 0x6A fun i c =>
    match servedGlove s i with
    | .error st => completeItem s x st
    | .ok g =>
      if (giList i).toNat % 8 ≠ 0 then completeItem s x 0x20
      else
        let n := s.faults.length
        let t := writeRecord s x c (giList i) (crownRecord g) 0
        if n < t.faults.length then completeItem t x 0x4C else t))

/-- PAIR_SET. -/
def execPairSet (x : ItemRef) (s : State) : Outcome :=
  .next (settle (onItem s x 0x6B fun i _ =>
    match preGlove s i true false with
    | .error st => completeItem s x st
    | .ok g => gloveDone (setGlove s { g with twin := BitVec.ofNat 24 (fld (i.words.getD 3 0) 40 17) }) x g.gid (giEpoch i)))

/-- PAIR_COMMIT (R184): the fence word decides; `r` is the word where it lies outside the package. -/
def execPairCommit (x : ItemRef) (r : Reply) (s : State) : Outcome :=
  .next (settle (onItem s x 0x6C fun i c =>
    match servedGlove s i with
    | .error st => completeItem s x st
    | .ok _ =>
      let n := giCount i
      if n = 0 ∨ 65536 < n ∨ iw i 6 = 0 ∨ (iw i 5).toNat % 8 ≠ 0 ∨ (giList i).toNat % 8 ≠ 0 then completeItem s x 0x20
      else withList s x c r (iw i 5) 8 fun s ws =>
        if iw i 6 ≤ ws.getD 0 0 then completeItem s x 0x01 else startXfer s x))

/-! ### VCORE_MOVE (R172 to R174, Table 7.9) -/

/-- Statuses of move entries in list order. -/
def moveStatuses (s : State) (g : Glove) : List Dword → List (BitVec 16) → List Nat → List (List Nat)
  | [], _, _ => []
  | w :: l, vs, ps =>
    let v := beVcore w
    let e := dirEntry s g v.toNat
    let here := beNode w == s.node
    let st := entryBad w bindMask ++
      if g.vcount ≤ v.toNat then [0x4A]
      else
        stIf (!isMember g (beNode w)) 0x46 ++
        (if dirState e = 1 ∨ vcoreMoving s g.gid v ∨ recentSwap s g.gid v ∨ vs.contains v then [0x43]
         else if dirKind e = 3 ∨ dirState e = 2 then [0x24]
         else if dirNode e ≠ s.node ∨ (findBinding s g.gid v).isNone then [0x23]
         else if dirKind e ≠ beKind w then [0x45]
         else if here then coreStatus s g (bePcore w) (beKind w) (beCl w) (beSlot w) ++ stIf (ps.contains (bePcore w)) 0x44
         else [])
    st :: moveStatuses s g l (v :: vs) (if here then bePcore w :: ps else ps)

/-- The 9 bytes of PREPARE. -/
def prepareData (m : Move) (gen : Byte) : List Byte :=
  leBytes 2 m.vcore.toNat ++ leBytes 1 m.kind.toNat ++ leBytes 2 m.dst ++ leBytes 1 m.sgCl.toNat ++ leBytes 1 m.sgSlot.toNat ++ [gen]

/-- Begin one move: a local one asks for its point, a cross one prepares its destination. -/
def startMove (s : State) (x : ItemRef) (i : Item) (g : Glove) (w : Dword) : State :=
  match findBinding s g.gid (beVcore w) with
  | none => s
  | some p =>
    let cross := beNode w != s.node
    let m : Move := { item := some x, gid := g.gid, vcore := beVcore w, kind := beKind w, src := p, node := beNode w, dst := bePcore w,
                      sgCl := beCl w, sgSlot := beSlot w, epoch := giEpoch i, force := BitVec.ofNat 16 (fld (i.words.getD 3 0) 32 17),
                      stage := if cross then .prepare else .point }
    let s := { s with moves := s.moves ++ [m] }
    if cross then sendMsg s m.node g.gid 0 0x01 0 (vcoreAddr (getBinding s p).gen m.vcore 0 0 0) (prepareData m (getBinding s p).gen)
    else requestRefit s m

def vcoreMoveWith (s : State) (x : ItemRef) (i : Item) (g : Glove) (ws : List Dword) : State :=
  if giEpoch i = 0 ∧ (ws.any fun w => beNode w != s.node) then completeItem s x 0x41
  else match firstStatus (moveStatuses s g ws [] []) with
    | some st => completeItem s x st
    | none =>
      let cross := ws.any fun w => beNode w != s.node
      let s := if giEpoch i = 0 ∨ cross then s else setEpoch s g.gid (giEpoch i)
      if ws = [] then completeItem s x 0x00
      else ws.foldl (fun s w => startMove s x i g w) (updRun s x fun q => { q with active := true, total := ws.length })

def execVcoreMove (x : ItemRef) (r : Reply) (s : State) : Outcome :=
  .next (settle (onItem s x 0x63 fun i c =>
    match preGlove s i false false with
    | .error st => completeItem s x st
    | .ok g => gloveList s x i c r (8 * giCount i) fun s ws => vcoreMoveWith s x i g ws))

/-- FORCE_TIMEOUT: a point asked for by a move becomes a forced one (Table 7.9 step 4). -/
def execForceTimeout (c : Fin 320) (s : State) : Outcome :=
  let p := c.val
  .next (settle (if (getCore s p).point == .refit && s.moves.any (fun m => m.src == p && m.stage == .point && m.force != 0xFFFF)
    then updCore s p fun k => { k with forced := true } else s))

/-- FORWARDING_RECORD_EXPIRE (R173): the freed core may be bound again. -/
def execForwardingRecordExpire (c : Fin 320) (s : State) : Outcome :=
  .next (settle (kickMoves { s with forwards := s.forwards.filter fun f => !(f.pid == c.val) }))

/-! ### Messages of a move -/

/-- PREPARE at the destination (Table 7.9 step 3). -/
def execPrepare (p : Packet) (s : State) : Outcome :=
  .next (settle (onMsg s p 0x01 fun s q =>
    let v := BitVec.ofNat 16 (msgField q 0 2)
    let pc := msgField q 3 2
    let cl := BitVec.ofNat 5 (msgField q 5 1)
    let slot := BitVec.ofNat 3 (msgField q 6 1)
    let gen := BitVec.ofNat 8 (msgField q 7 1)
    let answer (s : State) (code : Nat) (d : List Byte) : State :=
      sendMsg s q.src q.gid 0 code 0 (vcoreAddr 0 v 0 0 0) (leBytes 2 v.toNat ++ d)
    let status : Option Nat := match getGlove s q.gid with
      | none => some 0x46
      | some g => leastStatus ((stIf (decide (g.vcount ≤ v.toNat)) 0x4A ++ coreStatus s g pc (BitVec.ofNat 2 (msgField q 2 1)) cl slot).map some)
    match status, getGlove s q.gid with
    | none, some g =>
      let s := setBinding s pc { vcore := v, gid := g.gid, gen := gen + 1, sgCl := cl, sgSlot := slot, state := 3, part := g.part }
      let s := fitSync s g.gid g.part cl slot
      answer { s with moveIns := s.moveIns ++ [{ pid := pc, gid := g.gid, vcore := v, src := q.src, gen := gen + 1 }] } 0x02 []
    | st, _ => answer s 0x03 [BitVec.ofNat 8 (st.getD 0x46)]))

/-- The cross move that a message of its destination answers. -/
def moveOf (s : State) (q : Packet) : Option Move :=
  s.moves.find? fun m => m.gid == q.gid && m.vcore.toNat == msgField q 0 2 && m.node == q.src && m.node != s.node

/-- A message of a move that finds no move here: of a vcore that is not bound here it is dropped and logged (R176). -/
def strayMsg (s : State) (q : Packet) : State :=
  let v := BitVec.ofNat 16 (fld q.addr 55 40)
  if (findBinding s q.gid v).isSome || vcoreMoving s q.gid v then s else lateStale s q.gid v (BitVec.ofNat 8 (fld q.addr 63 56))

/-- ACCEPT at the source: the point is requested. -/
def execAccept (p : Packet) (s : State) : Outcome :=
  .next (settle (onMsg s p 0x02 fun s q => match moveOf s q with
    | some m =>
      if m.stage ≠ .prepare then s
      else
        let n := { m with stage := .point }
        requestRefit { s with moves := s.moves.map fun k => if k == m then n else k } n
    | none => strayMsg s q))

/-- REFUSE at the source: the entry ends with its status; while the image is copied, with DEST_LOST (Table 7.11). -/
def execRefuse (p : Packet) (s : State) : Outcome :=
  .next (settle (onMsg s p 0x03 fun s q => match moveOf s q with
    | some m => abortMove s m (if m.stage = .prepare then msgField q 2 1 else 0x4B)
    | none => strayMsg s q))

/-- IMAGE at the destination: chunks in order are kept and acknowledged (R276). -/
def execImage (p : Packet) (s : State) : Outcome :=
  .next (settle (onMsg s p 0x05 fun s q =>
    let v := BitVec.ofNat 16 (fld q.addr 55 40)
    match s.moveIns.find? fun m => m.gid == q.gid && m.vcore == v && m.src == q.src with
    | none => strayMsg s q
    | some m =>
      let n := if m.image.length = 192 * fld q.ext 31 8 then { m with image := m.image ++ q.data } else m
      let s := { s with moveIns := s.moveIns.map fun k => if k == m then n else k }
      sendMsg s q.src q.gid 2 0x06 0 (vcoreAddr 0 v 0 0 0) (leBytes 2 v.toNat ++ leBytes 4 ((n.image.length + 191) / 192))))

/-- The swap of a cross move (Table 7.9 steps 7, 9 and 10). The vcore's kernel, and kernels that waited for the moving vcore (Table 7.11), go with it:
they leave this member's queues as kernels that ended, since no message names them to D (DESIGN CHOICE, log 148). -/
def swapCross (s : State) (m : Move) : State :=
  let b := getBinding s m.src
  let fl := coreFlags s m.src
  let k := (getCore s m.src).kernel
  let s := clearCore (setBinding s m.src {}) m.src
  let s := { s with forwards := s.forwards ++ [⟨m.src, m.gid, m.vcore, b.gen, b.gen + 1, m.node, m.dst, m.item⟩] }
  let s := match getGlove s m.gid with
    | some g => dirWrite s g m.vcore.toNat (dirPack m.node m.kind 0)
    | none => s
  let s := releaseSync (removeMove s m)
  let s := setEpoch s m.gid m.epoch
  let s := sendMsg s m.node m.gid 0 0x04 0 (vcoreAddr (b.gen + 1) m.vcore 0 0 0)
    (leBytes 2 m.vcore.toNat ++ [b.gen + 1] ++ leBytes 4 m.epoch.toNat)
  let s := match getGlove s m.gid with
    | some g => castMsg s g (otherMembers s g) 0x07
        (leBytes 2 m.vcore.toNat ++ leBytes 4 m.node.toNat ++ leBytes 1 m.kind.toNat ++ leBytes 4 m.epoch.toNat)
        (vcoreAddr (b.gen + 1) m.vcore 0 0 0)
    | none => s
  let s := match k with | some k => kernelGone s k.x fl 0 | none => s
  let held := s.sched.waiting.filter fun w => w.gid == m.gid && w.vcore == m.vcore
  let s := { s with sched := { s.sched with waiting := s.sched.waiting.filter fun w => !(w.gid == m.gid && w.vcore == m.vcore) } }
  let s := held.foldl (fun s w => kernelGone s w.x 0 0) s
  moveItemStep s m.item 0 m.dropped

/-- IMAGE_ACK at the source: the last one lets the swap proceed. -/
def execImageAck (p : Packet) (s : State) : Outcome :=
  .next (settle (onMsg s p 0x06 fun s q => match moveOf s q with
    | some m => if m.stage = .copy ∧ m.chunks ≤ msgField q 2 4 then swapCross s m else s
    | none => strayMsg s q))

/-- COMMIT at the destination: bound, image installed, stash applied in arrival order, resumed (Table 7.9 step 8). -/
def execCommit (p : Packet) (s : State) : Outcome :=
  .next (settle (onMsg s p 0x04 fun s q =>
    let v := BitVec.ofNat 16 (msgField q 0 2)
    match s.moveIns.find? fun m => m.gid == q.gid && m.vcore == v && m.src == q.src with
    | none => strayMsg s q
    | some m =>
      let s := { s with moveIns := s.moveIns.filter fun k => !(k == m) }
      let s := setBinding s m.pid { getBinding s m.pid with state := 1, gen := BitVec.ofNat 8 (msgField q 2 1), swapped := some s.refNs }
      let s := resumeImage s m.pid (imageOf (slotKind m.pid) v q.gid m.image)
      m.stash.foldl (fun s k => servePkt k s m.pid) s))

/-- ACCEPT_COMMIT_TIMEOUT: no COMMIT within 10 ms of ACCEPT; the core is released, the stash goes back, the event says the source is lost
(Table 7.11). -/
def execAcceptCommitTimeout (c : Fin 320) (s : State) : Outcome :=
  .next (settle (match s.moveIns.find? fun m => m.pid == c.val with
    | none => s
    | some m =>
      let s := abortIn s m false
      let rank := match getGlove s m.gid with | some g => (rankOf g m.src).getD 0 | none => 0
      logEvent s srcRtp 0x08 true (leBytes 4 m.gid.toNat ++ leBytes 4 rank ++ leBytes 2 0x13 ++ leBytes 4 0)))

/-! ### Binding updates and crowns (R175, R181, R182) -/

/-- BINDING_UPDATE: applied, held, or a freeze. -/
def execBindingUpdate (p : Packet) (s : State) : Outcome :=
  .next (settle (onGloveMsg s p 0x07 fun s q g =>
    let u : BindUpdate := { vcore := BitVec.ofNat 16 (msgField q 0 2), node := BitVec.ofNat 17 (msgField q 2 4),
                            kind := BitVec.ofNat 2 (msgField q 6 1), epoch := BitVec.ofNat 32 (msgField q 7 4), src := q.src }
    if updateFits g u then epochChanged (applyUpdate s g.gid u) g.gid
    else if g.epoch < u.epoch ∧ g.held.length < 16 then setGlove s { g with held := g.held ++ [u] }
    else updateConflict s g u))

/-- Keep a child's report. -/
def keepReport (g : Glove) (r : CrownReport) : Glove := { g with reports := r :: g.reports.filter fun k => !(k.rank == r.rank) }

/-- CROWN from a child: kept for the next report; rank 0 decides at once. -/
def execCrown (p : Packet) (s : State) : Outcome :=
  .next (settle (onGloveMsg s p 0x08 fun s q g => match rankOf g q.src with
    | none => s
    | some k =>
      let s := setGlove s (keepReport g { rank := BitVec.ofNat 17 k, epoch := BitVec.ofNat 32 (msgField q 0 4), count := msgField q 4 4,
                                          digest := BitVec.ofNat 384 (msgField q 8 48) })
      if (parentRank g).isNone then sendCrown s g.gid else s))

/-- MISMATCH travels up; at rank 0 it freezes the glove. -/
def execMismatch (p : Packet) (s : State) : Outcome :=
  .next (settle (onGloveMsg s p 0x09 fun s q g => match rankOf g q.src with
    | none => s
    | some k =>
      sendCrown (setGlove s (keepReport g { rank := BitVec.ofNat 17 k, mismatch := true, epoch := BitVec.ofNat 32 (msgField q 0 4),
                                            epochB := BitVec.ofNat 32 (msgField q 4 4), rankA := BitVec.ofNat 17 (msgField q 8 4),
                                            rankB := BitVec.ofNat 17 (msgField q 12 4) })) g.gid))

/-- AGREED. -/
def execAgreed (p : Packet) (s : State) : Outcome :=
  .next (settle (onGloveMsg s p 0x0A fun s q g =>
    agreeGlove s g.gid (BitVec.ofNat 32 (msgField q 0 4)) (BitVec.ofNat 384 (msgField q 4 48))))

/-- FREEZE. The message has one epoch; the event's second is this member's own. -/
def execFreeze (p : Packet) (s : State) : Outcome :=
  .next (settle (onGloveMsg s p 0x0B fun s q g =>
    let e := BitVec.ofNat 32 (msgField q 0 4)
    freezeGlove s g.gid e e g.epoch (msgField q 4 4) (msgField q 8 4) false))

/-- CROWN_GOSSIP_TICK: the report of every 100 µs. -/
def execCrownGossipTick (gid : BitVec 24) (s : State) : Outcome := .next (settle (kickMoves (sendCrown s gid)))

end Sys2Proof.Machine
end

