-- ==== Sys2Proof/Machine/Links.lean ====
section
/-!
DEFINITION. Fabric links (R238 to R261): training, the link layer's receive side with replay, lane faults and sparing, retrain,
leaving service and the HOLD of a package reset.
-/
namespace Sys2Proof.Machine

/-! ### Service -/

/-- The switched domain of a link's quadrant is in run (R239). -/
def quadRuns (s : State) (n : Nat) : Bool := (getDomain s (40 + n / 16)).st == 0

/-- Change a link; a change of its state raises its source (Table 17.2). -/
def changeLink (s : State) (n : Nat) (f : Link → Link) : State :=
  let t := updLink s n f
  if (getLink t n).st = (getLink s n).st then t else irqEdge t (48 + n)

/-- The link event of Table 17.6. KIND 0 is link down, 1 partner mismatch, 2 spare lane, 3 spare conflict. -/
def linkEvent (s : State) (n : Nat) (cause : Byte) (kind : Nat) : State :=
  let node : Nat := match (getLink s n).partner with | some b => b.node.toNat | none => 0x1FFFF
  logEvent s (srcLink n) 0x09 false ([BitVec.ofNat 8 n, cause, BitVec.ofNat 8 kind] ++ leBytes 4 node)

/-- Put a packet ahead of every later one of its VC and destination (R266). -/
def putAhead (p : Packet) : List Packet → List Packet
  | [] => [p]
  | q :: t => if q.vc = p.vc ∧ q.dst = p.dst then p :: q :: t else q :: putAhead p t

/-- Answer an unreachable request or reduce packet (R267). -/
def answerUnreach (s : State) (p : Packet) : State :=
  match respType p.ttype with
  | none => s
  | some t => (tryRoute s (ownPacket s (unreachAnswer p t))).1

/-- Route one returned packet ahead of later ones (R266). -/
def returnPacket (p : Packet) (s : State) : State :=
  if s.fab.pauses.any fun x => x.1 == p.dst then
    { s with fab := { s.fab with pauses := s.fab.pauses.map fun x => if x.1 == p.dst then (x.1, putAhead p x.2) else x } }
  else match portOf s p with
    | some l => updLink s l fun x => { x with txq := putAhead p x.txq }
    | none => answerUnreach { s with fab := { s.fab with unreach := s.fab.unreach + 1 } } p

/-- Every link sends what it can. -/
def pumpAll (s : State) : State := (s.links.map (·.1)).foldl sendLink s

/-- Leave service (R258): event, retry buffer and queue routed again in SEQ order, the retry buffer's packets marked possibly delivered, receive
buffer discarded. `st` is the state the link enters. -/
def leaveService (s : State) (n : Nat) (cause : Byte) (st : BitVec 4) : State :=
  let l := getLink s n
  let s := changeLink s n fun l => { l with
    st := st
    lanes := 0
    cause := cause
    valid := false
    retry := []
    txq := []
    rxBuf := []
    nakSent := false
    replays := 0
    bringing := false
    bringIn := none
    retrainWait := false
    rejoin := false
    foundHere := false
    asked := false
    verdict := none
    replayAt := none
    uncorr := [] }
  let s := linkEvent s n cause 0
  pumpAll ((l.retry.map (fun (f : Flit) => { f.pkt with maybe := true }) ++ l.txq).foldr returnPacket s)

/-- The state from which a link that is to train starts: DETECT, or OFF where it may not run. -/
def trainFrom (s : State) (n : Nat) : BitVec 4 := if (getLink s n).enable && quadRuns s n then 1 else 0

/-- Leave service and train in full (R257, R258). -/
def goDown (s : State) (n : Nat) (cause : Byte) : State := leaveService s n cause (trainFrom s n)

/-- A training step fails (R242). -/
def linkFail (s : State) (n : Nat) (cause : Byte) : State :=
  changeLink s n fun l => { l with st := 9, lanes := 0, cause := cause, valid := false, hold := false
                                   fails := if l.fails = 3 then 3 else l.fails + 1 }

/-- Start training from DETECT. -/
def startTraining (s : State) (n : Nat) : State :=
  changeLink s n fun l => { l with st := trainFrom s n, lanes := 0, valid := false, hold := false, heldFaults := [] }

/-- The link layer starts (Table 10.2, step 6): SEQ 0, ACK 0xFFF, credits advertised in a CTRL flit; destinations whose route names
the link pause (R265). -/
def enterService (s : State) (n : Nat) (lanes : BitVec 4) : State :=
  let s := changeLink s n fun l => { l with
    st := if lanes = 4 then 6 else 7
    lanes := lanes
    valid := true
    fails := 0
    hold := false
    txSeq := 0
    ackIn := 0xFFF
    retry := []
    replays := 0
    rxSeq := 0
    nakSent := false
    ccumIn := []
    sent := []
    ccumOut := []
    rxBuf := []
    arb := 0
    cvc := 0
    slots := 0
    replayAt := none
    heldFaults := []
    uncorr := [] }
  let s := emitFlit s n (getLink s n).ctrlFlit
  (routesOver s n).foldl pauseDst s

/-! ### Spare lanes (R254 to R256) -/

/-- Physical lane of a logical lane, as the lane order at lock gives it (R241). -/
def physLane (s : State) (n : Nat) (k : BitVec 2) : BitVec 2 := BitVec.ofNat 2 ((getLink s n).laneMap.toNat / 4 ^ k.toNat)

/-- Logical lane of a physical lane. -/
def logLane (s : State) (n : Nat) (k : BitVec 2) : BitVec 2 :=
  BitVec.ofNat 2 (((List.range 4).find? fun i => physLane s n (BitVec.ofNat 2 i) == k).getD k.toNat)

/-- A lane's number among the 16 of its block. With the logical lane it is the name that the two ends use between them, in LANE flits and in
SPARE_PAIR (DESIGN CHOICE, log 160). -/
def laneName (n : Nat) (k : BitVec 2) : BitVec 4 := BitVec.ofNat 4 (4 * (n % 4) + k.toNat)

/-- Pair within the block of a link's logical lane (R240). -/
def lanePair (s : State) (n : Nat) (k : BitVec 2) : BitVec 4 := laneName n (physLane s n k)

/-- This end's identity block on a link's lanes, or on the spare lane of its group (R243). -/
def ownIdentity (s : State) (n : Nat) (spare : Bool) : Identity :=
  let g := n / 4
  let x := getGroup s g
  let m := 4 * g + x.pair.toNat / 4
  { moduleId := s.life.env.serial, node := s.node, link := BitVec.ofNat 6 (if spare then 4 * g else n), spare := spare
    sparePair := if x.spare = 1 then (laneName m (logLane s m (x.pair.setWidth 2))).setWidth 5 else 0x1F }

/-- The block of a link from here on, and that of its group's free spare lane. -/
def sendIdentity (s : State) (n : Nat) : State :=
  let x := getGroup s (n / 4)
  let s := emit s (.identity (BitVec.ofNat 6 n) (wireIdentity (ownIdentity s n false)))
  if x.whole && x.spare == 0 then emit s (.identity (BitVec.ofNat 6 n) (wireIdentity (ownIdentity s n true))) else s

/-- The blocks of every link that sends them, after a change of what they hold. -/
def resendIdentity (s : State) (which : Nat → Bool) : State :=
  ((s.links.filter fun e => which e.1 && decide (4 ≤ e.2.st.toNat) && e.2.st != 9).map (·.1)).foldl sendIdentity s

/-- The group's spare is free, warm and usable. -/
def spareUsable (s : State) (g : Nat) : Bool :=
  let x := getGroup s g
  x.spare == 0 && x.warm && x.whole

/-- The spare takes a pair; the RTP commits change 0x0A (R255). -/
def takeSpare (s : State) (g : Nat) (pair : BitVec 4) : State :=
  let s := setGroup s g { getGroup s g with spare := 1, pair := pair }
  let s := updLink s (4 * g + pair.toNat / 4) fun l => { l with spared := true }
  queueChange (resendIdentity s fun n => n / 4 == g) (.spareLane (Fin.ofNat 16 g) pair)

/-- A LANE flit of this end (R246), naming a logical lane. -/
def laneFlit (s : State) (n op : Nat) (pair : BitVec 4) : State :=
  emitFlit s n { (getLink s n).header 4 with op := BitVec.ofNat 8 op, pair := pair.setWidth 8 }

/-- Start a retrain; `tell` asks the partner for it. A second trigger joins the one that runs (Table 10.9). -/
def startRetrain (s : State) (n : Nat) (tell : Bool) : State :=
  if !(getLink s n).up then s
  else
    let s := if tell then laneFlit s n 4 0 else s
    changeLink s n fun l => { l with st := 8, before := l.st, retrains := l.retrains + 1, retrainWait := false, replays := 0 }

/-- The bring-in is over; a RETRAIN that waited for it starts (Table 10.9). -/
def bringInDone (s : State) (n : Nat) : State :=
  let w := (getLink s n).retrainWait
  let s := updLink s n fun x => { x with bringing := false, bringIn := none, retrainWait := false }
  if w then startRetrain s n true else s

/-- Four-lane striping again. -/
def fourLanes (s : State) (n : Nat) : State :=
  bringInDone (changeLink s n fun l =>
    { l with st := if l.st = 7 then 6 else l.st, lanes := 4, rejoin := false, foundHere := false, asked := false }) n

/-- Three-lane striping (R253). -/
def threeLanes (s : State) (n : Nat) : State :=
  changeLink s n fun l => { l with st := if l.st = 6 then 7 else l.st, lanes := 3, rejoin := false, asked := false }

/-- The pair rejoins, or the spare takes it; answered by SPARE_ACK (R255, steps 4 and 5). -/
def takeSpareIn (s : State) (n : Nat) (k : BitVec 2) : State :=
  let x := getLink s n
  if x.lanes ≠ 3 then s
  else if x.rejoin then fourLanes (laneFlit s n 3 (laneName n k)) n
  else if spareUsable s (n / 4) then fourLanes (takeSpare (laneFlit s n 3 (laneName n k)) (n / 4) (lanePair s n k)) n
  else s

/-- Neither spare carries traffic; the affected link runs on its good pairs (R256). -/
def spareConflict (s : State) (n : Nat) : State :=
  let g := n / 4
  let x := getGroup s g
  let s := linkEvent s n 0 3
  if x.spare ≠ 1 then s
  else
    let m := 4 * g + x.pair.toNat / 4
    let s := resendIdentity (updLink (setGroup s g { x with spare := 3 }) m fun l => { l with spared := false }) fun i => i / 4 == g
    if (getLink s m).up && (getLink s m).lanes == 4 then
      updLink (threeLanes s m) m fun l => { l with dropped := logLane s m (x.pair.setWidth 2) }
    else s

/-- The comparison of SPARE_PAIR at IDENT (R256). A free spare whose BER has not been measured since the group was connected adopts: a newly
placed module does. A partner whose spare is not in use adopts ours: its block does not tell a bad spare from a warm one (DESIGN CHOICE, log
155). -/
def compareSpare (s : State) (n : Nat) (b : Identity) : State :=
  let g := n / 4
  let x := getGroup s g
  let ours : Option (BitVec 4) := if x.spare = 1 then some x.pair else none
  let theirs : Option (BitVec 4) := if b.sparePair.toNat < 16 then
      let m := 4 * g + b.sparePair.toNat / 4
      some (lanePair s m (b.sparePair.setWidth 2)) else none
  match ours, theirs with
  | _, none => s
  | none, some p => if x.spare == 0 && x.whole && (x.warm || !x.seen) then takeSpare s g p else spareConflict s n
  | some p, some q => if p = q then s else spareConflict s n

/-! ### Training (R242 to R245) -/

def execLinkSignalDetected (l : Fin 64) (s : State) : Outcome :=
  .next (settle (if (getLink s l.val).st = 1 then changeLink s l.val fun x => { x with st := 2 } else s))

/-- NO_SIGNAL (R242): DETECT finds none for 500 ms; a link in service that loses its signal leaves service (R258). -/
def execNoSignal (l : Fin 64) (s : State) : Outcome :=
  let x := getLink s l.val
  .next (settle (if x.st = 1 then linkFail s l.val 0x01
    else if x.inService then goDown s l.val 0x01
    else s))

def execLanesTrained (l : Fin 64) (s : State) : Outcome :=
  .next (settle (if (getLink s l.val).st = 2 then changeLink s l.val fun x => { x with st := 3 } else s))

def execTrainTimeout (l : Fin 64) (s : State) : Outcome :=
  .next (settle (if (getLink s l.val).st = 2 then linkFail s l.val 0x02 else s))

/-- Whether the group is connected whole, as lane identity shows (R241). The measurement of a spare starts where it becomes so. -/
def noteWhole (s : State) (g : Nat) (whole : Bool) : State :=
  let x := getGroup s g
  let x := if whole && !x.whole then { x with lockSince := s.refNs, win := [], seen := false } else x
  setGroup s g { x with whole := whole, warm := x.warm && whole
                        spare := if x.spare = 2 then 2 else if !whole then 3 else if x.spare = 3 then 0 else x.spare }

/-- LANES_LOCKED (R241 to R243): the lane order that lane identity shows is taken, and identity blocks are sent. -/
def execLanesLocked (l : Fin 64) (k : LockResult) (s : State) : Outcome :=
  .next (settle (if (getLink s l.val).st = 3 then
      match k with
      | .locked whole lanes =>
        sendIdentity (noteWhole (changeLink s l.val fun x => { x with st := 4, laneMap := lanes }) (l.val / 4) whole) l.val
      | .mixed => linkFail s l.val 0x03
    else s))

/-- The expectation check fails (R243). -/
def mismatched (x : Link) (b : Identity) : Bool := x.check && (b.node != x.expNode || b.link != x.expLink)

def samePartner (x : Link) (b : Identity) : Bool :=
  match x.partner with
  | some p => p.moduleId == b.moduleId && p.link == b.link
  | none => false

/-- A link drops one of its four pairs and runs on three. -/
def dropLane (s : State) (n : Nat) (k : BitVec 2) (here : Bool) : State :=
  let s := updLink (threeLanes s n) n fun x => { x with foundHere := here, dropped := k, bringing := true }
  if here then laneFlit s n 1 (laneName n k) else s

/-- A logical lane is faulted: DEGRADED on three lanes, or down when already there. `here`: this end found it. -/
def laneFault (s : State) (n : Nat) (k : BitVec 2) (here : Bool) (inj : Bool := false) : State :=
  let l := getLink s n
  if !l.up || (l.lanes == 3 && l.dropped == k) then s
  else
    let s := if here then updLink s n fun x => { x with laneFaults := x.laneFaults + 1 } else s
    if l.lanes = 3 then goDown s n 0x06
    else
      let s := dropLane s n k here
      reportError s 0x05 0 (.lane (Fin.ofNat 64 n) (physLane s n k)) (BitVec.ofNat 64 (Tbl.get 0 l.ber k.toNat)) inj

/-- A fault that this end finds of a lane: while the link waits after a HOLD it is recorded and acted on after the restart (R259). -/
def foundFault (s : State) (n : Nat) (k : BitVec 2) : State :=
  if (getLink s n).hold then updLink s n fun x => { x with heldFaults := if x.heldFaults.contains k then x.heldFaults else x.heldFaults ++ [k] }
  else laneFault s n k true

/-- IDENT passes: straight to service after a HOLD that kept lock, with the faults found meanwhile acted on, else QUALIFY (R242, R259). -/
def identPassed (s : State) (n : Nat) (b : Identity) : State :=
  let x := getLink s n
  let kept := x.hold && x.lockKept && samePartner x b
  let s := updLink s n fun l => { l with partner := some b, valid := true }
  let s := compareSpare s n b
  if kept then x.heldFaults.foldl (fun s k => laneFault s n k true) (enterService s n (if x.before = 6 then 4 else 3))
  else if x.hold then startTraining s n
  else changeLink s n fun l => { l with st := 5, qualBad := 0 }

/-- IDENTITY_BLOCK (R243): checked at IDENT; in service the partner's node follows its block. The blocks of spare lanes change nothing
here. -/
def execIdentityBlock (l : Fin 64) (b : Identity) (s : State) : Outcome :=
  let n := l.val
  let x := getLink s n
  .next (settle (if b.spare then s
    else if x.st = 4 then
      if b.proto ≠ 1 then linkFail s n 0x0A
      else if mismatched x b then linkFail (linkEvent (updLink s n fun y => { y with partner := some b }) n 0x04 1) n 0x04
      else identPassed s n b
    else if x.inService then updLink s n fun y => { y with partner := y.partner.map fun p => { p with node := b.node } }
    else s))

/-- The pairs of a link that a lasting verdict lost (change 0x0D) and no spare replaces: they fail every later qualification, so that
the link stays DEGRADED (R253). -/
def lostPairs (s : State) (n : Nat) : BitVec 4 :=
  s.fp.repairLog.foldl (fun m c => match c with
    | .linkThree l k =>
      let x := getGroup s (n / 4)
      if l.val = n ∧ !(x.spare == 1 && x.pair == laneName n k) then m ||| (1 : BitVec 4) <<< (logLane s n k).toNat else m
    | _ => m) 0

/-- Corrected bits of a lane over the 12.8 s window at the limit of 2 in 10^5 of its 1.36 × 10^12 bits (R244, R254). -/
def qualLimit : Nat := 27200000

/-- The logical lanes that fail a qualification: by BER, by an uncorrectable codeword, or as pairs lost for good (R244, R245). -/
def qualFailing (s : State) (n : Nat) (bits : List Nat) : BitVec 4 :=
  (List.range 4).foldl (fun m k => if qualLimit < bits.getD k 0 then m ||| (1 : BitVec 4) <<< k else m) ((getLink s n).qualBad ||| lostPairs s n)

/-- The spare lane of a group has been measured over 12.8 s: corrected bits, none where it lost lock (R254). -/
def spareMeasured (s : State) (g : Nat) (bits : Option Nat) : State :=
  let x := getGroup s g
  let ok : Bool := match bits with | some b => decide (b ≤ qualLimit) | none => false
  setGroup s g { x with seen := true, warm := x.whole && x.spare == 0 && ok }

/-- QUALIFY_WINDOW_END (R244, R245): corrected bits of each logical lane, and of the group's spare lane that qualified alongside. A spare that is
in use or bad stays as it is. -/
def execQualifyWindowEnd (l : Fin 64) (w : QualWindow) (s : State) : Outcome :=
  let n := l.val
  let g := n / 4
  .next (settle (if (getLink s n).st ≠ 5 then s
    else
      let failing := qualFailing s n w.bits
      let s := if (getGroup s g).spare = 0 then spareMeasured s g w.spare else s
      match popcount failing with
      | 0 => enterService s n 4
      | 1 =>
        if spareUsable s g then enterService (takeSpare s g (lanePair s n (BitVec.ofNat 2 (nthSet failing 0)))) n 4
        else updLink (enterService s n 3) n fun y => { y with dropped := BitVec.ofNat 2 (nthSet failing 0) }
      | _ => linkFail s n 0x05))

/-- FAILED_RETRY_TIMER (R242): after three failures in a row the link stays FAILED. -/
def execFailedRetryTimer (l : Fin 64) (s : State) : Outcome :=
  let x := getLink s l.val
  .next (settle (if x.st = 9 ∧ x.fails ≠ 3 then startTraining s l.val else s))

/-! ### Retrain (R257) -/

/-- A replayed flit: a fresh header, whose CVC takes the next of the rotation (R248, R249). -/
def replayOne (n : Nat) (s : State) (f : Flit) : State :=
  let l := getLink s n
  let g := { l.header 1 with vc := f.vc, seq := f.seq, pkt := f.pkt }
  emitFlit (setLink s n { l with cvc := l.cvc + 1 }) n g

/-- Replay from ACK + 1 with fresh headers (R248). -/
def replay (s : State) (n : Nat) : State :=
  let l := getLink s n
  if l.retry = [] || !l.up then s
  else
    let s := setLink s n { l with replays := l.replays + 1, replayAt := some s.refNs }
    let s := countN (l.retry.foldl (replayOne n) s) 6 n 3 l.retry.length
    if 8 ≤ l.replays + 1 then startRetrain s n true else s

/-- What the verdict on a dropped pair does (R253): the end that found the fault asks for the pair or the spare, and the other end
answers where it has been asked. During a retrain it is kept until the link resumes. -/
def laneVerdict (s : State) (n : Nat) (k : BitVec 2) (pass : Bool) : State :=
  let l := getLink s n
  let ask (s : State) : State :=
    if l.foundHere then updLink (laneFlit s n 2 (laneName n k)) n fun x => { x with bringIn := some k }
    else if l.asked then takeSpareIn s n k else s
  if l.st = 8 then setLink s n { l with verdict := some (k, pass) }
  else if !l.up || l.lanes != 3 then s
  else if pass then ask (updLink s n fun x => { x with rejoin := true })
  else if spareUsable s (n / 4) && !((List.range 4).any fun i => (getLink s (n / 4 * 4 + i)).bringIn.isSome) then ask s
  else bringInDone (queueChange s (.linkThree (Fin.ofNat 64 n) (physLane s n k))) n

/-- A verdict that came during the retrain is acted on. -/
def keptVerdict (s : State) (n : Nat) : State :=
  match (getLink s n).verdict with
  | none => s
  | some (k, pass) => laneVerdict (updLink s n fun x => { x with verdict := none }) n k pass

/-- RETRAIN_DONE (R257): with the same partner and within 2 ms the link resumes, if IDENT's checks pass; else full training. -/
def execRetrainDone (l : Fin 64) (b : Identity) (short : Bool) (s : State) : Outcome :=
  let n := l.val
  let x := getLink s n
  .next (settle (if x.st ≠ 8 then s
    else if !short || !samePartner x b then goDown s n 0x07
    else if b.proto ≠ 1 then linkFail (leaveService s n 0x0A 9) n 0x0A
    else if mismatched x b then linkFail (linkEvent (leaveService s n 0x04 9) n 0x04 1) n 0x04
    else
      let s := changeLink s n fun y => { y with st := y.before, partner := some b }
      let s := replay (updLink (compareSpare s n b) n fun y => { y with replays := 0 }) n
      sendLink (keptVerdict s n) n))

def execRetrainTimeout (l : Fin 64) (s : State) : Outcome :=
  .next (settle (if (getLink s l.val).st = 8 then goDown s l.val 0x07 else s))

/-! ### The link layer's receive side (R246 to R249) -/

/-- A flit whose CRC fails, or that counts as such: a reserved type, or a reserved field that is not zero (R246, R247). -/
def badFlit (f : Flit) : Bool := f.crc != flitCrc f || decide (4 < f.ftype.toNat) || f.rsvd != 0 || f.pad.any (· != 0)

/-- The new value of a cumulative credit count, if it is ahead of the old (R248). -/
def ccumTake (old new : BitVec 16) : BitVec 16 := if (new - old).toNat < 2 ^ 15 then new else old

/-- Take ACK and CCUM of a header (R248, R249). -/
def takeHeader (s : State) (n : Nat) (f : Flit) : State :=
  let l := getLink s n
  let d := (f.ack - l.ackIn).toNat
  let l := if d = 0 ∨ 2 ^ 11 ≤ d then l
    else { l with ackIn := f.ack, replays := 0
                  retry := l.retry.filter fun r => !decide (1 ≤ (r.seq - l.ackIn).toNat ∧ (r.seq - l.ackIn).toNat ≤ d) }
  let l := { l with ccumIn := Tbl.upd 0 l.ccumIn f.cvc.toNat fun c => ccumTake c f.ccum }
  setLink s n l

/-- A flit fails its CRC: counted, and one NAK until the expected SEQ arrives. -/
def crcFail (s : State) (n : Nat) : State :=
  let s := count s 6 n 2
  let l := getLink s n
  if l.nakSent then s
  else emitFlit (setLink s n { l with nakSent := true }) n (l.header 3)

/-- A flit of type `t` arrives on a link that carries flits. -/
def onFlit (s : State) (n : Nat) (f : Flit) (t : BitVec 4) (g : State → State) : State :=
  if !(getLink s n).up then s
  else if badFlit f then crcFail s n
  else if f.ftype ≠ t then s
  else sendLink (g (takeHeader s n f)) n

/-- A DATA flit: the next expected one is accepted; a duplicate is acknowledged again; any other is discarded (R248). -/
def takeData (s : State) (n : Nat) (f : Flit) : State :=
  let l := getLink s n
  if f.seq = l.rxSeq then
    count (setLink s n { l with rxSeq := l.rxSeq + 1, nakSent := false
                                rxBuf := l.rxBuf ++ [{ f.pkt with vc := f.vc, link := BitVec.ofNat 6 n, prio := none, maybe := false }] }) 6 n 5
  else if (l.rxSeq - f.seq).toNat < 2 ^ 11 then emitFlit s n (l.header 0)
  else s

def execDataFlit (l : Fin 64) (f : Flit) (s : State) : Outcome :=
  .next (settle (onFlit s l.val f 1 fun s => takeData s l.val f))

/-- CTRL_FLIT (R249). -/
def execCtrlFlit (l : Fin 64) (f : Flit) (s : State) : Outcome :=
  .next (settle (onFlit s l.val f 2 fun s =>
    updLink s l.val fun x => { x with
      ccumIn := (f.ccums.take 4).zipIdx.foldl (fun t e => Tbl.upd 0 t e.2 fun c => ccumTake c e.1) x.ccumIn }))

def execNak (l : Fin 64) (f : Flit) (s : State) : Outcome :=
  .next (settle (onFlit s l.val f 3 fun s => replay s l.val))

/-- REPLAY_TIMEOUT (R248): 2 µs without an advance of ACK, counted from the last replay (Table 10.9). -/
def execReplayTimeout (l : Fin 64) (s : State) : Outcome :=
  let early : Bool := match (getLink s l.val).replayAt with | some t => decide (s.refNs < t + 2000) | none => false
  .next (settle (if early then s else replay s l.val))

def execIdleFlit (l : Fin 64) (f : Flit) (s : State) : Outcome := .next (settle (onFlit s l.val f 0 fun s => s))

/-! ### Lane faults (R252 to R255) -/


/-- A LANE flit with an OP arrives; its pair is one of the link's own. -/
def onLane (s : State) (n : Nat) (f : Flit) (op : Nat) (g : State → BitVec 2 → State) : State :=
  onFlit s n f 4 fun s =>
    if f.op.toNat ≠ op then s
    else if (op = 4 ∨ op = 5) ∨ f.pair.toNat / 4 = n % 4 then g s (f.pair.setWidth 2)
    else s

def execLaneDrop (l : Fin 64) (f : Flit) (s : State) : Outcome :=
  .next (settle (onLane s l.val f 1 fun s k => laneFault s l.val k false))


/-- LANE_SPARE_IN: answered once this end has its own verdict on the pair. -/
def execLaneSpareIn (l : Fin 64) (f : Flit) (s : State) : Outcome :=
  let n := l.val
  .next (settle (onLane s n f 2 fun s k =>
    if (getLink s n).lanes = 3 ∧ (findElem s (.lane l (physLane s n k))).testing then updLink s n fun x => { x with asked := true }
    else takeSpareIn s n k))

def execLaneSpareAck (l : Fin 64) (f : Flit) (s : State) : Outcome :=
  let n := l.val
  .next (settle (onLane s n f 3 fun s _ =>
    let x := getLink s n
    match x.bringIn with
    | none => s
    | some p =>
      if x.rejoin then fourLanes s n
      else if spareUsable s (n / 4) then fourLanes (takeSpare s (n / 4) (lanePair s n p)) n
      else bringInDone (linkEvent s n 0 2) n))

def execSpareAckTimeout (l : Fin 64) (s : State) : Outcome :=
  let n := l.val
  .next (settle (match (getLink s n).bringIn with
    | none => s
    | some _ => bringInDone (linkEvent s n 0 3) n))

def execLaneRetrainReq (l : Fin 64) (f : Flit) (s : State) : Outcome :=
  .next (settle (onLane s l.val f 4 fun s _ => startRetrain s l.val false))


/-- The verdict on a spare lane (R254). -/
def spareVerdict (s : State) (g : Nat) (pass : Bool) : State :=
  let x := getGroup s g
  if pass then setGroup s g { x with warm := x.whole && x.spare == 0 }
  else
    let s := linkEvent (setGroup s g { x with spare := 2, warm := false }) (4 * g) 0 2
    queueChange (if x.spare = 1 then updLink s (4 * g + x.pair.toNat / 4) fun l => { l with spared := false } else s)
      (.spareLaneBad (Fin.ofNat 16 g))

/-- SPARE_NOT_WARM_TIMEOUT (R254): a free spare that is not warm for 60 s undergoes its self-test. -/
def execSpareNotWarmTimeout (g : Fin 16) (s : State) : Outcome :=
  let x := getGroup s g.val
  .next (settle (if x.spare ≠ 0 then s
    else
      let s := setGroup s g.val { x with warm := false }
      let e := findElem s (.spareLane g)
      if e.testing then s else setElem s { e with testing := true, source := 0x05, severity := 0, detail := 0, injected := false }))

/-- LANE_LOCK_LOSS (R252, R254, R259): of a logical lane, or, lane 4, of the group's free spare lane, whose measurement starts again. -/
def execLaneLockLoss (l : Fin 64) (lane : Fin 5) (s : State) : Outcome :=
  let n := l.val
  .next (settle (if lane.val = 4 then
      let x := getGroup s (n / 4)
      setGroup s (n / 4) { x with warm := false, lockSince := s.refNs, win := [] }
    else foundFault (updLink s n fun x => { x with lockKept := x.lockKept && !x.hold }) n (BitVec.ofNat 2 lane.val)))

/-- UNCORRECTABLE_CODEWORD (R244, R252, R257, R259). -/
def execUncorrectableCodeword (l : Fin 64) (lane : BitVec 2) (s : State) : Outcome :=
  let n := l.val
  let s := count s 6 n 1
  let x := getLink s n
  let recent := x.uncorr.filter fun e => decide (s.refNs < e.2 + 1000000000)
  let s := setLink s n { x with uncorr := recent ++ [(lane, s.refNs)], lockKept := x.lockKept && !x.hold
                                qualBad := if x.st = 5 then x.qualBad ||| (1 : BitVec 4) <<< lane.toNat else x.qualBad }
  let s := if (x.up || x.hold) && recent.any (fun e => e.1 == lane) then foundFault s n lane else s
  .next (settle (if x.up && recent.any (fun e => e.1 != lane) then startRetrain s n true else s))

/-- A window of a group's free spare lane ends: it is warm while its BER over the last 12.8 s is within the limit and it has kept lock (R254). -/
def spareWindow (s : State) (g bits : Nat) : State :=
  let x := getGroup s g
  if x.spare ≠ 0 then s
  else
    let win := (s.refNs, bits) :: x.win.filter fun e => decide (s.refNs < e.1 + 12800000000)
    let s := setGroup s g { x with win := win }
    if s.refNs < x.lockSince + 12800000000 then s else spareMeasured s g (some (win.map (·.2)).sum)

/-- LANE_BER_WINDOW_END (R252, R254): bits corrected and codewords with corrected symbols of a lane's 10 ms window, and its BER in parts per
10^9; lane 4 is the group's free spare lane. -/
def execLaneBerWindowEnd (l : Fin 64) (lane : Fin 5) (bits codewords ppb : Nat) (s : State) : Outcome :=
  let n := l.val
  .next (settle (if lane.val = 4 then spareWindow s (n / 4) bits
    else
      let s := countN s 6 n 0 codewords
      let s := updLink s n fun x => { x with laneBits := Tbl.upd 0 x.laneBits lane.val (· + BitVec.ofNat 32 bits)
                                             ber := Tbl.set 0 x.ber lane.val ppb }
      if 100000 < ppb then foundFault s n (BitVec.ofNat 2 lane.val) else s))

/-! ### HOLD (R259), the manager and the domain -/

/-- The link waits at LOCK for the package that resets. -/
def holdLink (s : State) (n : Nat) : State :=
  let x := getLink s n
  let s := leaveService s n 0x0B 3
  updLink s n fun l => { l with hold := true, lockKept := true, heldFaults := [], before := if x.st = 8 then x.before else x.st }

def execLaneHold (l : Fin 64) (f : Flit) (s : State) : Outcome :=
  .next (settle (onLane s l.val f 5 fun s _ => holdLink s l.val))

def execHoldRestartTimeout (l : Fin 64) (s : State) : Outcome :=
  .next (settle (if (getLink s l.val).hold then startTraining s l.val else s))

/-- HOLD on every link in service, at the start of a package reset. -/
def sendHold (s : State) : State :=
  (s.links.filter fun e => e.2.inService).foldl (fun s e => holdLink (laneFlit s e.1 5 0) e.1) s

/-- Turn a link off with a cause. -/
def linkOff (s : State) (n : Nat) (cause : Byte) : State :=
  if (getLink s n).inService then leaveService s n cause 0
  else if (getLink s n).st = 0 then s
  else changeLink s n fun l => { l with st := 0, lanes := 0, cause := cause, valid := false, hold := false }

/-- A link that may train does. -/
def linkOn (s : State) (n : Nat) : State := if (getLink s n).st = 0 then startTraining s n else s

/-- Host writes to manager registers are counted and ignored (R260, R404). -/
def ignoreHostWrite (s : State) : State := 
  if s.regs.hostWrIgn = 0xFFFFFFFF then s else { s with regs := { s.regs with hostWrIgn := s.regs.hostWrIgn + 1 } }

/-- A block whose registers have frozen ignores writes (R409). -/
def frozenBlock (s : State) (b : Nat) : Bool := bit s.regs.frozen b

/-- A write of ENABLE (R260). -/
def linkEnable (s : State) (n : Nat) (on : Bool) : State :=
  if on then linkOn (updLink s n fun x => { x with enable := true }) n
  else
    let s := updLink s n fun x => { x with enable := false }
    if (getLink s n).st = 0 then updLink s n fun x => { x with cause := 8 } else linkOff s n 8

/-- A write of RETRAIN (R257): from FAILED a full training; during a spare bring-in it waits. -/
def linkRetrain (s : State) (n : Nat) : State :=
  let x := getLink s n
  if x.st = 9 then startTraining (updLink s n fun y => { y with fails := 0 }) n
  else if x.up && x.bringing then updLink s n fun y => { y with retrainWait := true }
  else startRetrain s n true

/-- Whether the registers of a link are reached: their quadrant is in run (R404). -/
def linkRegs (s : State) (n : Nat) : Bool := domainRuns s (40 + n / 16)

/-- FAB_LINK_ENABLE. -/
def execFabLinkEnable (v : View) (l : Fin 64) (on : Bool) (s : State) : Outcome :=
  .next (settle (match v with
    | .host => ignoreHostWrite s
    | .manager => if frozenBlock s 4 || !linkRegs s l.val then s else linkEnable s l.val on))

/-- FAB_LINK_RETRAIN. -/
def execFabLinkRetrain (v : View) (l : Fin 64) (s : State) : Outcome :=
  .next (settle (match v with
    | .host => ignoreHostWrite s
    | .manager => if frozenBlock s 4 || !linkRegs s l.val then s else linkRetrain s l.val))

end Sys2Proof.Machine
end

