-- ==== Sys2Proof/Machine/Fabric.lean ====
section
/-!
DEFINITION. The Eomen fabric's transaction layer (R262 to R289): transit, windows at the receiver, answers at the requester, in-network
reduction, time, and the items of Table 11.6 but for the job keys.
-/
namespace Sys2Proof.Machine

/-! ### Transit (R264 to R267) -/

/-- Route a packet, and answer it where it is unreachable. -/
def routeOn (s : State) (p : Packet) : State :=
  let r := tryRoute s p
  if r.2 then r.1 else answerUnreach r.1 p

def countExpired (s : State) : State := { s with fab := { s.fab with expired := s.fab.expired + 1 } }

/-- TRANSIT_PACKET: HOPS + 1, and on to a port; dropped beyond HOP_LIMIT. -/
def execTransitPacket (p : Packet) (s : State) : Outcome :=
  .next (settle (if !s.fab.nodeValid || p.dst == s.node then s
    else
      let s := takeRx s p
      if s.fab.hopLimit.toNat < p.hops.toNat + 1 then countExpired s else routeOn s { p with hops := p.hops + 1 }))

/-- Two packets are the same, whatever this package notes beside them. -/
def samePacket (p q : Packet) : Bool := { p with prio := none, maybe := false } == { q with prio := none, maybe := false }

/-- The packets that wait in this package. -/
def waitsHere (s : State) (p : Packet) : Bool :=
  (s.links.any fun e => e.2.rxBuf.contains p || e.2.txq.any (samePacket p)) || s.fab.pauses.any fun x => x.2.any (samePacket p)

/-- PACKET_EXPIRE: it has waited 5 ms here, or would exceed HOP_LIMIT. -/
def execPacketExpire (p : Packet) (s : State) : Outcome :=
  .next (settle (if waitsHere s p then
      let s := takeRx s p
      countExpired { s with links := s.links.map fun e => (e.1, { e.2 with txq := e.2.txq.eraseP (samePacket p) })
                            fab := { s.fab with pauses := s.fab.pauses.map fun x => (x.1, x.2.eraseP (samePacket p)) } }
    else if s.fab.nodeValid && p.dst != s.node && decide (s.fab.hopLimit.toNat < p.hops.toNat + 1) then countExpired s
    else s))

/-- DRAIN_END (R265): the packets that waited use the new selection. -/
def execDrainEnd (node : BitVec 17) (s : State) : Outcome :=
  .next (settle (match s.fab.pauses.find? fun x => x.1 == node with
    | none => s
    | some x =>
      x.2.foldl routeOn { s with fab := { s.fab with pauses := s.fab.pauses.filter fun y => y.1 != node } }))

/-! ### Windows at the receiver (R226, R274) -/

/-- FILTER of a window entry. -/
def passesFilter (s : State) (w : Window) (src : BitVec 17) : Bool :=
  match w.filter.toNat with
  | 0 => true
  | 1 => memberOf s w.gid src
  | 2 => src == w.node
  | _ => false

/-- RIGHTS of a window entry. -/
def hasRight (w : Window) : Acc → Bool
  | .rd => bit w.rights 0
  | .wr => bit w.rights 1
  | .atomic => bit w.rights 2
  | .red => bit w.rights 3

/-- Checks 1 to 7 of Table 9.7: the object, or the reason of the first that fails. -/
def windowEntry (s : State) (p : Packet) (acc : Acc) : Except Byte MemObj :=
  let w := Tbl.get {} s.windows (fld p.addr 55 44)
  if !w.valid then .error 0x01
  else if w.closing then .error 0x02
  else match getObj s w.obj with
    | none => .error 0x02
    | some o =>
      if o.cuffed then .error 0x02
      else if fld p.addr 63 56 ≠ w.wgen.toNat then .error 0x03
      else if !passesFilter s w p.src then .error 0x04
      else if w.keyed && !(p.keyed && p.gid == w.gid) then .error 0x05
      else if p.legacy && !w.legacyOk then .error 0x06
      else if !hasRight w acc then .error 0x07
      else .ok o

/-- Check 8: offset and length within the object, and a slice address that decodes. -/
def objRange (s : State) (o : MemObj) (off n : Nat) : Bool :=
  decide (off + n ≤ o.size.toNat) && memRange s (objPart s o) o.hbm (o.base.toNat + off) n

def windowOff (p : Packet) : Nat := fld p.addr 43 0

/-- What a request finds: the object and slice address of its `n` bytes, or the reason it is refused. `form` says that the request is
in the form of Table 11.3; one that is not is refused with RANGE. -/
def windowAt (s : State) (p : Packet) (acc : Acc) (n : Nat) (form : Bool) : Except Byte (MemObj × Nat) :=
  match windowEntry s p acc with
  | .error k => .error k
  | .ok o => if form && objRange s o (windowOff p) n then .ok (o, o.base.toNat + windowOff p) else .error 0x08

/-- A piece of an object as a window reads it: data, poison, protected. -/
def windowRead (s : State) (o : MemObj) (a n : Nat) : List Byte × Bool × Bool :=
  let b := devRead s (objPart s o) o.hbm a n
  (b.1, b.2, devProtected s (objPart s o) o.hbm a n)

/-- STATUS of data (Table 11.4). -/
def dataStatus (bad prot : Bool) : Byte := if prot then 0x11 else if bad then 0x10 else 0

/-- A status with its data; a refusal carries none (R271). -/
def respondData (s : State) (p : Packet) (t : BitVec 5) (d : List Byte) (bad prot : Bool) (ext : Word) : State :=
  respond s p t (dataStatus bad prot) (if prot then d.map fun _ => 0 else d) (bad && !prot) ext

def refuse (s : State) (p : Packet) (t : BitVec 5) (k : Byte) : State := respond s p t k [] false

/-- A window request of a type: it waits, unconsumed, while a domain that it touches is not in run (R326). -/
def onWindow (s : State) (p : Packet) (t : BitVec 5) (acc : Acc) (ranges : Packet → List (Nat × Nat)) (f : State → Packet → State) : State :=
  onPacket s p t fun u q =>
    match windowEntry u q acc with
    | .error _ => f u q
    | .ok o =>
      let ds := if u.gov.domains = [] then []
        else (ranges q).flatMap fun r => memDomains u (objPart u o) o.hbm (o.base.toNat + r.1) (min r.2 4096)
      let m := meetDomains u ds
      if m.2 then f m.1 q else (meetDomains s ds).1

/-- FABRIC_READ_REQ: ceil(LEN / 192) chunks, or one status-only response. -/
def readReq (s : State) (p : Packet) : State :=
  let n := p.len.toNat
  match windowAt s p .rd n (decide (1 ≤ n ∧ n ≤ 4096)) with
  | .error k => refuse s p 0x02 k
  | .ok (o, a) =>
    let s := devReadLog s (objPart s o) o.hbm a n
    (List.range ((n + 191) / 192)).foldl (fun s c =>
      let r := windowRead s o (a + 192 * c) (min 192 (n - 192 * c))
      respondData s p 0x02 r.1 r.2.1 r.2.2 (BitVec.ofNat 32 c)) s

def execFabricReadReq (p : Packet) (s : State) : Outcome := .next (settle (onWindow s p 0x01 .rd (fun q => [(windowOff q, q.len.toNat)]) readReq))

/-- FABRIC_WRITE: applied, then acknowledged (R233), where the host holds a line only after its snoop (R232). -/
def writeReq (s : State) (p : Packet) : State :=
  let n := p.len.toNat
  match windowAt s p .wr n (decide (1 ≤ n ∧ n ≤ 192)) with
  | .error k => refuse s p 0x04 k
  | .ok (o, a) =>
    let s := devWrite s (objPart s o) o.hbm a (p.data.take n) p.poison
    respondAfter s p 0x04 0 [] false (snoopsIn s (objPart s o) o.hbm a n)

def execFabricWrite (p : Packet) (s : State) : Outcome := .next (settle (onWindow s p 0x03 .wr (fun q => [(windowOff q, q.len.toNat)]) writeReq))

/-- The update of an ATOMIC's OP. -/
def atomicNew (op old v cmp : Nat) : Nat :=
  match op with
  | 0 => (old + v) % 2 ^ 64
  | 1 => v
  | 2 => if old = cmp then v else old
  | _ => max old v

/-- FABRIC_ATOMIC: one indivisible update; the old value is returned, as a write's acknowledgement is. -/
def atomicReq (s : State) (p : Packet) : State :=
  let op := fld p.ext 3 0
  match windowAt s p .atomic 8 (windowOff p % 8 == 0) with
  | .error k => refuse s p 0x06 k
  | .ok (o, a) =>
    let r := windowRead s o a 8
    let v := atomicNew op (leNat r.1) (leNat (p.data.take 8)) (leNat ((p.data.drop 8).take 8))
    let s := devWrite (devReadLog s (objPart s o) o.hbm a 8) (objPart s o) o.hbm a (leBytes 8 v) (r.2.1 || p.poison)
    let d := if r.2.2 then r.1.map fun _ => 0 else r.1
    respondAfter s p 0x06 (dataStatus r.2.1 r.2.2) d (r.2.1 && !r.2.2) (snoopsIn s (objPart s o) o.hbm a 8)

def execFabricAtomic (p : Packet) (s : State) : Outcome :=
  .next (settle (onWindow s p 0x05 .atomic (fun q => [(windowOff q, 8)]) fun s q => if 3 < fld q.ext 3 0 then countDup s else atomicReq s q))

/-- GATHER: the rows packed in index order; one that leaves the object refuses the whole (R275). -/
def gatherReq (s : State) (p : Packet) : State :=
  let rb := fld p.ext 7 0
  let nr := fld p.ext 15 8
  let form := decide (4 ≤ rb ∧ rb ≤ 192 ∧ rb % 4 = 0 ∧ 1 ≤ nr ∧ nr ≤ 48)
  match windowEntry s p .rd with
  | .error k => refuse s p 0x02 k
  | .ok o =>
    let offs := (List.range nr).map fun j => windowOff p + leNat ((p.data.drop (4 * j)).take 4) * rb
    if !form || !(offs.all fun f => objRange s o f rb) then refuse s p 0x02 0x08
    else
      let s := offs.foldl (fun s f => devReadLog s (objPart s o) o.hbm (o.base.toNat + f) rb) s
      let rows := offs.map fun f => windowRead s o (o.base.toNat + f) rb
      let bytes := rows.flatMap (·.1)
      (List.range ((nr * rb + 191) / 192)).foldl (fun s c =>
        let mine := (rows.zipIdx.filter fun e => decide (e.2 * rb < 192 * c + 192) && decide (192 * c < e.2 * rb + rb)).map (·.1)
        respondData s p 0x02 ((bytes.drop (192 * c)).take 192) (mine.any (·.2.1)) (mine.any (·.2.2)) (BitVec.ofNat 32 c)) s

def execGather (p : Packet) (s : State) : Outcome := 
  .next (settle (onWindow s p 0x07 .rd (fun q => (List.range (min 48 (fld q.ext 15 8))).map fun j =>
    (windowOff q + leNat ((q.data.drop (4 * j)).take 4) * fld q.ext 7 0, fld q.ext 7 0)) gatherReq))

/-- An earlier VC1 request of a FENCE's stream waits, in a receive buffer or with its answer. -/
def fenceBehind (s : State) (p : Packet) : Bool :=
  (s.links.any fun e => e.2.rxBuf.any fun q =>
    q.src == p.src && q.dst == p.dst && q.incarn == p.incarn && q.vc == 1 && decide (q.seq < p.seq)) ||
  s.fab.answers.any fun q => q.dst == p.src

/-- FENCE: answered once every earlier VC1 request of its stream has taken effect; until then it waits, unconsumed (R270). -/
def execFence (p : Packet) (s : State) : Outcome :=
  .next (settle (onPacket s p 0x0B fun t q => if fenceBehind s q then s else respond t q 0x0C 0 [] false))

/-- FENCE_RESP: it matches no request of an item, for none sends FENCE. -/
def execFenceResp (p : Packet) (s : State) : Outcome := .next (settle (onPacket s p 0x0C fun s _ => s))

/-! ### Answers at the requester (R227, R274) -/

/-- A window request that waits for an answer: from the package it went to, or UNREACHABLE from one on the way (R267). -/
def findReq (s : State) (p : Packet) (use : WinUse → Bool) : Option WinReq :=
  s.winReqs.find? fun r => r.tag == p.tag && (r.node == p.src || p.status == 0x12) && use r.use

/-- The request leaves the table and its regulator. -/
def endReq (s : State) (r : WinReq) : State :=
  regDone { s with winReqs := s.winReqs.filter fun q => !(q.tag == r.tag) } r.part.toNat 1 r.lc r.due

/-- A refused request faults its context (R227); a STALE legacy refusal drops the cached generation (R274). A stopped item ends with its last
answer. -/
def reqRefused (s : State) (r : WinReq) (k : Byte) : State :=
  let s := endReq s r
  let s := if r.legacy && k == 3 then { s with legacyGen := s.legacyGen.filter fun e => e.1 != r.node } else s
  if r.use = .ring then raise s { ctx := r.ctx, cls := 6, cause := 5, addr := r.va }
  else stopDone (faultItem (uncountWrite s r) r.x 4 0x0A r.va (windowDetail k r.node r.window)) r.x

/-- The data of a chunk in parts that do not cross a page of the destination. -/
def dstParts (i : Item) (data : List Byte) : List (List Byte) :=
  let n := toPage (xferDst i i.run.bytes)
  if data.length ≤ n then [data] else [data.take n, data.drop n]

/-- Bytes of an item so far; none once it has completed. -/
def doneBytes (s : State) (x : ItemRef) : Option Nat := (getItem s x).map (·.run.bytes)

/-- A chunk of a read: it must be the next one. Where its destination has no translation the rest is asked for again later. -/
def readChunk (s : State) (r : WinReq) (p : Packet) : State :=
  let d := p.data.take p.len.toNat
  if fld p.ext 15 0 * 192 ≠ r.got ∨ d = [] ∨ r.bytes < r.got + d.length then s
  else
    let q := { r with got := r.got + d.length }
    let s := { s with winReqs := s.winReqs.map fun k => if k == r then q else k }
    match getItem s r.x with
    | none => endReq s q
    | some i =>
      let t := (dstParts i d).foldl (fun s b => deliver s r.x b (flagsOf b (p.status == 0x10)) false) s
      let whole : Bool := match doneBytes t r.x with | some n => n == i.run.bytes + d.length | none => true
      if !whole then endReq t q
      else if q.got = q.bytes then nextPiece (endReq t q) r.x
      else t

/-- FABRIC_READ_RESP. -/
def readRespAt (s : State) (p : Packet) : State :=
  match findReq s p fun u => u == .read || u == .gather with
  | none => s
  | some r =>
    if p.status = 0 ∨ p.status = 0x10 then readChunk s r p
    else if p.status = 0x11 then faultItem (endReq s r) r.x 5 0x02 r.va 0
    else reqRefused s r p.status

def execFabricReadResp (p : Packet) (s : State) : Outcome := .next (settle (onPacket s p 0x02 readRespAt))

/-- FABRIC_WRITE_ACK (R233). -/
def execFabricWriteAck (p : Packet) (s : State) : Outcome :=
  .next (settle (onPacket s p 0x04 fun s q =>
    match findReq s q fun u => u == .write || u == .ring with
    | none => s
    | some r =>
      if q.status ≠ 0 then reqRefused s r q.status
      else if r.use = .ring then endReq s r
      else requestDone (endReq s r) r.x))

/-- The fence update of an item is done: it completes, with the status it was stopped with where it was. -/
def atomicDone (s : State) (x : ItemRef) : State :=
  match getItem s x with
  | none => s
  | some i => if i.run.stop.isSome then stopDone s x else completeItem s x 0x00

/-- ATOMIC_RESP: the fence update is done. The old value is consumed: poison and protection fault the context. -/
def execAtomicResp (p : Packet) (s : State) : Outcome :=
  .next (settle (onPacket s p 0x06 fun s q =>
    match findReq s q fun u => u == .atomic with
    | none => s
    | some r =>
      if q.status = 0 then atomicDone (endReq s r) r.x
      else if q.status = 0x10 then stopDone (faultItem (endReq s r) r.x 5 0x01 r.va 0) r.x
      else if q.status = 0x11 then stopDone (faultItem (endReq s r) r.x 5 0x02 r.va 0) r.x
      else reqRefused s r q.status))

/-! ### Reduction (R281 to R285) -/

/-- Tell a contributor the outcome. -/
def tellOne (st : Byte) (s : State) : Contributor → State
  | .local p v t r lc part due =>
    let s := regTold s (.local p v t r lc part due)
    if st = 0 then s else refuseRow s p
  | .packet src tag gid addr =>
    sendPacket s { ttype := 0x0A, dst := src, tag := tag, gid := gid, addr := addr, status := st, vc := 2 }

def tellAll (s : State) (l : List Contributor) (st : Byte) : State := l.foldl (tellOne st) s

/-- Tell a contributor that its packet has been added; another package once the snoops are over (R232). -/
def tellAfter (s : State) : Contributor → State
  | .packet src tag gid addr =>
    { s with fab := { s.fab with answers := s.fab.answers ++ [{ ttype := 0x0A, dst := src, tag := tag, gid := gid, addr := addr, vc := 2 }] } }
  | c => tellOne 0 s c

/-- What delivery at the root came to: an outcome, one that comes later or never, or a wait for room. -/
inductive Rooted where
  | done (s : State) (st : Byte)
  /-- Added, with a snoop of a line outstanding. -/
  | held (s : State)
  | later (s : State)
  | wait

/-- The packet of a served row: from the ring stop of the link it came over to the core that carries its vcore (R17, R144). -/
def rootRow (c : Combined) (p : Nat) (gen : Byte) : MeshPkt :=
  let stop := linkStop c.pkt.link.toNat
  { type := 6, tile := BitVec.ofNat 3 (fld c.pkt.addr 39 37), row := BitVec.ofNat 7 (fld c.pkt.addr 36 30)
    seg := BitVec.ofNat 3 (fld c.pkt.addr 29 27), vc := 3, len := 6, dstCl := BitVec.ofNat 5 (p / 10), dstPort := BitVec.ofNat 4 (p % 10)
    srcPort := 13, gen := gen, srcCl := BitVec.ofNat 5 (stopRouter stop), stop := BitVec.ofNat 5 stop
    contrib := BitVec.ofNat 8 c.contrib, payload := c.pkt.data, poison := if c.pkt.poison then flagsOf c.pkt.data true else [] }

/-- The tile of a vcore at the root (R166, R174, R283, R284). Without FWD the generation is the binding's. A served row is carried to its core. -/
def rootTile (s : State) (c : Combined) : Rooted :=
  let v := BitVec.ofNat 16 (fld c.pkt.addr 55 40)
  let gid := c.pkt.gid
  let tile := fld c.pkt.addr 39 37
  let row := fld c.pkt.addr 36 30
  let seg := fld c.pkt.addr 29 27
  let gen := BitVec.ofNat 8 (fld c.pkt.addr 63 56)

  let moved (node : BitVec 17) (dst : Nat) (gen : Byte) : Rooted :=
    if node = s.node then .done (forwardMesh s (rootRow c dst gen) gid v node dst gen []) 0
    else .later (issueReduce (countForward s gid v) { c.pkt with fwd := true, keyed := false, addr := vcoreAddr gen v tile row seg } node
      c.contrib c.from_)
  match findBinding s gid v with
  | none => match s.forwards.find? fun f => f.gid == gid && f.vcore == v with
    | some f => if staleOf s gid then .later (countDrop s f.pid) else moved f.node f.dst f.newGen
    | none => .done s 0x14
  | some p =>
    let b := getBinding s p
    let pkt := rootRow c p (if c.pkt.fwd then gen else b.gen)
    if portWaits s pkt then .wait
    else match steer s p pkt.gen with
    | .serve =>
      if slotKind p ≠ 0 then .done s 0x14
      else if coreCuffed s p then .done s 0x02
      else
        let r := carry (pktRoute pkt) s ⟨pkt, []⟩
        let q := r.2.pkt
        let t := tileArrive r.1 p tile row seg q.contrib.toNat (pktPartials q.payload) (q.poison.any id)
        .done t.1 (if t.2 then 0 else 0x14)
    | .forward _ _ node dst gen => moved node dst gen
    | .stash => match s.moveIns.find? fun m => m.pid == p with
      | some m => if stashRoom s m then .done (stashPkt s p pkt) 0 else .wait
      | none => .done s 0x14
    | .drop => .later (countDrop s p)
    | .late => .later (lateStale s gid v pkt.gen)

/-- The REDUCE_SRAM packet of a root's window: from the ring stop of the link it came over to the cluster of its address (R17, R144). -/
def rootPkt (c : Combined) (part : BitVec 4) (map : Tbl Dword) (a : Nat) : MeshPkt :=
  let cl := match sliceDecode map a with | some k => sramBank k / 32 | none => 0
  let stop := linkStop c.pkt.link.toNat
  { type := 5, vc := 3, dstCl := BitVec.ofNat 5 cl, dstPort := 10, srcCl := BitVec.ofNat 5 (stopRouter stop), srcPort := 13
    stop := BitVec.ofNat 5 stop, part := part, addr := BitVec.ofNat 31 a, len := 6, contrib := BitVec.ofNat 8 c.contrib
    payload := c.pkt.data, poison := if c.pkt.poison then flagsOf c.pkt.data true else [] }

/-- The window at the root (R283): SRAM, 4-byte aligned, within one region; the packet is carried to its banks. -/
def rootWindow (s : State) (c : Combined) : Rooted :=
  let off := windowOff c.pkt
  match windowAt s c.pkt .red 192 (off % 4 == 0) with
  | .error k => .done s k
  | .ok (o, a) =>
    if o.hbm || a / 2 ^ 26 != (a + 191) / 2 ^ 26 || a % 4 != 0 then .done s 0x08
    else
      let part := objPart s o
      let map := (getSlice s part).regions
      let pkt := rootPkt c part map a
      let r := carry (pktRoute pkt) s ⟨pkt, map⟩
      let s := sliceLost (snoopLines r.1 part false a 192) map part a 192 true
      let t := sliceReduceAll s map a (partialBad r.2.pkt) (pktPartials r.2.pkt.payload)
      if snoopsIn s part false a 192 then .held t else .done t 0

def rootDeliver (s : State) (c : Combined) : Rooted := if c.pkt.ttype = 8 then rootWindow s c else rootTile s c

/-- Deliver at the root and tell the contributors; `kept` is the state where the packet must wait. -/
def atRoot (s kept : State) (c : Combined) : State :=
  match rootDeliver s c with
  | .done s st => tellAll s c.from_ st
  | .held s => c.from_.foldl tellAfter s
  | .later s => s
  | .wait => kept

/-- A packet leaves a vertex: up the tree, into the root's slice, or, without its tree, straight to ROOT (R283, R285). -/
def releaseComb (s kept : State) (c : Combined) : State :=
  let root := extRoot c.pkt.ext
  match getTree s c.tree.toNat with
  | some t => if t.root = s.node then atRoot s kept c else releaseUp s c t
  | none =>
    if root = s.node then atRoot s kept c
    else sendReduce s { c.pkt with dst := root, ext := reduceExt 0 c.contrib root } root false c.from_

/-- A reduce packet as it enters a vertex. -/
def combOf (p : Packet) : Combined :=
  { tree := BitVec.ofNat 7 (extTree p.ext), pkt := p, contrib := extContrib p.ext, from_ := [.packet p.src p.tag p.gid p.addr] }

/-- A reduce packet arrives: combining at a vertex, or delivery at the root. -/
def reduceIn (s0 s : State) (p : Packet) : State :=
  let c := combOf p
  if leftReduce s p then noTree
  else if c.tree = 0 then atRoot s s0 c
  else match getTree s c.tree.toNat with
    | none => noTree
    | some t =>
      if t.gid ≠ p.gid ∨ !memberOf s p.gid s.node then noTree
      else match combEnter s t c with
        | (s, none) => s
        | (s, some d) => releaseComb s s0 d
where
  /-- The answer NO_TREE. -/
  noTree : State := refuse { s with fab := { s.fab with noTree := s.fab.noTree + 1 } } p 0x0A 0x13

def execReduceWin (p : Packet) (s : State) : Outcome := .next (settle (onPacket s p 0x08 fun t q => reduceIn s t q))

def execFabricReduceTile (p : Packet) (s : State) : Outcome := .next (settle (onPacket s p 0x09 fun t q => reduceIn s t q))

def findOut (s : State) (tag : BitVec 16) : Option ReduceOut := s.fab.reduceOut.find? fun o => o.tag == tag

def dropOut (s : State) (tag : BitVec 16) : State :=
  { s with fab := { s.fab with reduceOut := s.fab.reduceOut.filter fun o => !(o.tag == tag) } }

/-- REDUCE_ACK (R284, R285). -/
def reduceAckAt (s : State) (p : Packet) : State :=
  match findOut s p.tag with
  | none => s
  | some o =>
    let s := dropOut s o.tag
    if p.status = 0x12 ∨ p.status = 0x13 then
      if o.again then tellAll s o.from_ 0x14
      else sendReduce s { o.pkt with dst := o.root, ext := reduceExt 0 (extContrib o.pkt.ext) o.root } o.root true o.from_
    else tellAll s o.from_ p.status

def execReduceAck (p : Packet) (s : State) : Outcome := .next (settle (onPacket s p 0x0A reduceAckAt))

/-- REDUCE_ACK_TIMEOUT: not sent again, reported as REFUSED (R285). -/
def execReduceAckTimeout (tag : BitVec 16) (s : State) : Outcome :=
  .next (settle (match findOut s tag with
    | none => s
    | some o => tellAll (dropOut s tag) o.from_ 0x14))

/-- TREE_HOLD_EXPIRE: held packet `i` of the combining buffer leaves (R283). -/
def execTreeHoldExpire (i : Nat) (s : State) : Outcome :=
  .next (settle (match s.fab.comb[i]? with
    | none => s
    | some c => releaseComb { s with fab := { s.fab with comb := s.fab.comb.eraseIdx i } } s c))

/-- TREE_SET (R281). -/
def execTreeSet (x : ItemRef) (s : State) : Outcome :=
  .next (settle (onItem s x 0x52 fun i _ =>
    let n := fld (iw i 1) 6 0
    let gid := BitVec.ofNat 24 (fld (iw i 1) 31 8)
    let t : Tree := { gid := gid, parent := BitVec.ofNat 17 (fld (iw i 2) 16 0), root := BitVec.ofNat 17 (fld (iw i 2) 33 17),
                      expect := BitVec.ofNat 8 (fld (iw i 2) 41 34), hold := BitVec.ofNat 16 (fld (iw i 2) 57 42) }
    match leastStatus [
        if !memberOf s gid s.node || !memberOf s gid t.parent || !memberOf s gid t.root then some 0x82 else none,
        if n = 0 ∨ t.expect = 0 then some 0x83 else none,
        if (getTree s n).isSome || (findTree s gid t.root).isSome then some 0x84 else none] with
    | some st => completeItem s x st
    | none => completeItem { s with fab := { s.fab with trees := Tbl.set none s.fab.trees n (some t) } } x 0x00))

/-- TREE_CLEAR: the held packets go to ROOT at once (R285). -/
def execTreeClear (x : ItemRef) (s : State) : Outcome :=
  .next (settle (onItem s x 0x53 fun i _ =>
    let n := fld (iw i 1) 6 0
    if n = 0 ∨ (getTree s n).isNone then completeItem s x 0x83
    else
      let s := { s with fab := { s.fab with trees := Tbl.set none s.fab.trees n none } }
      let held := s.fab.comb.filter fun c => c.tree.toNat == n
      completeItem (held.foldl (fun s c => releaseComb { s with fab := { s.fab with comb := s.fab.comb.erase c } } s c) s) x 0x00))

/-! ### CTRL packets (Table 11.3) -/

/-- A CTRL packet of a code reaches its destination. -/
def onCtrl (s : State) (p : Packet) (code : Nat) (f : State → Packet → State) : State :=
  onPacket s p 0x0E fun s q => if fld q.ext 7 0 = code then f s q else s

/-- A CTRL packet. -/
def ctrlPkt (dst : BitVec 17) (code : Nat) (data : List Byte) (st : Byte) : Packet :=
  { ttype := 0x0E, dst := dst, ext := BitVec.ofNat 32 code, data := data, len := BitVec.ofNat 13 data.length, status := st, vc := 0 }

/-- PROBE: answered with its arrival time; its sender follows this package. -/
def execProbe (p : Packet) (s : State) : Outcome :=
  .next (settle (onCtrl s p 1 fun s q =>
    let s := updLink s q.link.toNat fun l => { l with follows := true }
    sendPacket s (ctrlPkt q.src 2 (leBytes 8 s.time.toNat) 0)))

/-- The node at the far end of a link. -/
def linkNode (s : State) (n : Nat) : BitVec 17 := match (getLink s n).partner with | some b => b.node | none => 0x1FFFF

/-- PROBE_RESP: half the round trip is the link delay (R286). -/
def execProbeResp (p : Packet) (s : State) : Outcome :=
  .next (settle (onCtrl s p 2 fun s q =>
    match s.fab.probe with
    | some t0 =>
      if s.fab.role = 2 ∧ q.src = linkNode s s.fab.parent.toNat then
        { s with fab := { s.fab with probe := none, delay := BitVec.ofNat 64 ((s.time - t0).toNat / 2) } }
      else s
    | none => s))

/-- WGEN_QUERY: the current WGEN, or 0 with NO_WINDOW (R274). -/
def execWgenQuery (p : Packet) (s : State) : Outcome :=
  .next (settle (onCtrl s p 3 fun s q =>
    let k := leNat (q.data.take 2)
    let w := Tbl.get {} s.windows k
    let ok := w.valid && decide (k < 4096)
    sendPacket s (ctrlPkt q.src 4 (leBytes 2 k ++ [if ok then w.wgen else 0]) (if ok then 0 else 1))))

/-- Every transfer tries again. -/
def pumpEveryone (s : State) : State :=
  (s.ctxs.filterMap fun e => e.2.map (·.id)).foldl pumpItems s

/-- WGEN_REPLY fills the cache of 256 entries; 0 of a node without the window lets the request go and be refused there. -/
def execWgenReply (p : Packet) (s : State) : Outcome :=
  .next (settle (onCtrl s p 4 fun s q =>
    if leNat (q.data.take 2) ≠ 4095 then s
    else pumpEveryone { s with legacyGen := ((q.src, BitVec.ofNat 8 (leNat ((q.data.drop 2).take 1))) ::
        s.legacyGen.filter fun e => e.1 != q.src).take 256 }))

/-! ### Time (R286) -/

/-- Send a packet on one link, whatever the routes. -/
def sendOnLink (s : State) (n : Nat) (p : Packet) : State :=
  if !s.fab.nodeValid || !(getLink s n).up then s
  else sendLink (updLink s n fun l => { l with txq := l.txq ++ [ownPacket s p] }) n

/-- The signed distance from the time base to a time. -/
def timeGap (now target : Dword) : Int := (target - now).toInt

/-- The time base after a TIME_SYNC: a step beyond 10 µs, else a slew of at most 50 ns for its millisecond, how much being free. -/
def timeAfter (now target : Dword) (free : Nat) : Dword :=
  let g := timeGap now target
  if 10000 < g.natAbs then target
  else
    let k := min g.natAbs (Config.slew free % 51)
    if g < 0 then now - BitVec.ofNat 64 k else now + BitVec.ofNat 64 k

/-- TIME_SYNC from the parent. -/
def execTimeSync (p : Packet) (s : State) : Outcome :=
  .next (settle (onMsg s p 0x0C fun s q =>
    if s.fab.role ≠ 2 ∨ q.link ≠ s.fab.parent then s
    else
      let target := BitVec.ofNat 64 (msgField q 0 8) + s.fab.delay
      let fab := { s.fab with locked := true, level := BitVec.ofNat 8 (msgField q 8 1 + 1), err := Config.timeErr s.free }
      { s with time := timeAfter s.time target s.free, free := s.free + 1, fab := fab }))

/-- Whether this package has time to send: the grandmaster, or a follower that follows. -/
def hasTime (s : State) : Bool := s.fab.role == 1 || (s.fab.role == 2 && s.fab.locked)

def timeMsg (s : State) (n : Nat) : Packet :=
  { ttype := 0x0D, dst := linkNode s n, vc := 0, ext := 0x0C, len := 9
    data := leBytes 8 s.time.toNat ++ [if s.fab.role = 1 then 0 else s.fab.level] }

/-- TIME_SYNC_SEND_TICK: TIME_SYNC to each follower; every 100 ms a follower probes its parent. -/
def execTimeSyncSendTick (probe : Bool) (s : State) : Outcome :=
  .next (settle (
    let s := if hasTime s then
        ((s.links.filter fun e => e.2.up && e.2.follows).map (·.1)).foldl (fun s n => sendOnLink s n (timeMsg s n)) s
      else s
    if probe && s.fab.role == 2 then
      let n := s.fab.parent.toNat
      sendOnLink { s with fab := { s.fab with probe := some s.time } } n (ctrlPkt (linkNode s n) 1 [] 0)
    else s))

/-- TIME_PARENT_SILENT: the follower free-runs. -/
def execTimeParentSilent (s : State) : Outcome :=
  .next (settle (if s.fab.role = 2 then { s with fab := { s.fab with locked := false } } else s))

/-- TIME_SET (R286). ROLE 3 is unassigned. -/
def execTimeSet (x : ItemRef) (s : State) : Outcome :=
  .next (settle (onItem s x 0x57 fun i _ =>
    let role := BitVec.ofNat 2 (fld (iw i 1) 1 0)
    if role = 3 then completeItem s x 0x20
    else completeItem { s with fab := { s.fab with role := role, parent := BitVec.ofNat 6 (fld (iw i 1) 7 2), locked := false, level := 0
                                                   delay := 0, probe := none } } x 0x00))

/-! ### Node, routes, gather (R262, R263, R275) -/

/-- NODE_SET: not while a glove, window or tree is open. -/
def execNodeSet (x : ItemRef) (s : State) : Outcome :=
  .next (settle (onItem s x 0x50 fun i _ =>
    let busy := (s.gloves.any fun e => e.2.isSome) || (s.windows.any fun e => e.2.valid) || s.fab.trees.any fun e => e.2.isSome
    if busy then completeItem s x 0x80
    else
      let s := { s with node := BitVec.ofNat 17 (fld (iw i 1) 16 0), fab := { s.fab with nodeValid := true } }
      completeItem (resendIdentity s fun _ => true) x 0x00))

/-- Write one route entry; a destination whose entry changes pauses (R265). -/
def setRoute (s : State) (dst : Nat) (e : Dword) : State :=
  if Tbl.get 0 s.fab.routes dst = e then s
  else
    let s := { s with fab := { s.fab with routes := Tbl.set 0 s.fab.routes dst e } }
    pauseDst s (BitVec.ofNat 17 dst)

/-- ROUTE_SET. -/
def routeSet (s : State) (x : ItemRef) (r : Reply) : State :=
  onItem s x 0x51 fun i c =>
    let first := fld (iw i 1) 16 0
    let count := fld (iw i 1) 34 17
    let drain := BitVec.ofNat 16 (fld (iw i 1) 50 35)
    if count = 0 ∨ 131072 < first + count then completeItem s x 0x81
    else withList s x c r (iw i 2) (8 * count) fun s ws =>
      if ws.any fun e => !onlyBits e 0xFFFFFFF then completeItem s x 0x81
      else
        let s := if drain = 0 then s else { s with fab := { s.fab with drain := drain } }
        completeItem ((ws.zipIdx).foldl (fun s e => setRoute s (first + e.2) e.1) s) x 0x00

def execRouteSet (x : ItemRef) (r : Reply) (s : State) : Outcome := .next (settle (routeSet s x r))

/-- WGATHER (R275): the index list is read, then GATHERs of 48 rows each follow one another. -/
def wgather (s : State) (x : ItemRef) (r : Reply) : State :=
  onItem s x 0x56 fun i c =>
    let count := fld (iw i 3) 23 0
    let rb := fld (iw i 3) 31 24
    if count = 0 ∨ rb < 4 ∨ 192 < rb ∨ rb % 4 ≠ 0 then completeItem s x 0x87
    else withList s x c r (iw i 2) (4 * count) fun s ws =>
      startXfer (updRun s x fun q => { q with list := ws }) x

def execWgather (x : ItemRef) (r : Reply) (s : State) : Outcome := .next (settle (wgather s x r))

end Sys2Proof.Machine
end

