-- ==== Sys2Proof/Machine/Sched.lean ====
section
/-!
DEFINITION. Scheduling, sharing and regulation (R290 to R311): dispatch, mixed steps, deadlines and fallback, preemption, partitions and
regulators.
-/
namespace Sys2Proof.Machine

/-! ### Dispatch (R199, R297, R299) -/

/-- The DL that governs an item, and the deadline word that its monitor follows (0 where DEFAULT_DL does, R299). -/
def deadlineWord (q : Queue) (i : Item) : Nat × Dword :=
  let own : Dword := match itemOpc i with | 0x11 => iw i 6 | 0x12 => iw i 10 | _ => 0
  (itemDl q i, if fld own 31 0 = 0 then 0 else own)

/-- The counter of a deadline word whose TOTAL counts it: its sync group must be fitted (R300). -/
def counterMissing (s : State) (d : Nat × Dword) : Bool :=
  d.1 != 0 && fld d.2 60 45 != 0 &&
    (Tbl.get none s.sync (syncKey (BitVec.ofNat 5 (fld d.2 36 32)) (BitVec.ofNat 3 (fld d.2 39 37)))).isNone

/-- Begin an item's kernels: places in line, run-time state and the deadline monitor. -/
def beginKernels (s : State) (x : ItemRef) (i : Item) (c : Context) (q : Queue) (first n : Nat) (entry : Nat → Dword) (idx : Bool) : State :=
  let d := deadlineWord q i
  let s := setItem s x { i with run := { i.run with active := true, kernels := n, normal := 0 } }
  let sg := syncKey (BitVec.ofNat 5 (fld d.2 36 32)) (BitVec.ofNat 3 (fld d.2 39 37))
  let m : Monitor := { x := x, accepted := i.accepted, start := s.refNs, dl := d.1, total := fld d.2 60 45, sg := sg, ctr := fld d.2 44 40
                       c0 := syncCounter s (BitVec.ofNat 5 (fld d.2 36 32)) (BitVec.ofNat 3 (fld d.2 39 37)) (fld d.2 44 40), kernels := n }
  let s := if d.1 = 0 then s else { s with sched := { s.sched with monitors := s.sched.monitors ++ [m] } }
  enqueueKernels s { x := x, lc := itemLc q i, deadline := if d.1 = 0 then none else some (i.accepted + 1000 * d.1), accepted := i.accepted
                     order := i.order } c first n entry (kernelArgs i idx)

/-- The checks and the start of a DISPATCH or DISPATCH_DL. -/
def dispatchWith (s : State) (x : ItemRef) (i : Item) (c : Context) : State :=
  match getQueue s x.ctx x.qid with
  | none => s
  | some q =>
    let first := fld (iw i 1) 15 0
    let n := fld (iw i 1) 31 16 + 1
    let kind := vcoreKind s c first
    let busy : Option Nat := if c.state = .closing ∨ q.closing then some 0x28 else none
    if counterMissing s (deadlineWord q i) then completeItem s x 0x20
    else match leastStatus [rangeFail s c first n fun k => k == kind && entryAligned k (iw i 2), busy] with
      | some st => completeItem s x st
      | none => beginKernels s x i c q first n (fun _ => iw i 2) (bit (iw i 1) 32)

/-- DISPATCH. -/
def execDispatch (x : ItemRef) (s : State) : Outcome :=
  .next (settle (onItem s x 0x10 fun i c => dispatchWith s x i c))

/-- DISPATCH_DL. -/
def execDispatchDl (x : ItemRef) (s : State) : Outcome :=
  .next (settle (onItem s x 0x12 fun i c => dispatchWith s x i c))

/-! ### Mixed steps (R297, R298) -/

def stepEntry (i : Item) (kind : Nat) : Dword := match kind with | 0 => iw i 2 | 1 => iw i 7 | _ => iw i 8

def stepEntryOk (i : Item) (kind : Nat) : Bool := decide (kind < 3) && stepEntry i kind != 0 && entryAligned kind (stepEntry i kind)

def stepStage (i : Item) : Nat := fld (iw i 4) 30 0
def stepChunk (i : Item) : Nat := fld (iw i 4) 43 32
def stepCount (i : Item) : Nat := fld (iw i 1) 42 32

/-- STEP_INVALID but for the decode entries (R298). -/
def stepBad (s : State) (c : Context) (i : Item) : Bool :=
  (stepChunk i != 0 && (decide (stepChunk i < 256) || decide (2048 < stepChunk i))) || decide (1024 < stepCount i) ||
  (stepChunk i == 0 && stepCount i == 0) || decide (3072 < stepChunk i + stepCount i) ||
  !sliceRange (getSlice s c.part).regions (stepStage i) (32 + 8 * stepCount i)

/-- The step table (Table 12.2). -/
def stepTable (i : Item) (entries : List Dword) : List Byte :=
  leBytes 8 (fld (iw i 5) 31 0 + fld (iw i 5) 55 32 * 2 ^ 32) ++
  leBytes 8 (stepChunk i + stepCount i * 2 ^ 16 + i.seq.toNat * 2 ^ 32) ++ leBytes 16 0 ++ dwordBytes entries

/-- MIXED_STEP. A STAGE that is not 32-byte aligned is a field value not allowed, MALFORMED (Table 8.8). -/
def mixedStep (s : State) (x : ItemRef) (r : Reply) : State :=
  onItem s x 0x11 fun i c =>
    match getQueue s x.ctx x.qid with
    | none => s
    | some q =>
      let first := fld (iw i 1) 15 0
      let n := fld (iw i 1) 31 16 + 1
      let busy : Option Nat := if c.state = .closing ∨ q.closing then some 0x28 else none
      let bad : Option Nat := if stepBad s c i then some 0xA4 else none
      if counterMissing s (deadlineWord q i) || stepStage i % 32 != 0 then completeItem s x 0x20
      else match leastStatus [rangeFail s c first n (stepEntryOk i), busy, bad] with
        | some st => completeItem s x st
        | none => withList s x c r (iw i 3) (8 * stepCount i) fun s ws =>
          if ws.any fun w => !onlyBits w 0x01FFFFFFFFFFFFFF then completeItem s x 0xA4
          else
            let s := devWrite s c.part false (stepStage i) (stepTable i ws) false x.ctx.toNat
            beginKernels s x i c q first n (stepEntry i) true

def execMixedStep (x : ItemRef) (r : Reply) (s : State) : Outcome := .next (settle (mixedStep s x r))

/-! ### Starting kernels (R293) -/

/-- Earlier in the order of LC kernels: deadline, then acceptance. -/
def lcBefore (a b : WaitKernel) : Bool :=
  match a.deadline, b.deadline with
  | some d, some e => decide (d < e) || (d == e && (decide (a.accepted < b.accepted) || (a.accepted == b.accepted && decide (a.order < b.order))))
  | some _, none => true
  | none, some _ => false
  | none, none => decide (a.accepted < b.accepted) || (a.accepted == b.accepted && decide (a.order < b.order))

/-- The first of a list in an order; of equal ones the one that stands first. -/
def firstOf (lt : WaitKernel → WaitKernel → Bool) : List WaitKernel → Option WaitKernel
  | [] => none
  | a :: l => match firstOf lt l with
    | none => some a
    | some b => if lt b a then some b else some a

def roundKey (p : Nat) (x : ItemRef) : Nat := p * 2 ^ 20 + queueKey x.ctx x.qid

/-- WEIGHT of an item's queue. -/
def weightOf (s : State) (x : ItemRef) : Nat :=
  match getQueue s x.ctx x.qid with
  | some q => max 1 (fld q.sched 7 0)
  | none => 1

/-- The BE kernel to start (R293): of the lowest-numbered queue that has starts left in this round; where none has, a new round begins. -/
def pickBe (s : State) (p : Nat) (l : List WaitKernel) : State × Option WaitKernel :=
  let left (s : State) (w : WaitKernel) : Bool := decide (Tbl.get 0 s.sched.round (roundKey p w.x) < weightOf s w.x)
  let before (a b : WaitKernel) : Bool :=
    decide (queueKey a.x.ctx a.x.qid < queueKey b.x.ctx b.x.qid) || (queueKey a.x.ctx a.x.qid == queueKey b.x.ctx b.x.qid && lcBefore a b)
  match firstOf before (l.filter (left s)) with
  | some w => (s, some w)
  | none =>
    let s := { s with sched := { s.sched with round := s.sched.round.filter fun e => e.1 / 2 ^ 20 != p } }
    (s, firstOf before (l.filter (left s)))

/-- Whether an item of `drops` will unbind the vcore of a core (R176). -/
def dropping (s : State) (p : Nat) : Bool :=
  let b := getBinding s p
  s.drops.any fun x => match getItem s x with
    | some i => giGid i == b.gid && (itemOpc i != 0x64 || (unbindList i).contains b.vcore.toNat)
    | none => false

/-- A core that may start a kernel: bound, idle, its cluster in run, an S-core at U; no point asked of it, unless `held` says that it has
just been preempted (Table 4.12). -/
def mayRun (s : State) (p : Nat) (held : Bool) : Bool :=
  let c := getCore s p
  (getBinding s p).state == 1 && c.run == .idle && c.kernel.isNone && (held || c.point == .none) && !c.cuffed && !dropping s p &&
    !s.fp.bare.contains p &&
    !(findElem s (.core (Fin.ofNat 320 p))).testing &&
    (getDomain s (p / 10)).st == 0 && !(slotKind p == 2 && (getS s p).pl)

/-- Registers 1 to `n`: the arguments, then zeros. -/
def argRegs (args : List Dword) : Tbl Dword := (args.take 7).zipIdx.foldl (fun t e => Tbl.set 0 t (e.2 + 1) e.1) []

/-- Start a kernel on a core (R71, R98, R116). -/
def startKernel (s : State) (p : Nat) (w : WaitKernel) : State :=
  let s := { s with sched := { s.sched with
    waiting := s.sched.waiting.erase w
    round := if w.lc then s.sched.round else Tbl.upd 0 s.sched.round (roundKey p w.x) (· + 1) } }
  let s := match slotKind p with
    | 0 => updM s p fun m => { m with g := argRegs w.args, job := .none, refused := false }
    | 1 => updV s p fun v => { v with a := argRegs w.args, beat := none, results := [] }
    | _ => updS s p fun k => { k with x := argRegs w.args, pl := false }
  let s := updCore s p fun c => { c with run := .running, pc := w.entry, wait := .none, icache := [], live := 0
                                         kernel := some { x := w.x, vcore := w.vcore, be := !w.lc } }
  match procOf s p with
  | some q => irqPrivate s q 5 true
  | none => s

/-- The items of a context are suspended for a load (R295). -/
def ctxHeld (s : State) (ctx : BitVec 16) : Bool := match getCtx s ctx with | some c => heldBack s c | none => false

/-- The kernels that wait for the vcore of a core and may start. -/
def waitingAt (s : State) (p : Nat) : List WaitKernel :=
  let b := getBinding s p
  s.sched.waiting.filter fun w => w.gid == b.gid && w.vcore == b.vcore && !ctxHeld s w.x.ctx

/-- A suspended kernel of the vcore of a core. -/
def suspendedAt (s : State) (p : Nat) : Option Suspended :=
  let b := getBinding s p
  s.sched.suspended.find? fun u => u.image.gid == b.gid && u.image.vcore == b.vcore

/-- The next kernel of a free vcore: LC in order; a BE kernel only where none is suspended there (R295). -/
def startNextKernel (s : State) (p : Nat) (held : Bool) : State :=
  if !mayRun s p held then s
  else
    let l := waitingAt s p
    match firstOf lcBefore (l.filter (·.lc)) with
    | some w => startKernel s p w
    | none =>
      if (suspendedAt s p).isSome then s
      else match pickBe s p l with
        | (s, some w) => startKernel s p w
        | (s, none) => s

def execVcoreKernelStart (c : Fin 320) (s : State) : Outcome := .next (settle (startNextKernel s c.val false))

/-! ### Preemption (R294, R295) -/

/-- PREEMPT_READOUT_DONE: the image taken at the point (R89) is in its slot's care, the waiting LC kernel starts. Where no slot is left the BE
kernel goes on. -/
def preemptDone (s : State) (p : Nat) : State :=
  let c := getCore s p
  let at_ : Bool := match c.run with | .atPoint _ => true | _ => false
  if c.point != .preempt || !at_ then s
  else
    let part := (getBinding s p).part.toNat
    match freePreSlot s part with
    | none => kickCore (setCore s p { c with run := .running, icache := [], held := none, point := nextPoint s p, forced := nextPoint s p != .none }) p
    | some a =>
      let u : Suspended := { image := c.held.getD (takeImage s p false), part := BitVec.ofNat 4 part, slot := a }
      let s := { s with sched := { s.sched with suspended := s.sched.suspended ++ [u] } }
      let s := setPart s part { getPart s part with preemptions := (getPart s part).preemptions + 1 }
      let s := match c.kernel with | some k => count s 3 (queueKey k.x.ctx k.x.qid) 3 | none => s
      let s := setCore s p { c with run := .idle, kernel := none, wait := .none, xfers := [], held := none, point := nextPoint s p, forced := false }
      let s := match slotKind p with
        | 0 => updM s p fun m => { m with job := .none, stream := [] }
        | 1 => updV s p fun v => { v with beat := none }
        | _ => s
      let s := startNextKernel s p true
      if (getCore s p).run = .idle then updCore s p fun k => { k with forced := k.point != .none } else s

def execPreemptReadoutDone (c : Fin 320) (s : State) : Outcome := .next (settle (preemptDone s c.val))

/-- BE_RESUME (R295): wherever the vcore is now bound, when no LC kernel waits for it. -/
def beResume (s : State) (p : Nat) : State :=
  match suspendedAt s p with
  | none => s
  | some u =>
    let resident : Bool := match u.image.kernel with
      | some k => (match getCtx s k.x.ctx with | some c => c.slot != 0 && !c.faulted && c.state != .parked && !heldBack s c | none => false)
      | none => true
    if !mayRun s p false || !u.written || !resident || (waitingAt s p).any (·.lc) then s
    else endYield (resumeImage { s with sched := { s.sched with suspended := s.sched.suspended.erase u } } p u.image)

def execBeResume (c : Fin 320) (s : State) : Outcome := .next (settle (beResume s c.val))

/-! ### The deadline monitor (R300, R301) -/

/-- Drop what an item has in line, and ask its cores for forced points; its fallback program follows (R301). -/
def abortForFallback (s : State) (x : ItemRef) (f : List Dword) : State :=
  let held := (s.sched.waiting.filter fun w => w.x == x).length
  let s := { s with sched := { s.sched with waiting := s.sched.waiting.filter fun w => !(w.x == x) } }
  let s := updRun s x fun r => { r with fbWait := true, list := f, kernels := r.kernels - held }
  (coresOf s x).foldl (fun s p => stopCore s p 0) s

/-- A predicted miss. -/
def predictedMiss (s : State) (m : Monitor) : State :=
  match getQueue s m.x.ctx m.x.qid, getCtx s m.x.ctx with
  | some q, some c =>
    let p := c.part.toNat
    let s := setPart s p { getPart s p with predicted := (getPart s p).predicted + 1 }
    let s := { s with sched := { s.sched with monitors := s.sched.monitors.map fun k => if k == m then { k with predicted := true } else k } }
    if q.fallback = [] then schedEvent s m.x p else abortForFallback s m.x q.fallback
  | _, _ => s

/-- The prediction of R300, on the reference in ns: `k` of `t` steps are done. -/
def missPredicted (s : State) (m : Monitor) (q : Queue) (ended : Nat) : Bool :=
  let e := s.refNs - m.start
  let pct := if fld q.sched 30 24 = 0 then 25 else fld q.sched 30 24
  let k := if m.total = 0 then ended
    else (syncCounter s (BitVec.ofNat 5 (m.sg / 8)) (BitVec.ofNat 3 m.sg) m.ctr - m.c0).toNat
  let t := if m.total = 0 then m.kernels else m.total
  !decide (e * 100 < 1000 * m.dl * pct) && (k == 0 || decide (1000 * (m.dl + fld q.sched 23 8) * k < e * t))

def monitorOne (s : State) (m : Monitor) : State :=
  match getQueue s m.x.ctx m.x.qid, getItem s m.x with
  | some q, some i => if !m.predicted && missPredicted s m q (m.kernels - i.run.kernels) then predictedMiss s m else s
  | _, _ => s

/-- DEADLINE_MONITOR_TICK: raises the CPs' private source 6 and judges every item that has a deadline. -/
def execDeadlineMonitorTick (s : State) : Outcome :=
  let s := (List.range 16).foldl (fun s k => irqPrivate s (32 + k) 6 true) s
  .next (settle (s.sched.monitors.foldl monitorOne s))

/-- FALLBACK_SET (R310): any check that fails is FALLBACK_INVALID. -/
def execFallbackSet (x : ItemRef) (s : State) : Outcome :=
  .next (settle (onItem s x 0x13 fun i _ =>
    let w := iw i 1
    let f := [w, iw i 2, iw i 3, iw i 4]
    match getQueue s (BitVec.ofNat 16 (fld w 15 0)) (BitVec.ofNat 4 (fld w 19 16)), getCtx s (BitVec.ofNat 16 (fld w 15 0)) with
    | some q, some c =>
      if !bit w 20 then completeItem (setQueue s { q with fallback := [] }) x 0x00
      else if (rangeFail s c (fbFirst f) (fbCount f) (fbEntryOk f)).isSome then completeItem s x 0xA3
      else completeItem (setQueue s { q with fallback := f }) x 0x00
    | _, _ => completeItem s x 0xA3))

/-! ### Partitions (R302 to R305) -/

/-- Units of a partition and those that await release: clusters, banks of a cluster, channels, links. -/
def heldClusters (x : Part) : Word := x.clusters ||| x.awaitClusters
def heldBanks (x : Part) (cl : Nat) : Word := Tbl.get 0 x.banks cl ||| Tbl.get 0 x.awaitBanks cl
def heldChannels (x : Part) : BitVec 128 := x.channels ||| x.awaitChannels
def heldLinks (x : Part) : Dword := x.links ||| x.awaitLinks

/-- The fields that 25 words spell (Table 12.4). -/
def partFields (ws : List Dword) : Part :=
  let w (n : Nat) : Dword := ws.getD n 0
  { valid := bit (w 0) 4, slots := fld (w 0) 13 8, ctxMax := fld (w 0) 31 16, clusters := BitVec.ofNat 32 (fld (w 0) 63 32)
    banks := (List.range 32).foldl (fun t c => Tbl.set 0 t c (BitVec.ofNat 32 (fld (w (1 + c / 2)) (32 * (c % 2) + 31) (32 * (c % 2))))) []
    channels := wordMask (w 17) (w 18), links := w 19
    insts := BitVec.ofNat 256 (((w 23).toNat * 2 ^ 192) + (w 22).toNat * 2 ^ 128 + (w 21).toNat * 2 ^ 64 + (w 20).toNat)
    preBase := BitVec.ofNat 39 (fld (w 24) 38 0), preSlots := fld (w 24) 55 40 }

/-- The descriptor that takes effect: with VALID 0 it holds no unit. -/
def partOf (ws : List Dword) : Part := if (partFields ws).valid then partFields ws else {}

/-- A descriptor breaks a rule of R302, whatever its VALID. -/
def partBad (s : State) (p : Nat) (ws : List Dword) : Bool :=
  let x := partFields ws
  let others := (s.sched.parts.filter fun e => e.1 != p).map (·.2)
  !onlyBits (ws.getD 0 0) 0xFFFFFFFFFFFF3F1F || !onlyBits (ws.getD 24 0) 0x00FFFF7FFFFFFFFF ||
  x.clusters &&& ~~~s.fp.computeMask != 0 || decide (48 < x.slots) || x.preBase.toNat % 0x200000 != 0 ||
  others.any fun o => heldClusters o &&& x.clusters != 0 || heldChannels o &&& x.channels != 0 || heldLinks o &&& x.links != 0 ||
    (List.range 32).any fun c => heldBanks o c &&& Tbl.get 0 x.banks c != 0

/-- Install a descriptor: what leaves while it is in use awaits release; every bank that leaves is zeroed first (R138, R305). -/
def installPart (s : State) (p : Nat) (x : Part) : State :=
  let o := getPart s p
  let outCl := (setBits (heldClusters o &&& ~~~x.clusters)).filter (clusterInUse s p)
  let x := { x with
    awaitClusters := outCl.foldl (fun m c => setBit m c true) 0
    awaitBanks := (List.range 32).foldl (fun t c => Tbl.set 0 t c (heldBanks o c &&& ~~~(Tbl.get 0 x.banks c))) []
    awaitChannels := heldChannels o &&& ~~~x.channels &&& channelsBound s p
    awaitLinks := heldLinks o &&& ~~~x.links &&& linksBound s p
    overBits := o.overBits, preemptions := o.preemptions, fallbacks := o.fallbacks, predicted := o.predicted }
  setPart s p x

/-- PART_SET. -/
def execPartSet (x : ItemRef) (r : Reply) (s : State) : Outcome :=
  .next (settle (onItem s x 0x14 fun i c => withList s x c r (iw i 1) 200 fun s ws =>
    let p := fld (ws.getD 0 0) 3 0
    if partBad s p ws then completeItem s x 0xA0
    else completeItem (installPart s p (partOf ws)) x 0x00))

/-- SCHED_READ's record (Table 12.8). -/
def schedRecord (s : State) (p : Nat) : List Dword :=
  let x := getPart s p
  let cs := partCtxs s p
  let aw := popcount x.awaitClusters + (x.awaitBanks.map fun e => popcount e.2).sum + popcount x.awaitChannels + popcount x.awaitLinks
  let sus := s.sched.suspended.filter fun u => u.part.toNat == p
  let reg (t : Nat) : Dword :=
    let r := getReg s p t
    BitVec.ofNat 64 (min r.lcOut 4095 + min r.beOut 4095 * 2 ^ 12 + min r.lastMisses 0xFFFFF * 2 ^ 24 + min r.lastDemoted 0xFFFFF * 2 ^ 44)
  [BitVec.ofNat 64 (p + x.overBits.toNat * 2 ^ 8 + aw % 2 ^ 16 * 2 ^ 16 + (cs.filter fun c => c.slot != 0).length * 2 ^ 32 + cs.length % 2 ^ 16 * 2 ^ 48),
   BitVec.ofNat 64 ((sus.filter (·.pre)).length % 2 ^ 16 + sus.length % 2 ^ 16 * 2 ^ 16 + x.preemptions.toNat * 2 ^ 32),
   reg 0, reg 1, reg 2, BitVec.ofNat 64 (x.fallbacks.toNat + x.predicted.toNat * 2 ^ 32), 0, 0]

/-- SCHED_READ. -/
def execSchedRead (x : ItemRef) (s : State) : Outcome :=
  .next (settle (onItem s x 0x16 fun i c =>
    writeRecord s x c (iw i 1 &&& ~~~0xFF) (dwordBytes (schedRecord s (fld (iw i 1) 3 0))) 0))

/-! ### Regulators (R306, R309) -/

/-- REG_SET. -/
def execRegSet (x : ItemRef) (s : State) : Outcome :=
  .next (settle (onItem s x 0x15 fun i _ =>
    let w := iw i 1
    let t := fld w 5 4
    let win := fld (iw i 2) 19 0
    if t = 3 ∨ (1 ≤ win ∧ win ≤ 99) then completeItem s x 0xA5
    else
      let p := fld w 3 0
      completeItem (setReg s p t { getReg s p t with
        lcBudget := BitVec.ofNat 12 (fld w 19 8), beBudget := BitVec.ofNat 12 (fld w 31 20), lcSlack := BitVec.ofNat 16 (fld w 47 32)
        beSlack := BitVec.ofNat 16 (fld w 63 48), window := BitVec.ofNat 20 win, missLimit := BitVec.ofNat 20 (fld (iw i 2) 51 32) }) x 0x00))

/-- GUARANTEE_WINDOW_END (R309). -/
def execGuaranteeWindowEnd (p : Fin 16) (target : Fin 3) (s : State) : Outcome :=
  let r := getReg s p.val target.val
  .next (settle (if r.window = 0 then s
    else
      let s := if r.missLimit.toNat < r.misses then
          logEvent (irqEdge s (3 * p.val + target.val)) srcRtp 0x0D false
            (leBytes 1 p.val ++ leBytes 1 target.val ++ leBytes 4 r.misses ++ leBytes 4 r.lcIssued ++ leBytes 4 r.beIssued)
        else s
      setReg s p.val target.val { r with misses := 0, demoted := 0, lcIssued := 0, beIssued := 0, lastMisses := r.misses, lastDemoted := r.demoted }))

end Sys2Proof.Machine
end

