-- ==== Sys2Proof/Machine/Gov.lean ====
section
/-!
DEFINITION. The governor (R312 to R333): targets, bubbles and rails, cap, current and thermal loops, droop, throttle episodes, glove
pace, filler, and the sleep of switched domains.
-/
namespace Sys2Proof.Machine

/-! ### Targets (R312) -/

def partHolds (s : State) (p cl : Nat) : Bool := bit ((getPart s p).clusters ||| (getPart s p).awaitClusters) cl

/-- A cluster of the partition is in run: anywhere, or on a die. -/
def partRuns (s : State) (p : Nat) : Bool := (List.range 32).any fun c => partHolds s p c && domainRuns s c
def partRunsOn (s : State) (p d : Nat) : Bool :=
  (List.range 8).any fun k => partHolds s p (8 * d + k) && domainRuns s (8 * d + k)

def paceLocal (s : State) (p : Nat) : Nat := min (getGovPart s p).req (getGovPart s p).limit
def paceGlove (s : State) (p : Nat) : Nat := if sliceTaken s p then (getGovPart s p).glove else paceLocal s p

/-- A thermal trip holds a partition: one of its dies has tripped (R318). -/
def tripped (s : State) (p : Nat) : Bool := (List.range 4).any fun d => (getDie s d).trip && partOnDie s p d

/-- The TARGET that the governor computes for a partition. -/
def wantTarget (s : State) (p : Nat) : Nat :=
  if (getGovPart s p).req = 0 ∨ tripped s p ∨ !partRuns s p then 0 else max 80 (min (paceLocal s p) (paceGlove s p))

/-- TARGET as last written. -/
def targetOf (s : State) (p : Nat) : Nat := (getMeter s p).written.toNat

def writeTarget (s : State) (p t : Nat) : State := setMeter s p { getMeter s p with written := BitVec.ofNat 8 t }

/-- A partition's effective pace (R313). -/
def effectivePace (s : State) (p : Nat) : Nat := targetOf s p * (64 - bubbleF s p) / 64

/-! ### Rails (R314) -/

/-- Table 2.2 in the column of a temperature: pace and mV. -/
def voltColumn (tj : Nat) : List (Nat × Nat) :=
  if tj ≤ 25 then [(80, 620), (100, 650), (120, 680), (140, 710), (160, 740), (180, 800), (200, 880)]
  else if tj ≤ 60 then [(80, 620), (100, 660), (120, 690), (140, 720), (160, 750), (180, 820), (200, 900)]
  else [(80, 640), (100, 680), (120, 710), (140, 740), (160, 770), (180, 850), (195, 900)]

/-- Linear interpolation, rounded up to 5 mV. -/
def voltAt : List (Nat × Nat) → Nat → Nat
  | [], _ => 900
  | [(_, v)], _ => v
  | (p, v) :: (q, w) :: l, t =>
    if t ≤ p then v
    else if t < q then (v * (q - p) + (w - v) * (t - p) + 5 * (q - p) - 1) / (5 * (q - p)) * 5
    else voltAt ((q, w) :: l) t

/-- A droop, or its settle time, holds the TARGET changes of a partition (R324). -/
def droopHolds (s : State) (p : Nat) : Bool :=
  (List.range 4).any fun d => ((getDie s d).droop != 0 || (getDie s d).settle) && partOnDie s p d

/-- The highest TARGET that a die runs or is about to run. -/
def dieTarget (s : State) (d : Nat) : Nat :=
  (List.range 16).foldl (fun m p =>
    if partRunsOn s p d then max m (if droopHolds s p then targetOf s p else max (wantTarget s p) (targetOf s p)) else m) 0

def baseVolt (s : State) (d : Nat) : Nat := voltAt (voltColumn (getDie s d).tj) (dieTarget s d)

/-- The setpoint of a die: base and trim, within 0.62 V and 0.90 V. -/
def setpoint (base : Nat) (trim : Int) : Nat := min 900 (max 620 (Int.toNat (base + trim)))

/-- A raised TARGET waits for the rail of a die. -/
def raising (s : State) (d : Nat) : Bool :=
  (List.range 16).any fun p => partRunsOn s p d && !droopHolds s p && decide (targetOf s p < wantTarget s p)

/-- Drive the rails: base and trim. While a raised TARGET waits, a trim below the base is left out, for the rail must reach the new base (DESIGN
CHOICE, log 161). -/
def setRails (s : State) : State :=
  (List.range 4).foldl (fun s d => updDie s d fun x =>
    { x with volt := setpoint (baseVolt s d) (if raising s d then max x.trim 0 else x.trim) }) s

/-- Whether every die of a partition has a rail that carries the TARGETs about to run there. -/
def railsReady (s : State) (p : Nat) : Bool :=
  (List.range 4).all fun d => !partRunsOn s p d || decide (baseVolt s d ≤ (getDie s d).rail)

/-- Bring one partition's TARGET towards what the governor computes: a trip or a domain that leaves run is never held; a droop holds any
other change; a fall is written first, a rise once its rails are up (R312, R314, R324). -/
def steerPart (s : State) (p : Nat) : State :=
  let want := wantTarget s p
  let free : State := if (getGovPart s p).held = none then s else updGovPart s p fun g => { g with held := none }
  if want = targetOf s p then free
  else if want = 0 ∧ (tripped s p ∨ !partRuns s p) then writeTarget free p 0
  else if droopHolds s p then updGovPart s p fun g => { g with held := some want }
  else if want < targetOf s p ∨ railsReady s p then writeTarget free p want
  else free

def steerAll (s : State) : State := setRails ((List.range 16).foldl steerPart (setRails s))

/-! ### Throttle episodes (R319, R320) -/

/-- The reason of a binding cap (R316). -/
def capReason (s : State) : Nat := if s.gov.cap < s.gov.trayCap then 1 else 6

/-- Whether a reason holds a partition below what it would otherwise run at. -/
def reasonBinds (s : State) (p r : Nat) : Bool :=
  let g := getGovPart s p
  let f := bubbleF s p
  let onDie (q : GovDie → Bool) : Bool := (List.range 4).any fun d => partOnDie s p d && q (getDie s d)
  let limited := decide (g.limit < g.req) && g.why == r
  partRuns s p && g.req != 0 &&
  match r with
  | 1 | 6 => (f != 0 && s.gov.fCap == f && capReason s == r) || limited
  | 2 => (f != 0 && onDie fun x => x.fCur == f) || limited
  | 3 => (f != 0 && onDie fun x => x.fTh == f) || tripped s p || limited
  | 4 => droopHolds s p
  | 5 => sliceTaken s p && decide (g.glove < paceLocal s p)
  | _ => false

/-- What binds now: partition and reason. Above 95 °C a stack's controller throttles by itself; it is listed as 16 + stack. -/
def bindingNow (s : State) : List (Nat × Nat) :=
  ((List.range 16).flatMap fun p => ([1, 2, 3, 4, 5, 6].filter (reasonBinds s p)).map fun r => (p, r)) ++
    (setBits s.gov.hotStacks).map fun h => (16 + h, 3)

/-- The dies that a reason involves. -/
def reasonDies (s : State) (p r : Nat) : BitVec 4 :=
  if 16 ≤ p then setBit 0 ((p - 16) / 2) true
  else (List.range 4).foldl (fun m d =>
    let x := getDie s d
    let hit : Bool := match r with
      | 2 => x.fCur != 0 && x.fCur == bubbleF s p
      | 3 => (x.fTh != 0 && x.fTh == bubbleF s p) || x.trip
      | 4 => x.droop != 0 || x.settle
      | _ => true
    if partOnDie s p d && hit then setBit m d true else m) 0

/-- Append the record of an episode that ends or reaches another second: the log holds 1,024. -/
def writeThrottle (s : State) (e : Episode) : State :=
  let us := min ((s.refNs - e.began) / 1000) (2 ^ 32 - 1)
  let all := decide (16 ≤ e.part)
  let w := BitVec.ofNat 64 (us + e.reason * 2 ^ 32 + (if all then 2 ^ 35 else e.part * 2 ^ 36) + e.dies.toNat * 2 ^ 40 +
    e.minPace * 2 ^ 44 + s.gov.seq.toNat * 2 ^ 52)
  let log := s.gov.log ++ [(e.start, w)]
  { s with gov := { s.gov with
      seq := s.gov.seq + 1
      log := if 1024 < log.length then log.drop 1 else log
      overwritten := if 1024 < log.length then s.gov.overwritten + 1 else s.gov.overwritten } }

/-- An episode as it goes on now. -/
def extendEpisode (s : State) (e : Episode) : Episode :=
  if 16 ≤ e.part then e
  else { e with minPace := min e.minPace (effectivePace s e.part), dies := e.dies ||| reasonDies s e.part e.reason }

/-- A new episode. -/
def newEpisode (s : State) (p r : Nat) : Episode :=
  { reason := r, part := p, start := s.time, began := s.refNs, dies := reasonDies s p r, minPace := if 16 ≤ p then 0 else effectivePace s p }

/-- Close the episodes that end, extend those that last, open those that begin. -/
def syncEpisodes (s : State) : State :=
  let now := bindingNow s
  let lasts (e : Episode) : Bool := now.contains (e.part, e.reason)
  let s := (s.gov.episodes.filter fun e => !lasts e).foldl writeThrottle s
  let kept := s.gov.episodes.filter lasts
  let new := now.filter fun k => !(kept.any fun e => e.part == k.1 && e.reason == k.2)
  { s with gov := { s.gov with episodes := kept.map (extendEpisode s) ++ new.map fun k => newEpisode s k.1 k.2 } }

/-- What the hardware loop does after every change: rails, TARGET, episodes. -/
def govern (s : State) : State := syncEpisodes (steerAll s)

/-- REASONS of Table 13.9. -/
def reasonBits (s : State) : Nat := s.gov.episodes.foldl (fun m e => m ||| 2 ^ (e.reason - 1)) 0

/-! ### The hardware loop (R314, R316 to R318) -/

/-- The effective cap, W. -/
def effectiveCap (s : State) : Nat := min s.gov.cap s.gov.trayCap

/-- F_CAP after a sample of `power` 0.1 W against a cap of `cap` 0.1 W. -/
def nextFCap (f power cap : Nat) : Nat :=
  if cap < power then min 63 (f + (256 * (power - cap) + cap) / (2 * cap))
  else if cap < 50 * (cap - power) then f - 1
  else f

/-- F_CUR after a sample: currents over 1 ms and 10 µs against 420 A and 560 A. -/
def nextFCur (f sustained peak : Nat) : Nat :=
  if 420 < sustained ∨ 560 < peak then min 63 (f + 4)
  else if 100 * sustained < 95 * 420 ∧ 100 * peak < 95 * 560 then f - 1
  else f

/-- Shortfall ticks that the trim of a die has not seen. -/
def newShortfall (s : State) (d : Nat) : Bool :=
  (List.range 16).any fun p => partRunsOn s p d && counterValue s (counterId 4 p 1) != Tbl.get 0 (getDie s d).seen p

def shortfalls (s : State) : Tbl Dword := (List.range 16).foldl (fun t p => Tbl.set 0 t p (counterValue s (counterId 4 p 1))) []

/-- F_TH with its two clocks: up by 1 every 100 µs at or above TJ_THROTTLE, down by 1 every 1 ms below TJ_THROTTLE − 3. -/
def thermalLoop (limit : Nat) (x : GovDie) : GovDie :=
  if limit ≤ x.tj then
    if x.hot = 9 then { x with hot := 0, cool := 0, fTh := min 63 (x.fTh + 1) } else { x with hot := x.hot + 1, cool := 0 }
  else if x.tj + 3 < limit then
    if x.cool = 99 then { x with hot := 0, cool := 0, fTh := x.fTh - 1 } else { x with hot := 0, cool := x.cool + 1 }
  else { x with hot := 0, cool := 0 }

/-- The trim of a die: up 5 mV in an interval with shortfall, down 5 mV after every 1 ms without. -/
def trimLoop (base : Nat) (short : Bool) (x : GovDie) : GovDie :=
  if short then
    { x with trim := min (x.trim + 5) (900 - (base : Int)), quiet := 0, ceiling := if x.volt = 900 then x.ceiling + 1 else 0 }
  else if x.quiet = 99 then { x with trim := max (x.trim - 5) (max (-50) (620 - (base : Int))), quiet := 0, ceiling := 0 }
  else { x with quiet := x.quiet + 1, ceiling := 0 }

/-- The partitions with a cluster on a die. -/
def diePartitions (s : State) (d : Nat) : List Nat := (List.range 16).filter fun p => partOnDie s p d

/-- Shortfall has lasted 100 µs at 0.90 V: LIMIT of the die's partitions falls by 5. -/
def ceilingLimit (s : State) (d : Nat) : State :=
  if (getDie s d).ceiling < 10 then s
  else (diePartitions s d).foldl (fun s p => updGovPart s p fun g => { g with limit := max 80 (g.limit - 5), why := 3, raiseWait := 10 })
    (updDie s d fun x => { x with ceiling := 0 })

/-- A trip at 105 °C, and its end. -/
def tripLoop (s : State) (d sensor : Nat) : State :=
  let x := getDie s d
  if x.trip then
    if x.tj + 5 ≤ s.gov.tjThrottle then setDie s d { x with trip := false } else s
  else if 105 ≤ x.tj then
    let s := setDie s d { x with trip := true }
    let s := (diePartitions s d).foldl (fun s p => updGovPart s p fun g => { g with trip := true }) s
    setAlert (logEvent s srcGov 0x0B true [BitVec.ofNat 8 d, BitVec.ofNat 8 sensor, BitVec.ofNat 8 x.tj]) 2
  else s

/-- The RTP answers a trip that has ended: LIMIT 80 (R318). While it restarts, LIMIT holds. -/
def tripLimits (s : State) : State :=
  if s.rtpDown then s
  else (List.range 16).foldl (fun s p =>
    if (getGovPart s p).trip && !tripped s p then updGovPart s p fun g => { g with trip := false, limit := 80, why := 3, raiseWait := 10 }
    else s) s

/-- One die at a sample. A droop freezes its integrators and hides the shortfall (R323). -/
def sampleDie (m : Sample) (s : State) (d : Nat) : State :=
  let up (l : List Nat) : Nat := l.getD d 0
  let s := updDie s d fun x => { x with
    current := up m.current10
    tj := up m.tj
    rail := if x.rail ≤ x.volt then min x.volt (x.rail + 100) else max x.volt (x.rail - 100) }
  let base := baseVolt s d
  let short := newShortfall s d
  let x := getDie s d
  let s := if x.droop != 0 then s
    else
      let x := { x with fCur := nextFCur x.fCur (up m.current1m) (up m.current10) }
      setDie s d { trimLoop base short (thermalLoop s.gov.tjThrottle x) with seen := shortfalls s }
  let s := tripLoop (ceilingLimit s d) d (up m.sensor)
  irqLevel s (272 + d) ((getDie s d).fTh != 0 || (getDie s d).trip)

/-- Count the samples for which a partition has bubbles. -/
def countBubbles (s : State) : State :=
  (List.range 16).foldl (fun s p => updGovPart s p fun g => { g with fRun := if bubbleF s p = 0 then 0 else g.fRun + 1 }) s

/-- GOVERNOR_SAMPLE: the interval of 10 µs that has just ended. -/
def execGovernorSample (m : Sample) (s : State) : Outcome :=
  let s := { s with gov := { s.gov with trayCap := s.gov.trayNext, power := m.power } }
  let s := if (List.range 4).any fun d => (getDie s d).droop != 0 then s
    else { s with gov := { s.gov with fCap := nextFCap s.gov.fCap m.power (10 * effectiveCap s) } }
  let s := (List.range 4).foldl (sampleDie m) s
  let hot := (List.range 8).foldl (fun b h => setBit b h (decide (95 < m.stackTj.getD h 0))) (0 : Byte)
  let s := tripLimits { s with gov := { s.gov with hotStacks := hot } }
  .next (settle (countBubbles (govern s)))

/-! ### The slow loop (R315) -/

/-- Headroom: no bubbles, 5 % of the cap free, and nothing but the cap binds. What holds LIMIT down is not counted as binding. -/
def headroom (s : State) (p : Nat) : Bool :=
  bubbleF s p == 0 && decide (1000 * s.gov.power < 950 * (10 * effectiveCap s)) && !tripped s p && !droopHolds s p &&
    !(sliceTaken s p && decide ((getGovPart s p).glove < paceLocal s p))

/-- The term of F that is largest. -/
def bubbleReason (s : State) (p : Nat) : Nat :=
  let f := bubbleF s p
  if s.gov.fCap = f then capReason s
  else if (List.range 4).any fun d => partOnDie s p d && (getDie s d).fCur == f then 2 else 3

/-- One partition at a 1 ms tick, and whether its bubbles turned into a lower LIMIT. -/
def slowPart (s : State) (p : Nat) : GovPart × Bool :=
  let g := getGovPart s p
  if 50 ≤ g.fRun then
    ({ g with limit := max 80 (targetOf s p * (64 - bubbleF s p) / 64), why := bubbleReason s p, raiseWait := 10 }, true)
  else
    let g := { g with raiseWait := g.raiseWait - 1 }
    if headroom s p && g.raiseWait == 0 && decide (g.limit < 200) then ({ g with limit := min 200 (g.limit + 2), raiseWait := 10 }, false)
    else (g, false)

/-- SLOW_LOOP_TICK: raises the RTP's private source 6 and takes the counter sample of R366; no effect on LIMIT while the RTP is in
reset. -/
def execSlowLoopTick (s : State) : Outcome :=
  let s := irqPrivate { s with cnt := { s.cnt with sample := s.cnt.live } } 48 6 true
  .next (settle (if s.rtpDown then s
    else
      let l := (List.range 16).map fun p => (p, slowPart s p)
      let t := l.foldl (fun s e => setGovPart s e.1 e.2.1) s
      let t := if l.any fun e => e.2.2 then { t with gov := { t.gov with fCap := 0 } } else t
      govern t))

/-- THROTTLE_RECORD_TIMER: open episode `i` has lasted another second. -/
def execThrottleRecordTimer (i : Nat) (s : State) : Outcome :=
  .next (settle (match s.gov.episodes[i]? with
    | none => s
    | some e =>
      let s := writeThrottle s e
      { s with gov := { s.gov with episodes := s.gov.episodes.set i (newEpisode s e.part e.reason) } }))

/-! ### Droop (R323, R324) -/

/-- DROOP_BEGIN: a droop during the settle time restarts it. -/
def execDroopBegin (cl : Fin 32) (s : State) : Outcome :=
  let d := cl.val / 8
  let first := (getDie s d).droop == 0
  let s := updDie s d fun x => { x with droop := setBit x.droop cl.val true, settle := false, mark := if first then shortfalls s else x.mark }
  .next (settle (syncEpisodes (irqLevel s (276 + d) true)))

/-- DROOP_END: the ticks that fell short during the event are passed over; the settle time starts. -/
def execDroopEnd (die : Fin 4) (s : State) : Outcome :=
  let d := die.val
  .next (settle (if (getDie s d).droop = 0 then s
    else
      let s := updDie s d fun x => { x with
        droop := 0
        settle := true
        mark := []
        seen := (List.range 16).foldl (fun t p =>
          Tbl.set 0 t p (Tbl.get 0 x.seen p + (counterValue s (counterId 4 p 1) - Tbl.get 0 x.mark p))) [] }
      syncEpisodes (irqLevel s (276 + d) false)))

/-- DROOP_SETTLE_END: held changes are applied. -/
def execDroopSettleEnd (die : Fin 4) (s : State) : Outcome :=
  let x := getDie s die.val
  .next (settle (if x.droop != 0 || !x.settle then s else govern (setDie s die.val { x with settle := false })))

/-! ### Glove pace (R321) -/

def paceData (round : Word) (pace dir : Nat) : List Byte := leBytes 4 round.toNat ++ leBytes 1 pace ++ leBytes 1 dir

/-- The lowest of a member's LOCAL and its children's latest reports. -/
def paceLowest (s : State) (g : Glove) : Nat :=
  (crownChildren g).foldl (fun m n => match Tbl.get 0 g.paces n.toNat with | 0 => m | k + 1 => min m k) (paceLocal s g.part.toNat)

/-- Rank 0 announces a lowest value that differs from its last announcement. -/
def paceAnnounce (s : State) (g : Glove) : State :=
  let v := paceLowest s g
  let x := getGovPart s g.part.toNat
  if x.round ≠ 0 ∧ x.glove = v then s
  else govern (castMsg (setGovPart s g.part.toNat { x with glove := v, round := x.round + 1 }) g (crownChildren g) 0x0E
    (paceData (x.round + 1) v 1))

/-- PACE. -/
def execPace (p : Packet) (s : State) : Outcome :=
  .next (settle (onGloveMsg s p 0x0E fun s q g =>
    let round := BitVec.ofNat 32 (msgField q 0 4)
    let pace := msgField q 4 1
    let x := getGovPart s g.part.toNat
    match msgField q 5 1 with
    | 0 =>
      if !(crownChildren g).contains q.src then s
      else
        let g := { g with paces := Tbl.set 0 g.paces q.src.toNat (pace + 1) }
        let s := setGlove s g
        if g.rank = 0 then paceAnnounce s g else s
    | 1 =>
      if g.rank = 0 ∨ round.toNat ≤ x.round.toNat then s
      else govern (castMsg (setGovPart s g.part.toNat { x with glove := pace, round := round }) g (crownChildren g) 0x0E
        (paceData round pace 1))
    | _ => s))

/-- PACE_REPORT_TICK. -/
def execPaceReportTick (gid : BitVec 24) (s : State) : Outcome :=
  .next (settle (match getGlove s gid with
    | none => s
    | some g =>
      if g.rank = 0 then paceAnnounce s g
      else match parentRank g with
        | some r => castMsg s g [memberNode g r] 0x0E (paceData (getGovPart s g.part.toNat).round (paceLowest s g) 0)
        | none => s))

/-! ### Filler (R322) -/

/-- FILLER_TARGET_UPDATE: each die's core-rail current over the last µs. -/
def execFillerTargetUpdate (amps : List Nat) (s : State) : Outcome :=
  .next (settle ((List.range 4).foldl (fun s d => updDie s d fun x =>
    let i := amps.getD d 0
    { x with amps := i, filler := if x.floor = 0 then 0 else max x.floor (i - s.gov.ramp) }) s))

/-! ### Items (R330) -/

/-- PACE_SET. -/
def execPaceSet (x : ItemRef) (s : State) : Outcome :=
  .next (settle (onItem s x 0x18 fun i _ =>
    let pace := fld (iw i 1) 15 8
    if (1 ≤ pace ∧ pace < 80) ∨ 200 < pace then completeItem s x 0xB0
    else completeItem (govern (updGovPart s (fld (iw i 1) 3 0) fun g => { g with req := pace })) x 0x00))

/-- CAP_SET. -/
def execCapSet (x : ItemRef) (s : State) : Outcome :=
  .next (settle (onItem s x 0x19 fun i _ =>
    let cap := fld (iw i 1) 10 0
    let tj := fld (iw i 1) 23 16
    if cap < 500 ∨ 1600 < cap ∨ (tj ≠ 0 ∧ (tj < 80 ∨ 100 < tj)) then completeItem s x 0xB1
    else completeItem { s with gov := { s.gov with cap := cap, tjThrottle := if tj = 0 then s.gov.tjThrottle else tj } } x 0x00))

/-- FILLER_SET. -/
def execFillerSet (x : ItemRef) (s : State) : Outcome :=
  .next (settle (onItem s x 0x1B fun i _ =>
    let w := iw i 1
    if fld w 39 32 = 0 then completeItem s x 0xB5
    else
      let s := { s with gov := { s.gov with ramp := fld w 39 32 } }
      completeItem ((List.range 4).foldl (fun s d => updDie s d fun y => { y with floor := 2 * fld w (8 * d + 7) (8 * d) }) s) x 0x00))

/-- THROTTLE_READ: a header and the records. -/
def execThrottleRead (x : ItemRef) (s : State) : Outcome :=
  .next (settle (onItem s x 0x1C fun i c =>
    let n := s.gov.log.length
    if (iw i 1).toNat % 8 ≠ 0 then completeItem s x 0x20
    else writeRecord s x c (iw i 1) (dwordBytes ([BitVec.ofNat 64 (n + s.gov.overwritten.toNat * 2 ^ 16), 0] ++
      s.gov.log.flatMap fun e => [e.1, e.2])) (BitVec.ofNat 64 n)))

/-- The governor record (Table 13.9). -/
def govRecord (s : State) : List Dword :=
  let die (d : Nat) : Dword :=
    let x := getDie s d
    BitVec.ofNat 64 (x.volt + x.current % 1024 * 2 ^ 16 + x.tj % 256 * 2 ^ 32 + x.fTh * 2 ^ 40 + x.fCur * 2 ^ 46 +
      if x.droop != 0 then 2 ^ 52 else 0)
  let part (p : Nat) : Dword :=
    let g := getGovPart s p
    BitVec.ofNat 64 (g.req + g.limit * 2 ^ 8 + paceGlove s p * 2 ^ 16 + targetOf s p * 2 ^ 24 + bubbleF s p * 2 ^ 32 +
      (match g.held with | some h => 2 ^ 38 + h * 2 ^ 40 | none => 0) + g.round.toNat % 2 ^ 16 * 2 ^ 48)
  [BitVec.ofNat 64 (min s.gov.power 65535 + s.gov.cap * 2 ^ 16 + s.gov.trayCap * 2 ^ 32 + reasonBits s * 2 ^ 48 + s.gov.fCap * 2 ^ 54)] ++
    (List.range 4).map die ++ [0, 0, 0] ++ (List.range 16).map part

/-- GOV_READ. -/
def execGovRead (x : ItemRef) (s : State) : Outcome :=
  .next (settle (onItem s x 0x1D fun i c =>
    if (iw i 1).toNat % 8 ≠ 0 then completeItem s x 0x20
    else writeRecord s x c (iw i 1) (dwordBytes (govRecord s)) 0))

/-! ### Sleep (R325 to R329) -/

/-- States that a domain's kind allows (Table 13.3). -/
def domainAllows (d st : Nat) : Bool :=
  if 45 < d then false
  else if d = 44 then st == 0
  else if 40 ≤ d ∧ d ≤ 43 then st != 2
  else true

/-- DOMAIN_BUSY (R325). -/
def domainBusy (s : State) (d st : Nat) : Bool :=
  if st = 3 then
    if d < 32 then (s.bindings.any fun e => e.1 / 10 == d && e.2.state != 0) || (s.slices.any fun e => banksNamed e.2 d != 0)
    else decide (32 ≤ d ∧ d < 40) && (List.range 16).any fun p => (channelsBound s p >>> (16 * (d - 32))).setWidth 16 != (0 : BitVec 16)
  else st != 0 && s.cores.any fun e => e.1 / 10 == d && e.2.kernel.isSome

/-- The sources of a domain that are pending already: WORK and INTR. -/
def pendingSources (s : State) (d : Nat) : BitVec 4 :=
  let work := s.sched.waiting.any fun w => match findBinding s w.gid w.vcore with | some p => p / 10 == d | none => false
  let intr := s.procCore.any fun e => e.2 != 0 && (e.2 - 1) / 10 == d && !(candidates s e.1).isEmpty
  setBit (setBit 0 0 work) 1 intr

def domainResult (woke : Bool) (st : Nat) : Dword := BitVec.ofNat 64 ((if woke then 1 else 0) + st * 2 ^ 8)

/-- DOMAIN_SET. While an exit runs, the item waits. -/
def execDomainSet (x : ItemRef) (s : State) : Outcome :=
  .next (settle (onItem s x 0x1A fun i _ =>
    let w := iw i 1
    let d := fld w 5 0
    let st := fld w 9 8
    let wake := BitVec.ofNat 4 (fld w 19 16)
    let y := getDomain s d
    if bit wake 2 && (fld w 51 32 == 0 || decide (1000000 < fld w 51 32)) then completeItem s x 0x20
    else if !domainAllows d st then completeItem s x 0xB2
    else if y.busy = 3 then s
    else if domainBusy s d st then completeItem s x 0xB3
    else if y.busy ≠ 0 then completeItem s x 0xB6
    else if st = 0 then
      if y.st = 0 then completeResult s x 0x00 (domainResult false 0)
      else startExit (setDomain (updRun s x fun r => { r with active := true }) d { y with item := some x }) d
    else if wake &&& pendingSources s d != 0 then completeItem s x 0xB4
    else setDomain (updRun s x fun r => { r with active := true }) d
      { y with busy := 1, goal := BitVec.ofNat 2 st, wake := wake, timer := BitVec.ofNat 20 (fld w 51 32), woke := false, item := some x }))

/-- Whether a domain's outstanding transfers have drained (R327, step 3). -/
def domainDrained (s : State) (d : Nat) : Bool := s.cores.all fun e => e.1 / 10 != d || e.2.xfers.isEmpty

/-- Forget a cluster's cores, banks and directory cache. -/
def loseCluster (s : State) (cl : Nat) : State :=
  let out {α : Type} (t : Tbl α) : Tbl α := t.filter fun e => e.1 / 10 != cl
  { s with
    cores := out s.cores
    mcores := out s.mcores
    vcores := out s.vcores
    scores := out s.scores
    dirCache := Tbl.set [] s.dirCache cl []
    mem := (List.range 32).foldl (fun m b => zeroBank m (32 * cl + b)) s.mem }

/-- Forget a stack's contents. -/
def loseStack (s : State) (h : Nat) : State :=
  { s with mem := { s.mem with
      hbm := s.mem.hbm.filter fun e => e.1 / 2 ^ 36 != h
      hbmPoison := s.mem.hbmPoison.filter fun e => 64 * e.1 / 2 ^ 36 != h } }

/-- Empty the weight-key slots; a WKEY_CLEAR that waits is answered. -/
def loseKeys (s : State) : State :=
  let waits := s.trust.wkeys.flatMap fun e => match e.2 with | some k => k.items | none => []
  waits.foldl (fun s x => completeItem s x 0x00) { s with trust := { s.trust with wkeys := [] } }

/-- What a domain loses in off (Table 13.3). -/
def loseDomain (s : State) (d : Nat) : State :=
  if d < 32 then loseCluster s d
  else if d < 40 then loseStack s (d - 32)
  else if d = 45 then loseKeys s
  else s

/-- The links of a fabric quadrant. -/
def quadLinks (d : Nat) : List Nat := if 40 ≤ d ∧ d ≤ 43 then (List.range 16).map fun k => 16 * (d - 40) + k else []

/-- DOMAIN_ENTRY_COMMIT (R327): once drained, the element grants commit; a second one is the end of isolation, which completes the item.
A source that fires between the two makes WOKE 1. -/
def execDomainEntryCommit (d : BitVec 6) (s : State) : Outcome :=
  let n := d.toNat
  let x := getDomain s n
  .next (settle (match x.busy.toNat with
    | 1 =>
      if !domainDrained s n then s
      else
        let s := setDomain s n { x with busy := 2, st := x.goal }
        govern ((quadLinks n).foldl (fun s l => linkOff s l 9) s)
    | 2 =>
      let s := if x.st = 3 then loseDomain s n else s
      let s := setDomain s n { x with busy := 0, woke := false, item := none }
      let s := match x.item with
        | some i => completeResult s i 0x00 (domainResult x.woke x.st.toNat)
        | none => s
      if x.woke then startExit s n else s
    | _ => s))

/-- WAKE_SOURCE: 0 WORK, 1 INTR, 2 TIMER, 3 TRAY, 4 a memory access. -/
def execWakeSource (d : BitVec 6) (source : BitVec 3) (s : State) : Outcome := .next (settle (wakeDomain s d.toNat source.toNat))

/-- DOMAIN_WAKE_TIMER: TIMER µs after the entry completed. -/
def execDomainWakeTimer (d : BitVec 6) (s : State) : Outcome :=
  .next (settle (if (getDomain s d.toNat).busy = 0 then wakeDomain s d.toNat 2 else s))

/-- DOMAIN_EXIT_DONE: held accesses and waiting work may go on; a quadrant's links train. -/
def execDomainExitDone (d : BitVec 6) (s : State) : Outcome :=
  let n := d.toNat
  let x := getDomain s n
  .next (settle (if x.busy ≠ 3 ∨ x.wave then s
    else
      let s := (quadLinks n).foldl linkOn (setDomain s n {})
      let s := match x.item with
        | some i => completeResult s i 0x00 (domainResult false 0)
        | none => s
      govern (resumeItems s)))

/-- POWER_WAVE_START (R329): the next 8 domains, in the order of their requests. -/
def execPowerWaveStart (s : State) : Outcome :=
  let now := s.gov.waves.take 8
  .next (settle (now.foldl (fun s d => setDomain s d { getDomain s d with wave := false })
    { s with gov := { s.gov with waves := s.gov.waves.drop 8 } }))

end Sys2Proof.Machine
end

