-- ==== Sys2Proof/Machine/Verdict.lean ====
section
/-!
DEFINITION. What a lasting verdict does (R24, R25, R339, R340, R343, Table 14.7): spares brought in, elements retired.
-/
namespace Sys2Proof.Machine

/-! ### Cores (R24, R25) -/

/-- A failing core with no spare (R25): the point of its vcore is forced at once, and its kernel's context is a victim. It is retired as soon
as the point is taken and its transfers are complete (`finishBare`). -/
def retireBare (s : State) (p : Nat) : State :=
  let s := (s.moves.filter fun m => m.src == p).foldl (fun s m => abortMove s m 0x4B) s
  let s := match (getCore s p).kernel with
    | some k => victim s k.x.ctx 5 0x03 (.core (Fin.ofNat 320 p))
    | none => s
  let s := stopCore s p 0x03
  { s with fp := { s.fp with bare := s.fp.bare ++ [p] } }

/-- The RTP's own move of a failing core's vcore to the designated spare; a move that an item runs goes on instead. -/
def refitFailing (s : State) (p : Nat) : State :=
  match Tbl.get 0 s.fp.designated p with
  | 0 => s
  | q + 1 =>
    let b := getBinding s p
    if b.state ≠ 1 || s.moves.any fun m => m.src == p then s
    else kickMoves { s with moves := s.moves ++ [{ gid := b.gid, vcore := b.vcore, kind := BitVec.ofNat 2 (slotKind p), src := p, node := s.node,
                                                   dst := q, sgCl := b.sgCl, sgSlot := b.sgSlot, force := 0 }] }

/-- Designate the spare of a failing core, or retire it (R24, R25). -/
def designateFor (s : State) (p : Nat) (own : Bool) : State :=
  match designate s p own with
  | some q => refitFailing { s with fp := { s.fp with designated := Tbl.set 0 s.fp.designated p (q + 1) } } p
  | none => retireBare (spareUnavailable s (.core (Fin.ofNat 320 p))) p

/-- A core becomes failing; a move into it aborts (Table 7.11). -/
def failCore (s : State) (p : Nat) (own : Bool) : State := designateFor (queueChange (abortIns s (· == p)) (.coreFailing (Fin.ofNat 320 p))) p own

/-- A spare core is retired; a failing core that had it gets another. -/
def failSpare (s : State) (p : Nat) : State :=
  let s := queueChange s (.spareRetired (Fin.ofNat 320 p))
  (s.fp.designated.filter fun e => e.2 == p + 1).foldl (fun s e =>
    let s := (s.moves.filter fun m => m.src == e.1 && m.item.isNone).foldl (fun s m => abortMove s m 0x4B) s
    designateFor { s with fp := { s.fp with designated := Tbl.set 0 s.fp.designated e.1 0 } } e.1 (!bit s.err.leaving (e.1 / 10))) s

/-! ### Memory (R134, R135, R152) -/

/-- Changes of a kind that wait for their commit. -/
def pendingCount (s : State) (f : FpChange → Bool) : Nat := (s.fp.pending.filter f).length

/-- A bank fails: its spare is copied, or it is lost (Table 6.3, R135). -/
def failBank (s : State) (c b : Fin 32) : State :=
  let k := 32 * c.val + b.val
  let taken (n : Nat) : Bool := Tbl.get false s.mem.bankBad (34 * c.val + n) || s.mem.bankCopy.any fun e => e.1 / 32 == c.val && e.2 == n + 1
  if Tbl.get false s.mem.bankLost k || Tbl.get 0 s.mem.bankCopy k != 0 then s
  else match [32, 33].find? fun n => !taken n with
    | some n => { s with mem := { s.mem with bankCopy := Tbl.set 0 s.mem.bankCopy k (n + 1) } }
    | none => queueChange { s with mem := { s.mem with bankLost := Tbl.set false s.mem.bankLost k true } } (.bankRetired c b)

/-- A row fails: a spare row of its bank, else the bank. -/
def failRow (s : State) (c b : Fin 32) (r : BitVec 13) : State :=
  let spent := Tbl.get 0 s.fp.rowsSpent (34 * c.val + physBank s.mem c.val b.val) +
    pendingCount s fun | .spareRow d e _ => d == c && e == b | _ => false
  if spent < 16 then queueChange s (.spareRow c b r) else failBank s c b

/-- A channel is retired. -/
def failChannel (s : State) (c : Fin 128) : State :=
  if !bit s.fp.chInService c.val || s.fp.pending.contains (.hbmChannel c) then s else queueChange s (.hbmChannel c)

/-- A frame fails: a reserve frame of its channel, else it is dead; with more than 64 dead frames the channel is retired. -/
def failFrame (s : State) (c : Fin 128) (f : BitVec 20) : State :=
  let k := frameKey c.val f.toNat
  let waits := (s.mem.frameCopy.filter fun e => e.1 / 2 ^ 20 == c.val).length + pendingCount s fun | .hbmPage d _ => d == c | _ => false
  let spent := Tbl.get 0 s.fp.reserveSpent c.val + waits
  if Tbl.get false s.mem.frameDead k || Tbl.get 0 s.mem.frameCopy k != 0 then s
  else if spent < hbmReserve s then
    { s with mem := { s.mem with frameCopy := Tbl.set 0 s.mem.frameCopy k (hbmFrames s + spent + 1) } }
  else
    let s := { s with mem := { s.mem with frameDead := Tbl.set false s.mem.frameDead k true } }
    if 64 < (s.mem.frameDead.filter fun e => e.1 / 2 ^ 20 == c.val).length then failChannel s c else s

/-! ### CP pairs (R343) -/

/-- A CP pair that may take work. -/
def cpHealthy (s : State) (n : Nat) : Bool :=
  bit s.fp.cpOk n && !pairStopped s n && !s.fp.pending.contains (.cpDegraded (Fin.ofNat 16 n))

def cpLoad (s : State) (n : Nat) : Nat := (listOpt (fun q => q.cp.toNat == n) s.queues).length

/-- The CP with the fewest queues, lowest number on ties. -/
def leastLoaded (s : State) (l : List Nat) : Option Nat :=
  l.foldl (fun m n => match m with
    | none => some n
    | some b => if cpLoad s n < cpLoad s b then some n else some b) none

/-- The sibling of a CP: of its die, else of the package. -/
def siblingOf (s : State) (n : Nat) : Option Nat :=
  let ok := (List.range 16).filter fun k => k != n && cpHealthy s k
  match leastLoaded s (ok.filter fun k => k / 4 == n / 4) with
  | some k => some k
  | none => leastLoaded s ok

/-- A CP pair is degraded: its queues move to the sibling. `true`: none is healthy. -/
def failCp (s : State) (c : Fin 16) : State × Bool :=
  let s := queueChange s (.cpDegraded c)
  match siblingOf s c.val with
  | some k => ({ s with queues := mapOpt (fun q => if q.cp.toNat = c.val then { q with cp := BitVec.ofNat 4 k } else q) s.queues }, false)
  | none => (s, true)

/-! ### Cluster control (R340) -/

/-- A cluster becomes memory-only: its sync groups are lost, its enabled cores fail, its vcores move away. -/
def failCluster (s : State) (c : Fin 32) : State :=
  let users := s.bindings.filterMap fun e =>
    if e.2.state != 0 && e.2.sgCl.toNat == c.val then (getCore s e.1).kernel.map fun k => k.x.ctx else none
  let s := users.foldl (fun s x => victim s x 5 0x03 (.clusterControl c)) s
  let s := { s with sync := s.sync.filter fun e => e.1 / 8 != c.val
                    err := { s.err with leaving := setBit s.err.leaving c.val true } }
  ((List.range 10).filter fun k => slotState s (10 * c.val + k) == 2).foldl (fun s k => failCore s (10 * c.val + k) false) s

/-! ### Every element (Table 14.7) -/

/-- A lasting verdict acts; `true` where only the package level can handle it. -/
def lasting (s : State) (e : Element) : State × Bool :=
  match e with
  | .core c =>
    (match (slotState s c.val).toNat with
     | 2 => failCore s c.val true
     | 1 => failSpare s c.val
     | _ => s, false)
  | .cp n => failCp s n
  | .rtp => (queueChange s .rtpDegraded, false)
  | .sramRow c b r => (failRow s c b r, false)
  | .sramBank c b => (failBank s c b, false)
  | .hbmFrame c f => (failFrame s c f, false)
  | .hbmChannel c => (failChannel s c, false)
  | .lane l k => (laneVerdict s l.val (logLane s l.val k) false, false)
  | .spareLane g => (spareVerdict s g.val false, false)
  | .crossing k i =>
    (match k.toNat with
     | 1 => linkOff s (i.toNat % 64) 0
     | 2 => failChannel s (Fin.ofNat 128 i.toNat)
     | _ => s, false)
  | .clusterControl c => (failCluster s c, false)
  | .block _ | .router _ | .stop _ => (s, true)
  | .none => (s, false)

end Sys2Proof.Machine
end

