-- ==== Sys2Proof/Machine/Boot.lean ====
section
/-!
DEFINITION. Bring-up, removal and management restart (the chapter "Bring-up, live insertion and management restart"): power-on to Ready,
the manager queue, PREPARE, RTP restart, package reset, and the loss of power.
-/
namespace Sys2Proof.Machine

/-! ### Sideband pins (R369) -/

/-- HOST_EN, pin 0. -/
def setHostEn (s : State) (b : Bool) : State :=
  if s.life.hostEn = b then s else emit { s with life := { s.life with hostEn := b } } (.pin 0 b)

/-- READY, pin 1. -/
def setReadyPin (s : State) (b : Bool) : State :=
  if s.life.readyPin = b then s else emit { s with life := { s.life with readyPin := b } } (.pin 1 b)

/-- FAULT_REQ#, pin 3: low until PWR_EN falls. -/
def faultRequest (s : State) : State :=
  if s.life.faultReq then s else setAlert (emit { s with life := { s.life with faultReq := true } } (.pin 3 false)) 4

/-- The SIDEBAND source of the RTP (Table 17.1). -/
def sideband (s : State) : State := irqPrivate s 48 7 true

/-- A life-cycle event. -/
def lifeEvent (s : State) : State := logEvent s srcRtp 0x10 false [s.life.phase.setWidth 8, s.life.bootFail]

/-- A FATAL error (R334, R347): its record and the fault request. -/
def fatalError (s : State) (src : Nat) (e : Element) (detail : Dword) : State := faultRequest (reportError s src 5 e detail)

/-! ### Power-on (R356, R370) -/

/-- Whether a bank boots under an SVN floor. -/
def bankBoots (b : FlashBank) (floor : Nat) : Bool := b.verifies && decide (floor ≤ b.svn)

/-- The bank that boots: the one with the higher SVN not below the floor, A on a tie; the other one is tried once (Table 15.1). `true` is B. -/
def chooseBank (a b : FlashBank) (floor : Nat) : Option Bool :=
  let first := decide (floor ≤ b.svn) && (decide (a.svn < b.svn) || decide (a.svn < floor))
  if bankBoots (if first then b else a) floor then some first
  else if bankBoots (if first then a else b) floor then some (!first)
  else none

/-- The record as the fuses give it (R19, R20): GENERATION 0; every slot of a memory-only cluster reads 0b00 (R13, R21). -/
def fusePlan (e : BootEnv) (log : List FpChange) : FloorPlan :=
  { computeMask := e.compute
    slot := tblOf 0 320 fun p => if bit e.compute (p / 10) then e.slots.getD p 0 else 0
    paceMax := tblOf 0 32 fun c => e.paceMax.getD c 0
    cpOk := 0xFFFF
    rtpOk := true
    chInService := BitVec.allOnes 128
    capacity := if e.variant = 2 then 24 else 36
    linkOk := BitVec.allOnes 64
    spareFree := 0xFFFF
    banksSpent := tblOf 0 32 fun c => min 2 (Tbl.get 0 e.banksBad c)
    rowsSpent := e.spareRows.foldl (fun t x => Tbl.set 0 t x.1 (min 16 x.2)) []
    reserveSpent := tblOf 0 128 fun c => Tbl.get 0 e.reserveBad c
    repairLog := log }

/-- The spare banks that test found bad, from bank 32 of the cluster on. -/
def sparesBad (m : Memory) (e : BootEnv) : Memory :=
  { m with bankBad := e.banksBad.foldl (fun t x =>
      (List.range (min 2 x.2)).foldl (fun t k => Tbl.set false t (34 * (x.1 % 32) + 32 + k) true) t) m.bankBad }

/-- One entry of the repair log: the record, and the remap that it stands for (R23). -/
def replayChange (s : State) (c : FpChange) : State :=
  let fp := s.fp
  let phys := match c with
    | .spareRow cl b _ => physBank s.mem cl.val b.val
    | .spareBank cl _ => 32 + Tbl.get 0 fp.banksSpent cl.val
    | _ => 0
  let t := { s with fp := applyChange fp phys c }
  match c with
  | .spareBank cl b =>
    let n := 32 + Tbl.get 0 fp.banksSpent cl.val
    { t with mem := { t.mem with
        bankBad := Tbl.set false (Tbl.set false t.mem.bankBad (34 * cl.val + physBank t.mem cl.val b.val) true) (34 * cl.val + n) true
        bankMap := Tbl.set 0 t.mem.bankMap (32 * cl.val + b.val) (n + 1) } }
  | .bankRetired cl b => { t with mem := { t.mem with bankLost := Tbl.set false t.mem.bankLost (32 * cl.val + b.val) true } }
  | .hbmPage ch f => { t with mem := { t.mem with
        frameMap := Tbl.set 0 t.mem.frameMap (frameKey ch.val f.toNat) (hbmFrames s + Tbl.get 0 fp.reserveSpent ch.val + 1) } }
  | .spareLane g p => setGroup (updLink t (4 * g.val + p.toNat / 4) fun l => { l with spared := true }) g.val { spare := 1, pair := p }
  | .spareLaneBad g => setGroup t g.val { getGroup t g.val with spare := 2 }
  | _ => t

/-- Commit every change that waits. -/
def commitAll : Nat → State → State
  | 0, s => s
  | fuel + 1, s =>
    match s.fp.pending with
    | [] => s
    | c :: l => commitAll fuel (commitChange { s with fp := { s.fp with pending := l } } c)

def commitPending (s : State) : State :=
  let s := leaveClusters (retireFailing s)
  commitAll s.fp.pending.length s

/-- The source of a step-8 failure. -/
def bootSource : Element → Nat
  | .core _ => 0x06
  | .cp _ | .rtp => 0x07
  | .sramRow .. | .sramBank .. => 0x02
  | .hbmFrame .. | .hbmChannel _ => 0x04
  | .lane .. | .spareLane _ => 0x05
  | .crossing .. => 0x0A
  | .clusterControl _ => 0x10
  | .router _ | .stop _ => 0x11
  | _ => 0x0F

/-- A failure at step 4 or 8: a lasting verdict, VERDICT 2 and LEVEL 0 (R371). -/
def bootFailure (s : State) (e : Element) : State :=
  let src := bootSource e
  let sev := sourceSeverity src
  let s := logError s sev 0 2 src false e none 1 0
  let s := { s with err := { s.err with sev := Tbl.upd 0 s.err.sev sev (· + 1), lasting := s.err.lasting + 1 } }
  commitPending (lasting s e).1

/-- A router or ring stop fails the loopback. -/
def isLoopback : Element → Bool
  | .router _ | .stop _ => true
  | _ => false

/-- Whether the record falls below a minimum of Table 1.10. -/
def belowMinimum (s : State) : Bool :=
  let fp := s.fp
  let en (k : Nat) : Nat := slotCount fp k [2]
  let sp (k : Nat) : Nat := slotCount fp k [1]
  decide (popcount fp.computeMask < 31) || decide (en 0 < 128) || decide (en 1 < 64) || decide (en 2 < 32) ||
  decide (sp 0 < 8) || decide (sp 1 < 8) || decide (sp 2 < 4) || fp.cpOk != 0xFFFF || !fp.rtpOk ||
  ((List.range 32).any fun c => spareBanksLeft fp c == 0) || s.mem.bankLost != [] || decide (packageRowsMin s < 8) ||
  fp.chInService != BitVec.allOnes 128 || decide (reserveMin s < 90) || fp.linkOk != BitVec.allOnes 64 || fp.spareFree != 0xFFFF ||
  ((List.range 32).any fun c => bit fp.computeMask c && decide ((Tbl.get 0 fp.paceMax c).toNat < 200)) ||
  decide (256 ≤ fp.repairLog.length)

/-- Step 9: Ready (R372, R383). -/
def goReady (s : State) : State :=
  let ss := (List.range 320).filter fun p => slotKind p == 2 && slotState s p == 2
  let s := setCtx s managerCtx
  let s := { s with
    procCore := (ss.take 32).zipIdx.map fun e => (e.2, e.1 + 1)
    life := { s.life with phase := 0xA, ready := true, degraded := belowMinimum s, bootFail := 0 } }
  lifeEvent (setReadyPin s true)

/-- The condition of R372 that fails, as BOOT_FAIL. -/
def readyFail (s : State) (e : BootEnv) : Option Byte :=
  if e.rtpFails then some 0x05
  else if s.fp.cpOk = 0 then some 0x02
  else if e.testsFailed.any isLoopback then some 0x03
  else if s.fp.computeMask = 0 then some 0x04
  else none

/-- Power-on does not reach Ready: the module stays as it is until power is removed. -/
def bootFailed (s : State) (code : Byte) : State :=
  faultRequest (setAlert (lifeEvent { s with life := { s.life with phase := 0xE, bootFail := code } }) 1)

/-- Step 6 of power-on: every enabled link enters DETECT. -/
def linksDetect (s : State) : State := (List.range 64).foldl (fun s n => linkOn s n) s

/-- Steps 3 to 9. -/
def bringUp (s : State) (e : BootEnv) : State :=
  let log := s.fp.repairLog
  let s := (e.repairs ++ log).foldl replayChange { s with fp := fusePlan e log, mem := sparesBad s.mem e, incarnation := s.incarnation + 1 }
  let s := { s with fp := { s.fp with wearWarn := wearBits s } }
  let s := e.channelsFailed.foldl (fun s c => bootFailure s (.hbmChannel c)) s
  let s := linksDetect (setHostEn s true)
  let s := e.testsFailed.foldl bootFailure s
  match readyFail s e with
  | some code => bootFailed s code
  | none => goReady s

/-- An image with COMMIT_SVN raises the floor when it reaches Ready (R356). -/
def commitSvn (s : State) (b : FlashBank) : State :=
  if s.life.ready && b.commitSvn then
    { s with life := { s.life with flash := { s.life.flash with svnFloor := max s.life.flash.svnFloor b.svn } } }
  else s

/-- Step 2 onward: the measured boot (Table 15.1), then steps 3 to 9. -/
def bootFrom (s : State) (e : BootEnv) : State :=
  let f := s.life.flash
  let a := f.bankA.getD e.bankA
  let b := f.bankB.getD e.bankB
  let floor := max f.svnFloor e.svnFloor
  let s := { s with life := { s.life with env := e, flash := { f with bankA := some a, bankB := some b, svnFloor := floor } } }
  match chooseBank a b floor with
  | none => bootFailed s 0x01
  | some isB =>
    let k := if isB then b else a
    let meas := [e.romDigest] ++ ((List.range 5).map fun i => k.digests.getD i 0) ++ [e.fuseDigest]
    let s := { s with trust := { s.trust with meas := meas }
                      life := { s.life with flash := { s.life.flash with bootedB := isB }, fwSvn := BitVec.ofNat 16 k.svn } }
    commitSvn (bringUp s e) k

/-- Main power is gone: only the flash persists (Table 16.7). The queue, the outbox and the running numbers are the model's own. -/
def powerOff (s : State) : State :=
  let t := if s.life.readyPin then emit s (.pin 1 false) else s
  let t := if s.life.hostEn then emit t (.pin 0 false) else t
  let t := if s.life.rmOk then emit t (.pin 2 false) else t
  let t := if s.life.faultReq then emit t (.pin 3 true) else t
  let t := if alertLow s then emit t (.pin 4 true) else t
  { State.reset with
    fp := { repairLog := s.fp.repairLog }
    incarnation := s.incarnation
    life := { flash := s.life.flash }
    refNs := s.refNs
    serial := s.serial
    free := s.free
    out := t.out
    pending := s.pending }

/-- POWER_ON (R370): PWR_EN rises with the input within its limits. The whole sequence of Table 16.2 is this command's effect. -/
def execPowerOn (e : BootEnv) (s : State) : Outcome :=
  .next (settle (if s.life.powered then s
    else bootFrom { s with life := { s.life with powered := true, phase := 2 } } e))

/-- PWR_EN_FALL (R415). -/
def execPwrEnFall (s : State) : Outcome := .next (if s.life.powered then powerOff s else s)

/-- POWER_LOSS (R415): as a surprise removal; nothing is written to the flash. -/
def execPowerLoss (s : State) : Outcome := .next (if s.life.powered then powerOff s else s)

/-- INPUT_OVERVOLTAGE (R415): the main path opens; the module is off until PWR_EN is cycled. -/
def execInputOvervoltage (s : State) : Outcome := .next (if s.life.powered then powerOff s else s)

/-- INPUT_OVERCURRENT (R415). -/
def execInputOvercurrent (s : State) : Outcome := .next (if s.life.powered then powerOff s else s)

/-- SURPRISE_REMOVAL (R378): data held only on the module is lost. After RM_OK a removal is no surprise, and its effect the same. -/
def execSurpriseRemoval (s : State) : Outcome := .next (if s.life.powered then powerOff s else s)

/-! ### Package reset (R347, R348) -/

/-- What the always-on domain, the PHY islands, the boot flash and, where `hbm`, the stacks keep; all else is at its reset value. Of the registers
outside the always-on domain only the RWS one, CXL_EN, keeps its value (Table 0.5): ENABLE, FAB_LINK_EXPECT, HIU_RA_INDEX and the HIU_MGR block
return to theirs. -/
def clearPackage (s : State) (hbm : Bool) : State :=
  let m := s.mem
  { State.reset with
    fp := s.fp
    mem := { sram := [], bankMap := m.bankMap, bankCopy := m.bankCopy, bankBad := m.bankBad, bankLost := m.bankLost,
             hbm := if hbm then m.hbm else [], hbmPoison := if hbm then m.hbmPoison else [],
             frameMap := m.frameMap, frameCopy := m.frameCopy, frameDead := m.frameDead }
    meters := s.meters
    host := { s.host with raIndex := 0, raLo := 0, low := 0, stale := [] }
    cfg := s.cfg
    incarnation := s.incarnation
    log := { s.log with sseq := [], lost := 0, ringLog := 0, msix := 0, base := 0, widx := 0 }
    err := { esc := s.err.esc, elems := s.err.elems.map fun x => { x with testing := false, items := [] } }
    links := s.links.map fun e => (e.1, { e.2 with
      enable := true, expNode := 0, expLink := 0, check := false
      txq := [], rxBuf := [], retry := [], low := [], slots := 0, replayAt := none, laneBits := [], retrains := 0, laneFaults := 0
      follows := false })
    groups := s.groups
    gov := { s.gov with parts := [], ramp := 1, domains := [], waves := [], episodes := [], log := []
                        dies := s.gov.dies.map fun e => (e.1, { e.2 with floor := 0, filler := 0, seen := [], mark := [] }) }
    trust := { s.trust with wkeys := [] }
    life := { s.life with ready := false, degraded := false, settled := false, preparing := false, prepareWait := false, refuse := 0 }
    regs := { cxlEn := s.regs.cxlEn, trayAlert := s.regs.trayAlert, trayMask := s.regs.trayMask, cableOut := s.regs.cableOut }
    rtpDown := s.rtpDown
    time := s.time
    refNs := s.refNs
    refLost := s.refLost
    irqs := s.irqs.filterMap fun e => if levelWired e.1 && e.2.pend then some (e.1, { pend := true }) else none
    serial := s.serial
    free := s.free
    lastRead := s.lastRead
    out := s.out
    pending := s.pending }

/-- GLOVE_FAULT to every member of a glove, and its event (R350, R351). -/
def tellGlove (s : State) (g : Glove) (src : Nat) (e : Element) : State :=
  let key := (g.gid.toNat, src)
  let s := castMsg s g (otherMembers s g) 0x0F (leBytes 4 g.rank.toNat ++ leBytes 2 src ++ leBytes 4 (elemCode e))
  if s.err.gloveSeen.contains key then s
  else logEvent { s with err := { s.err with gloveSeen := s.err.gloveSeen ++ [key] } } srcRtp 0x08 true
    (leBytes 4 g.gid.toNat ++ leBytes 4 g.rank.toNat ++ leBytes 2 src ++ leBytes 4 (elemCode e))

/-- Tell every glove of a partition, or of the package. -/
def tellGloves (s : State) (p : Option Nat) (src : Nat) (e : Element) : State :=
  (listOpt (fun g => match p with | some k => g.part.toNat == k | none => true) s.gloves).foldl (fun s g => tellGlove s g src e) s

/-- The package reset begins (R347): gloves told, HOLD on every link in service, INCARN raised, READY low. -/
def beginPackage (s : State) (src : Nat) (e : Element) : State :=
  let s := sendHold (tellGloves s none src e)
  let s := { s with err := { s.err with esc := Tbl.upd 0 s.err.esc 4 (· + 1) }, incarnation := s.incarnation + 1 }
  let s := setReadyPin (clearPackage s true) false
  { s with err := { s.err with resets := [{ level := 4 }] }, life := { s.life with phase := 3 } }

/-- A package reset is asked for; it waits for an RTP that restarts, and one that runs or waits stands. -/
def packageReset (s : State) (src : Nat) (e : Element) : State :=
  if s.err.resets.any fun r => r.level == 4 then s
  else if s.rtpDown then { s with err := { s.err with resets := s.err.resets ++ [{ level := 4, held := true }] } }
  else beginPackage s src e

/-- The end of the package reset: self-refresh exit, links restart at LOCK (R259), Ready. -/
def endPackage (s : State) : State :=
  let s := { s with
    err := { s.err with resets := [] }
    fp := { s.fp with generation := 0, changeTime := 0, lastChange := 0, index := 0, designated := s.fp.designated } }
  let s := linksDetect s
  if s.fp.cpOk = 0 then bootFailed s 0x02 else if s.fp.computeMask = 0 then bootFailed s 0x04 else goReady s

/-- THERMAL_SHUTDOWN (R318, R427): the power stages remove the core and HBM rails; only a power cycle recovers. -/
def execThermalShutdown (sensor : BitVec 6) (s : State) : Outcome :=
  .next (settle (if !s.life.powered then s
    else
      let rec_ := dwordBytes (errorRecord s 5 5 3 0x15 false .none none 0 (sensor.setWidth 64))
      let s := { s with links := s.links.map fun e => (e.1, { e.2 with st := 0, lanes := 0, valid := false, hold := false }) }
      let s := setReadyPin (clearPackage s false) false
      let s := { s with
        groups := []
        life := { s.life with phase := 0, flash := { s.life.flash with events := s.life.flash.events ++ [rec_] } }
        fp := { s.fp with pending := [] } }
      setAlert (faultRequest (logError s 5 5 3 0x15 false .none none 0 (sensor.setWidth 64))) 3))

/-! ### The manager queue (R374) -/

/-- HIU_MGR register `i`, at 0x0900 + 4 × i. -/
def mgrReg (s : State) (i : Nat) : Word := Tbl.get 0 s.regs.mgr i

def mgrPair (s : State) (i : Nat) : Dword := (mgrReg s (i + 1) ++ mgrReg s i).setWidth 64

/-- Whether GO is accepted. -/
def mgrOk (s : State) : Bool :=
  let f := mgrReg s 8
  s.life.ready && !s.regs.mgrOpen && !s.host.lost && decide (fld f 23 20 ≤ 12) && decide (fld f 27 24 ≤ 12) && decide (fld f 31 28 ≤ 10) &&
  decide (fld (mgrReg s 9) 15 12 ≤ 8) && [0, 2, 4, 6].all fun i => fld (mgrReg s i) 11 0 == 0

/-- Queue 0 of context 0 opens with the registers' settings. -/
def mgrGo (s : State) : State :=
  if !mgrOk s then s
  else
    let f := mgrReg s 8
    let g := mgrReg s 9
    let c := (getCtx s 0).getD managerCtx
    let s := setCtx s { c with
      pasid := BitVec.ofNat 20 (fld f 19 0)
      msix := BitVec.ofNat 11 (fld g 10 0)
      cookieBase := mgrPair s 4
      cookieLog := BitVec.ofNat 4 (fld f 31 28)
      faultLog := BitVec.ofNat 4 (fld g 15 12)
      faultBase := mgrPair s 6
      cookieW := 0
      cookieR := 0
      cookieDropped := 0
      faultW := 0
      faultR := 0
      faultDropped := 0 }
    let q : Queue := { ctx := 0, qid := 0, page := 0, lc := true, cp := assignCp s, ringLog := BitVec.ofNat 4 (fld f 23 20),
                       cplLog := BitVec.ofNat 4 (fld f 27 24), ringBase := mgrPair s 0, cplBase := mgrPair s 2 }
    { setQueue s q with regs := { s.regs with mgrOpen := true } }

/-- A write of HIU_MGR_CTRL: MSIX and FAULT_LOG, then GO. -/
def mgrCtrlWrite (s : State) (d : Word) : State :=
  let s := { s with regs := { s.regs with mgr := Tbl.set 0 s.regs.mgr 9 (d &&& 0xF7FF) } }
  if bit d 31 then mgrGo s else s

def execHiuMgrGo (v : View) (d : Word) (s : State) : Outcome :=
  .next (settle (match v with
    | .host => ignoreHostWrite s
    | .manager => if frozenBlock s 0 then s else mgrCtrlWrite s d))

/-! ### Removal (R376, R377) -/

/-- RM_REQ (R376): logged once. -/
def execRmReq (s : State) : Outcome :=
  .next (settle (if !s.life.powered || s.life.rmReq then s
    else setAlert (sideband (lifeEvent { s with life := { s.life with rmReq := true } })) 5))

/-- The REFUSE bits that a PREPARE would set. -/
def refuseBits (s : State) : BitVec 4 :=
  let b (i : Nat) (c : Bool) : BitVec 4 := if c then BitVec.ofNat 4 (2 ^ i) else 0
  b 0 (s.gloves.any fun e => e.2.isSome) ||| b 1 (s.ctxs.any fun e => e.1 != 0 && e.2.isSome) |||
  b 2 ((s.windows.any fun e => e.2.valid) || s.fab.trees.any fun e => e.2.isSome) ||| b 3 (!s.life.rmReq)

/-- Check a PREPARE: refused, or fetching stops and the links leave service; RM_OK follows at the end of the command (R377). -/
def prepareCheck (s : State) : State :=
  let r := refuseBits s
  if r ≠ 0 then { s with life := { s.life with refuse := r } }
  else
    let s := { s with life := { s.life with preparing := true, refuse := 0 } }
    (List.range 64).foldl (fun s n =>
      if (getLink s n).enable then linkOff (updLink s n fun l => { l with enable := false }) n 8 else s) s

/-- A PREPARE write; during an RTP restart it is checked after the return. -/
def prepareWrite (s : State) : State :=
  if !s.life.ready || s.life.preparing then s
  else if s.rtpDown then { s with life := { s.life with prepareWait := true } }
  else prepareCheck s

def execRtpRemovePrepare (v : View) (s : State) : Outcome :=
  .next (settle (match v with
    | .host => ignoreHostWrite s
    | .manager => if frozenBlock s 1 then s else prepareWrite s))

/-- A CANCEL write before RM_OK: fetching goes on. -/
def cancelWrite (s : State) : State :=
  if s.life.removeReady then s else { s with life := { s.life with preparing := false, prepareWait := false } }

def execRtpRemoveCancel (v : View) (s : State) : Outcome :=
  .next (settle (match v with
    | .host => ignoreHostWrite s
    | .manager => if frozenBlock s 1 then s else cancelWrite s))

/-! ### RTP restart (R380, R381) -/

/-- The RTP stops: sessions end. A second trigger during the restart changes nothing, and a module that failed to boot stays as it is. -/
def rtpStop (s : State) : State :=
  if !s.life.powered || s.rtpDown || s.life.phase = 0xE || s.life.phase = 0 then s
  else { s with rtpDown := true
                life := { s.life with phase := 0xF }
                trust := { s.trust with doe := {}, mctp := {}, sessions := [] } }

def execRtpRestart (k : RestartCause) (s : State) : Outcome :=
  .next (settle (match k with
    | .pin => if s.life.powered then rtpStop (sideband s) else s
    | .pairSymptom | .firmware => rtpStop s))

/-- RTP_WATCHDOG (R380). -/
def execRtpWatchdog (s : State) : Outcome := .next (settle (rtpStop s))

/-- The verdict that the restart's own tests give on the RTP pair, where one was asked for (R342, R344). -/
def rtpVerdict (s : State) (pass : Bool) : State :=
  let x := findElem s .rtp
  if !x.testing then s
  else
    let v := if pass then 1 else 2
    let s := logError s x.severity x.severity v x.source x.injected .rtp none x.count x.detail
    setElem { s with err := if pass then { s.err with transient := s.err.transient + 1 } else { s.err with lasting := s.err.lasting + 1 } }
      { x with testing := false, count := 0, passed := if pass then some s.refNs else none }

/-- The RTP is back: RESTARTS, a core that failed BIST stays out, what waited goes on. -/
def rtpBack (s : State) (lost : Bool) : State :=
  let s := { s with
    rtpDown := false
    life := { s.life with phase := if s.life.ready then 0xA else 3, restarts := if s.life.restarts = 0xFFFF then 0xFFFF else s.life.restarts + 1 }
    err := { s.err with pairs := Tbl.set {} s.err.pairs 16 {} } }
  let s := rtpVerdict s (!lost)
  let s := if lost && s.fp.rtpOk && !s.fp.pending.contains .rtpDegraded then queueChange s .rtpDegraded else s
  let s := if s.life.prepareWait then prepareCheck { s with life := { s.life with prepareWait := false } } else s
  if s.err.resets.any fun r => r.held then beginPackage s 0x11 .none else s

/-- RTP_RESTART_RETURN (R344, R380): `bist` has a bit for each core of the pair that fails. Outside Ready the restart repeats power-on from
step 2. -/
def execRtpRestartReturn (bist : BitVec 2) (imageOk : Bool) (s : State) : Outcome :=
  .next (settle (if !s.rtpDown then s
    else if bist = 3 then fatalError { s with life := { s.life with bootFail := 0x05 } } 0x07 .rtp 0
    else if !imageOk then fatalError s 0x0D .rtp 0
    else if s.life.ready then rtpBack s (bist != 0)
    else
      let r := (rtpBack { s with err := { s.err with resets := [] } } (bist != 0)).life.restarts
      let t := clearPackage s false
      bootFrom { t with rtpDown := false, life := { t.life with restarts := r, phase := 2 } } s.life.env))

/-- RTP_RESTART_TIMEOUT (R380). -/
def execRtpRestartTimeout (s : State) : Outcome :=
  .next (settle (if s.rtpDown then fatalError s 0x0D .rtp 0 else s))

end Sys2Proof.Machine
end

