-- ==== Sys2Proof/Machine/Recover.lean ====
section
/-!
DEFINITION. Errors, verdicts, watchdogs, resets and glove faults (R334 to R354), and the items 0x78 to 0x7D.
-/
namespace Sys2Proof.Machine

/-! ### Partition reset (R347) -/

/-- The cores of a partition's clusters. -/
def partCores (s : State) (p : Nat) : List Nat :=
  (List.range 320).filter fun c => clusterPart s (c / 10) == some p

/-- The reset of a partition begins: gloves told, its contexts victims, its cores and sync units stopped. -/
def partitionReset (s : State) (p : Nat) (src : Nat) (e : Element) (item : Option ItemRef) : State :=
  if s.err.resets.any fun r => r.level == 4 || (r.level == 3 && r.part.toNat == p) then s
  else
    let s := tellGloves s (some p) src e
    let s := { s with err := { s.err with
      esc := Tbl.upd 0 s.err.esc 3 (· + 1)
      resets := s.err.resets ++ [{ level := 3, target := e, part := BitVec.ofNat 4 p, item := item }] } }
    let s := (partCtxs s p).foldl (fun s c => victim s c.id 5 0x04 e) s
    let cs := partCores s p
    let s := (s.moves.filter fun m => cs.contains m.src || (m.node == s.node && cs.contains m.dst)).foldl (fun s m => abortMove s m 0x4B) s
    let s := abortIns s cs.contains
    { s with cores := s.cores.map fun c =>
        if cs.contains c.1 then (c.1, { c.2 with cuffed := true, run := if c.2.run = .idle then .idle else .hung }) else c }

/-- An error of PARTITION severity. -/
def partitionError (s : State) (src : Nat) (e : Element) (detail : Dword) : State :=
  let s := reportError s src 3 e detail
  match elemPart s e with
  | some p => partitionReset s p src e none
  | none => s

/-- An error of PACKAGE severity. -/
def packageError (s : State) (src : Nat) (e : Element) (detail : Dword) : State := packageReset (reportError s src 4 e detail) src e

/-! ### Lockstep pairs (R342 to R344) -/

def pairElem (n : Nat) : Element := if n = 16 then .rtp else .cp (Fin.ofNat 16 n)

/-- A pair stops at a symptom; the RTP pair restarts. A degraded pair runs nothing. -/
def pairStop (s : State) (n src : Nat) (y : Symptom) (detail : Dword) (inj : Bool := false) : State :=
  if n < 16 && !bit s.fp.cpOk n then s
  else
    let first := !pairStopped s n
    let s := reportError s src 2 (pairElem n) detail inj
    if !first then s
    else
      let s := { s with err := { s.err with
        esc := Tbl.upd 0 s.err.esc 2 (· + 1)
        pairs := Tbl.set {} s.err.pairs n { stopped := true, symptom := y, count := detail } } }
      if n = 16 then rtpStop s else s

/-- The source of a symptom (Table 14.8). -/
def symptomSource : Symptom → Nat
  | .unequal => 0x07
  | .checker => 0x08
  | .parity => 0x09

/-- LOCKSTEP_MISMATCH (R342): `count` is the retirement count, the rails or the entry, as the symptom has it. -/
def execLockstepMismatch (cp : Fin 17) (y : Symptom) (count : Dword) (s : State) : Outcome :=
  .next (settle (pairStop s cp.val (symptomSource y) y count))

/-- LATENT_SCAN (R341, R342): the injected unequal entry must be reported as 0b10. -/
def execLatentScan (cp : Fin 17) (rails : BitVec 2) (s : State) : Outcome :=
  .next (settle (if rails = 2 then s else pairStop s cp.val 0x08 .checker (rails.setWidth 64)))

/-- CP_STALL (R346). -/
def execCpStall (cp : Fin 16) (count : Dword) (s : State) : Outcome :=
  .next (settle (pairStop s cp.val 0x0C .unequal count))

/-! ### Crossing overflow (R345) -/

/-- The entry of a crossing FIFO was dropped. -/
def crossingOverflow (s : State) (k : BitVec 2) (i : Byte) (detail : Dword) (inj : Bool) : State :=
  let e : Element := .crossing k i
  if (elemOfCode (BitVec.ofNat 32 (elemCode e))).isNone then s
  else
    let s := engineError s 0x0A e detail inj
    match k.toNat with
    | 0 => hostIfReset (hostLoss s 1)
    | 1 => crcFail s i.toNat
    | _ => s

def execCrossingOverflow (kind : BitVec 2) (index : Byte) (s : State) : Outcome :=
  .next (settle (crossingOverflow s kind index 1 false))

/-! ### Memory errors (R132, R152) -/

/-- Poison the 64-byte unit of a frame that a slice HBM address names, or the whole frame where the address lies elsewhere. -/
def poisonFrame (s : State) (c : Fin 128) (f : BitVec 20) (a : Nat) : State :=
  let k := frameKey c.val f.toNat
  let phys := match Tbl.get 0 s.mem.frameMap k with | 0 => k | r + 1 => frameKey c.val r
  let named : Option Nat := match channelPart s c.val with
    | none => none
    | some p =>
      let sl := Tbl.get {} s.slices p
      match hbmRegion sl a with
      | none => none
      | some i => if hbmKey s sl i a / 4096 = phys then some (hbmKey s sl i a / 64) else none
  let units := match named with | some u => [u] | none => (List.range 64).map (· + 64 * phys)
  { s with mem := { s.mem with hbmPoison := units.foldl (fun t u => Tbl.set false t u true) s.mem.hbmPoison } }

/-- A memory error at an element: counts, poison, record. `ue`: uncorrectable. -/
def memoryError (s : State) (src : Nat) (e : Element) (detail : Dword) (inj : Bool) : State :=
  let ue := src % 2 == 0
  match e with
  | .sramRow c b r =>
    let w := fld detail 7 3
    if ue then sramErrors s c b r [] [w] inj else sramErrors s c b r [w] [] inj
  | .hbmFrame c f =>
    let s := if ue then poisonFrame s c f detail.toNat else count s 5 c.val 2
    reportError s src (sourceSeverity src) e detail inj
  | _ => reportError s src (sourceSeverity src) e detail inj

/-! ### ERROR_DETECTED (R334 to R340) -/

/-- An ENGINE error, by its element. -/
def engineDetected (s : State) (src : Nat) (e : Element) (detail : Dword) : State :=
  match e with
  | .cp n => pairStop s n.val src (if src = 0x09 then .parity else if src = 0x08 then .checker else .unequal) detail
  | .rtp => pairStop s 16 src (if src = 0x09 then .parity else if src = 0x08 then .checker else .unequal) detail
  | .crossing k i => crossingOverflow s k i detail false
  | .core _ => engineError s src e detail
  | .block n =>
    let s := engineError s src e detail
    if n.val = 8 then hostIfReset (hostLoss s 1)
    else if n.val = 9 && Config.keyStoreError detail then loseKeys s
    else s
  | .clusterControl _ => partitionError s src e detail
  | _ => reportError s src 2 e detail

/-- An error is detected. Reserved sources, and those that other events raise (RESET_TIMEOUT, MEMBER_LOST), are no such event. -/
def errorDetected (s : State) (src : Nat) (e : Element) (detail : Dword) : State :=
  if src = 0 ∨ 0x15 < src ∨ src = 0x12 ∨ src = 0x13 then s
  else match sourceSeverity src with
    | 0 | 1 =>
      if src = 0x05 then (match e with
        | .lane l k =>
          let k := logLane s l.val k
          laneFault (updLink s l.val fun x => { x with ber := Tbl.set 0 x.ber k.toNat detail.toNat }) l.val k true
        | _ => reportError s src 0 e detail)
      else memoryError s src e detail false
    | 2 => engineDetected s src e detail
    | 3 => partitionError s src e detail
    | 4 => packageError s src e detail
    | _ => fatalError s src e detail

def execErrorDetected (source : BitVec 16) (e : Element) (detail : Dword) (s : State) : Outcome :=
  .next (settle (errorDetected s source.toNat e detail))

/-! ### Verdicts (R338, R339) -/

/-- The transient verdicts of the last 24 h. -/
def recentTransients (s : State) (x : ElemErr) : List Nat := x.transients.filter fun t => decide (s.refNs < t + 86400000000000)

/-- What a transient verdict lets go on: a dropped pair rejoins, a CP pair resumes. -/
def transientAct (s : State) : Element → State
  | .lane l k => laneVerdict s l.val (logLane s l.val k) true
  | .spareLane g => spareVerdict s g.val true
  | .cp n => { s with err := { s.err with pairs := Tbl.set {} s.err.pairs n.val {} } }
  | _ => s

/-- The second record of an error whose first one had VERDICT 0. -/
def verdictRecord (s : State) (x : ElemErr) (verdict gen : Nat) : State :=
  if x.source = 0 then s
  else
    let level := if x.severity < 2 then 0 else x.severity
    logError { s with fp := { s.fp with generation := BitVec.ofNat 32 gen } } x.severity level verdict x.source x.injected x.element none x.count x.detail

/-- A test ends: lasting where it fails or is the third transient on real errors within 24 h. -/
def selftestVerdict (s : State) (e : Element) (pass : Bool) : State :=
  let x := findElem s e
  if !x.testing || s.rtpDown then s
  else
    let old := recentTransients s x
    let ts := if pass && !x.injected && x.source != 0 then old ++ [s.refNs] else old
    let last := !pass || decide (3 ≤ ts.length)
    let v := if last then 2 else 1
    let s := setElem s { x with testing := false, count := 0, items := [], transients := if last then [] else ts,
                                passed := if last then none else some s.refNs }
    let n := s.fp.pending.length
    let r : State × Bool := if last
      then lasting { s with err := { s.err with lasting := s.err.lasting + 1 } } e
      else (transientAct { s with err := { s.err with transient := s.err.transient + 1 } } e, false)
    let s := r.1
    let s := match e with
      | .cp k => { s with err := { s.err with pairs := Tbl.set {} s.err.pairs k.val {} } }
      | _ => s
    let g := s.fp.generation
    let gen := if n < s.fp.pending.length then g.toNat + n + 1 else g.toNat
    let s := verdictRecord s x v gen
    let s := { s with fp := { s.fp with generation := g } }
    let s := x.items.foldl (fun s i => completeResult s i 0x00 (BitVec.ofNat 64 v)) s
    if r.2 then packageError s 0x11 .none 0 else s

def execSelftestVerdict (e : Element) (pass : Bool) (s : State) : Outcome := .next (settle (selftestVerdict s e pass))

/-! ### Watchdogs (R346) -/

/-- CORE_STALL: a core that holds a kernel, is in no wait, and retires nothing while its partition's TARGET is nonzero. -/
def coreStall (s : State) (c : Fin 320) : State :=
  let k := getCore s c.val
  if k.kernel.isNone || k.run != .running || k.wait != .none || k.cuffed || (getS s c.val).sidle || (getMeter s (corePart s c.val)).target == 0 then s
  else engineReset (reportError s 0x0B 2 (.core c) k.pc) (.core c) none 7 0x03

def execCoreStall (c : Fin 320) (s : State) : Outcome := .next (settle (coreStall s c))

/-- A core is in a wait: a counter or tile wait, SIDLE, or the fence of an instruction behind what is in flight. -/
def inWait (s : State) (p : Nat) : Bool :=
  (getCore s p).wait != .none || (getS s p).sidle || !(getCore s p).xfers.isEmpty || !(getM s p).waves.isEmpty || !(getV s p).results.isEmpty

/-- WAIT_TIMEOUT: a wait beyond the context's WAIT_MS faults the context. -/
def waitTimeout (s : State) (c : Fin 320) : State :=
  let k := getCore s c.val
  match k.kernel with
  | none => s
  | some r =>
    if Tbl.get 0 s.err.waitMs r.x.ctx.toNat = 0 || k.run != .running || !inWait s c.val then s
    else raise s { ctx := r.x.ctx, qid := r.x.qid, seq := r.x.seq, cls := 7, cause := 0x02, vcore := r.vcore, pcore := BitVec.ofNat 10 c.val, pc := k.pc }

def execWaitTimeout (c : Fin 320) (s : State) : Outcome := .next (settle (waitTimeout s c))

/-- ITEM_TIMEOUT: a started item is not complete after its queue's ITEM_MS. -/
def itemTimeout (s : State) (x : ItemRef) : State :=
  match getItem s x with
  | none => s
  | some i =>
    if !i.started || Tbl.get 0 s.err.itemMs (queueKey x.ctx x.qid) = 0 then s
    else raise s { ctx := x.ctx, qid := x.qid, seq := x.seq, cls := 7, cause := 0x01 }

def execItemTimeout (x : ItemRef) (s : State) : Outcome := .next (settle (itemTimeout s x))

/-! ### The end of resets (R347) -/

/-- An element that lies in a partition's clusters. -/
def inClusters : Element → Bool
  | .core _ | .clusterControl _ => true
  | _ => false

/-- A reset overruns its bound: RESET_TIMEOUT, and the next level. -/
def resetTimeout (s : State) (i : Nat) : State :=
  match s.err.resets[i]? with
  | none => s
  | some r =>
    if r.held then s
    else
      let e : Element := if r.level = 4 then .none else r.target
      let lv := r.level + 1
      let s := { s with err := { s.err with resets := s.err.resets.eraseIdx i } }
      let part := if r.level = 2 && inClusters r.target then elemPart s r.target else none
      let sev := match r.level, part with | 2, none => 4 | _, _ => lv
      let s := logError s lv sev 3 0x12 false e none ((findElem s e).count + 1) (BitVec.ofNat 64 r.level)
      let s := { s with err := { s.err with sev := Tbl.upd 0 s.err.sev lv (· + 1) } }
      match r.level with
      | 2 => (match part with
        | some p => partitionReset s p 0x12 e r.item
        | none => packageReset s 0x12 e)
      | 3 => packageReset s 0x12 e
      | _ => faultRequest s

def execResetTimeout (i : Nat) (s : State) : Outcome := .next (settle (resetTimeout s i))

/-- A core comes out of reset: its private state at reset values, its binding kept. -/
def coreReset (s : State) (p : Nat) : State :=
  { s with
    cores := Tbl.set {} s.cores p { point := nextPoint s p, forced := nextPoint s p != .none }
    mcores := Tbl.set {} s.mcores p {}
    vcores := Tbl.set {} s.vcores p {}
    scores := Tbl.set {} s.scores p {} }

/-- What a completed engine reset leaves. -/
def engineDone (s : State) (e : Element) : State :=
  match e with
  | .core c => refitFailing (coreReset s c.val) c.val
  | .cp n => if (findElem s e).testing then s else { s with err := { s.err with pairs := Tbl.set {} s.err.pairs n.val {} } }
  | _ => s

/-- The sync counters of a partition's clusters are 0 again. -/
def resetSync (s : State) (cs : List Nat) : State :=
  { s with sync := s.sync.map fun e => if cs.contains (e.1 / 8) then (e.1, e.2.map fun g => { g with counters := [] }) else e }

/-- RESET_COMPLETE: reset `i` is done; the item that asked for it completes. -/
def resetComplete (s : State) (i : Nat) : State :=
  match s.err.resets[i]? with
  | none => s
  | some r =>
    if r.held || (r.level == 2 && recordStuck s 0x01 4 (BitVec.ofNat 32 (elemCode r.target)) 4) then s
    else if r.level = 4 then endPackage s
    else
      let s := { s with err := { s.err with resets := s.err.resets.eraseIdx i } }
      let s := if r.level = 2 then engineDone s r.target
        else
          let cs := partCores s r.part.toNat
          cs.foldl (fun s p => refitFailing s p) (resetSync (cs.foldl coreReset s) (cs.map (· / 10)))
      match r.item with
      | some x => completeItem s x 0x00
      | none => s

def execResetComplete (i : Nat) (s : State) : Outcome := .next (settle (resetComplete s i))

/-! ### Glove faults (R350, R351) -/

/-- The contexts with a started item that runs kernels on a glove are victims. -/
def faultGlove (s : State) (g : Glove) (e : Element) : State :=
  let hit := s.queues.filterMap fun q => match q.2 with
    | none => none
    | some q =>
      let on : Bool := match getCtx s q.ctx with | some c => c.gid == g.gid | none => false
      if on && q.items.any (fun i => i.started && i.run.kernels != 0) then some q.ctx else none
  hit.foldl (fun s c => victim s c 5 0x05 e) s

/-- The vcores of a lost member take directory STATE lost; moves to it end with DEST_LOST, and the packets forwarded to it count as lost
(Table 7.11). -/
def loseMember (s : State) (g : Glove) (rank : Nat) : State :=
  let node := memberNode g rank
  if node = 0x1FFFF ∨ node = s.node then s
  else
    let s := (List.range g.vcount).foldl (fun s v =>
      let e := dirEntry s g v
      if dirNode e = node && dirState e != 2 && dirKind e != 3 then dirSetState s g v 2 else s) s
    (s.moves.filter fun m => m.gid == g.gid && m.node == node).foldl (fun s m =>
      abortMove s { m with dropped := m.dropped + m.forwarded } 0x4B) s

/-- The event of a glove fault, once for each glove and source. -/
def gloveEvent (s : State) (g : Glove) (rank src elem : Nat) : State :=
  let key := (g.gid.toNat, src)
  if s.err.gloveSeen.contains key then s
  else logEvent { s with err := { s.err with gloveSeen := s.err.gloveSeen ++ [key] } } srcRtp 0x08 true
    (leBytes 4 g.gid.toNat ++ leBytes 4 rank ++ leBytes 2 src ++ leBytes 4 elem)

/-- GLOVE_PEER_SILENCE (R350): the parent or a child of this member has been silent for 1 ms. -/
def gloveSilence (s : State) (gid : BitVec 24) (rank : Nat) : State :=
  match getGlove s gid with
  | none => s
  | some g =>
    let node := memberNode g rank
    if node = 0x1FFFF || !(parentRank g == some rank || (crownChildren g).contains node) then s
    else
      let s := castMsg s g (otherMembers s g) 0x0F (leBytes 4 rank ++ leBytes 2 0x13 ++ leBytes 4 0)
      faultGlove (gloveEvent (loseMember s g rank) g rank 0x13 0) g .none

def execGlovePeerSilence (gid : BitVec 24) (rank : BitVec 17) (s : State) : Outcome := .next (settle (gloveSilence s gid rank.toNat))

/-- GLOVE_FAULT from another member (R351). -/
def execGloveFault (p : Packet) (s : State) : Outcome :=
  .next (settle (onGloveMsg s p 0x0F fun s q g =>
    let rank := msgField q 0 4
    let src := msgField q 4 2
    let e := msgField q 6 4
    let s := if src = 0x13 then loseMember s g rank else s
    faultGlove (gloveEvent s g rank src e) g ((elemOfCode (BitVec.ofNat 32 e)).getD .none)))

/-! ### The reference (R419) -/

/-- REFERENCE_HOLDOVER_END (R419): the host link may drop, and fabric links may leave service. -/
def execReferenceHoldoverEnd (hostDrops : Bool) (linksLost : Dword) (s : State) : Outcome :=
  .next (settle (if !s.refLost then s
    else
      let s := if hostDrops && s.host.l0 then hostLoss { s with host := { s.host with l0 := false, down := false } } 1 else s
      (setBits linksLost).foldl (fun s n => if (getLink s n).inService then goDown s n 0x01 else s) s))

/-! ### Items (R353, R354, Table 14.14) -/

/-- The start of a requested test: a lane's pair is dropped first, a CP pair stops (Table 14.6). -/
def beginTest (s : State) : Element → State
  | .lane l k => if (getLink s l.val).st = 6 then dropLane s l.val (logLane s l.val k) true else s
  | .cp n => { s with err := { s.err with pairs := Tbl.set {} s.err.pairs n.val { stopped := true } } }
  | _ => s

/-- SELFTEST: the item waits for the verdict of its test, or of one that runs. -/
def selftest (s : State) (x : ItemRef) : State :=
  onItem s x 0x78 fun i _ =>
    match elemOfCode (BitVec.ofNat 32 (fld (iw i 1) 31 0)) with
    | none => completeItem s x 0x20
    | some e =>
      if !testable e then completeItem s x 0x20
      else
        let k := findElem s e
        let s := updRun s x fun r => { r with active := true }
        if k.testing then setElem s { k with items := k.items ++ [x] }
        else beginTest (setElem s { k with testing := true, source := 0, severity := 0, detail := 0, injected := false, items := [x] }) e

def execSelftest (x : ItemRef) (s : State) : Outcome := .next (settle (selftest s x))

/-- Inject an error; `none` where the element has no error of the kind. -/
def inject (s : State) (e : Element) (kind : Nat) : Option State :=
  match kind, e with
  | 0, .sramRow .. => some (memoryError s 0x01 e 0 true)
  | 1, .sramRow .. => some (memoryError s 0x02 e 0 true)
  | 0, .sramBank c b => some (memoryError s 0x01 (.sramRow c b 0) 0 true)
  | 1, .sramBank c b => some (memoryError s 0x02 (.sramRow c b 0) 0 true)
  | 0, .hbmFrame .. => some (memoryError s 0x03 e 0 true)
  | 1, .hbmFrame .. => some (memoryError s 0x04 e 0 true)
  | 0, .hbmChannel c => some (memoryError s 0x03 (.hbmFrame c 0) 0 true)
  | 1, .hbmChannel c => some (memoryError s 0x04 (.hbmFrame c 0) 0 true)
  | 2, .cp n => some (pairStop s n.val 0x07 .unequal 0 true)
  | 2, .rtp => some (pairStop s 16 0x07 .unequal 0 true)
  | 3, .cp n => some (pairStop s n.val 0x08 .checker 3 true)
  | 3, .rtp => some (pairStop s 16 0x08 .checker 3 true)
  | 4, .lane l k => some (laneFault s l.val (logLane s l.val k) true true)
  | _, _ => none

/-- ERR_INJECT: the error goes through the normal handling, with INJECTED = 1. -/
def errInject (s : State) (x : ItemRef) : State :=
  onItem s x 0x79 fun i _ =>
    match elemOfCode (BitVec.ofNat 32 (fld (iw i 1) 31 0)) with
    | none => completeItem s x 0x20
    | some e => match inject s e (fld (iw i 2) 2 0) with
      | none => completeItem s x 0x20
      | some t => completeItem t x 0x00

def execErrInject (x : ItemRef) (s : State) : Outcome := .next (settle (errInject s x))

/-- WATCHDOG_SET. A context or queue that is not open is no value allowed. -/
def watchdogSet (s : State) (x : ItemRef) : State :=
  onItem s x 0x7A fun i _ =>
    let id := BitVec.ofNat 16 (fld (iw i 1) 15 0)
    let qid := BitVec.ofNat 4 (fld (iw i 1) 19 16)
    let all := bit (iw i 1) 20
    let ms := BitVec.ofNat 16 (fld (iw i 2) 47 32)
    if (getCtx s id).isNone || (!all && (getQueue s id qid).isNone) then completeItem s x 0x20
    else
      let qs := if all then (listOpt (fun q => q.ctx == id) s.queues).map fun q => queueKey q.ctx q.qid else [queueKey id qid]
      completeItem { s with err := { s.err with
        waitMs := Tbl.set 0 s.err.waitMs id.toNat (BitVec.ofNat 16 (fld (iw i 2) 15 0))
        itemMs := qs.foldl (fun t k => Tbl.set 0 t k ms) s.err.itemMs } } x 0x00

def execWatchdogSet (x : ItemRef) (s : State) : Outcome := .next (settle (watchdogSet s x))

/-- An engine that RESET_REQ may name (Table 14.10). -/
def isEngine : Element → Bool
  | .core _ | .cp _ | .crossing .. | .block _ => true
  | _ => false

/-- The engine reset that an item asks for. -/
def requestEngine (s : State) (x : ItemRef) (e : Element) : State :=
  let s := engineReset (updRun s x fun r => { r with active := true }) e (some x)
  match e with
  | .cp n => { s with err := { s.err with pairs := Tbl.upd {} s.err.pairs n.val fun p => { p with stopped := true } } }
  | .crossing k _ => if k = 0 then hostIfReset (hostLoss s 1) else s
  | .block n => if n.val = 8 then hostIfReset (hostLoss s 1) else s
  | _ => s

/-- RESET_REQ: a package reset writes no completion. -/
def resetReq (s : State) (x : ItemRef) : State :=
  onItem s x 0x7B fun i c =>
    let tgt := fld (iw i 1) 63 32
    match fld (iw i 1) 2 0 with
    | 2 => (match elemOfCode (BitVec.ofNat 32 tgt) with
      | some e => if isEngine e then requestEngine s x e else completeItem s x 0x20
      | none => completeItem s x 0x20)
    | 3 =>
      let p := tgt % 16
      if c.gid ≠ 0xFFFFFF ∧ c.part.toNat = p then completeItem s x 0x20
      else partitionReset (updRun s x fun r => { r with active := true }) p 0x10 .none (some x)
    | 4 => packageError s 0x11 .none 0
    | _ => completeItem s x 0x20

def execResetReq (x : ItemRef) (s : State) : Outcome := .next (settle (resetReq s x))

/-- EDGE_SET (R349). -/
def edgeSet (s : State) (x : ItemRef) : State :=
  onItem s x 0x7C fun i _ =>
    let m := bit (iw i 1) 8
    match fld (iw i 1) 1 0 with
    | 1 => completeItem { s with err := { s.err with edgeContext := m } } x 0x00
    | 2 => completeItem { s with err := { s.err with edgeEngine := m } } x 0x00
    | 3 => completeItem { s with err := { s.err with edgePartition := m } } x 0x00
    | _ => completeItem s x 0x20

def execEdgeSet (x : ItemRef) (s : State) : Outcome := .next (settle (edgeSet s x))

/-- The error summary (Table 14.15). -/
def errSummary (s : State) : List Dword :=
  ((List.range 6).map fun i => (Tbl.get 0 s.err.sev i).setWidth 64) ++
  [BitVec.ofNat 64 (s.err.transient.toNat + s.err.lasting.toNat * 2 ^ 32),
   BitVec.ofNat 64 (packNat 16 ((List.range 4).map fun k => (Tbl.get 0 s.err.esc (k + 1)).toNat))]

/-- ERR_READ. -/
def errRead (s : State) (x : ItemRef) : State :=
  onItem s x 0x7D fun i c =>
    if (iw i 1).toNat % 8 ≠ 0 then completeItem s x 0x20
    else writeRecord s x c (iw i 1) (dwordBytes (errSummary s)) 0

def execErrRead (x : ItemRef) (s : State) : Outcome := .next (settle (errRead s x))

end Sys2Proof.Machine
end

