-- ==== Sys2Proof/Machine/Trust.lean ====
section
/-!
DEFINITION. Trust (R355 to R368) and the job-key items: key blobs, weight keys, job keys, measurements, firmware staging, the SPDM
responder and the MCTP endpoint.
-/
namespace Sys2Proof.Machine

/-! ### Key blobs (R361) -/

/-- Bytes `8 * i` to `8 * (i + n)` of a blob. -/
def blobPart (ws : List Dword) (i n : Nat) : List Byte := dwordBytes ((ws.drop i).take n)

/-- A field of the form that Table 15.4 does not allow. The GID and INCARN_BASE of a weight key are 0. -/
def blobBad (ws : List Dword) : Bool :=
  let w := fun n => ws.getD n 0
  fld (w 0) 7 0 != 1 || !([1, 2].contains (fld (w 0) 15 8)) || !onlyBits (w 0) 0xFFFF || !onlyBits (w 2) 0xFFFFFF ||
  !onlyBits (w 3) 0xFFFFFFFF || !onlyBits (w 17) 0xFFFFFFFF || (fld (w 0) 15 8 == 1 && (w 2 != 0 || w 3 != 0))

/-- The plaintext of a blob; none where the point is invalid or the tag fails. -/
def unwrapBlob (s : State) (ws : List Dword) : Option (List Byte) :=
  let info := blobPart ws 0 4
  match Config.unwrapKek s.trust.meas (blobPart ws 4 12) info with
  | none => none
  | some kek =>
    Config.gcmOpen kek (BitVec.ofNat 96 (leNat (blobPart ws 16 2))) info (blobPart ws 18 8) (BitVec.ofNat 128 (leNat (blobPart ws 26 2)))

/-- The security engine has completed a request (S283). -/
def secDone (s : State) : State := irqEdge s 283

/-- Carry out a request of the security engine, which wakes its domain. -/
def onEngine (s : State) (f : State → State) : State :=
  if domainRuns s 45 then f s
  else
    let t := wakeDomain s 45 0
    if domainRuns t 45 then f t else t

/-! ### Weight keys (R362) -/

def wkey (s : State) (slot : Nat) : Option WeightKey := Tbl.get none s.trust.wkeys slot

def setWkey (s : State) (slot : Nat) (k : Option WeightKey) : State :=
  { s with trust := { s.trust with wkeys := Tbl.set none s.trust.wkeys slot k } }

/-- WKEY_SET: slot, form, kind, then the unwrap, in this order. -/
def wkeySet (s : State) (x : ItemRef) (r : Reply) : State :=
  onItem s x 0x58 fun i c =>
    let slot := fld (iw i 1) 5 0
    if fld (iw i 3) 15 0 ≠ 224 then completeItem s x 0xC1
    else if (wkey s slot).isSome then completeItem s x 0xC2
    else withList s x c r (iw i 2) 224 fun s ws =>
      if blobBad ws then completeItem s x 0xC1
      else if fld (ws.getD 0 0) 15 8 = 2 then completeItem s x 0xC4
      else onEngine s fun s =>
        match unwrapBlob s ws with
        | none => completeItem (secDone s) x 0xC0
        | some key =>
          completeItem (secDone (setWkey s slot (some { part := BitVec.ofNat 4 (fld (iw i 1) 11 8), key := BitVec.ofNat 512 (leNat key) }))) x 0x00

def execWkeySet (x : ItemRef) (r : Reply) (s : State) : Outcome := .next (settle (wkeySet s x r))

/-- The transfers under way that decrypt with a slot. -/
def slotUsers (s : State) (slot : Nat) : List ItemRef :=
  s.ctxs.flatMap fun e => match e.2 with
    | none => []
    | some c => (startedItems s c.id).filter fun x => match getItem s x with
      | none => false
      | some i => i.run.active && (match xferSrc i i.run.bytes with
        | none => false
        | some a => match protectedAt s (xferPlace s c i false a 1) with
          | some (part, r, _) => regionSlot s part r == slot
          | none => false)

/-- Empty one slot; the clears that wait for no other slot complete. -/
def emptySlot (s : State) (slot : Nat) : State :=
  match wkey s slot with
  | none => s
  | some k =>
    let s := secDone (setWkey s slot none)
    k.items.foldl (fun s x =>
      if s.trust.wkeys.any fun e => match e.2 with | some j => j.items.contains x | none => false then s else completeItem s x 0x00) s

/-- WKEY_CLEAR: the slots no longer serve new transfers. -/
def wkeyClear (s : State) (x : ItemRef) : State :=
  onItem s x 0x59 fun i _ =>
    let hit (n : Nat) : Bool := bit (iw i 1) 8 || n == fld (iw i 1) 5 0
    if !s.trust.wkeys.any fun e => hit e.1 then completeItem s x 0x00
    else onEngine s fun s =>
      let s := updRun s x fun r => { r with active := true }
      { s with trust := { s.trust with wkeys := s.trust.wkeys.map fun e => (e.1, match e.2 with
          | some k => if hit e.1 then
              some { k with clearing := true
                            users := if k.clearing then k.users else slotUsers s e.1
                            items := k.items ++ [x] } else some k
          | none => none) } }

def execWkeyClear (x : ItemRef) (s : State) : Outcome := .next (settle (wkeyClear s x))

/-- WKEY_SLOT_EMPTIED, once the transfers already issued have completed. -/
def wkeySlotEmptied (s : State) (slot : Nat) : State :=
  match wkey s slot with
  | some k => if k.clearing && k.users.all fun x => (getItem s x).isNone then emptySlot s slot else s
  | none => s

def execWkeySlotEmptied (slot : Fin 64) (s : State) : Outcome := .next (settle (wkeySlotEmptied s slot.val))

/-! ### Job keys (R277, R364) -/

/-- The slot of a glove, empty where it holds none. -/
def jobSlot (s : State) (gid : BitVec 24) : KeySlot := (findSlot s gid).getD { gid := gid }

def setJobSlot (s : State) (k : KeySlot) : State :=
  { s with fab := { s.fab with keys := (s.fab.keys.filter fun j => !(j.gid == k.gid)) ++ [k] } }

/-- JOBKEY_SET: glove, form, binding, then the unwrap and the window of incarnations, in this order. -/
def jobkeySet (s : State) (x : ItemRef) (r : Reply) : State :=
  onItem s x 0x54 fun i c =>
    let gid := BitVec.ofNat 24 (fld (iw i 1) 23 0)
    let gen := bit (iw i 1) 24
    let activate := bit (iw i 1) 25
    if (getGlove s gid).isNone then completeItem s x 0x85
    else if activate ∧ iw i 2 = 0 then
      (if ((jobSlot s gid).key gen).isNone then completeItem s x 0x86
       else completeItem (setJobSlot s { jobSlot s gid with active := gen }) x 0x00)
    else if fld (iw i 3) 15 0 ≠ 224 then completeItem s x 0xC1
    else withList s x c r (iw i 2) 224 fun s ws =>
      if blobBad ws then completeItem s x 0xC1
      else if fld (ws.getD 0 0) 15 8 ≠ 2 ∨ fld (ws.getD 2 0) 23 0 ≠ gid.toNat then completeItem s x 0xC4
      else onEngine s fun s =>
        match unwrapBlob s ws with
        | none => completeItem (secDone s) x 0xC0
        | some key =>
          if (key.drop 32).any (· != 0) then completeItem (secDone s) x 0xC1
          else if 256 ≤ (s.incarnation - BitVec.ofNat 32 (fld (ws.getD 3 0) 31 0)).toNat then completeItem (secDone s) x 0xC6
          else
            let k := jobSlot s gid
            let v := some (BitVec.ofNat 256 (leNat (key.take 32)))
            let k : KeySlot := { k with
              key0 := if gen then k.key0 else v
              key1 := if gen then v else k.key1
              active := if activate then gen else k.active
              require := bit (iw i 1) 26 }
            completeItem (secDone (setJobSlot s k)) x 0x00

def execJobkeySet (x : ItemRef) (r : Reply) (s : State) : Outcome := .next (settle (jobkeySet s x r))

/-- JOBKEY_CLEAR. -/
def jobkeyClear (s : State) (x : ItemRef) : State :=
  onItem s x 0x55 fun i _ =>
    let gid := BitVec.ofNat 24 (fld (iw i 1) 23 0)
    let gen := bit (iw i 1) 24
    let k := jobSlot s gid
    if (getGlove s gid).isNone then completeItem s x 0x85
    else if bit (iw i 1) 25 then completeItem (secDone { s with fab := { s.fab with keys := s.fab.keys.filter fun j => !(j.gid == gid) } }) x 0x00
    else if gen = k.active ∧ (k.key (!gen)).isNone then completeItem s x 0x86
    else
      let k : KeySlot := { k with key0 := if gen then k.key0 else none, key1 := if gen then none else k.key1 }
      completeItem (secDone (if (findSlot s gid).isNone then s else setJobSlot s k)) x 0x00

def execJobkeyClear (x : ItemRef) (s : State) : Outcome := .next (settle (jobkeyClear s x))

/-! ### Measurements and images (R356, R357, R367) -/

/-- The health block (index 0x20): five 32-bit values. -/
def healthBlock (s : State) : List Byte :=
  [if s.fp.rtpOk then 1 else 0, popcount s.fp.cpOk, s.fp.wearWarn.toNat, s.fp.generation.toNat, s.incarnation.toNat].flatMap (leBytes 4)

/-- What MEAS_READ writes: indices 1 to 7, 0x10 and 0x20. -/
def measBytes (s : State) : List Byte :=
  ((List.range 7).flatMap fun k => leBytes 48 (s.trust.meas.getD k 0).toNat) ++ leBytes 97 (Config.wrapPublic s.trust.meas).toNat ++ healthBlock s

/-- MEAS_READ. -/
def measRead (s : State) (x : ItemRef) : State :=
  onItem s x 0x5A fun i c =>
    if (iw i 1).toNat % 8 ≠ 0 then completeItem s x 0x20 else writeRecord s x c (iw i 1) (measBytes s) 0

def execMeasRead (x : ItemRef) (s : State) : Outcome := .next (settle (measRead s x))

/-- IMAGE_STAGE: the image is verified, then written to the bank not booted. -/
def imageStage (s : State) (x : ItemRef) (r : Reply) : State :=
  onItem s x 0x5B fun i c =>
    let n := (iw i 2).toNat
    withList s x c r (iw i 1) n fun s ws =>
      let f := s.life.flash
      match Config.imageBank ((dwordBytes ws).take n) with
      | none => completeItem s x 0xC5
      | some (svn, commit, digests) =>
        if svn < f.svnFloor then completeItem s x 0xC5
        else
          let b : FlashBank := { svn := svn, commitSvn := commit, digests := digests }
          completeItem { s with life := { s.life with flash :=
            { f with bankA := if f.bootedB then some b else f.bankA, bankB := if f.bootedB then f.bankB else some b } } } x 0x00

def execImageStage (x : ItemRef) (r : Reply) (s : State) : Outcome := .next (settle (imageStage s x r))

/-! ### The SPDM responder (R359, R360) -/

/-- The RTP firmware runs and serves messages. -/
def rtpServes (s : State) : Bool := s.life.powered && !s.rtpDown && s.trust.meas != []

def spdmConn (s : State) : Transport → SpdmConn
  | .doe => s.trust.doe
  | .mctp => s.trust.mctp

def setConn (s : State) (tr : Transport) (c : SpdmConn) : State :=
  { s with trust := match tr with | .doe => { s.trust with doe := c } | .mctp => { s.trust with mctp := c } }

/-- A message waits for the RTP (private source 5), which answers it; without firmware there is no response. -/
def spdmServe (s : State) (tr : Transport) (req : Nat) (msg : List Byte) (ok : Bool) (f : State → List Byte → State) : State :=
  let s := if s.life.powered then irqPrivate s 48 5 true else s
  if !rtpServes s then s
  else if !ok then emit s (.spdm tr (Config.spdmRefusal req msg))
  else
    let r := Config.spdmAnswer req msg (spdmConn s tr).vca s.trust.meas (healthBlock s)
    let s := if r.2 then f s r.1 else s
    emit s (.spdm tr r.1)

/-- A step of the negotiation: the transport reaches `stage`. -/
def negotiate (s : State) (tr : Transport) (req stage : Nat) (msg : List Byte) : State :=
  spdmServe s tr req msg (decide (stage = (spdmConn s tr).stage + 1)) fun s resp =>
    setConn s tr { stage := stage, vca := (spdmConn s tr).vca ++ msg ++ resp }

/-- A request that needs the negotiated algorithms and changes no state. -/
def spdmAsk (s : State) (tr : Transport) (req : Nat) (msg : List Byte) : State :=
  spdmServe s tr req msg (decide ((spdmConn s tr).stage = 3)) fun s _ => s

/-- GET_VERSION starts the transport's state anew and ends its sessions. -/
def execGetVersion (tr : Transport) (msg : List Byte) (s : State) : Outcome :=
  .next (settle (spdmServe s tr 0 msg true fun s resp =>
    let s := { s with trust := { s.trust with sessions := s.trust.sessions.filter fun k => !(k.tr == tr) } }
    setConn s tr { stage := 1, vca := msg ++ resp }))

def execGetCapabilities (tr : Transport) (msg : List Byte) (s : State) : Outcome := .next (settle (negotiate s tr 1 2 msg))
def execNegotiateAlgorithms (tr : Transport) (msg : List Byte) (s : State) : Outcome := .next (settle (negotiate s tr 2 3 msg))
def execGetDigests (tr : Transport) (msg : List Byte) (s : State) : Outcome := .next (settle (spdmAsk s tr 3 msg))
def execGetCertificate (tr : Transport) (msg : List Byte) (s : State) : Outcome := .next (settle (spdmAsk s tr 4 msg))
def execChallenge (tr : Transport) (msg : List Byte) (s : State) : Outcome := .next (settle (spdmAsk s tr 5 msg))
def execGetMeasurements (tr : Transport) (msg : List Byte) (s : State) : Outcome := .next (settle (spdmAsk s tr 6 msg))

/-- KEY_EXCHANGE opens a session, at most four at once. The requester's half of the session id is PRESUMED to stand in bytes 4 and 5. -/
def execKeyExchange (tr : Transport) (msg : List Byte) (s : State) : Outcome :=
  .next (settle (spdmServe s tr 7 msg (decide ((spdmConn s tr).stage = 3) && decide (s.trust.sessions.length < 4)) fun s _ =>
    let id := BitVec.ofNat 32 (leNat ((msg.drop 4).take 2) + (Config.sessionId s.free).toNat * 2 ^ 16)
    { s with free := s.free + 1, trust := { s.trust with sessions := s.trust.sessions ++ [{ id := id, tr := tr }] } }))

/-- The session of a message of a session: its id is PRESUMED to stand in bytes 0 to 3. -/
def sessionOf (s : State) (tr : Transport) (msg : List Byte) : Option SpdmSession :=
  s.trust.sessions.find? fun k => k.tr == tr && k.id.toNat == leNat (msg.take 4)

/-- A request inside a session that is up, or, for FINISH, not yet up. -/
def inSession (s : State) (tr : Transport) (req : Nat) (up : Bool) (msg : List Byte) (f : SpdmSession → Option SpdmSession) : State :=
  match sessionOf s tr msg with
  | none => spdmServe s tr req msg false fun s _ => s
  | some k => spdmServe s tr req msg (k.up == up) fun s _ =>
      { s with trust := { s.trust with sessions := s.trust.sessions.filterMap fun j => if j == k then f j else some j } }

def execFinish (tr : Transport) (msg : List Byte) (s : State) : Outcome :=
  .next (settle (inSession s tr 8 false msg fun k => some { k with up := true }))
def execHeartbeat (tr : Transport) (msg : List Byte) (s : State) : Outcome := .next (settle (inSession s tr 9 true msg some))
def execKeyUpdate (tr : Transport) (msg : List Byte) (s : State) : Outcome :=
  .next (settle (inSession s tr 10 true msg fun k => some { k with keyRound := k.keyRound + 1 }))
def execEndSession (tr : Transport) (msg : List Byte) (s : State) : Outcome :=
  .next (settle (inSession s tr 11 true msg fun _ => none))

/-- MCTP_CONTROL (R423): Set Endpoint ID, PRESUMED command 1 with its operation and endpoint in bytes 2 and 3, sets the endpoint id. -/
def execMctpControl (msg : List Byte) (s : State) : Outcome :=
  let set := msg.getD 1 0 == 1 && (msg.getD 2 0).toNat % 4 < 2 && decide (8 ≤ (msg.getD 3 0).toNat) && msg.getD 3 0 != 0xFF
  .next (settle (if !rtpServes s then s
    else
      let s := if set then { s with trust := { s.trust with eid := msg.getD 3 0 } } else s
      emit s (.mctp (Config.mctpAnswer msg s.trust.eid))))

end Sys2Proof.Machine
end

