-- ==== Sys2Proof/Machine/Events.lean ====
section
/-!
DEFINITION. Interrupt delivery, counters and snapshots, and the event log (R383 to R400).
-/
namespace Sys2Proof.Machine

/-! ### Interrupts (R386 to R390) -/

/-- INTERRUPT_COMMIT: an S-core takes the interrupt, once no load into its registers is outstanding (log 141); a command processor's or the
RTP's request line is raised. -/
def interruptCommit (s : State) (q : Nat) : State :=
  if !accepts s q || (bestOf (candidates s q)).isNone then s
  else if q < 32 then
    match Tbl.get 0 s.procCore q with
    | 0 => s
    | k + 1 => if clusterTicks s (pidCluster k) && !loadsOut s k then takeInterrupt s k q else s
  else if (q = 48 ∧ s.rtpDown) ∨ (q < 48 ∧ pairStopped s (q - 32)) then s
  else setProc s q { getProc s q with committed := true }

def execInterruptCommit (q : Fin 49) (s : State) : Outcome := .next (settle (interruptCommit s q.val))

/-- EIC_CLAIM at processor `q` (R387). -/
def execEicClaim (q : Fin 49) (s : State) : Outcome :=
  .next (settle (
    let r := if accepts s q.val then claimAt s q.val else (0, s)
    let t := setProc r.2 q.val { getProc r.2 q.val with committed := false }
    { t with lastRead := r.1.setWidth 32 }))

/-- EIC_COMPLETE at processor `q`. -/
def execEicComplete (q : Fin 49) (source : BitVec 11) (s : State) : Outcome := .next (settle (completeSource s q.val source.toNat))

/-- A write of EIC_SOFT (R384, R406). -/
def softWrite (s : State) (d : Word) : State :=
  let src := fld d 10 0
  if src < 4 then (if fld d 16 11 < 49 then irqPrivate s (fld d 16 11) src true else s)
  else if 576 ≤ src ∧ src ≤ 1087 then irqEdge s (src - 64)
  else s

def execEicSoft (v : View) (d : Word) (s : State) : Outcome :=
  .next (settle (match v with
    | .host => ignoreHostWrite s
    | .manager => if frozenBlock s 3 then s else softWrite s d))

/-- A vector of the MSI-X table is unmasked: what waits in its PBA bit is sent as one message (R390). Bit 0 of dword 3 is kept
inverted, so that an unlisted vector is masked. -/
def unmaskVector (s : State) (vec : BitVec 11) : State :=
  let s := { s with cfg := { s.cfg with msix := Tbl.set 0 s.cfg.msix (4 * vec.toNat + 3) (msixDword s (4 * vec.toNat + 3) ||| 1) } }
  if Tbl.get false s.cfg.pba vec.toNat && !s.host.lost then
    sendMsix { s with cfg := { s.cfg with pba := Tbl.set false s.cfg.pba vec.toNat false } } vec
  else s

def execMsixVectorUnmask (vec : BitVec 11) (s : State) : Outcome := .next (settle (unmaskVector s vec))

/-- INTR_CFG. -/
def intrCfg (s : State) (x : ItemRef) : State :=
  onItem s x 0x74 fun i _ =>
    let n := fld (iw i 1) 9 0
    let kind := bit (iw i 1) 32
    if (284 ≤ n ∧ n < 512) ∨ 48 < fld (iw i 1) 29 24 ∨ (n < 512 ∧ kind ≠ levelWired n) then completeItem s x 0xE3
    else completeItem (setIrq s n { getIrq s n with
      prio := BitVec.ofNat 4 (fld (iw i 1) 19 16)
      target := BitVec.ofNat 6 (fld (iw i 1) 29 24)
      level := decide (512 ≤ n) && kind
      mask := bit (iw i 1) 33 }) x 0x00

def execIntrCfg (x : ItemRef) (s : State) : Outcome := .next (settle (intrCfg s x))

/-! ### Counters (R391) -/

/-- Number of units that latch: routers 0 to 31, ring stops 32 to 49, cores 50 to 369, CPs 370 to 385, stack controllers 386 to 393, links
394 to 457. -/
def unitCount : Nat := 458

/-- UKIND, INDEX and CNT of a counter id. -/
def idKind (id : Nat) : Nat := id / 2 ^ 28
def idIndex (id : Nat) : Nat := id / 2 ^ 8 % 2 ^ 20
def idCnt (id : Nat) : Nat := id % 2 ^ 8

/-- A counter id of Table 17.4. -/
def idValid (id : Nat) : Bool :=
  let lim : Nat × Nat := match idKind id with
    | 1 => (320, 6) | 2 => (65536, 6) | 3 => (2 ^ 20, 4) | 4 => (16, 3) | 5 => (128, 4) | 6 => (64, 6) | 7 => (48, 4) | 8 => (32, 5)
    | 9 => (32, 3) | _ => (0, 0)
  decide (idIndex id < lim.1) && decide (idCnt id < lim.2)

/-- The unit that holds a counter. The counters of a partition's meter and regulators are held at ring stop `p`. -/
def unitOf (s : State) (id : Nat) : Nat :=
  let i := idIndex id
  match idKind id with
  | 1 => 50 + i
  | 3 => 370 + (match Tbl.get none s.queues i with | some q => q.cp.toNat | none => 0)
  | 4 => 32 + i
  | 5 => 386 + i / 16
  | 6 => 394 + i
  | 7 => 32 + i / 3
  | _ => i

/-- The counter that an id names for a context: a vcore's is its core's (UKIND 2). -/
def liveId (s : State) (c : Context) (id : Nat) : Option Nat :=
  if !idValid id then none
  else if idKind id ≠ 2 then some id
  else if c.gid = 0xFFFFFF then none
  else (findBinding s c.gid (BitVec.ofNat 16 (idIndex id))).map fun p => counterId 1 p (idCnt id)

/-- A counter that a tenant may read (R366, R398). -/
def tenantMay (c : Context) (id : Nat) : Bool :=
  (idKind id == 2 && [0, 1, 4].contains (idCnt id)) || (idKind id == 3 && idIndex id / 16 == c.id.toNat)

/-- What a tenant sees of a value (R366). -/
def coarse (c : Context) (v : Dword) : Dword := if c.manager then v else v &&& ~~~0x3FF

/-- The `n` ids of a list. -/
def idList (ws : List Dword) (n : Nat) : List Nat :=
  (List.range n).map fun k => fld (ws.getD (k / 2) 0) (32 * (k % 2) + 31) (32 * (k % 2))

/-- Read the ids of an item and act on them: the COUNT, then the tenant's rights, then the ids, in this order. -/
def withIds (s : State) (x : ItemRef) (c : Context) (r : Reply) (n : Nat) (list : Dword) (pick : State → Nat → Option Nat)
    (f : State → List Nat → State) : State :=
  if n = 0 ∨ 4096 < n then completeItem s x 0x20
  else withList s x c r list (4 * n) fun s ws =>
    let ids := idList ws n
    if !c.manager && ids.any fun id => !tenantMay c id then completeItem s x 0x40
    else
      let got := ids.filterMap (pick s)
      if got.length ≠ n then completeItem s x 0xE2 else f s got

/-- COUNTER_READ: a tenant reads the sample of the last millisecond. -/
def counterRead (s : State) (x : ItemRef) (r : Reply) : State :=
  onItem s x 0x72 fun i c =>
    withIds s x c r (fld (iw i 1) 12 0) (iw i 2) (fun s id => liveId s c id) fun s ids =>
      let vals := ids.map fun id => if c.manager then counterValue s id else coarse c (Tbl.get 0 s.cnt.sample id)
      writeRecord s x c (iw i 3) (dwordBytes vals) 0

def execCounterRead (x : ItemRef) (r : Reply) (s : State) : Outcome := .next (settle (counterRead s x r))

/-! ### Snapshots (R392, R393) -/

/-- Inject a marker for a new epoch. -/
def inject_ (s : State) (epoch : Word) (origin : BitVec 17) : State :=
  { s with cnt := { s.cnt with epoch := epoch, markers := s.cnt.markers ++ [(epoch, origin)] } }

/-- A SNAPSHOT message on every link in service. -/
def floodSnapshot (s : State) (epoch : Word) (origin : BitVec 17) : State :=
  ((List.range 64).filter fun n => (getLink s n).up).foldl (fun s n =>
    sendOnLink s n { ttype := 0x0D, dst := linkNode s n, vc := 0, ext := 0x0D, len := 8
                     data := leBytes 4 epoch.toNat ++ leBytes 4 origin.toNat }) s

/-- SNAP_TAKE. -/
def snapTake (s : State) (x : ItemRef) : State :=
  onItem s x 0x70 fun i _ =>
    let e := BitVec.ofNat 32 (fld (iw i 1) 31 0)
    if e.toNat ≤ s.cnt.epoch.toNat then completeItem s x 0xE0
    else
      let s := inject_ s e s.node
      completeItem (if bit (iw i 1) 32 then floodSnapshot s e s.node else s) x 0x00

def execSnapTake (x : ItemRef) (s : State) : Outcome := .next (settle (snapTake s x))

/-- SNAPSHOT from the fabric. -/
def execSnapshot (p : Packet) (s : State) : Outcome :=
  .next (settle (onMsg s p 0x0D fun s q =>
    let e := BitVec.ofNat 32 (msgField q 0 4)
    let o := BitVec.ofNat 17 (msgField q 4 4)
    if e.toNat ≤ s.cnt.epoch.toNat then s else floodSnapshot (inject_ s e o) e o))

/-- The last epoch that a unit has latched. -/
def unitLast (s : State) (u : Nat) : Nat := max (Tbl.get 0 s.cnt.bank0 u).toNat (Tbl.get 0 s.cnt.bank1 u).toNat

/-- Replace a unit's entries of a shadow by its live counters. -/
def latchTable (s : State) (u : Nat) (shadow : Tbl Dword) : Tbl Dword :=
  (s.cnt.live.filter fun e => unitOf s e.1 == u).foldl (fun t e => Tbl.set 0 t e.1 e.2) (shadow.filter fun e => unitOf s e.1 != u)

/-- The vcore that a core carries at the latch. -/
def latchBinding (s : State) (u : Nat) (t : Tbl Nat) : Tbl Nat :=
  if u < 50 ∨ 370 ≤ u then t
  else
    let p := u - 50
    let b := getBinding s p
    let t := t.filter fun e => e.2 != p + 1
    if b.state != 0 then Tbl.set 0 t (b.gid.toNat * 65536 + b.vcore.toNat) (p + 1) else t

/-- SNAPSHOT_MARKER: a unit latches at the first marker above its last epoch; later or equal ones change nothing. Once every unit has
latched, the cut is logged. -/
def snapshotMarker (s : State) (u : Nat) (epoch : Word) : State :=
  match s.cnt.markers.find? fun m => m.1 == epoch with
  | none => s
  | some m =>
    if unitCount ≤ u ∨ epoch.toNat ≤ unitLast s u then s
    else
      let s := { s with cnt :=
        if epoch.toNat % 2 = 0 then
          { s.cnt with shadow0 := latchTable s u s.cnt.shadow0, bound0 := latchBinding s u s.cnt.bound0
                       bank0 := Tbl.set 0 s.cnt.bank0 u epoch }
        else
          { s.cnt with shadow1 := latchTable s u s.cnt.shadow1, bound1 := latchBinding s u s.cnt.bound1
                       bank1 := Tbl.set 0 s.cnt.bank1 u epoch } }
      if (List.range unitCount).all fun v => decide (epoch.toNat ≤ unitLast s v) then
        logEvent { s with cnt := { s.cnt with markers := s.cnt.markers.filter fun k => decide (epoch.toNat < k.1.toNat) } }
          srcRtp 0x14 false (leBytes 4 epoch.toNat ++ leBytes 4 m.2.toNat)
      else s

def execSnapshotMarker (unit : Nat) (epoch : Word) (s : State) : Outcome := .next (settle (snapshotMarker s unit epoch))

/-- The counter that an id names in the bank of an epoch. -/
def shadowId (s : State) (c : Context) (even : Bool) (id : Nat) : Option Nat :=
  if !idValid id then none
  else if idKind id ≠ 2 then some id
  else if c.gid = 0xFFFFFF then none
  else match Tbl.get 0 (if even then s.cnt.bound0 else s.cnt.bound1) (c.gid.toNat * 65536 + idIndex id) with
    | 0 => none
    | k + 1 => some (counterId 1 k (idCnt id))

/-- SNAP_READ: it waits until the units of its counters have latched an epoch whose marker is on its way. -/
def snapRead (s : State) (x : ItemRef) (r : Reply) : State :=
  onItem s x 0x71 fun i c =>
    let e := BitVec.ofNat 32 (fld (iw i 1) 31 0)
    let even := decide (e.toNat % 2 = 0)
    let late := s.cnt.markers.any fun m => m.1 == e
    if late && (List.range unitCount).any fun u => decide (unitLast s u < e.toNat) then s
    else withIds s x c r (fld (iw i 1) 44 32) (iw i 2) (fun s id => shadowId s c even id) fun s ids =>
      if ids.any fun id => Tbl.get 0 (if even then s.cnt.bank0 else s.cnt.bank1) (unitOf s id) != e then completeItem s x 0xE1
      else
        let vals := ids.map fun id => coarse c (Tbl.get 0 (if even then s.cnt.shadow0 else s.cnt.shadow1) id)
        writeRecord s x c (iw i 3) (dwordBytes vals) (e.setWidth 64)

def execSnapRead (x : ItemRef) (r : Reply) (s : State) : Outcome := .next (settle (snapRead s x r))

/-! ### The event log (R394 to R397) -/

/-- A record as it stands in the ring (Table 17.5). -/
def LogRec.bytes (r : LogRec) : List Byte :=
  dwordBytes [BitVec.ofNat 64 (r.source.toNat + r.sseq.toNat * 2 ^ 16 + r.type.toNat * 2 ^ 48 + (r.payload.length + 7) / 8 * 2 ^ 56 +
    (if r.retained then 2 ^ 60 else 0)), r.time] ++ (r.payload ++ List.replicate 48 0).take 48

/-- A record is lost: counted, and noted for its report. -/
def discardRec (s : State) (r : LogRec) : State :=
  let gone := match s.log.gone.getLast? with
    | some g => if g.1 == r.source && g.2.1 + BitVec.ofNat 32 g.2.2 == r.sseq then s.log.gone.dropLast ++ [(g.1, g.2.1, g.2.2 + 1)]
                else s.log.gone ++ [(r.source, r.sseq, 1)]
    | none => [(r.source, r.sseq, 1)]
  { s with log := { s.log with lost := s.log.lost + 1, gone := gone } }

/-- Report the oldest discards once the store has room. -/
def reportGone (s : State) : State :=
  match s.log.gone with
  | [] => s
  | g :: l =>
    if 8192 ≤ s.log.store.length then s
    else logEvent { s with log := { s.log with gone := l } } srcRtp 0x13 false
      (leBytes 2 g.1.toNat ++ leBytes 4 g.2.1.toNat ++ leBytes 4 g.2.2)

/-- The record that is stored next, and what still waits: while the store holds only retained records a retained one waits, and with it
those of its source behind it. -/
def nextRec (stuck : Bool) : List (BitVec 16) → List LogRec → Option (LogRec × List LogRec)
  | _, [] => none
  | held, r :: l =>
    if stuck && (r.retained || held.contains r.source) then
      (nextRec stuck (r.source :: held) l).map fun e => (e.1, r :: e.2)
    else some (r, l)

/-- Put a record into the store (R395). -/
def storeRec (s : State) (r : LogRec) : State :=
  let l := s.log.store
  if l.length < 8192 then { s with log := { s.log with store := l ++ [r] } }
  else match findIdx? (fun q => !q.retained) l 0 with
    | some k => discardRec { s with log := { s.log with store := l.eraseIdx k ++ [r] } } (l.getD k {})
    | none => discardRec s r

/-- LOG_RECORD_STORE: while the RTP restarts, into the 512 places of R381; after its return, what those hold goes first. -/
def logRecordStore (s : State) : State :=
  if s.rtpDown then
    let full := decide (512 ≤ s.log.held.length)
    match nextRec full [] s.log.waiting with
    | none => s
    | some (r, l) =>
      let s := { s with log := { s.log with waiting := l } }
      if full then discardRec s r else { s with log := { s.log with held := s.log.held ++ [r] } }
  else
    let stuck := decide (8192 ≤ s.log.store.length) && s.log.store.all (·.retained)
    match nextRec stuck [] s.log.held with
    | some (r, l) => reportGone (storeRec { s with log := { s.log with held := l } } r)
    | none =>
      if s.log.held ≠ [] then s
      else match nextRec stuck [] s.log.waiting with
        | some (r, l) => reportGone (storeRec { s with log := { s.log with waiting := l } } r)
        | none => reportGone s

def execLogRecordStore (s : State) : Outcome := .next (settle (logRecordStore s))

/-- LOG_CFG. -/
def logCfg (s : State) (x : ItemRef) : State :=
  onItem s x 0x73 fun i _ =>
    let n := fld (iw i 1) 3 0
    if 10 < n ∨ (iw i 2).toNat % 4096 ≠ 0 then completeItem s x 0xE4
    else completeItem { s with log := { s.log with
      ringLog := BitVec.ofNat 4 n
      msix := BitVec.ofNat 11 (fld (iw i 1) 26 16)
      base := iw i 2
      widx := 0 } } x 0x00

def execLogCfg (x : ItemRef) (s : State) : Outcome := .next (settle (logCfg s x))

/-- The log's MSI-X, at most one in 100 µs. -/
def logMsix (s : State) : State :=
  let soon := match s.log.lastMsix with | some t => decide (s.refNs < t + 100000) | none => false
  if !s.log.owed || soon then s
  else sendMsix { s with log := { s.log with owed := false, lastMsix := some s.refNs } } s.log.msix

/-- LOG_RECORD_DELIVER: the oldest record of the store is written into the ring of context 0, then WIDX; it leaves the store. -/
def logRecordDeliver (s : State) : State :=
  match getCtx s 0, s.log.store with
  | some c, r :: l =>
    if s.rtpDown || s.log.base == 0 || c.faulted || c.state != .running || s.posts.any fun p => p.1 == 0 then s
    else
      let size := 2 ^ (6 + s.log.ringLog.toNat)
      let (s, ridx) := ringRidx s c s.log.base
      if ringFull s.log.widx size ridx then s
      else match tryWrite s c (s.log.base + BitVec.ofNat 64 (0x40 + 64 * (s.log.widx % size))) r.bytes with
        | .hold s => s
        | .fail s => raise s { ctx := 0, cls := 6, cause := 5, addr := s.log.base }
        | .done s =>
          let w := s.log.widx + 1
          let fill := (BitVec.ofNat 64 w - ridx).toNat
          let passes := decide (3 * size < 4 * fill ∧ 4 * (fill - 1) ≤ 3 * size)
          let s := ringWrite s 0 s.log.base (leBytes 8 w) false
          { s with log := { s.log with store := l, widx := w, owed := s.log.owed || r.retained || passes } }
  | _, _ => s

def execLogRecordDeliver (s : State) : Outcome := .next (settle (logMsix (logRecordDeliver s)))

end Sys2Proof.Machine
end

