-- ==== Sys2Proof/Machine/Regs.lean ====
section
/-!
DEFINITION. The register interface (R401 to R411): decode with its aliases, reads and writes of every register through either view,
the indirect pairs, configuration parity, the doorbell pages and the tray port (R422).
-/
namespace Sys2Proof.Machine

/-! ### Decode (R404, R406, Table 18.5) -/

/-- What an offset of a block reaches. `.none` is a decoded slot without a register. -/
inductive Reg where
  | none
  /-- HIU groups 0x000, 0x800 and 0x900. -/
  | hiu (r : Nat)
  | host (r : Nat)
  | mgr (r : Nat)
  /-- RTP groups FPR, life and log. -/
  | fpr (r : Nat)
  | life (r : Nat)
  | log (r : Nat)
  | gov (i : Nat)
  | eicSoft
  | eicSrc (n : Nat)
  | eicPend (w : Nat)
  | eicActive (w : Nat)
  | eicProc (q r : Nat)
  | link (n r : Nat)
  | group (g : Nat)
  | xl (r : Nat)
  | msh (r : Nat)
  | sec (r : Nat)
  | msix (vec dword : Nat)
  | pba (k : Nat)
  deriving DecidableEq, Repr

/-- The register at an offset of a block (Table 18.5). -/
def regAt (block : Nat) (off : BitVec 16) : Reg :=
  let r := fld off 5 2
  match block with
  | 0 => if !bit off 11 then .hiu r else if !bit off 8 then .host r else .mgr r
  | 1 => (match fld off 9 8 with
    | 1 => .fpr (fld off 3 2)
    | 2 => .life (fld off 3 2)
    | 3 => .log (fld off 3 2)
    | _ => .none)
  | 2 => .gov (fld off 9 2)
  | 3 =>
    if bit off 14 then .eicProc (min 48 (fld off 11 6)) r
    else (match fld off 13 12 with
      | 0 => .eicSoft
      | 1 => .eicSrc (fld off 11 2)
      | _ => if bit off 7 then .eicActive (fld off 6 2) else .eicPend (fld off 6 2))
  | 4 => if bit off 12 then .link (fld off 11 6) r else if bit off 11 then .group r else .xl r
  | 5 => .msh (fld off 3 2)
  | 6 => .sec (fld off 3 2)
  | 7 => if bit off 15 then .pba (fld off 7 2) else .msix (fld off 14 4) (fld off 3 2)
  | _ => .none

/-- The block of a window of a view: windows 1 and 2 reach window 0. -/
def windowBlock (off : BitVec 24) : Nat := if fld off 18 16 = 1 ∨ fld off 18 16 = 2 then 0 else fld off 18 16

/-- A register's own offset. -/
def regOff : Reg → Nat
  | .none => 0
  | .hiu r => 4 * r
  | .host r => 0x800 + 4 * r
  | .mgr r => 0x900 + 4 * r
  | .fpr r => 0x100 + 4 * r
  | .life r => 0x200 + 4 * r
  | .log r => 0x300 + 4 * r
  | .gov i => 4 * i
  | .eicSoft => 0
  | .eicSrc n => 0x1000 + 4 * n
  | .eicPend w => 0x2000 + 4 * w
  | .eicActive w => 0x2080 + 4 * w
  | .eicProc q r => 0x4000 + 0x40 * q + 4 * r
  | .link n r => 0x1000 + 0x40 * n + 4 * r
  | .group g => 0x800 + 4 * g
  | .xl r => 4 * r
  | .msh r => 4 * r
  | .sec r => 4 * r
  | .msix v d => 16 * v + 4 * d
  | .pba k => 0x8000 + 4 * k

/-- The switched domain that a register needs in run. -/
def regDomain : Reg → Option Nat
  | .link n _ => some (40 + n / 16)
  | .group g => some (40 + g / 4)
  | .sec _ => some 45
  | _ => none

def regRuns (s : State) (g : Reg) : Bool := match regDomain g with | some d => domainRuns s d | none => true

/-! ### Contents -/

def b2n (b : Bool) (i : Nat) : Nat := if b then 2 ^ i else 0

/-- The 32-bit word of flags: bit `i` where `f` holds. -/
def bits32 (f : Nat → Bool) : Nat := (List.range 32).foldl (fun n i => n + b2n (f i) i) 0

def hiuId (s : State) : Nat := 0x0007 + s.life.env.variant.toNat * 2 ^ 16 + 2 ^ 20

/-- RTP_LIFE_STATUS (Table 16.5). -/
def lifeStatus (s : State) : Nat :=
  s.life.phase.toNat + b2n s.life.ready 4 + b2n s.life.degraded 5 + b2n s.life.settled 6 + b2n s.life.removeReady 7 +
  s.life.bootFail.toNat * 2 ^ 8 + s.life.restarts.toNat * 2 ^ 16

def viewPair (s : State) : View → IndPair
  | .manager => s.regs.mgrPair
  | .host => s.regs.hostPair

def setPair (s : State) (v : View) (p : IndPair) : State :=
  { s with regs := match v with | .manager => { s.regs with mgrPair := p } | .host => { s.regs with hostPair := p } }

def indStatus (p : IndPair) : Nat := b2n p.timeout 1 + b2n p.denied 2 + b2n p.off 3

/-- HIU group 0 (Table 18.4). -/
def readHiu (s : State) (v : View) (r : Nat) : Nat :=
  match r with
  | 0 => hiuId s
  | 1 => 0x0111 + s.life.fwSvn.toNat * 2 ^ 16
  | 2 => s.life.env.serial.toNat % 2 ^ 32
  | 3 => s.life.env.serial.toNat / 2 ^ 32
  | 4 => (viewPair s v).addr.toNat
  | 7 => indStatus (viewPair s v)
  | 8 => s.regs.frozen.toNat + s.regs.cfgBlock.toNat * 2 ^ 8 + s.regs.cfgOffset.toNat * 2 ^ 16
  | 9 => b2n s.regs.cxlEn 0 + b2n s.host.cxl 1
  | 10 => s.regs.hostWrIgn.toNat
  | _ => 0

/-- A link's registers (Table 10.8). -/
def readLink (s : State) (n r : Nat) : Nat :=
  let l := getLink s n
  let c (k : Nat) : Nat := (counterValue s (counterId 6 n k)).toNat % 2 ^ 32
  match r with
  | 0 => b2n l.enable 0
  | 1 => l.st.toNat + l.lanes.toNat * 2 ^ 4 + b2n l.spared 7 + l.cause.toNat * 2 ^ 8 + l.fails.toNat * 2 ^ 16
  | 2 => (match l.partner with | some b => b.node.toNat + b.link.toNat * 2 ^ 17 | none => 0) + b2n l.valid 31
  | 3 => l.expNode.toNat + l.expLink.toNat * 2 ^ 17 + b2n l.check 31
  | 4 => c 0
  | 5 => c 1
  | 6 => c 2
  | 7 => c 3
  | 8 | 9 | 10 | 11 => (Tbl.get 0 l.laneBits (r - 8)).toNat
  | 12 => l.retrains.toNat + l.laneFaults.toNat * 2 ^ 16
  | _ => 0

/-- The fabric's transaction registers (Table 11.8). -/
def readXl (s : State) (r : Nat) : Nat :=
  let f := s.fab
  match r with
  | 0 => s.node.toNat + b2n f.nodeValid 17 + s.incarnation.toNat % 2 ^ 8 * 2 ^ 24
  | 1 => f.hopLimit.toNat + f.drain.toNat * 2 ^ 16
  | 2 => s.time.toNat % 2 ^ 32
  | 3 => f.timeHi.toNat
  | 4 => f.role.toNat + b2n f.locked 2 + f.parent.toNat * 2 ^ 8 + f.err.toNat * 2 ^ 16
  | 8 => f.authFail.toNat
  | 9 => f.dup.toNat
  | 10 => f.expired.toNat
  | 11 => f.unreach.toNat
  | 12 => f.noTree.toNat
  | 13 => f.combined.toNat
  | _ => 0

/-- Governor registers (Tables 2.1 and 13.10). GOV_PM_TARGET shows the governor's write once it has completed, also before the edge that
first uses it (Table 2.4). -/
def readGov (s : State) (i : Nat) : Nat :=
  if i = 0 then s.gov.cap + s.gov.trayCap * 2 ^ 16
  else if i = 1 then min s.gov.power 65535
  else if i = 2 then reasonBits s + ((List.range 4).map fun d => b2n ((getDie s d).droop != 0) (8 + d)).sum
  else if 4 ≤ i ∧ i < 8 then (getDie s (i - 4)).volt + (getDie s (i - 4)).current % 1024 * 2 ^ 16
  else if 8 ≤ i ∧ i < 12 then (getDie s (i - 8)).tj % 256
  else if i = 124 then b2n s.refLost 0
  else if 128 ≤ i ∧ i < 192 then
    let p := (i - 128) / 4
    (match i % 4 with
     | 0 => (getMeter s p).written.toNat
     | 1 => (counterValue s (counterId 4 p 0)).toNat % 2 ^ 32
     | 2 => (getMeter s p).ticksHi.toNat
     | _ => (counterValue s (counterId 4 p 1)).toNat % 2 ^ 32)
  else 0

/-- A processor's interface (Table 17.9). A read of EIC_CLAIM here marks nothing active (R387). -/
def readProc (s : State) (q r : Nat) : Nat :=
  let p := getProc s q
  match r with
  | 0 => p.thresh.toNat
  | 1 => (if accepts s q then (claimAt s q).1 else 0).toNat
  | 3 => cpri s q
  | 4 => p.pmask.toNat % 2 ^ 32
  | 5 => p.pmask.toNat / 2 ^ 32
  | 6 => bits32 fun i => privPending s q i
  | 7 => bits32 fun i => privPending s q (32 + i)
  | _ => if 8 ≤ r then packNat 4 ((List.range 8).map fun k => (Tbl.get 6 p.pprio (8 * (r - 8) + k)).toNat) else 0

/-- Job-key slots are numbered by the partition of their glove. -/
def jkeyUsed (s : State) : Nat :=
  (List.range 16).foldl (fun n p => n + b2n ((listOpt (fun g => g.part.toNat == p) s.gloves).any fun g =>
    match findSlot s g.gid with | some k => (k.key k.active).isSome | none => false) p) 0

/-- The value of a register as a view reads it, apart from what the read does. -/
def regValue (s : State) (v : View) (g : Reg) : Word :=
  BitVec.ofNat 32 (if !regRuns s g then 0 else match g with
    | .none | .eicSoft => 0
    | .hiu r => readHiu s v r
    | .host r => (match r with
      | 0 => b2n s.host.lost 0 + s.host.fails.toNat * 2 ^ 4 + b2n s.host.locked 8 + s.host.epoch.toNat * 2 ^ 16
      | 1 => s.host.raIndex.toNat
      | 2 => (raWord s s.host.raIndex.toNat).toNat % 2 ^ 32
      | 3 => (raWord s s.host.raIndex.toNat).toNat / 2 ^ 32
      | _ => 0)
    | .mgr r => if r = 9 then (mgrReg s 9).toNat + b2n s.regs.mgrOpen 30 else if r < 9 then (mgrReg s r).toNat else 0
    | .fpr r => (match r with
      | 0 => s.fp.index.toNat
      | 1 => (fpWord s s.fp.index.toNat).toNat % 2 ^ 32
      | 2 => (fpWord s s.fp.index.toNat).toNat / 2 ^ 32
      | _ => 0)
    | .life r => (match r with | 0 => lifeStatus s | 1 => s.life.refuse.toNat * 2 ^ 8 | _ => 0)
    | .log r => (match r with
      | 0 => s.log.store.length + b2n (decide (8192 ≤ s.log.store.length) && s.log.store.all (·.retained)) 14
      | 1 => s.log.lost.toNat
      | _ => 0)
    | .gov i => if v = .host ∧ s.life.ready then 0 else readGov s i
    | .eicSrc n =>
      let i := getIrq s n
      i.prio.toNat + i.target.toNat * 2 ^ 4 + b2n (srcLevel s n) 10 + b2n i.mask 11
    | .eicPend w => bits32 fun b => srcPending s (32 * w + b)
    | .eicActive w => bits32 fun b => (getIrq s (32 * w + b)).active
    | .eicProc q r => readProc s q r
    | .link n r => readLink s n r
    | .group n =>
      let x := Tbl.get {} s.groups n
      x.spare.toNat + b2n x.warm 2 + b2n x.whole 3 + (if x.spare = 1 then x.pair.toNat else 0) * 2 ^ 4
    | .xl r => readXl s r
    | .msh r => (match r with
      | 0 => s.mem.redHold.toNat
      | 1 => s.mem.scrubPeriod.toNat
      | 2 => s.mem.errCe.toNat + s.mem.errUe.toNat * 2 ^ 16
      | _ => s.mem.errCluster.toNat + s.mem.errBank.toNat * 2 ^ 5 + s.mem.errRow.toNat * 2 ^ 10 + b2n s.mem.errIsUe 23)
    | .sec r => (match r with
      | 0 => bits32 fun i => (wkey s i).isSome
      | 1 => bits32 fun i => (wkey s (32 + i)).isSome
      | 2 => jkeyUsed s
      | _ => 0)
    | .msix vec d => (msixDword s (4 * vec + d)).toNat ^^^ (if d = 3 then 1 else 0)
    | .pba k => bits32 fun b => Tbl.get false s.cfg.pba (32 * k + b))

/-- A whole read of a register through a view: its value in `lastRead`, and what the read clears, latches or advances. -/
def readReg (s : State) (v : View) (g : Reg) : State :=
  let t := { s with lastRead := regValue s v g }
  match g with
  | .hiu 7 => setPair t v { viewPair t v with timeout := false, denied := false, off := false }
  | .host 3 => readRaHi s true
  | .fpr 2 => readFprHi s true
  | .gov i => if 128 ≤ i ∧ i < 192 ∧ i % 4 = 1 then readTicksLo s v ((i - 128) / 4) true else t
  | .xl 2 => { t with fab := { t.fab with timeHi := BitVec.ofNat 32 (s.time.toNat / 2 ^ 32) } }
  | .msh 2 => readErrcnt s v true
  | _ => t

/-! ### Writes -/

/-- Registers that a host write may reach (R402). -/
def hostMay : Reg → Bool
  | .hiu r => r == 4 || r == 5 || r == 6
  | .host r => r == 1 || r == 4 || r == 5
  | .msix _ _ => true
  | _ => false

/-- Registers that hold an RW or RWS field under parity (R409). -/
def hasParity : Reg → Bool
  | .hiu r => r == 9
  | .host r => r == 1
  | .mgr r => decide (r < 10)
  | .fpr r => r == 0
  | .eicSrc _ => true
  | .eicProc _ r => r == 0 || r == 4 || r == 5 || decide (8 ≤ r)
  | .link _ r => r == 0 || r == 3
  | .xl r => r == 1
  | .msh r => decide (r < 2)
  | _ => false

def setProcMask (s : State) (q : Nat) (hi : Bool) (d : Word) : State :=
  let m := (getProc s q).pmask.toNat
  setProc s q { getProc s q with pmask := BitVec.ofNat 64 (if hi then m % 2 ^ 32 + d.toNat * 2 ^ 32 else m / 2 ^ 32 * 2 ^ 32 + d.toNat) }

/-- UNFREEZE of a block (R410): its mismatching registers hold their reset values already. -/
def unfreezeWrite (s : State) (d : Word) : State :=
  if bit d 15 then { s with regs := { s.regs with frozen := setBit s.regs.frozen (fld d 14 12) false } } else s

/-- What an accepted write of a register does; a write to an RO register or an empty slot does nothing. -/
def storeReg (s : State) (v : View) (g : Reg) (d : Word) : State :=
  match g with
  | .hiu 4 => setPair s v { viewPair s v with addr := BitVec.ofNat 24 (d.toNat % 2 ^ 24 / 4 * 4) }
  | .hiu 9 => { s with regs := { s.regs with cxlEn := bit d 0 } }
  | .host 1 => { s with host := { s.host with raIndex := d.setWidth 8 } }
  | .host 4 => { s with host := { s.host with raLo := d } }
  | .host 5 => reattachWrite s d
  | .mgr r => if r = 9 then mgrCtrlWrite s d else if r < 9 then { s with regs := { s.regs with mgr := Tbl.set 0 s.regs.mgr r d } } else s
  | .fpr 0 => { s with fp := { s.fp with index := if fld d 6 0 < 72 then BitVec.ofNat 7 (fld d 6 0) else 0 } }
  | .life 1 => let t := if bit d 0 then prepareWrite s else s
               if bit d 1 then cancelWrite t else t
  | .eicSoft => softWrite s d
  | .eicSrc n => setIrq s n { getIrq s n with
      prio := BitVec.ofNat 4 (fld d 3 0), target := BitVec.ofNat 6 (fld d 9 4), mask := bit d 11 }
  | .eicProc q 0 => setProc s q { getProc s q with thresh := BitVec.ofNat 4 (fld d 3 0) }
  | .eicProc q 2 => completeSource s q (fld d 10 0)
  | .eicProc q 4 => setProcMask s q false d
  | .eicProc q 5 => setProcMask s q true d
  | .eicProc q r => if r < 8 then s else setProc s q { getProc s q with
      pprio := (List.range 8).foldl (fun t k => Tbl.set 6 t (8 * (r - 8) + k) (BitVec.ofNat 4 (fld d (4 * k + 3) (4 * k)))) (getProc s q).pprio }
  | .link n 0 =>
    let t := if bit d 0 = (getLink s n).enable then s else linkEnable s n (bit d 0)
    if bit d 1 && bit d 0 then linkRetrain t n else t
  | .link n 3 => updLink s n fun l => { l with expNode := BitVec.ofNat 17 (fld d 16 0), expLink := BitVec.ofNat 6 (fld d 22 17), check := bit d 31 }
  | .xl 1 => { s with fab := { s.fab with hopLimit := BitVec.ofNat 6 (fld d 5 0), drain := BitVec.ofNat 16 (fld d 31 16) } }
  | .msh 0 => { s with mem := { s.mem with redHold := d.setWidth 8 } }
  | .msh 1 => { s with mem := { s.mem with scrubPeriod := d.setWidth 16 } }
  | .msix vec 3 =>
    if bit d 0 then { s with cfg := { s.cfg with msix := Tbl.set 0 s.cfg.msix (4 * vec + 3) 0 } }
    else unmaskVector s (BitVec.ofNat 11 vec)
  | .msix vec k => { s with cfg := { s.cfg with msix := Tbl.set 0 s.cfg.msix (4 * vec + k) d } }
  | _ => s

/-- A write through a view: refused to the host, ignored by a frozen block or one that is not in run. -/
def writeReg (s : State) (v : View) (block : Nat) (g : Reg) (d : Word) : State :=
  if v = .host ∧ !hostMay g then ignoreHostWrite s
  else if g = .hiu 8 then unfreezeWrite s d
  else if frozenBlock s block || !regRuns s g then s
  else storeReg s v g d

/-! ### The indirect pairs (R405) -/

/-- ADDR[15:2] + 1 within the block. -/
def nextInd (a : BitVec 24) : BitVec 24 := BitVec.ofNat 24 (a.toNat / 2 ^ 16 * 2 ^ 16 + (a.toNat % 2 ^ 16 + 4) % 2 ^ 16)

/-- The pair's own registers: an access to them waits for the access that runs, which its 20 µs then end. -/
def ownPair : Reg → Bool
  | .hiu r => decide (4 ≤ r ∧ r ≤ 7)
  | _ => false

/-- Silence of the target: all ones, or a dropped write, and TIMEOUT. -/
def indTimeout (s : State) (v : View) (read : Bool) : State :=
  let t := if read then { s with lastRead := 0xFFFFFFFF } else s
  setPair t v { viewPair t v with timeout := true }

/-- One access through a pair: a read, or a write of `d`. -/
def indAccess (s : State) (v : View) (d : Option Word) (inc : Bool) : State :=
  let a := (viewPair s v).addr
  let block := fld a 18 16
  let g := regAt block (a.setWidth 16)
  let t :=
    if !regRuns s g then
      let t := match d with | none => { s with lastRead := 0 } | some _ => s
      setPair t v { viewPair t v with off := true }
    else match d with
      | none => if ownPair g then indTimeout s v true else readReg s v g
      | some x =>
        if v = .host ∧ !hostMay g then
          let t := ignoreHostWrite s
          setPair t v { viewPair t v with denied := true }
        else if ownPair g then indTimeout s v false
        else writeReg s v block g x
  if inc then setPair t v { viewPair t v with addr := nextInd a } else t

/-- HIU_IND_DATA: a write to a frozen HIU block is ignored. -/
def indData (s : State) (v : View) (d : Option Word) (inc : Bool) : State :=
  if d.isSome && frozenBlock s 0 then s else indAccess s v d inc

def execHiuIndData (v : View) (d : Option Word) (s : State) : Outcome := .next (settle (indData s v d true))

def execHiuIndDataNoinc (v : View) (d : Option Word) (s : State) : Outcome := .next (settle (indData s v d false))

/-- IND_ACCESS_TIMEOUT: the read that a silent target ends; ADDR stays. -/
def execIndAccessTimeout (v : View) (s : State) : Outcome := .next (settle (indTimeout s v true))

/-- HIU_IND_STATUS_READ: each pair's bits clear through its own view (R407). -/
def execHiuIndStatusRead (v : View) (whole : Bool) (s : State) : Outcome :=
  .next (settle (if whole then readReg s v (.hiu 7) else { s with lastRead := regValue s v (.hiu 7) }))

/-! ### Configuration parity (R409, R410) -/

/-- UNFREEZE: through the manager view alone. -/
def execUnfreeze (v : View) (d : Word) (s : State) : Outcome :=
  .next (settle (match v with | .host => ignoreHostWrite s | .manager => unfreezeWrite s d))

/-- A register at its reset value. -/
def resetReg (s : State) (g : Reg) : State :=
  match g with
  | .mgr r => { s with regs := { s.regs with mgr := Tbl.set 0 s.regs.mgr r 0 } }
  | .eicSrc n => setIrq s n { getIrq s n with prio := 6, target := 48, mask := false }
  | .eicProc _ r => storeReg s .manager g (if 8 ≤ r then 0x66666666 else 0)
  | .link n r => storeReg s .manager (.link n r) (if r = 0 then 1 else 0)
  | .xl _ => storeReg s .manager (.xl 1) 0x00320020
  | .msh r => storeReg s .manager (.msh r) (if r = 0 then 0x10 else 0x64)
  | _ => storeReg s .manager g 0

/-- PARITY_CHECK: the register acts at its reset value, its block freezes. -/
def parityCheck (s : State) (block : BitVec 3) (off : BitVec 16) : State :=
  let g := regAt block.toNat off
  if !hasParity g || !regRuns s g then s
  else
    let s := resetReg s g
    let s := { s with regs := { s.regs with
      frozen := setBit s.regs.frozen block.toNat true
      cfgBlock := block
      cfgOffset := BitVec.ofNat 14 (regOff g / 4) } }
    reportError (irqEdge s 282) 0x0E 2 .none (BitVec.ofNat 64 (block.toNat * 2 ^ 16 + regOff g))

def execParityCheck (block : BitVec 3) (off : BitVec 16) (s : State) : Outcome := .next (settle (parityCheck s block off))

/-! ### Doorbell pages (Table 8.6) -/

/-- HIU_DB_STATE.STATE. -/
def dbState (s : State) (q : Queue) : Nat :=
  match getCtx s q.ctx with
  | none => 0
  | some c =>
    if q.closing ∨ c.state = .closing then 4
    else if q.flushing then 5
    else if c.state = .parked then 3
    else if c.faulted then 2
    else 1

/-- A doorbell page's register `r` as read; those that only write read 0. -/
def readDb (s : State) (page r : Nat) : Word :=
  let stale := (Tbl.get 0 s.host.stale page).toNat * 2 ^ 8
  match queueOfPage s page with
  | none => if r = 5 then BitVec.ofNat 32 stale else 0
  | some q => match r with
    | 4 => BitVec.ofNat 32 (q.ridx.toNat + q.epoch.toNat * 2 ^ 24)
    | 5 => BitVec.ofNat 32 (dbState s q + stale)
    | 6 => q.nextSeq
    | _ => 0

def writeDb (s : State) (page r : Nat) (d : Word) : State :=
  match r with
  | 0 => dbWrite s page d
  | 1 => dbCplRead s page d
  | 2 => dbFlush s page d
  | _ => s

/-! ### The tray port (R422, Table 19.9) -/

/-- The tray port answers from the end of step 1 of power-on until PWR_EN falls. -/
def trayUp (s : State) : Bool := s.life.powered

/-- Tray registers as read. -/
def readTray (s : State) (off : Byte) : Word :=
  BitVec.ofNat 32 (match off.toNat with
    | 0x00 => hiuId s
    | 0x04 => s.gov.trayNext
    | 0x0C => s.life.phase.toNat + b2n s.life.readyPin 4 + min 4095 (s.gov.power / 10) * 2 ^ 8 +
        min 255 ((List.range 4).foldl (fun m d => max m (getDie s d).tj) 0) * 2 ^ 24
    | 0x10 => s.regs.trayAlert.toNat
    | 0x14 => s.regs.trayMask.toNat
    | _ => 0)

/-- GOV_TRAY_CAP takes effect at the next sample. -/
def trayCapWrite (s : State) (d : Word) : State := { s with gov := { s.gov with trayNext := min 1600 (max 200 (fld d 10 0)) } }

/-- WAKE fires source 3 at every domain that names it. -/
def trayWake (s : State) : State := (List.range 46).foldl (fun s k => wakeDomain s k 3) s

/-- HOST_RESET is a host loss with a reset of the host interface (R205). -/
def trayHostReset (s : State) : State := hostIfReset (hostLoss s 4)

/-- A write of GOV_TRAY_CMD. -/
def trayCmd (s : State) (d : Word) : State :=
  let s := sideband s
  let s := if bit d 0 then trayWake s else s
  if bit d 1 then trayHostReset s else s

def writeTray (s : State) (off : Byte) (d : Word) : State :=
  if !trayUp s then s
  else match off.toNat with
    | 0x04 => trayCapWrite s d
    | 0x08 => trayCmd s d
    | 0x14 => setAlerts s s.regs.trayAlert (d.setWidth 6)
    | _ => s

/-- REGISTER_WRITE: a write through any path; one that does not cover the whole register is ignored (R403). -/
def registerWrite (s : State) (a : RegPath) (d : Word) (full : Bool) : State :=
  if !full then s
  else match a with
    | .bar0 v off =>
      let block := windowBlock off
      (match regAt block (off.setWidth 16) with
       | .hiu 5 => indData s v (some d) true
       | .hiu 6 => indData s v (some d) false
       | g => writeReg s v block g d)
    | .bar2 page off => writeDb s page.val (fld off 4 2) d
    | .tray off => writeTray s off d

def execRegisterWrite (a : RegPath) (d : Word) (full : Bool) (s : State) : Outcome := .next (settle (registerWrite s a d full))

end Sys2Proof.Machine
end

