-- ==== Sys2Proof/Machine/Tray.lean ====
section
/-!
DEFINITION. The tray side of the module (R418, R422): the commands of the tray port and the cable supply.
-/
namespace Sys2Proof.Machine

/-- GOV_TRAY_CAP. -/
def execGovTrayCap (d : Word) (s : State) : Outcome := .next (settle (if trayUp s then trayCapWrite s d else s))

/-- GOV_TRAY_WAKE: a write of GOV_TRAY_CMD. -/
def execGovTrayWake (d : Word) (s : State) : Outcome := .next (settle (if trayUp s && bit d 0 then trayCmd s d else s))

/-- GOV_TRAY_HOST_RESET: a write of GOV_TRAY_CMD. -/
def execGovTrayHostReset (d : Word) (s : State) : Outcome := .next (settle (if trayUp s && bit d 1 then trayCmd s d else s))

/-- GOV_TRAY_ALERT_READ: a whole read clears (R407). -/
def execGovTrayAlertRead (whole : Bool) (s : State) : Outcome :=
  .next (settle (if !trayUp s then s
    else
      let t := { s with lastRead := readTray s 0x10 }
      if whole then setAlerts t 0 t.regs.trayMask else t))

/-- CBL_PRSNT# of quadrant `q` goes high: its CBL_3V3 is removed (R418). -/
def execCblPrsnt (q : Fin 4) (s : State) : Outcome :=
  .next (settle { s with regs := { s.regs with cableOut := setBit s.regs.cableOut q.val true } })

/-- Whether CBL_3V3 of quadrant `q` is supplied (R418). -/
def cableSupply (s : State) (q : Nat) : Bool := s.life.powered && (getDomain s (40 + q)).st != 3 && !bit s.regs.cableOut q

end Sys2Proof.Machine
end

