-- ==== Sys2Proof/Machine/Dispatch.lean ====
section
/-!
DEFINITION. The dispatch of commands to their meanings, one arm per constructor of `Instr`.
-/
namespace Sys2Proof.Machine

def exec (i : Instr) (s : State) : Host.Outcome State Fault Refusal :=
  match i with
  | .floorplanCommit => Sys2Proof.Machine.execFloorplanCommit s
  | .rtpFprDataHiRead v whole => Sys2Proof.Machine.execRtpFprDataHiRead v whole s
  | .govPmTicksLoRead v m whole => Sys2Proof.Machine.execGovPmTicksLoRead v m whole s
  | .paceTick c => Sys2Proof.Machine.execPaceTick c s
  | .waveAdmit c => Sys2Proof.Machine.execWaveAdmit c s
  | .waveSumsReachTile c => Sys2Proof.Machine.execWaveSumsReachTile c s
  | .beatAdmit c => Sys2Proof.Machine.execBeatAdmit c s
  | .referenceLost => Sys2Proof.Machine.execReferenceLost s
  | .referenceRestored => Sys2Proof.Machine.execReferenceRestored s
  | .referenceHoldoverEnd hostDrops linksLost => Sys2Proof.Machine.execReferenceHoldoverEnd hostDrops linksLost s
  | .crossingOverflow kind index => Sys2Proof.Machine.execCrossingOverflow kind index s
  | .icacheFill c line => Sys2Proof.Machine.execIcacheFill c line s
  | .transferComplete c idx refused => Sys2Proof.Machine.execTransferComplete c idx refused s
  | .mnop c w => Sys2Proof.Machine.execMnop c w s
  | .mhalt c w => Sys2Proof.Machine.execMhalt c w s
  | .msafe c w => Sys2Proof.Machine.execMsafe c w s
  | .mfence c w => Sys2Proof.Machine.execMfence c w s
  | .mli c w => Sys2Proof.Machine.execMli c w s
  | .maddi c w => Sys2Proof.Machine.execMaddi c w s
  | .madd c w => Sys2Proof.Machine.execMadd c w s
  | .msub c w => Sys2Proof.Machine.execMsub c w s
  | .mshli c w => Sys2Proof.Machine.execMshli c w s
  | .mbr c w => Sys2Proof.Machine.execMbr c w s
  | .mloop c w => Sys2Proof.Machine.execMloop c w s
  | .msig c w => Sys2Proof.Machine.execMsig c w s
  | .mwait c w => Sys2Proof.Machine.execMwait c w s
  | .mflags c w => Sys2Proof.Machine.execMflags c w s
  | .mld c w => Sys2Proof.Machine.execMld c w s
  | .mst c w => Sys2Proof.Machine.execMst c w s
  | .mplane c w => Sys2Proof.Machine.execMplane c w s
  | .mclr c w => Sys2Proof.Machine.execMclr c w s
  | .mtrx c w => Sys2Proof.Machine.execMtrx c w s
  | .mwave c w => Sys2Proof.Machine.execMwave c w s
  | .mstream c w => Sys2Proof.Machine.execMstream c w s
  | .mconv c w => Sys2Proof.Machine.execMconv c w s
  | .tileReceiveRow c tile row seg contrib partials poison => Sys2Proof.Machine.execTileReceiveRow c tile row seg contrib partials poison s
  | .forcedPointReached c => Sys2Proof.Machine.execForcedPointReached c s
  | .syncCounterAdd cl slot n => Sys2Proof.Machine.execSyncCounterAdd cl slot n s
  | .vnop c w => Sys2Proof.Machine.execVnop c w s
  | .vhalt c w => Sys2Proof.Machine.execVhalt c w s
  | .vsafe c w => Sys2Proof.Machine.execVsafe c w s
  | .vfence c w => Sys2Proof.Machine.execVfence c w s
  | .vli c w => Sys2Proof.Machine.execVli c w s
  | .vaddi c w => Sys2Proof.Machine.execVaddi c w s
  | .vadds c w => Sys2Proof.Machine.execVadds c w s
  | .vsubs c w => Sys2Proof.Machine.execVsubs c w s
  | .vmuls c w => Sys2Proof.Machine.execVmuls c w s
  | .vshli c w => Sys2Proof.Machine.execVshli c w s
  | .vbr c w => Sys2Proof.Machine.execVbr c w s
  | .vloop c w => Sys2Proof.Machine.execVloop c w s
  | .kcnt c w => Sys2Proof.Machine.execKcnt c w s
  | .vsig c w => Sys2Proof.Machine.execVsig c w s
  | .vwait c w => Sys2Proof.Machine.execVwait c w s
  | .vflags c w => Sys2Proof.Machine.execVflags c w s
  | .vmovs c w => Sys2Proof.Machine.execVmovs c w s
  | .vext c w => Sys2Proof.Machine.execVext c w s
  | .kop c w => Sys2Proof.Machine.execKop c w s
  | .kset c w => Sys2Proof.Machine.execKset c w s
  | .vld c w => Sys2Proof.Machine.execVld c w s
  | .vst c w => Sys2Proof.Machine.execVst c w s
  | .vgath c w => Sys2Proof.Machine.execVgath c w s
  | .vscat c w => Sys2Proof.Machine.execVscat c w s
  | .vldl c w => Sys2Proof.Machine.execVldl c w s
  | .vstl c w => Sys2Proof.Machine.execVstl c w s
  | .vfop c w => Sys2Proof.Machine.execVfop c w s
  | .vfma c w => Sys2Proof.Machine.execVfma c w s
  | .viop c w => Sys2Proof.Machine.execViop c w s
  | .vcmp c w => Sys2Proof.Machine.execVcmp c w s
  | .vsel c w => Sys2Proof.Machine.execVsel c w s
  | .vtf c w => Sys2Proof.Machine.execVtf c w s
  | .vcvt c w => Sys2Proof.Machine.execVcvt c w s
  | .vred c w => Sys2Proof.Machine.execVred c w s
  | .vperm c w => Sys2Proof.Machine.execVperm c w s
  | .vrot c w => Sys2Proof.Machine.execVrot c w s
  | .vtopk c w => Sys2Proof.Machine.execVtopk c w s
  | .vladd c w => Sys2Proof.Machine.execVladd c w s
  | .vlcvt c w => Sys2Proof.Machine.execVlcvt c w s
  | .vtol c w => Sys2Proof.Machine.execVtol c w s
  | .vlred c w => Sys2Proof.Machine.execVlred c w s
  | .alu c w => Sys2Proof.Machine.execAlu c w s
  | .addi c w => Sys2Proof.Machine.execAddi c w s
  | .slti c w => Sys2Proof.Machine.execSlti c w s
  | .andi c w => Sys2Proof.Machine.execAndi c w s
  | .ori c w => Sys2Proof.Machine.execOri c w s
  | .xori c w => Sys2Proof.Machine.execXori c w s
  | .shli c w => Sys2Proof.Machine.execShli c w s
  | .shri c w => Sys2Proof.Machine.execShri c w s
  | .sari c w => Sys2Proof.Machine.execSari c w s
  | .lui c w => Sys2Proof.Machine.execLui c w s
  | .ldb c w => Sys2Proof.Machine.execLdb c w s
  | .ldh c w => Sys2Proof.Machine.execLdh c w s
  | .ldw c w => Sys2Proof.Machine.execLdw c w s
  | .ldd c w => Sys2Proof.Machine.execLdd c w s
  | .ldbs c w => Sys2Proof.Machine.execLdbs c w s
  | .ldhs c w => Sys2Proof.Machine.execLdhs c w s
  | .ldws c w => Sys2Proof.Machine.execLdws c w s
  | .stb c w => Sys2Proof.Machine.execStb c w s
  | .sth c w => Sys2Proof.Machine.execSth c w s
  | .stw c w => Sys2Proof.Machine.execStw c w s
  | .std c w => Sys2Proof.Machine.execStd c w s
  | .amo c w => Sys2Proof.Machine.execAmo c w s
  | .beq c w => Sys2Proof.Machine.execBeq c w s
  | .bne c w => Sys2Proof.Machine.execBne c w s
  | .blt c w => Sys2Proof.Machine.execBlt c w s
  | .bge c w => Sys2Proof.Machine.execBge c w s
  | .bltu c w => Sys2Proof.Machine.execBltu c w s
  | .bgeu c w => Sys2Proof.Machine.execBgeu c w s
  | .jal c w => Sys2Proof.Machine.execJal c w s
  | .jalr c w => Sys2Proof.Machine.execJalr c w s
  | .sfence c w => Sys2Proof.Machine.execSfence c w s
  | .ssig c w => Sys2Proof.Machine.execSsig c w s
  | .swait c w => Sys2Proof.Machine.execSwait c w s
  | .srdc c w => Sys2Proof.Machine.execSrdc c w s
  | .ssafe c w => Sys2Proof.Machine.execSsafe c w s
  | .shalt c w => Sys2Proof.Machine.execShalt c w s
  | .csrr c w => Sys2Proof.Machine.execCsrr c w s
  | .csrw c w => Sys2Proof.Machine.execCsrw c w s
  | .csrset c w => Sys2Proof.Machine.execCsrset c w s
  | .csrclr c w => Sys2Proof.Machine.execCsrclr c w s
  | .tret c w => Sys2Proof.Machine.execTret c w s
  | .sidle c w => Sys2Proof.Machine.execSidle c w s
  | .meshReadReq p => Sys2Proof.Machine.execMeshReadReq p s
  | .meshReadResp p => Sys2Proof.Machine.execMeshReadResp p s
  | .meshWrite p => Sys2Proof.Machine.execMeshWrite p s
  | .meshWriteAck p => Sys2Proof.Machine.execMeshWriteAck p s
  | .meshAtomic p => Sys2Proof.Machine.execMeshAtomic p s
  | .reduceSram p => Sys2Proof.Machine.execReduceSram p s
  | .reduceTile p => Sys2Proof.Machine.execReduceTile p s
  | .meshSync p => Sys2Proof.Machine.execMeshSync p s
  | .meshControl p => Sys2Proof.Machine.execMeshControl p s
  | .reduceHoldExpire cl idx => Sys2Proof.Machine.execReduceHoldExpire cl idx s
  | .scrubRead cl bank row single double written => Sys2Proof.Machine.execScrubRead cl bank row single double written s
  | .spareBankCopyDone cl bank => Sys2Proof.Machine.execSpareBankCopyDone cl bank s
  | .bankZeroDone cl bank => Sys2Proof.Machine.execBankZeroDone cl bank s
  | .frameRetirementSwitch ch frame => Sys2Proof.Machine.execFrameRetirementSwitch ch frame s
  | .gpLookupReturn x bag => Sys2Proof.Machine.execGpLookupReturn x bag s
  | .mshSramErrcntRead v whole => Sys2Proof.Machine.execMshSramErrcntRead v whole s
  | .gloveOpen x r => Sys2Proof.Machine.execGloveOpen x r s
  | .sliceFit x r => Sys2Proof.Machine.execSliceFit x r s
  | .vcoreBind x r => Sys2Proof.Machine.execVcoreBind x r s
  | .vcoreMove x r => Sys2Proof.Machine.execVcoreMove x r s
  | .vcoreUnbind x r => Sys2Proof.Machine.execVcoreUnbind x r s
  | .channelRefit x r => Sys2Proof.Machine.execChannelRefit x r s
  | .linkRefit x => Sys2Proof.Machine.execLinkRefit x s
  | .memberJoin x r => Sys2Proof.Machine.execMemberJoin x r s
  | .memberLeave x r => Sys2Proof.Machine.execMemberLeave x r s
  | .gloveClose x => Sys2Proof.Machine.execGloveClose x s
  | .crownRead x => Sys2Proof.Machine.execCrownRead x s
  | .pairSet x => Sys2Proof.Machine.execPairSet x s
  | .pairCommit x r => Sys2Proof.Machine.execPairCommit x r s
  | .prepare p => Sys2Proof.Machine.execPrepare p s
  | .accept p => Sys2Proof.Machine.execAccept p s
  | .refuse p => Sys2Proof.Machine.execRefuse p s
  | .commit p => Sys2Proof.Machine.execCommit p s
  | .image p => Sys2Proof.Machine.execImage p s
  | .imageAck p => Sys2Proof.Machine.execImageAck p s
  | .bindingUpdate p => Sys2Proof.Machine.execBindingUpdate p s
  | .crown p => Sys2Proof.Machine.execCrown p s
  | .mismatch p => Sys2Proof.Machine.execMismatch p s
  | .agreed p => Sys2Proof.Machine.execAgreed p s
  | .freeze p => Sys2Proof.Machine.execFreeze p s
  | .crownGossipTick gid => Sys2Proof.Machine.execCrownGossipTick gid s
  | .forceTimeout c => Sys2Proof.Machine.execForceTimeout c s
  | .forwardingRecordExpire c => Sys2Proof.Machine.execForwardingRecordExpire c s
  | .acceptCommitTimeout c => Sys2Proof.Machine.execAcceptCommitTimeout c s
  | .nop x => Sys2Proof.Machine.execNop x s
  | .fenceSignal x => Sys2Proof.Machine.execFenceSignal x s
  | .fenceWait x r => Sys2Proof.Machine.execFenceWait x r s
  | .fenceWaitReread x h => Sys2Proof.Machine.execFenceWaitReread x h s
  | .fenceWaitTimeout x => Sys2Proof.Machine.execFenceWaitTimeout x s
  | .cookie x => Sys2Proof.Machine.execCookie x s
  | .copy x => Sys2Proof.Machine.execCopy x s
  | .fill x => Sys2Proof.Machine.execFill x s
  | .gatherPool x => Sys2Proof.Machine.execGatherPool x s
  | .floorplanRead x => Sys2Proof.Machine.execFloorplanRead x s
  | .dispatch x => Sys2Proof.Machine.execDispatch x s
  | .ctxOpen x r => Sys2Proof.Machine.execCtxOpen x r s
  | .ctxClose x => Sys2Proof.Machine.execCtxClose x s
  | .ctxResume x => Sys2Proof.Machine.execCtxResume x s
  | .ctxUnpark x r => Sys2Proof.Machine.execCtxUnpark x r s
  | .queueOpen x r => Sys2Proof.Machine.execQueueOpen x r s
  | .queueClose x => Sys2Proof.Machine.execQueueClose x s
  | .memOpen x r => Sys2Proof.Machine.execMemOpen x r s
  | .memClose x => Sys2Proof.Machine.execMemClose x s
  | .hostAttach x => Sys2Proof.Machine.execHostAttach x s
  | .hiuDbWrite page v => Sys2Proof.Machine.execHiuDbWrite page v s
  | .hiuDbCplRead page v => Sys2Proof.Machine.execHiuDbCplRead page v s
  | .hiuDbFlush page v => Sys2Proof.Machine.execHiuDbFlush page v s
  | .slotFetch ctx qid r => Sys2Proof.Machine.execSlotFetch ctx qid r s
  | .itemStart ctx qid => Sys2Proof.Machine.execItemStart ctx qid s
  | .contextLoad ctx => Sys2Proof.Machine.execContextLoad ctx s
  | .teardownGraceExpire idx => Sys2Proof.Machine.execTeardownGraceExpire idx s
  | .teardownIdle idx => Sys2Proof.Machine.execTeardownIdle idx s
  | .teardownRequestTimeout idx => Sys2Proof.Machine.execTeardownRequestTimeout idx s
  | .memZeroDone obj => Sys2Proof.Machine.execMemZeroDone obj s
  | .hostLinkDownTimeout => Sys2Proof.Machine.execHostLinkDownTimeout s
  | .hotResetReceived => Sys2Proof.Machine.execHotResetReceived s
  | .perstAssert => Sys2Proof.Machine.execPerstAssert s
  | .perstRelease => Sys2Proof.Machine.execPerstRelease s
  | .contextPark ctx => Sys2Proof.Machine.execContextPark ctx s
  | .hiuRaDataHiRead v whole => Sys2Proof.Machine.execHiuRaDataHiRead v whole s
  | .hiuReattachHi v d => Sys2Proof.Machine.execHiuReattachHi v d s
  | .reattachHoldExpire => Sys2Proof.Machine.execReattachHoldExpire s
  | .segSet x r => Sys2Proof.Machine.execSegSet x r s
  | .walkSet x r => Sys2Proof.Machine.execWalkSet x r s
  | .walkGuard x r => Sys2Proof.Machine.execWalkGuard x r s
  | .atcInval x => Sys2Proof.Machine.execAtcInval x s
  | .migrate x => Sys2Proof.Machine.execMigrate x s
  | .faultRespond x => Sys2Proof.Machine.execFaultRespond x s
  | .windowOpen x r => Sys2Proof.Machine.execWindowOpen x r s
  | .windowClose x => Sys2Proof.Machine.execWindowClose x s
  | .peerSet x r => Sys2Proof.Machine.execPeerSet x r s
  | .apertureSet x => Sys2Proof.Machine.execApertureSet x s
  | .hdmSet x => Sys2Proof.Machine.execHdmSet x s
  | .atsCompletion tag a => Sys2Proof.Machine.execAtsCompletion tag a s
  | .atsInvalidateRequest pasid base size itag => Sys2Proof.Machine.execAtsInvalidateRequest pasid base size itag s
  | .invalidateCompletion itag => Sys2Proof.Machine.execInvalidateCompletion itag s
  | .walkFetchComplete tag h => Sys2Proof.Machine.execWalkFetchComplete tag h s
  | .pageRequestResponse req success => Sys2Proof.Machine.execPageRequestResponse req success s
  | .pageRequestTimeout req => Sys2Proof.Machine.execPageRequestTimeout req s
  | .windowTimeout tag => Sys2Proof.Machine.execWindowTimeout tag s
  | .bar4Access off op => Sys2Proof.Machine.execBar4Access off op s
  | .bar4Resize log2 => Sys2Proof.Machine.execBar4Resize log2 s
  | .linkSignalDetected l => Sys2Proof.Machine.execLinkSignalDetected l s
  | .noSignal l => Sys2Proof.Machine.execNoSignal l s
  | .lanesTrained l => Sys2Proof.Machine.execLanesTrained l s
  | .trainTimeout l => Sys2Proof.Machine.execTrainTimeout l s
  | .lanesLocked l k => Sys2Proof.Machine.execLanesLocked l k s
  | .identityBlock l b => Sys2Proof.Machine.execIdentityBlock l b s
  | .qualifyWindowEnd l w => Sys2Proof.Machine.execQualifyWindowEnd l w s
  | .failedRetryTimer l => Sys2Proof.Machine.execFailedRetryTimer l s
  | .dataFlit l f => Sys2Proof.Machine.execDataFlit l f s
  | .ctrlFlit l f => Sys2Proof.Machine.execCtrlFlit l f s
  | .nak l f => Sys2Proof.Machine.execNak l f s
  | .replayTimeout l => Sys2Proof.Machine.execReplayTimeout l s
  | .laneDrop l f => Sys2Proof.Machine.execLaneDrop l f s
  | .laneSpareIn l f => Sys2Proof.Machine.execLaneSpareIn l f s
  | .laneSpareAck l f => Sys2Proof.Machine.execLaneSpareAck l f s
  | .spareAckTimeout l => Sys2Proof.Machine.execSpareAckTimeout l s
  | .laneRetrainReq l f => Sys2Proof.Machine.execLaneRetrainReq l f s
  | .laneHold l f => Sys2Proof.Machine.execLaneHold l f s
  | .holdRestartTimeout l => Sys2Proof.Machine.execHoldRestartTimeout l s
  | .laneLockLoss l lane => Sys2Proof.Machine.execLaneLockLoss l lane s
  | .uncorrectableCodeword l lane => Sys2Proof.Machine.execUncorrectableCodeword l lane s
  | .laneBerWindowEnd l lane bits codewords ppb => Sys2Proof.Machine.execLaneBerWindowEnd l lane bits codewords ppb s
  | .spareNotWarmTimeout g => Sys2Proof.Machine.execSpareNotWarmTimeout g s
  | .retrainDone l b short => Sys2Proof.Machine.execRetrainDone l b short s
  | .retrainTimeout l => Sys2Proof.Machine.execRetrainTimeout l s
  | .fabLinkEnable v l on => Sys2Proof.Machine.execFabLinkEnable v l on s
  | .fabLinkRetrain v l => Sys2Proof.Machine.execFabLinkRetrain v l s
  | .transitPacket p => Sys2Proof.Machine.execTransitPacket p s
  | .packetExpire p => Sys2Proof.Machine.execPacketExpire p s
  | .drainEnd node => Sys2Proof.Machine.execDrainEnd node s
  | .fabricReadReq p => Sys2Proof.Machine.execFabricReadReq p s
  | .fabricReadResp p => Sys2Proof.Machine.execFabricReadResp p s
  | .fabricWrite p => Sys2Proof.Machine.execFabricWrite p s
  | .fabricWriteAck p => Sys2Proof.Machine.execFabricWriteAck p s
  | .fabricAtomic p => Sys2Proof.Machine.execFabricAtomic p s
  | .atomicResp p => Sys2Proof.Machine.execAtomicResp p s
  | .gather p => Sys2Proof.Machine.execGather p s
  | .reduceWin p => Sys2Proof.Machine.execReduceWin p s
  | .fabricReduceTile p => Sys2Proof.Machine.execFabricReduceTile p s
  | .reduceAck p => Sys2Proof.Machine.execReduceAck p s
  | .treeHoldExpire idx => Sys2Proof.Machine.execTreeHoldExpire idx s
  | .reduceAckTimeout tag => Sys2Proof.Machine.execReduceAckTimeout tag s
  | .fence p => Sys2Proof.Machine.execFence p s
  | .fenceResp p => Sys2Proof.Machine.execFenceResp p s
  | .probe p => Sys2Proof.Machine.execProbe p s
  | .probeResp p => Sys2Proof.Machine.execProbeResp p s
  | .wgenQuery p => Sys2Proof.Machine.execWgenQuery p s
  | .wgenReply p => Sys2Proof.Machine.execWgenReply p s
  | .timeSync p => Sys2Proof.Machine.execTimeSync p s
  | .timeSyncSendTick probe => Sys2Proof.Machine.execTimeSyncSendTick probe s
  | .timeParentSilent => Sys2Proof.Machine.execTimeParentSilent s
  | .nodeSet x => Sys2Proof.Machine.execNodeSet x s
  | .routeSet x r => Sys2Proof.Machine.execRouteSet x r s
  | .treeSet x => Sys2Proof.Machine.execTreeSet x s
  | .treeClear x => Sys2Proof.Machine.execTreeClear x s
  | .jobkeySet x r => Sys2Proof.Machine.execJobkeySet x r s
  | .jobkeyClear x => Sys2Proof.Machine.execJobkeyClear x s
  | .wgather x r => Sys2Proof.Machine.execWgather x r s
  | .timeSet x => Sys2Proof.Machine.execTimeSet x s
  | .mixedStep x r => Sys2Proof.Machine.execMixedStep x r s
  | .dispatchDl x => Sys2Proof.Machine.execDispatchDl x s
  | .fallbackSet x => Sys2Proof.Machine.execFallbackSet x s
  | .partSet x r => Sys2Proof.Machine.execPartSet x r s
  | .regSet x => Sys2Proof.Machine.execRegSet x s
  | .schedRead x => Sys2Proof.Machine.execSchedRead x s
  | .vcoreKernelStart c => Sys2Proof.Machine.execVcoreKernelStart c s
  | .preemptReadoutDone c => Sys2Proof.Machine.execPreemptReadoutDone c s
  | .beResume c => Sys2Proof.Machine.execBeResume c s
  | .deadlineMonitorTick => Sys2Proof.Machine.execDeadlineMonitorTick s
  | .guaranteeWindowEnd p target => Sys2Proof.Machine.execGuaranteeWindowEnd p target s
  | .governorSample m => Sys2Proof.Machine.execGovernorSample m s
  | .slowLoopTick => Sys2Proof.Machine.execSlowLoopTick s
  | .thermalShutdown sensor => Sys2Proof.Machine.execThermalShutdown sensor s
  | .throttleRecordTimer idx => Sys2Proof.Machine.execThrottleRecordTimer idx s
  | .droopBegin cl => Sys2Proof.Machine.execDroopBegin cl s
  | .droopEnd die => Sys2Proof.Machine.execDroopEnd die s
  | .droopSettleEnd die => Sys2Proof.Machine.execDroopSettleEnd die s
  | .pace p => Sys2Proof.Machine.execPace p s
  | .paceReportTick gid => Sys2Proof.Machine.execPaceReportTick gid s
  | .paceSet x => Sys2Proof.Machine.execPaceSet x s
  | .capSet x => Sys2Proof.Machine.execCapSet x s
  | .domainSet x => Sys2Proof.Machine.execDomainSet x s
  | .fillerSet x => Sys2Proof.Machine.execFillerSet x s
  | .throttleRead x => Sys2Proof.Machine.execThrottleRead x s
  | .govRead x => Sys2Proof.Machine.execGovRead x s
  | .domainEntryCommit d => Sys2Proof.Machine.execDomainEntryCommit d s
  | .wakeSource d source => Sys2Proof.Machine.execWakeSource d source s
  | .domainWakeTimer d => Sys2Proof.Machine.execDomainWakeTimer d s
  | .domainExitDone d => Sys2Proof.Machine.execDomainExitDone d s
  | .powerWaveStart => Sys2Proof.Machine.execPowerWaveStart s
  | .errorDetected source e detail => Sys2Proof.Machine.execErrorDetected source e detail s
  | .selftestVerdict e pass => Sys2Proof.Machine.execSelftestVerdict e pass s
  | .lockstepMismatch cp y count => Sys2Proof.Machine.execLockstepMismatch cp y count s
  | .latentScan cp rails => Sys2Proof.Machine.execLatentScan cp rails s
  | .cpStall cp count => Sys2Proof.Machine.execCpStall cp count s
  | .coreStall c => Sys2Proof.Machine.execCoreStall c s
  | .waitTimeout c => Sys2Proof.Machine.execWaitTimeout c s
  | .itemTimeout x => Sys2Proof.Machine.execItemTimeout x s
  | .resetTimeout idx => Sys2Proof.Machine.execResetTimeout idx s
  | .resetComplete idx => Sys2Proof.Machine.execResetComplete idx s
  | .glovePeerSilence gid rank => Sys2Proof.Machine.execGlovePeerSilence gid rank s
  | .gloveFault p => Sys2Proof.Machine.execGloveFault p s
  | .selftest x => Sys2Proof.Machine.execSelftest x s
  | .errInject x => Sys2Proof.Machine.execErrInject x s
  | .watchdogSet x => Sys2Proof.Machine.execWatchdogSet x s
  | .resetReq x => Sys2Proof.Machine.execResetReq x s
  | .edgeSet x => Sys2Proof.Machine.execEdgeSet x s
  | .errRead x => Sys2Proof.Machine.execErrRead x s
  | .wkeySet x r => Sys2Proof.Machine.execWkeySet x r s
  | .wkeyClear x => Sys2Proof.Machine.execWkeyClear x s
  | .wkeySlotEmptied slot => Sys2Proof.Machine.execWkeySlotEmptied slot s
  | .measRead x => Sys2Proof.Machine.execMeasRead x s
  | .imageStage x r => Sys2Proof.Machine.execImageStage x r s
  | .getVersion tr msg => Sys2Proof.Machine.execGetVersion tr msg s
  | .getCapabilities tr msg => Sys2Proof.Machine.execGetCapabilities tr msg s
  | .negotiateAlgorithms tr msg => Sys2Proof.Machine.execNegotiateAlgorithms tr msg s
  | .getDigests tr msg => Sys2Proof.Machine.execGetDigests tr msg s
  | .getCertificate tr msg => Sys2Proof.Machine.execGetCertificate tr msg s
  | .challenge tr msg => Sys2Proof.Machine.execChallenge tr msg s
  | .getMeasurements tr msg => Sys2Proof.Machine.execGetMeasurements tr msg s
  | .keyExchange tr msg => Sys2Proof.Machine.execKeyExchange tr msg s
  | .finish tr msg => Sys2Proof.Machine.execFinish tr msg s
  | .heartbeat tr msg => Sys2Proof.Machine.execHeartbeat tr msg s
  | .keyUpdate tr msg => Sys2Proof.Machine.execKeyUpdate tr msg s
  | .endSession tr msg => Sys2Proof.Machine.execEndSession tr msg s
  | .mctpControl msg => Sys2Proof.Machine.execMctpControl msg s
  | .powerOn e => Sys2Proof.Machine.execPowerOn e s
  | .pwrEnFall => Sys2Proof.Machine.execPwrEnFall s
  | .hiuMgrGo v d => Sys2Proof.Machine.execHiuMgrGo v d s
  | .rmReq => Sys2Proof.Machine.execRmReq s
  | .rtpRemovePrepare v => Sys2Proof.Machine.execRtpRemovePrepare v s
  | .rtpRemoveCancel v => Sys2Proof.Machine.execRtpRemoveCancel v s
  | .surpriseRemoval => Sys2Proof.Machine.execSurpriseRemoval s
  | .rtpRestart k => Sys2Proof.Machine.execRtpRestart k s
  | .rtpWatchdog => Sys2Proof.Machine.execRtpWatchdog s
  | .rtpRestartReturn bist imageOk => Sys2Proof.Machine.execRtpRestartReturn bist imageOk s
  | .rtpRestartTimeout => Sys2Proof.Machine.execRtpRestartTimeout s
  | .interruptCommit q => Sys2Proof.Machine.execInterruptCommit q s
  | .eicClaim q => Sys2Proof.Machine.execEicClaim q s
  | .eicComplete q source => Sys2Proof.Machine.execEicComplete q source s
  | .eicSoft v d => Sys2Proof.Machine.execEicSoft v d s
  | .msixVectorUnmask vec => Sys2Proof.Machine.execMsixVectorUnmask vec s
  | .snapTake x => Sys2Proof.Machine.execSnapTake x s
  | .snapshotMarker unit epoch => Sys2Proof.Machine.execSnapshotMarker unit epoch s
  | .snapshot p => Sys2Proof.Machine.execSnapshot p s
  | .snapRead x r => Sys2Proof.Machine.execSnapRead x r s
  | .counterRead x r => Sys2Proof.Machine.execCounterRead x r s
  | .logCfg x => Sys2Proof.Machine.execLogCfg x s
  | .intrCfg x => Sys2Proof.Machine.execIntrCfg x s
  | .logRecordStore => Sys2Proof.Machine.execLogRecordStore s
  | .logRecordDeliver => Sys2Proof.Machine.execLogRecordDeliver s
  | .hiuIndData v d => Sys2Proof.Machine.execHiuIndData v d s
  | .hiuIndDataNoinc v d => Sys2Proof.Machine.execHiuIndDataNoinc v d s
  | .indAccessTimeout v => Sys2Proof.Machine.execIndAccessTimeout v s
  | .hiuIndStatusRead v whole => Sys2Proof.Machine.execHiuIndStatusRead v whole s
  | .unfreeze v d => Sys2Proof.Machine.execUnfreeze v d s
  | .parityCheck block off => Sys2Proof.Machine.execParityCheck block off s
  | .registerWrite a d full => Sys2Proof.Machine.execRegisterWrite a d full s
  | .govTrayCap d => Sys2Proof.Machine.execGovTrayCap d s
  | .govTrayWake d => Sys2Proof.Machine.execGovTrayWake d s
  | .govTrayHostReset d => Sys2Proof.Machine.execGovTrayHostReset d s
  | .govTrayAlertRead whole => Sys2Proof.Machine.execGovTrayAlertRead whole s
  | .powerLoss => Sys2Proof.Machine.execPowerLoss s
  | .inputOvervoltage => Sys2Proof.Machine.execInputOvervoltage s
  | .inputOvercurrent => Sys2Proof.Machine.execInputOvercurrent s
  | .cblPrsnt q => Sys2Proof.Machine.execCblPrsnt q s
  | .referenceEdge => Sys2Proof.Machine.execReferenceEdge s
  | .hostLinkStateChange k => Sys2Proof.Machine.execHostLinkStateChange k s
  | .hostReadCompletion tag h => Sys2Proof.Machine.execHostReadCompletion tag h s
  | .completionTimeout tag => Sys2Proof.Machine.execCompletionTimeout tag s
  | .transferEngineComplete x => Sys2Proof.Machine.execTransferEngineComplete x s
  | .resultInRegister c idx => Sys2Proof.Machine.execResultInRegister c idx s
  | .fillerTargetUpdate amps => Sys2Proof.Machine.execFillerTargetUpdate amps s
  | .configurationRequest write reg => Sys2Proof.Machine.execConfigurationRequest write reg s
  | .coherentWindowAccess dec off op => Sys2Proof.Machine.execCoherentWindowAccess dec off op s
  | .illegalOpcode c w => Sys2Proof.Machine.execIllegalOpcode c w s
  | .unknownOpcode ctx qid => Sys2Proof.Machine.execUnknownOpcode ctx qid s
  | .idleFlit l f => Sys2Proof.Machine.execIdleFlit l f s
  | .malformedPacket p => Sys2Proof.Machine.execMalformedPacket p s

end Sys2Proof.Machine
end

