-- ==== Sys2Proof/Safety.lean ====
section
/-!
DEFINITION. The terms in which statements are made: a module at rest, memory in its canonical form, and what holds after every command.
-/
namespace Sys2Proof.Machine

/-- Nothing waits for the end of a command: `settle` has nothing to do, whatever a command then does to registers, memory, counters or
pins. -/
def Rest (s : State) : Bool :=
  s.kick.isEmpty && s.meshWait.isEmpty && s.posts.isEmpty && s.faults.isEmpty && (s.pageReqs.all fun r => !r.native || r.told || r.withdrawn) &&
  s.fenceWaits.isEmpty && s.teardowns.isEmpty && s.drops.isEmpty && s.fp.designated.isEmpty && s.fp.bare.isEmpty && s.err.leaving == 0 &&
  s.hostReads.all (·.sent) &&
  s.sched.monitors.isEmpty && s.sched.waiting.isEmpty && s.sched.parts.isEmpty &&
  (!s.life.powered || s.life.settled) && !s.life.preparing && raBody s == s.host.raLast

/-- Cluster SRAM and HBM, their poison, protection, bank and frame tables are in canonical form. -/
def Memory.wf (m : Memory) : Bool :=
  Tbl.wf 0 m.sram && Tbl.wf false m.sramPoison && Tbl.wf false m.sramProt && Tbl.wf 0 m.bankMap && Tbl.wf 0 m.bankCopy &&
  Tbl.wf false m.bankBad && Tbl.wf false m.bankLost && Tbl.wf false m.bankZero && Tbl.wf 0 m.hbm && Tbl.wf false m.hbmPoison &&
  Tbl.wf 0 m.frameMap && Tbl.wf 0 m.frameCopy && Tbl.wf false m.frameDead

/-- What the end of every command leaves: every cause taken (R188), the reattach record that of the contexts and objects as they stand (R206),
FABRIC_SETTLED set where every enabled link is in service or failed (R373), and RM_OK raised where an accepted PREPARE has nothing left
outstanding and FAULT_REQ# is not low (R377, R427). -/
def Followed (s : State) : Bool :=
  s.faults.isEmpty && raBody s == s.host.raLast &&
  !(s.life.powered && !s.life.settled && (List.range 64).all fun n => !(getLink s n).enable || (getLink s n).up || (getLink s n).st == 9) &&
  !(s.life.preparing && !s.life.removeReady && !s.life.faultReq && s.hostReads.isEmpty && s.posts.isEmpty)

/-! ### When a core issues an instruction (R75, R84, R101, R117): the word is of the row's opcode and leaves its unused bits 0, the core
runs, its issue stage is free, and the fetch is good. -/

def mIssue (s : State) (c : Fin 160) (w : Dword) (opc : Nat) (mask : Dword) : Bool :=
  fld w 63 56 == opc && onlyBits w (mask ||| 0xFF00000000000000) && canIssue s (mPid c) && (getM s (mPid c)).job == .none &&
  fetch8 s (mPid c) == none

def vIssue (s : State) (c : Fin 96) (w : Dword) (opc : Nat) (mask : Dword) (regs : List Nat) : Bool :=
  fld w 63 56 == opc && onlyBits w (mask ||| 0xFF00000000000000) && canIssue s (vPid c) && (getV s (vPid c)).beat == none &&
  fetch8 s (vPid c) == none && !vBusy s (vPid c) regs

def sIssue (s : State) (c : Fin 64) (w : Word) (opc : Nat) (mask : Word) (regs : List Nat) : Bool :=
  fld w 31 26 == opc && onlyBits w (mask ||| 0xFC000000) && canIssueS s (sPid c) && sFetch s (sPid c) == none &&
  !sBusy s (sPid c) regs

/-- A core after an instruction that only moves its PC to the next one. -/
def mStep (s : State) (c : Fin 160) : State := retire s (mPid c) ((getCore s (mPid c)).pc + 8)
def vStep (s : State) (c : Fin 96) : State := retire s (vPid c) ((getCore s (vPid c)).pc + 8)
def sStep (s : State) (c : Fin 64) : State := retire s (sPid c) ((getCore s (sPid c)).pc + 4)

/-- A core after an instruction that also leaves it the private part given. -/
def mPut (s : State) (c : Fin 160) (m : MCore) : State := retire (setM s (mPid c) m) (mPid c) ((getCore s (mPid c)).pc + 8)
def vPut (s : State) (c : Fin 96) (v : VCore) : State := retire (setV s (vPid c) v) (vPid c) ((getCore s (vPid c)).pc + 8)
def sPut (s : State) (c : Fin 64) (x : SCore) : State := retire (setS s (sPid c) x) (sPid c) ((getCore s (sPid c)).pc + 4)

/-- A core after a taken or untaken branch. -/
def jump (s : State) (p : Nat) (taken : Bool) (target other : Dword) : State := retire s p (if taken then target else other)

/-- The instruction of the core waits for its beats. -/
def beats (s : State) (c : Fin 96) (w : Dword) : State :=
  setV s (vPid c) { getV s (vPid c) with beat := some { w := w, left := laneBeats w } }

/-- The address of a load or store: RA + IMM16 (R117). -/
def sAddr (s : State) (c : Fin 64) (w : Word) : Dword := rdX (getS s (sPid c)) (sRA w) + sImm w

/-- What a load of `n` bytes leaves: at local memory the register at once, at slice SRAM an outstanding transfer. -/
def loaded (s : State) (c : Fin 64) (w : Word) (n : Nat) (signed : Bool) : SPlace → State
  | .lm o => sPut s c (wrX (getS s (sPid c)) (sRD w) (extendLoad n (leNat (memRead (getS s (sPid c)).lm o n)) signed))
  | .slice a => sNext (addXfer s (sPid c) n [] (.sload (BitVec.ofNat 5 (sRD w)) a n signed)) (sPid c)
  | .denied => s

/-- What a store of the low `n` bytes of RD leaves. -/
def stored (s : State) (c : Fin 64) (w : Word) (n : Nat) : SPlace → State
  | .lm o => sPut s c { getS s (sPid c) with
      lm := memWrite (getS s (sPid c)).lm o (leBytes n (rdX (getS s (sPid c)) (sRD w)).toNat)
      lmPoison := poisonWrite (getS s (sPid c)).lmPoison 8 o (flagsOf (leBytes n (rdX (getS s (sPid c)) (sRD w)).toNat) false) }
  | .slice a => sNext (addXfer s (sPid c) n [] (.store a (leBytes n (rdX (getS s (sPid c)) (sRD w)).toNat))) (sPid c)
  | .denied => s

/-- An access is aligned, its place allowed, in the quota and free of poison; nothing is outstanding. -/
def sAccess (s : State) (c : Fin 64) (w : Word) (n : Nat) (u : Use) (k : SPlace) : Bool :=
  (sAddr s c w).toNat % n == 0 && sPlace (getS s (sPid c)).pl u (sAddr s c w).toNat n == k && (getCore s (sPid c)).xfers == [] &&
  match k with
  | .lm o => u == .write || !poisoned (getS s (sPid c)).lmPoison 8 o n
  | .slice a => sliceRange (coreMap s (sPid c)) a n && (u == .write || !(sliceRead s (coreMap s (sPid c)) a n).2)
  | .denied => false

/-- The instruction that keeps an M-core's issue stage moves nothing but outstanding transfers when it goes on: no MCONV to another tile, and no
MSTREAM whose next blocks might wake a domain. -/
def quietJob (s : State) (p : Nat) : Bool :=
  match (getM s p).job with
  | .conv w _ => fld w 28 27 != 3
  | .stream .. => s.gov.domains == []
  | _ => true

/-- Transfers that only move bytes, elements or partials between a core's buffer and slice SRAM. -/
def plainXfer : XferKind → Bool
  | .load .. | .obStore .. | .store .. | .scatterBytes _ | .scatter .. | .reduce .. => true
  | _ => false

/-! ### What an instruction that only changes registers leaves alone -/

/-- Only core `p` and the counter of its retired instructions have changed, and of the core only its PC, its wait and the order of its
instruction lines. -/
def OnlyCore (s t : State) (p : Nat) : Prop :=
  t = { s with cores := t.cores, mcores := t.mcores, vcores := t.vcores, scores := t.scores, cnt := t.cnt } ∧
  (∀ q, q ≠ p → getCore t q = getCore s q ∧ getM t q = getM s q ∧ getV t q = getV s q ∧ getS t q = getS s q) ∧
  (∀ k, k ≠ counterId 1 p 0 → counterValue t k = counterValue s k) ∧ counterValue t (counterId 1 p 0) = counterValue s (counterId 1 p 0) + 1 ∧
  getCore t p = { getCore s p with pc := (getCore t p).pc, wait := .none, icache := (getCore t p).icache }

/-- Of an M-core's private state only register `r` may have changed. -/
def MKeeps (s t : State) (c : Fin 160) (r : Nat) : Prop :=
  OnlyCore s t (mPid c) ∧ getM t (mPid c) = { getM s (mPid c) with g := (getM t (mPid c)).g } ∧
  ∀ k, k ≠ r → rdG (getM t (mPid c)) k = rdG (getM s (mPid c)) k

/-- Of a V-core's private state only scalar register `r` may have changed. -/
def VKeeps (s t : State) (c : Fin 96) (r : Nat) : Prop :=
  OnlyCore s t (vPid c) ∧ getV t (vPid c) = { getV s (vPid c) with a := (getV t (vPid c)).a } ∧
  ∀ k, k ≠ r → rdA (getV t (vPid c)) k = rdA (getV s (vPid c)) k

/-- Of an S-core's private state only register `r` may have changed. -/
def SKeeps (s t : State) (c : Fin 64) (r : Nat) : Prop :=
  OnlyCore s t (sPid c) ∧ getS t (sPid c) = { getS s (sPid c) with x := (getS t (sPid c)).x } ∧
  ∀ k, k ≠ r → rdX (getS t (sPid c)) k = rdX (getS s (sPid c)) k

/-- The cores that run kernels of a context. -/
def ctxCores (s : State) (id : BitVec 16) : List Nat :=
  s.cores.filterMap fun e => match e.2.kernel with | some k => if k.x.ctx = id then some e.1 else none | none => none

/-! ### When an item's own step takes effect (R196): the item has started with the row's opcode, its effect has not begun, and its context
neither faulted nor is parked, nor has its items suspended for a load (R295) or torn down (R204); while the RTP restarts, the items it serves
wait. -/

def itemReady (s : State) (x : ItemRef) (opc : Nat) (i : Item) (c : Context) : Bool :=
  getItem s x == some i && getCtx s x.ctx == some c && i.started && itemOpc i == opc && !i.run.active && !c.faulted &&
  c.state != .parked && !heldBack s c && !tornDown s x.ctx x.qid && !(s.rtpDown && itemSerial opc)

/-! ### When a packet reaches its destination (R270, R272, R279): of the row's type, addressed to this node, and taken by the checks of the
receive side, which leave the state and the packet as it may be used. -/

def received (s : State) (p : Packet) (t : BitVec 5) : Option (State × Packet) :=
  if p.ttype = t ∧ arrives s p = true then
    match receive s p with
    | (u, some q) => some (u, q)
    | _ => none
  else none

/-! ### When a flit is taken (R246, R248): the link carries flits and the flit is good and of the row's type. -/

def goodFlit (s : State) (n : Nat) (f : Flit) (t : BitVec 4) : Bool := (getLink s n).up && !badFlit f && f.ftype == t

/-- A LANE flit with an operation, for one of the link's own pairs where it names one. -/
def goodLane (s : State) (n : Nat) (f : Flit) (op : Nat) : Bool :=
  goodFlit s n f 4 && f.op.toNat == op && (op == 4 || op == 5 || f.pair.toNat / 4 == n % 4)

/-! ### Terms of the whole-machine statements -/

/-- Ledger codes added pairwise, in some order and grouping: along a tile's waves, in routers, in packages (R53). -/
inductive Adds where
  | one (x : Ledger)
  | two (a b : Adds)
  deriving DecidableEq, Repr

def Adds.codes : Adds → List Ledger
  | .one x => [x]
  | .two a b => a.codes ++ b.codes

def Adds.sum : Adds → Ledger
  | .one x => x
  | .two a b => ledgerAdd a.sum b.sum

/-- DATA flits arrive at a link one after another. -/
def arriveAll (l : Fin 64) : List Flit → State → Outcome
  | [], s => .next s
  | f :: fs, s => match execDataFlit l f s with
    | .next t => arriveAll l fs t
    | o => o

/-- The module after `k` edges of the reference and nothing else. -/
def edges : Nat → State → State
  | 0, s => s
  | k + 1, s => metersEdge { edges k s with refNs := (edges k s).refNs + 10, time := (edges k s).time + 10 }

end Sys2Proof.Machine
end

