-- ==== Sys2Proof/Certificates/Slice0/Obligations.lean ====
section
/-!
DEFINITION. The statements for the provers. A statement about a command says what `exec` answers wherever its hypotheses on the state and the
operands hold; `settle` is the end of every command, which at a module at rest changes nothing.
-/
open Sys2Proof Sys2Proof.Machine

/-! ### M-cores (R72 to R91) -/

/-- R77, R83: register results and flags. Register 0 discards writes and reads as 0 (`wrG`, `rdG`); the PC moves 8 bytes on. R76, R77:
branches and loops. MLOOP compares the decremented value. R83, R85, R90: fences, signals, waits, the end of a kernel and declared points.
A fence waits for every earlier transfer; a refused row is reported there (cause 9). -/
def Obligations.MRegistersBranchesAndFences : Prop :=
  (∀ (c : Fin 160) (w : Dword) (s : State),
      (mIssue s c w 0x00 0 = true → exec (.mnop c w) s = .next (settle (mStep s c))) ∧
      (mIssue s c w 0x08 0x00F00000FFFFFFFF = true → exec (.mli c w) s =
        .next (settle (mPut s c (wrG (getM s (mPid c)) (fA w) (BitVec.ofInt 64 (sfld w 31 0)))))) ∧
      (mIssue s c w 0x09 0x00FF0000FFFFFFFF = true → exec (.maddi c w) s =
        .next (settle (mPut s c (wrG (getM s (mPid c)) (fA w) (rdG (getM s (mPid c)) (fB w) + BitVec.ofInt 64 (sfld w 31 0)))))) ∧
      (mIssue s c w 0x0A 0x00FFF00000000000 = true → exec (.madd c w) s =
        .next (settle (mPut s c (wrG (getM s (mPid c)) (fA w) (rdG (getM s (mPid c)) (fB w) + rdG (getM s (mPid c)) (fC w)))))) ∧
      (mIssue s c w 0x0B 0x00FFF00000000000 = true → exec (.msub c w) s =
        .next (settle (mPut s c (wrG (getM s (mPid c)) (fA w) (rdG (getM s (mPid c)) (fB w) - rdG (getM s (mPid c)) (fC w)))))) ∧
      (mIssue s c w 0x0C 0x00FF00000000003F = true → exec (.mshli c w) s =
        .next (settle (mPut s c (wrG (getM s (mPid c)) (fA w) (rdG (getM s (mPid c)) (fB w) <<< fld w 5 0))))) ∧
      (mIssue s c w 0x1A 0x00F0000000000307 = true → bit w 8 = false → exec (.mflags c w) s =
        .next (settle (mPut s c (wrG (if bit w 9 then { getM s (mPid c) with flags := 0 } else getM s (mPid c)) (fA w)
          ((getM s (mPid c)).flags.setWidth 64))))) ∧
      (mIssue s c w 0x1A 0x00F0000000000307 = true → bit w 8 = true → bit w 9 = false → waveOnTile (getM s (mPid c)) (fld w 2 0) = false → exec (.mflags c w) s =
        .next (settle (mPut s c (wrG (getM s (mPid c)) (fA w) ((getTile (getM s (mPid c)) (fld w 2 0)).flags.setWidth 64)))))) ∧
  (∀ (c : Fin 160) (w : Dword) (s : State),
      (∀ taken, mIssue s c w 0x10 0x00FF0E00000FFFFF = true →
        condHolds (fld w 43 41) (rdG (getM s (mPid c)) (fA w)) (rdG (getM s (mPid c)) (fB w)) = some taken →
        exec (.mbr c w) s = .next (settle (jump s (mPid c) taken
          ((getCore s (mPid c)).pc + BitVec.ofInt 64 (8 * sfld w 19 0)) ((getCore s (mPid c)).pc + 8)))) ∧
      (mIssue s c w 0x11 0x00F00000000FFFFF = true → exec (.mloop c w) s =
        .next (settle (jump (setM s (mPid c) (wrG (getM s (mPid c)) (fA w) (rdG (getM s (mPid c)) (fA w) - 1))) (mPid c)
          (decide (rdG (getM s (mPid c)) (fA w) - 1 ≠ 0))
          ((getCore s (mPid c)).pc + BitVec.ofInt 64 (8 * sfld w 19 0)) ((getCore s (mPid c)).pc + 8))))) ∧
  (∀ (c : Fin 160) (w : Dword) (s : State),
      (mIssue s c w 0x03 0 = true → fenced s (mPid c) = true → (getM s (mPid c)).refused = false →
        exec (.mfence c w) s = .next (settle (mStep s c))) ∧
      (mIssue s c w 0x03 0 = true → fenced s (mPid c) = false → exec (.mfence c w) s = .next (settle s)) ∧
      (mIssue s c w 0x03 0 = true → fenced s (mPid c) = true → (getM s (mPid c)).refused = true →
        exec (.mfence c w) s = .next (settle (coreException s (mPid c) 0x09))) ∧
      (mIssue s c w 0x18 0x1F = true → fenced s (mPid c) = true → (getM s (mPid c)).refused = false →
        exec (.msig c w) s = .next (settle { mStep s c with signals := (mStep s c).signals ++
          [(syncKey (getBinding (mStep s c) (mPid c)).sgCl (getBinding (mStep s c) (mPid c)).sgSlot, fld w 4 0)] })) ∧
      (mIssue s c w 0x19 0x00F000000000011F = true → bit w 8 = false →
        waitDone (coreCounter s (mPid c) (fld w 4 0)) ((rdG (getM s (mPid c)) (fA w)).setWidth 16) = true →
        exec (.mwait c w) s = .next (settle (mStep s c))) ∧
      (mIssue s c w 0x19 0x00F000000000011F = true → bit w 8 = false →
        waitDone (coreCounter s (mPid c) (fld w 4 0)) ((rdG (getM s (mPid c)) (fA w)).setWidth 16) = false →
        exec (.mwait c w) s = .next (settle (setCore s (mPid c) { getCore s (mPid c) with
          wait := .counter (BitVec.ofNat 5 (fld w 4 0)) ((rdG (getM s (mPid c)) (fA w)).setWidth 16) }))) ∧
      (mIssue s c w 0x19 0x00F000000000011F = true → bit w 8 = true → fld w 4 3 = 0 →
        exec (.mwait c w) s = .next (settle (
          if waitDone (tileCount (getM s (mPid c)) (fld w 2 0)) ((rdG (getM s (mPid c)) (fA w)).setWidth 16) then mStep s c
          else setCore s (mPid c) { getCore s (mPid c) with
            wait := .tile (BitVec.ofNat 3 (fld w 2 0)) ((rdG (getM s (mPid c)) (fA w)).setWidth 16) }))) ∧
      (mIssue s c w 0x01 1 = true → fenced s (mPid c) = true → (getM s (mPid c)).refused = false →
        (getM s (mPid c)).waves = [] → exec (.mhalt c w) s = .next (settle (kernelEnd (mStep s c) (mPid c) (bit w 0)))) ∧
      (mIssue s c w 0x02 0xFFF = true → (getCore s (mPid c)).point = .none → exec (.msafe c w) s = .next (settle (mStep s c))) ∧
      (mIssue s c w 0x02 0xFFF = true → (getCore s (mPid c)).point ≠ .none → fenced s (mPid c) = true →
        (getM s (mPid c)).waves = [] → exec (.msafe c w) s = .next (settle (takePoint
          (updCore (mStep s c) (mPid c) fun k => { k with live := BitVec.ofNat 12 (fld w 11 0) }) (mPid c) true))))

/-- R79: planes and tiles. R72, R78, R84: MLD and MST whose checks pass take the issue stage and issue their pieces as room allows. -/
def Obligations.MTilesAndCopies : Prop :=
  (∀ (c : Fin 160) (w : Dword) (s : State),
      (mIssue s c w 0x29 0x0000071000000000 = true → waveOnTile (getM s (mPid c)) (fld w 42 40) = false →
        exec (.mclr c w) s = .next (settle (mPut s c (setTile (getM s (mPid c)) (fld w 42 40)
          { fp32 := bit w 36, contribs := (getTile (getM s (mPid c)) (fld w 42 40)).contribs })))) ∧
      (mIssue s c w 0x2A 0x0000071000000000 = true → bit w 36 = true →
        exec (.mtrx c w) s = .next (settle (mPut s c (setTile (getM s (mPid c)) (fld w 42 40)
          { getTile (getM s (mPid c)) (fld w 42 40) with isOpen := true, contribs := 0 })))) ∧
      (mIssue s c w 0x2A 0x0000071000000000 = true → bit w 36 = false →
        exec (.mtrx c w) s = .next (settle (mPut s c (setTile (getM s (mPid c)) (fld w 42 40)
          { getTile (getM s (mPid c)) (fld w 42 40) with isOpen := false })))) ∧
      (∀ k n ns gp gps, mIssue s c w 0x28 0x00FF010FC0000000 = true →
        fmtForm (fld w 35 32) (bit w 31) = true → (bit w 30 = true → 4 ≤ fld w 35 32 ∧ fld w 35 32 ≤ 6) →
        k = (if bit w 30 then 256 else 128) → n = npOf (fld w 35 32) * k * fmtBits (fld w 35 32) / 8 →
        ns = (if bit w 31 then npOf (fld w 35 32) * (k / 32) else 0) →
        gp = (rdG (getM s (mPid c)) (fA w)).toNat → gps = (rdG (getM s (mPid c)) (fB w)).toNat →
        gp % 32 = 0 → (bit w 31 = true → gps % 4 = 0) → obOneBank gp n = true → (bit w 31 = true → obOneBank gps ns = true) →
        waveOnPlane (getM s (mPid c)) (bit w 40) = false →
        localHazard (getCore s (mPid c)) gp n = false → localHazard (getCore s (mPid c)) gps ns = false →
        obPoisoned (getM s (mPid c)) gp n = false → (bit w 31 = true → obPoisoned (getM s (mPid c)) gps ns = false) →
        exec (.mplane c w) s = .next (settle (mPut s c (setPlane (getM s (mPid c)) (bit w 40)
          { loaded := true, fmt := BitVec.ofNat 4 (fld w 35 32), sc := bit w 31, k256 := bit w 30,
            data := memOf (obRead (getM s (mPid c)) gp n), scales := memOf (obRead (getM s (mPid c)) gps ns) }))))) ∧
  (∀ (c : Fin 160) (w : Dword) (s : State), rowLen w ≠ 0 →
      (rdG (getM s (mPid c)) (fA w)).toNat % 32 = 0 → (rdG (getM s (mPid c)) (fB w)).toNat % 32 = 0 →
      (rdG (getM s (mPid c)) (fC w)).toNat % 32 = 0 →
      (rdG (getM s (mPid c)) (fB w)).toNat + rowsOf w * rowLen w ≤ 2 ^ 20 →
      (∀ i, i < rowsOf w → sliceRange (coreMap s (mPid c))
        (rowAddr (rdG (getM s (mPid c)) (fA w)) (rdG (getM s (mPid c)) (fC w)) i) (rowLen w) = true) →
      (getCore s (mPid c)).xfers = [] →
      (mIssue s c w 0x20 0x00FFF0FF00000FFF = true → exec (.mld c w) s =
        .next (settle (pumpM pumpFuel (setM s (mPid c) { getM s (mPid c) with job := .copy w 0 0, jobMap := coreMap s (mPid c) }) (mPid c)))) ∧
      (mIssue s c w 0x21 0x00FFF0FF00000FFF = true → exec (.mst c w) s =
        .next (settle (pumpM pumpFuel (setM s (mPid c) { getM s (mPid c) with job := .copy w 0 0, jobMap := coreMap s (mPid c) }) (mPid c)))))

/-- R72, R78, R138: an MLD whose rows fit in the 64 KiB of room issues one transfer a row, checked against the region map in force, and
retires. -/
def Obligations.MldIssuesEveryRow : Prop :=
  ∀ (c : Fin 160) (w : Dword) (s : State), Rest s = true →
    mIssue s c w 0x20 0x00FFF0FF00000FFF = true → rowLen w ≠ 0 → rowsOf w * rowLen w ≤ 65536 →
    (rdG (getM s (mPid c)) (fA w)).toNat % 32 = 0 → (rdG (getM s (mPid c)) (fB w)).toNat % 32 = 0 →
    (rdG (getM s (mPid c)) (fC w)).toNat % 32 = 0 →
    (rdG (getM s (mPid c)) (fB w)).toNat + rowsOf w * rowLen w ≤ 2 ^ 20 →
    (∀ i, i < rowsOf w → sliceRange (coreMap s (mPid c))
      (rowAddr (rdG (getM s (mPid c)) (fA w)) (rdG (getM s (mPid c)) (fC w)) i) (rowLen w) = true) →
    (getCore s (mPid c)).xfers = [] →
    ∃ t, exec (.mld c w) s = .next t ∧
      (getCore t (mPid c)).xfers = (List.range (rowsOf w)).map (fun i =>
        ⟨rowLen w, (getBinding s (mPid c)).part, coreMap s (mPid c), [],
          .load (rowAddr (rdG (getM s (mPid c)) (fA w)) (rdG (getM s (mPid c)) (fC w)) i)
            ((rdG (getM s (mPid c)) (fB w)).toNat + i * rowLen w)⟩) ∧
      (getCore t (mPid c)).pc = (getCore s (mPid c)).pc + 8 ∧ (getM t (mPid c)).job = .none ∧ t.mem = s.mem

/-- R80 to R82, R84: MWAVE, MSTREAM and MCONV that pass their checks keep the issue stage until the last wave or row. R35, R80, R86, R89,
R145: a credit admits a wave with its operands as they then stand; its sums reach the tile later; a partial row is added to an open ledger
tile and refused otherwise. -/
def Obligations.MWavesAndTheirEvents : Prop :=
  (∀ (c : Fin 160) (w : Dword) (s : State),
      (mIssue s c w 0x30 0x00FF078FFFFFFFFF = true → fmtForm (fld w 35 32) (bit w 31) = true →
        fld w 21 14 ≠ 0 → fld w 28 22 + fld w 21 14 ≤ 128 → (fld w 35 32 ≠ 7 → fld w 30 29 = 0) →
        (planeOf (getM s (mPid c)) (bit w 39)).loaded = true →
        (∃ k, pairing (fld w 35 32) (planeOf (getM s (mPid c)) (bit w 39)).fmt.toNat = some k ∧
          (planeOf (getM s (mPid c)) (bit w 39)).k256 = decide (k = 2)) →
        (getTile (getM s (mPid c)) (fld w 42 40)).fp32 = decide (fld w 35 32 = 7) →
        (rdG (getM s (mPid c)) (fA w)).toNat % 32 = 0 → (bit w 31 = true → (rdG (getM s (mPid c)) (fB w)).toNat % 4 = 0) →
        (∀ i, i < fld w 21 14 → ∀ r ∈ mwaveRanges (getM s (mPid c)) w i, obOneBank r.1 r.2 = true) →
        exec (.mwave c w) s = .next (settle (setM s (mPid c) { getM s (mPid c) with job := .wave w 0 }))) ∧
      (∀ a, mIssue s c w 0x31 0x00FFF7EFFC00FFFF = true → a = streamArgs (getM s (mPid c)) w →
        fmtForm a.fmtW a.scW = true → fmtForm a.fmtX a.scX = true → a.n ≠ 0 → a.ks ≠ 0 → a.cg0 + (a.n - 1) / a.ks ≤ 63 →
        fld (rdG (getM s (mPid c)) (fC w)) 31 22 = 0 → (∃ k, pairing a.fmtX a.fmtW = some k ∧ k ≠ 3) →
        (∀ i, i ≤ (a.n - 1) / a.ks → (getTile (getM s (mPid c)) ((a.t + (a.cg0 + i) / 8) % 8)).fp32 = false) →
        a.gw % 32 = 0 → a.gx % 32 = 0 →
        (∀ b, b < a.b → obOneBank (a.gx + b * a.xstr * 32) (min a.ks a.n * (a.k * fmtBits a.fmtX / 8)) = true ∧
          (a.scX = true → obOneBank (a.ascale * 16 + b * (a.ks * (a.k / 32))) (min a.ks a.n * (a.k / 32)) = true)) →
        sliceRange (coreMap s (mPid c)) a.gw (a.n * blockBytes a.k a.fmtW a.scW) = true →
        exec (.mstream c w) s = .next (settle (pumpM pumpFuel
          (setM s (mPid c) { getM s (mPid c) with job := .stream w 0, jobMap := coreMap s (mPid c), stream := [] }) (mPid c)))) ∧
      (mIssue s c w 0x38 0x00FF077FFFFFF800 = true → fld w 38 36 ≠ 7 → fld w 18 11 ≠ 0 → fld w 25 19 + fld w 18 11 ≤ 128 →
        (fld w 35 29 ≠ 0 → (getTile (getM s (mPid c)) (fld w 42 40)).fp32 = false ∧ fld w 38 36 ≠ 6) →
        ((getTile (getM s (mPid c)) (fld w 42 40)).fp32 = false → 2 ≤ fld w 28 27 → fld w 38 36 = 6) →
        ((getTile (getM s (mPid c)) (fld w 42 40)).fp32 = true → fld w 28 27 ≤ 1 ∧ fld w 38 36 ≤ 1) →
        (fld w 28 27 = 3 → fld (rdG (getM s (mPid c)) (fA w)) 25 19 + fld w 18 11 ≤ 128) →
        (fld w 28 27 ≠ 3 → (rdG (getM s (mPid c)) (fA w)).toNat % 32 = 0 ∧ (rdG (getM s (mPid c)) (fB w)).toNat % 32 = 0) →
        (fld w 28 27 = 0 → ∀ i, i < fld w 18 11 →
          rowAddr (rdG (getM s (mPid c)) (fA w)) (rdG (getM s (mPid c)) (fB w)) i + convRowBytes (fld w 38 36) ≤ 2 ^ 20) →
        (fld w 28 27 = 1 ∨ fld w 28 27 = 2 → ∀ i, i < fld w 18 11 →
          sliceRange (coreMap s (mPid c)) (rowAddr (rdG (getM s (mPid c)) (fA w)) (rdG (getM s (mPid c)) (fB w)) i) (convRowBytes (fld w 38 36)) = true) →
        (fld w 28 27 = 2 → ∀ i, i < fld w 18 11 →
          rowAddr (rdG (getM s (mPid c)) (fA w)) (rdG (getM s (mPid c)) (fB w)) i / 2 ^ 26 = (rdG (getM s (mPid c)) (fA w)).toNat / 2 ^ 26 ∧
          (rowAddr (rdG (getM s (mPid c)) (fA w)) (rdG (getM s (mPid c)) (fB w)) i + convRowBytes (fld w 38 36) - 1) / 2 ^ 26 =
            (rdG (getM s (mPid c)) (fA w)).toNat / 2 ^ 26) →
        waveOnTile (getM s (mPid c)) (fld w 42 40) = false → (getCore s (mPid c)).xfers = [] →
        exec (.mconv c w) s = .next (settle (pumpM pumpFuel (setM s (mPid c)
          { getM s (mPid c) with job := .conv w 0, jobMap := coreMap s (mPid c) }) (mPid c))))) ∧
  (∀ (c : Fin 160) (s : State),
      (∀ w i, mReady s (mPid c) = true → (getCore s (mPid c)).credits ≠ 0 → (getM s (mPid c)).job = .wave w i →
        (getM s (mPid c)).stream = [] → i + 1 ≠ fld w 21 14 → (∀ r ∈ mwaveRanges (getM s (mPid c)) w i, obPoisoned (getM s (mPid c)) r.1 r.2 = false) →
        exec (.waveAdmit c) s = .next (settle (count (updCore
          (setM s (mPid c) { getM s (mPid c) with job := .wave w (i + 1), waves := (getM s (mPid c)).waves ++ [mwaveWave (getM s (mPid c)) w i] })
          (mPid c) fun k => { k with credits := k.credits - 1 }) 1 (mPid c) 1))) ∧
      (∀ w i, (getM s (mPid c)).job = .wave w i → (getCore s (mPid c)).credits = 0 → exec (.waveAdmit c) s = .next (settle s)) ∧
      (∀ w l, (getM s (mPid c)).waves = w :: l →
        exec (.waveSumsReachTile c) s = .next (settle (pumpM pumpFuel
          (setM s (mPid c) { waveSums (getM s (mPid c)) w with waves := l }) (mPid c)))) ∧
      (∀ tile row seg contrib ps m, tileReceive (getM s (mPid c)) tile.val row.val seg.val contrib.toNat (ps.take 16) = some m →
        exec (.tileReceiveRow c tile row seg contrib ps false) s = .next (settle (wakeTile (setM s (mPid c) m) (mPid c)))) ∧
      (∀ tile row seg contrib ps, (getTile (getM s (mPid c)) tile.val).isOpen = false →
        exec (.tileReceiveRow c tile row seg contrib ps false) s = .next (settle s)))

/-! ### V-cores (R94 to R112) -/

/-- R102, R103: scalar and mask results. R76, R83, R102, R121: branches, loops, fences, signals, waits, the end of a kernel and declared
points. -/
def Obligations.VScalarsAndControl : Prop :=
  (∀ (c : Fin 96) (w : Dword) (s : State),
      (vIssue s c w 0x00 0 [] = true → exec (.vnop c w) s = .next (settle (vStep s c))) ∧
      (vIssue s c w 0x08 (mkDa ||| 0xFFFFFFFF) [128 + vD w] = true → exec (.vli c w) s =
        .next (settle (vPut s c (wrA (getV s (vPid c)) (vD w) (BitVec.ofInt 64 (sfld w 31 0)))))) ∧
      (vIssue s c w 0x09 (mkDa ||| mkAa ||| 0xFFFFFFFF) [128 + vD w, 128 + vA w] = true → exec (.vaddi c w) s =
        .next (settle (vPut s c (wrA (getV s (vPid c)) (vD w) (rdA (getV s (vPid c)) (vA w) + BitVec.ofInt 64 (sfld w 31 0)))))) ∧
      (vIssue s c w 0x0A (mkDa ||| mkAa ||| mkBa) [128 + vD w, 128 + vA w, 128 + vB w] = true → exec (.vadds c w) s =
        .next (settle (vPut s c (wrA (getV s (vPid c)) (vD w) (rdA (getV s (vPid c)) (vA w) + rdA (getV s (vPid c)) (vB w)))))) ∧
      (vIssue s c w 0x0B (mkDa ||| mkAa ||| mkBa) [128 + vD w, 128 + vA w, 128 + vB w] = true → exec (.vsubs c w) s =
        .next (settle (vPut s c (wrA (getV s (vPid c)) (vD w) (rdA (getV s (vPid c)) (vA w) - rdA (getV s (vPid c)) (vB w)))))) ∧
      (vIssue s c w 0x0C (mkDa ||| mkAa ||| mkBa) [128 + vD w, 128 + vA w, 128 + vB w] = true → exec (.vmuls c w) s =
        .next (settle (vPut s c (wrA (getV s (vPid c)) (vD w) (rdA (getV s (vPid c)) (vA w) * rdA (getV s (vPid c)) (vB w)))))) ∧
      (vIssue s c w 0x0D (mkDa ||| mkAa ||| 0x3F) [128 + vD w, 128 + vA w] = true → exec (.vshli c w) s =
        .next (settle (vPut s c (wrA (getV s (vPid c)) (vD w) (rdA (getV s (vPid c)) (vA w) <<< fld w 5 0))))) ∧
      (vIssue s c w 0x17 (mkDa ||| mkAk) [128 + vD w, 64 + vA w] = true → exec (.kcnt c w) s =
        .next (settle (vPut s c (wrA (getV s (vPid c)) (vD w) (BitVec.ofNat 64 (popcount (rdK (getV s (vPid c)) (vA w)))))))) ∧
      (vIssue s c w 0x1A (mkDa ||| 0x200) [128 + vD w] = true → exec (.vflags c w) s =
        .next (settle (vPut s c (wrA (if bit w 9 then { getV s (vPid c) with flags := 0 } else getV s (vPid c)) (vD w)
          ((getV s (vPid c)).flags.setWidth 64))))) ∧
      (vIssue s c w 0x1D (mkDa ||| mkAv ||| 0x1FF) [128 + vD w, vA w] = true → exec (.vext c w) s =
        .next (settle (vPut s c (wrA (getV s (vPid c)) (vD w) ((rdV (getV s (vPid c)) (vA w) (fld w 8 0)).setWidth 64))))) ∧
      (vIssue s c w 0x1E (mkDk ||| mkAk ||| mkBk ||| 7) [64 + vD w, 64 + vA w, 64 + vB w] = true → fld w 2 0 ≤ 4 →
        exec (.kop c w) s = .next (settle (vPut s c (wrK (getV s (vPid c)) (vD w) (
          if fld w 2 0 = 0 then rdK (getV s (vPid c)) (vA w) &&& rdK (getV s (vPid c)) (vB w)
          else if fld w 2 0 = 1 then rdK (getV s (vPid c)) (vA w) ||| rdK (getV s (vPid c)) (vB w)
          else if fld w 2 0 = 2 then rdK (getV s (vPid c)) (vA w) ^^^ rdK (getV s (vPid c)) (vB w)
          else if fld w 2 0 = 3 then rdK (getV s (vPid c)) (vA w) &&& ~~~rdK (getV s (vPid c)) (vB w)
          else ~~~rdK (getV s (vPid c)) (vA w)))))) ∧
      (vIssue s c w 0x1F (mkDk ||| mkAa) [64 + vD w, 128 + vA w] = true → exec (.kset c w) s =
        .next (settle (vPut s c (wrK (getV s (vPid c)) (vD w)
          (BitVec.ofNat 512 (2 ^ min (rdA (getV s (vPid c)) (vA w)).toNat 512 - 1))))))) ∧
  (∀ (c : Fin 96) (w : Dword) (s : State),
      (∀ taken, vIssue s c w 0x10 (mkAa ||| mkBa ||| 0xEFFFFF) [128 + vA w, 128 + vB w] = true →
        condHolds (fld w 23 21) (rdA (getV s (vPid c)) (vA w)) (rdA (getV s (vPid c)) (vB w)) = some taken →
        exec (.vbr c w) s = .next (settle (jump s (vPid c) taken
          ((getCore s (vPid c)).pc + BitVec.ofInt 64 (8 * sfld w 19 0)) ((getCore s (vPid c)).pc + 8)))) ∧
      (vIssue s c w 0x11 (mkDa ||| 0xFFFFF) [128 + vD w] = true → exec (.vloop c w) s =
        .next (settle (jump (setV s (vPid c) (wrA (getV s (vPid c)) (vD w) (rdA (getV s (vPid c)) (vD w) - 1))) (vPid c)
          (decide (rdA (getV s (vPid c)) (vD w) - 1 ≠ 0))
          ((getCore s (vPid c)).pc + BitVec.ofInt 64 (8 * sfld w 19 0)) ((getCore s (vPid c)).pc + 8)))) ∧
      (vIssue s c w 0x03 0 [] = true → exec (.vfence c w) s =
        .next (settle (if fenced s (vPid c) then vStep s c else s))) ∧
      (vIssue s c w 0x18 0x1F [] = true → fenced s (vPid c) = true →
        exec (.vsig c w) s = .next (settle { vStep s c with signals := (vStep s c).signals ++
          [(syncKey (getBinding (vStep s c) (vPid c)).sgCl (getBinding (vStep s c) (vPid c)).sgSlot, fld w 4 0)] })) ∧
      (vIssue s c w 0x19 (mkAa ||| 0x1F) [128 + vA w] = true → exec (.vwait c w) s = .next (settle (
        if waitDone (coreCounter s (vPid c) (fld w 4 0)) ((rdA (getV s (vPid c)) (vA w)).setWidth 16) then vStep s c
        else setCore s (vPid c) { getCore s (vPid c) with
          wait := .counter (BitVec.ofNat 5 (fld w 4 0)) ((rdA (getV s (vPid c)) (vA w)).setWidth 16) }))) ∧
      (vIssue s c w 0x01 1 [] = true → fenced s (vPid c) = true → (getV s (vPid c)).results = [] →
        exec (.vhalt c w) s = .next (settle (kernelEnd (vStep s c) (vPid c) (bit w 0)))) ∧
      (vIssue s c w 0x02 0xFFF [] = true → (getCore s (vPid c)).point = .none → exec (.vsafe c w) s = .next (settle (vStep s c))) ∧
      (vIssue s c w 0x02 0xFFF [] = true → (getCore s (vPid c)).point ≠ .none → fenced s (vPid c) = true →
        (getV s (vPid c)).results = [] → exec (.vsafe c w) s = .next (settle (takePoint
          (updCore (vStep s c) (vPid c) fun k => { k with live := BitVec.ofNat 12 (fld w 11 0) }) (vPid c) true))))

/-- R97, R99 to R101, R107 to R111, Table 5.7: a lane instruction that passes its form checks is handed to the beat admission with the
beats of its row. R97, R112: a credit admits a beat; the last one computes the result from the operands as they stand, and a result later
reaches its registers. -/
def Obligations.VLaneInstructionsRun : Prop :=
  (∀ (c : Fin 96) (w : Dword) (s : State),
      (vIssue s c w 0x1C (mkDv ||| mkAa ||| mkM) [] = true → exec (.vmovs c w) s = .next (settle (beats s c w))) ∧
      (vIssue s c w 0x30 (mkDv ||| mkAv ||| mkBs w ||| mkM ||| 0xF) [] = true → fld w 3 0 ≤ 7 →
        exec (.vfop c w) s = .next (settle (beats s c w))) ∧
      (vIssue s c w 0x31 (mkDv ||| mkAv ||| mkBs w ||| mkCv ||| mkM) [] = true → exec (.vfma c w) s = .next (settle (beats s c w))) ∧
      (vIssue s c w 0x32 (mkDv ||| mkAv ||| mkBs w ||| mkM ||| 0xF) [] = true → fld w 3 0 ≤ 10 →
        exec (.viop c w) s = .next (settle (beats s c w))) ∧
      (vIssue s c w 0x33 (mkDk ||| mkAv ||| mkBs w ||| mkM ||| 0x01E00000) [] = true → fld w 23 21 ≤ 5 →
        exec (.vcmp c w) s = .next (settle (beats s c w))) ∧
      (vIssue s c w 0x34 (mkDv ||| mkAv ||| mkBv ||| mkM) [] = true → exec (.vsel c w) s = .next (settle (beats s c w))) ∧
      (vIssue s c w 0x35 (mkDv ||| mkAv ||| mkM ||| 7) [] = true → fld w 2 0 ≤ 5 →
        exec (.vtf c w) s = .next (settle (beats s c w))) ∧
      (vIssue s c w 0x36 (mkDv ||| mkAv ||| mkM ||| 7) [] = true → fld w 2 0 ≤ 3 →
        exec (.vcvt c w) s = .next (settle (beats s c w))) ∧
      (vIssue s c w 0x38 (mkDa ||| mkAv ||| mkM ||| 7) [] = true → fld w 2 0 ≤ 6 →
        exec (.vred c w) s = .next (settle (beats s c w))) ∧
      (vIssue s c w 0x39 (mkDv ||| mkAv ||| mkBv ||| mkM) [] = true → exec (.vperm c w) s = .next (settle (beats s c w))) ∧
      (vIssue s c w 0x3A (mkDv ||| mkAv ||| mkBa ||| mkM) [] = true → exec (.vrot c w) s = .next (settle (beats s c w))) ∧
      (vIssue s c w 0x3B (mkDv ||| mkAv ||| mkBa ||| mkM ||| 0x7FF) [] = true → vD w ≤ 62 → vA w ≠ vD w → vA w ≠ vD w + 1 →
        exec (.vtopk c w) s = .next (settle (beats s c w))) ∧
      (vIssue s c w 0x3C (mkDv ||| mkAv ||| mkBv ||| mkM) [] = true → vD w ≤ 61 → vA w ≤ 61 → vB w ≤ 61 →
        exec (.vladd c w) s = .next (settle (beats s c w))) ∧
      (vIssue s c w 0x3D (mkDv ||| mkAv ||| mkM ||| 0x017F0000) [] = true → vA w ≤ 61 →
        exec (.vlcvt c w) s = .next (settle (beats s c w))) ∧
      (vIssue s c w 0x3E (mkDv ||| mkAv ||| mkM ||| 0x01000000) [] = true → vD w ≤ 61 →
        exec (.vtol c w) s = .next (settle (beats s c w))) ∧
      (vIssue s c w 0x3F (mkDv ||| mkAv ||| mkM) [] = true → vD w ≤ 61 → vA w ≤ 61 →
        exec (.vlred c w) s = .next (settle (beats s c w)))) ∧
  (∀ (c : Fin 96) (s : State),
      (∀ b, (getV s (vPid c)).beat = some b → vReady s (vPid c) = true → b.begun = false → b.left ≤ 1 →
        (getCore s (vPid c)).credits ≠ 0 →
        exec (.beatAdmit c) s = .next (settle (retire (setV
          (count (updCore s (vPid c) fun k => { k with credits := k.credits - 1 }) 1 (vPid c) 1) (vPid c)
          { getV s (vPid c) with beat := none, results := (getV s (vPid c)).results ++ [laneResult (getV s (vPid c)) b.w] })
          (vPid c) ((getCore s (vPid c)).pc + 8)))) ∧
      ((getV s (vPid c)).beat = none → exec (.beatAdmit c) s = .next (settle s)) ∧
      (∀ i r, (getV s (vPid c)).results[i]? = some r →
        exec (.resultInRegister c i) s = .next (settle (setV s (vPid c)
          (applyResult { getV s (vPid c) with results := (getV s (vPid c)).results.eraseIdx i } r)))))

/-- R99, R104 to R106: loads, stores, gathers and scatters of local memory act at issue; those of slice SRAM become transfers. -/
def Obligations.VMemory : Prop :=
  ∀ (c : Fin 96) (w : Dword) (s : State) (m : BitVec 512) (a b : Nat), (getCore s (vPid c)).xfers = [] →
    m = rdK (getV s (vPid c)) (vM w) →
    (vIssue s c w 0x20 (mkDv ||| mkAa ||| mkBa ||| mkM ||| 0x0FC00000) [vD w, 128 + vA w, 128 + vB w, 64 + vM w] = true →
      a = (rdA (getV s (vPid c)) (vA w)).toNat → b = (rdA (getV s (vPid c)) (vB w)).toNat →
      vFmtForm (fld w 27 24) (bit w 23) = true → a % 32 = 0 → (bit w 23 = true → b % 16 = 0) →
      vLanesInRange (coreMap s (vPid c)) w a b m = true → (vLoadAll s (coreMap s (vPid c)) (getV s (vPid c)) w a b m).2.2 = false →
      exec (.vld c w) s = .next (settle (
        if bit w 22 then vNext (addXfer s (vPid c) (64 * fmtBits (fld w 27 24) + if bit w 23 then 16 else 0) [] (.vload w a b m)) (vPid c)
        else vPut s c (wrLanes { getV s (vPid c) with
          flags := (getV s (vPid c)).flags ||| (vLoadAll s (coreMap s (vPid c)) (getV s (vPid c)) w a b m).2.1 }
          (vLoadAll s (coreMap s (vPid c)) (getV s (vPid c)) w a b m).1)))) ∧
    (vIssue s c w 0x21 (mkAa ||| mkBa ||| mkCv ||| mkM ||| 0x0FC00000) [128 + vA w, 128 + vB w, vC w, 64 + vM w] = true →
      a = (rdA (getV s (vPid c)) (vA w)).toNat → b = (rdA (getV s (vPid c)) (vB w)).toNat →
      vFmtForm (fld w 27 24) (bit w 23) = true →
      (bit w 23 = true ∨ fmtBits (fld w 27 24) = 4 ∨ fmtBits (fld w 27 24) = 6 → vM w = 0) → a % 32 = 0 → (bit w 23 = true → b % 16 = 0) →
      vLanesInRange (coreMap s (vPid c)) w a b m = true →
      exec (.vst c w) s = .next (settle (
        if bit w 22 then vNext (addXfer (setV s (vPid c)
          { getV s (vPid c) with flags := (getV s (vPid c)).flags ||| (vStorePieces (getV s (vPid c)) w a b m).2 }) (vPid c)
          (64 * fmtBits (fld w 27 24) + if bit w 23 then 16 else 0) [] (.scatterBytes (vStorePieces (getV s (vPid c)) w a b m).1)) (vPid c)
        else vPut s c (lmWritePieces
          { getV s (vPid c) with flags := (getV s (vPid c)).flags ||| (vStorePieces (getV s (vPid c)) w a b m).2 }
          (vStorePieces (getV s (vPid c)) w a b m).1)))) ∧
    (vIssue s c w 0x24 (mkDv ||| mkAv ||| mkBa ||| mkM ||| 0x00400000) [vD w, vA w, 128 + vB w, 64 + vM w] = true →
      (rdA (getV s (vPid c)) (vB w)).toNat % 4 = 0 →
      (∀ e ∈ laneAddrs (getV s (vPid c)) w m, vInRange (coreMap s (vPid c)) (bit w 22) e.2 4 = true ∧
        (vRead s (coreMap s (vPid c)) (getV s (vPid c)) (bit w 22) e.2 4).2 = false) →
      exec (.vgath c w) s = .next (settle (
        if bit w 22 then vNext (addXfer s (vPid c) (4 * (laneAddrs (getV s (vPid c)) w m).length) []
          (.gather (BitVec.ofNat 6 (vD w)) (laneAddrs (getV s (vPid c)) w m))) (vPid c)
        else vPut s c (wrLanes (getV s (vPid c)) ((laneAddrs (getV s (vPid c)) w m).map
        fun e => (512 * vD w + e.1, BitVec.ofNat 32 (leNat (memRead (getV s (vPid c)).lm e.2 4)))))))) ∧
    (vIssue s c w 0x25 (mkAv ||| mkBa ||| mkCv ||| mkM ||| 0x00700000) [vA w, 128 + vB w, vC w, 64 + vM w] = true →
      (rdA (getV s (vPid c)) (vB w)).toNat % 4 = 0 →
      (∀ e ∈ laneAddrs (getV s (vPid c)) w m, vInRange (coreMap s (vPid c)) (bit w 22) e.2 4 = true ∧
        (bit w 22 = false → poisoned (getV s (vPid c)).lmPoison 8 e.2 4 = false)) →
      exec (.vscat c w) s = .next (settle (
        if bit w 22 then vNext (addXfer s (vPid c) (4 * (laneAddrs (getV s (vPid c)) w m).length) [] (.scatter (BitVec.ofNat 2 (fld w 21 20))
          ((laneAddrs (getV s (vPid c)) w m).map fun e => (e.2, rdV (getV s (vPid c)) (vC w) e.1)))) (vPid c)
        else vPut s c (scatterLm (getV s (vPid c)) (fld w 21 20)
          ((laneAddrs (getV s (vPid c)) w m).map fun e => (e.2, rdV (getV s (vPid c)) (vC w) e.1)))))) ∧
    (vIssue s c w 0x26 (mkDv ||| mkAa ||| mkM ||| 0x00400000) [vD w, vD w + 1, vD w + 2, 128 + vA w, 64 + vM w] = true →
      a = (rdA (getV s (vPid c)) (vA w)).toNat → vD w ≤ 61 → a % 32 = 0 →
      (∀ i ∈ lanesOf m, vInRange (coreMap s (vPid c)) (bit w 22) (a + 12 * i) 12 = true ∧
        (vRead s (coreMap s (vPid c)) (getV s (vPid c)) (bit w 22) (a + 12 * i) 12).2 = false) →
      exec (.vldl c w) s = .next (settle (
        if bit w 22 then vNext (addXfer s (vPid c) 6144 [] (.ledgerLoad (BitVec.ofNat 6 (vD w)) a m)) (vPid c)
        else vPut s c (wrLanes (getV s (vPid c)) ((lanesOf m).flatMap fun i =>
        wrLs (vD w) i (partialOf (memRead (getV s (vPid c)).lm (a + 12 * i) 12))))))) ∧
    (vIssue s c w 0x27 (mkAa ||| mkCv ||| mkM ||| 0x00600000) [vC w, vC w + 1, vC w + 2, 128 + vA w, 64 + vM w] = true →
      a = (rdA (getV s (vPid c)) (vA w)).toNat → vC w ≤ 61 → a % 32 = 0 → (bit w 21 = true → bit w 22 = true ∧
        (ledgerSpan a m).1 / 2 ^ 26 = ((ledgerSpan a m).1 + (ledgerSpan a m).2 - 1) / 2 ^ 26) →
      (∀ i ∈ lanesOf m, vInRange (coreMap s (vPid c)) (bit w 22) (a + 12 * i) 12 = true) →
      exec (.vstl c w) s = .next (settle (
        if bit w 21 then vNext (addXfer s (vPid c) 6144 [] (.reduce a
          ((lanesOf m).map fun i => (a + 12 * i, rdL (getV s (vPid c)) (vC w) i)))) (vPid c)
        else if bit w 22 then vNext (addXfer s (vPid c) 6144 [] (.scatterBytes (mergePieces
          ((lanesOf m).map fun i => (a + 12 * i, partialBytes (rdL (getV s (vPid c)) (vC w) i)))))) (vPid c)
        else vPut s c (lmWritePieces (getV s (vPid c)) (mergePieces
          ((lanesOf m).map fun i => (a + 12 * i, partialBytes (rdL (getV s (vPid c)) (vC w) i))))))))

/-! ### S-cores (R113 to R120, R389) -/

/-- R117, Table 5.9: register results. x0 discards writes and reads as 0 (`wrX`, `rdX`). -/
def Obligations.SRegisterResults : Prop :=
  ∀ (c : Fin 64) (w : Word) (s : State),
    (∀ v, sIssue s c w 0x00 mkR [sRD w, sRA w, sRB w] = true →
      aluOp (sFN w) (rdX (getS s (sPid c)) (sRA w)) (rdX (getS s (sPid c)) (sRB w)) = some v →
      exec (.alu c w) s = .next (settle (sPut s c (wrX (getS s (sPid c)) (sRD w) v)))) ∧
    (sIssue s c w 0x01 mkI [sRD w, sRA w] = true → exec (.addi c w) s =
      .next (settle (sPut s c (wrX (getS s (sPid c)) (sRD w) (rdX (getS s (sPid c)) (sRA w) + BitVec.ofInt 64 (sfld w 25 10)))))) ∧
    (sIssue s c w 0x02 mkI [sRD w, sRA w] = true → exec (.andi c w) s =
      .next (settle (sPut s c (wrX (getS s (sPid c)) (sRD w) (rdX (getS s (sPid c)) (sRA w) &&& BitVec.ofNat 64 (fld w 25 10)))))) ∧
    (sIssue s c w 0x03 mkI [sRD w, sRA w] = true → exec (.ori c w) s =
      .next (settle (sPut s c (wrX (getS s (sPid c)) (sRD w) (rdX (getS s (sPid c)) (sRA w) ||| BitVec.ofNat 64 (fld w 25 10)))))) ∧
    (sIssue s c w 0x04 mkI [sRD w, sRA w] = true → exec (.xori c w) s =
      .next (settle (sPut s c (wrX (getS s (sPid c)) (sRD w) (rdX (getS s (sPid c)) (sRA w) ^^^ BitVec.ofNat 64 (fld w 25 10)))))) ∧
    (sIssue s c w 0x05 (mkRD ||| mkRA ||| mkImm6) [sRD w, sRA w] = true → exec (.shli c w) s =
      .next (settle (sPut s c (wrX (getS s (sPid c)) (sRD w) (rdX (getS s (sPid c)) (sRA w) <<< fld w 15 10))))) ∧
    (sIssue s c w 0x06 (mkRD ||| mkRA ||| mkImm6) [sRD w, sRA w] = true → exec (.shri c w) s =
      .next (settle (sPut s c (wrX (getS s (sPid c)) (sRD w) (rdX (getS s (sPid c)) (sRA w) >>> fld w 15 10))))) ∧
    (sIssue s c w 0x07 (mkRD ||| mkRA ||| mkImm6) [sRD w, sRA w] = true → exec (.sari c w) s =
      .next (settle (sPut s c (wrX (getS s (sPid c)) (sRD w) ((rdX (getS s (sPid c)) (sRA w)).sshiftRight (fld w 15 10)))))) ∧
    (sIssue s c w 0x08 mkI [sRD w, sRA w] = true → exec (.slti c w) s =
      .next (settle (sPut s c (wrX (getS s (sPid c)) (sRD w)
        (if (rdX (getS s (sPid c)) (sRA w)).slt (BitVec.ofInt 64 (sfld w 25 10)) then 1 else 0))))) ∧
    (sIssue s c w 0x09 0x03FFFFFF [sRD w] = true → exec (.lui c w) s =
      .next (settle (sPut s c (wrX (getS s (sPid c)) (sRD w) (BitVec.ofInt 64 (sfld w 25 5 * 65536)))))) ∧
    (sIssue s c w 0x33 (mkImm5 ||| mkRD) [sRD w] = true → exec (.srdc c w) s =
      .next (settle (sPut s c (wrX (getS s (sPid c)) (sRD w) ((coreCounter s (sPid c) (fld w 14 10)).setWidth 64)))))

/-- R115, R117, R119: loads, zero-extended or sign-extended. R115, R117, R119: stores, and AMOs on a word of local memory or at its bank.
-/
def Obligations.SLoadsAndStores : Prop :=
  (∀ (c : Fin 64) (w : Word) (s : State) (k : SPlace),
      (sIssue s c w 0x10 mkI [sRD w, sRA w] = true → sAccess s c w 1 .read k = true →
        exec (.ldb c w) s = .next (settle (loaded s c w 1 false k))) ∧
      (sIssue s c w 0x11 mkI [sRD w, sRA w] = true → sAccess s c w 2 .read k = true →
        exec (.ldh c w) s = .next (settle (loaded s c w 2 false k))) ∧
      (sIssue s c w 0x12 mkI [sRD w, sRA w] = true → sAccess s c w 4 .read k = true →
        exec (.ldw c w) s = .next (settle (loaded s c w 4 false k))) ∧
      (sIssue s c w 0x13 mkI [sRD w, sRA w] = true → sAccess s c w 8 .read k = true →
        exec (.ldd c w) s = .next (settle (loaded s c w 8 false k))) ∧
      (sIssue s c w 0x14 mkI [sRD w, sRA w] = true → sAccess s c w 1 .read k = true →
        exec (.ldbs c w) s = .next (settle (loaded s c w 1 true k))) ∧
      (sIssue s c w 0x15 mkI [sRD w, sRA w] = true → sAccess s c w 2 .read k = true →
        exec (.ldhs c w) s = .next (settle (loaded s c w 2 true k))) ∧
      (sIssue s c w 0x16 mkI [sRD w, sRA w] = true → sAccess s c w 4 .read k = true →
        exec (.ldws c w) s = .next (settle (loaded s c w 4 true k)))) ∧
  (∀ (c : Fin 64) (w : Word) (s : State) (k : SPlace),
      (sIssue s c w 0x18 mkI [sRD w, sRA w] = true → sAccess s c w 1 .write k = true →
        exec (.stb c w) s = .next (settle (stored s c w 1 k))) ∧
      (sIssue s c w 0x19 mkI [sRD w, sRA w] = true → sAccess s c w 2 .write k = true →
        exec (.sth c w) s = .next (settle (stored s c w 2 k))) ∧
      (sIssue s c w 0x1A mkI [sRD w, sRA w] = true → sAccess s c w 4 .write k = true →
        exec (.stw c w) s = .next (settle (stored s c w 4 k))) ∧
      (sIssue s c w 0x1B mkI [sRD w, sRA w] = true → sAccess s c w 8 .write k = true →
        exec (.std c w) s = .next (settle (stored s c w 8 k))) ∧
      (∀ o, sIssue s c w 0x1C mkR [sRD w, sRA w, sRB w] = true → sFN w ≤ 5 → (rdX (getS s (sPid c)) (sRA w)).toNat % 8 = 0 →
        sPlace (getS s (sPid c)).pl .write (rdX (getS s (sPid c)) (sRA w)).toNat 8 = .lm o →
        poisoned (getS s (sPid c)).lmPoison 8 o 8 = false →
        exec (.amo c w) s = .next (settle (sPut s c (wrX { getS s (sPid c) with
          lm := memWrite (getS s (sPid c)).lm o (leBytes 8 (amoOp (sFN w) (BitVec.ofNat 64 (leNat (memRead (getS s (sPid c)).lm o 8)))
            (rdX (getS s (sPid c)) (sRB w)) (rdX (getS s (sPid c)) (sRD w))).toNat) }
          (sRD w) (BitVec.ofNat 64 (leNat (memRead (getS s (sPid c)).lm o 8))))))) ∧
      (∀ a, sIssue s c w 0x1C mkR [sRD w, sRA w, sRB w] = true → sFN w ≤ 5 → (rdX (getS s (sPid c)) (sRA w)).toNat % 8 = 0 →
        sPlace (getS s (sPid c)).pl .write (rdX (getS s (sPid c)) (sRA w)).toNat 8 = .slice a →
        sliceRange (coreMap s (sPid c)) a 8 = true → (getCore s (sPid c)).xfers = [] → (sliceRead s (coreMap s (sPid c)) a 8).2 = false →
        exec (.amo c w) s = .next (settle (sNext (addXfer s (sPid c) 8 [] (.amo (BitVec.ofNat 11 (sFN w)) (BitVec.ofNat 5 (sRD w)) a
          (rdX (getS s (sPid c)) (sRB w)) (rdX (getS s (sPid c)) (sRD w)))) (sPid c)))))

/-- R117, Table 5.9: branches and jumps. R118 to R121, R389: fences, signals, waits, the end of a kernel, declared points, the return from
a trap and SIDLE. Table 5.10: control registers. U reads TIME and the identifiers only, and writes none (PRIVILEGE); a write to a
read-only register is ILLEGAL_FORM. -/
def Obligations.SBranchesAndControl : Prop :=
  (∀ (c : Fin 64) (w : Word) (s : State),
      (sIssue s c w 0x20 mkI [sRD w, sRA w] = true → exec (.beq c w) s = .next (settle (jump s (sPid c)
        (rdX (getS s (sPid c)) (fld w 4 0) == rdX (getS s (sPid c)) (fld w 9 5))
        ((getCore s (sPid c)).pc + BitVec.ofInt 64 (4 * sfld w 25 10)) ((getCore s (sPid c)).pc + 4)))) ∧
      (sIssue s c w 0x21 mkI [sRD w, sRA w] = true → exec (.bne c w) s = .next (settle (jump s (sPid c)
        (rdX (getS s (sPid c)) (fld w 4 0) != rdX (getS s (sPid c)) (fld w 9 5))
        ((getCore s (sPid c)).pc + BitVec.ofInt 64 (4 * sfld w 25 10)) ((getCore s (sPid c)).pc + 4)))) ∧
      (sIssue s c w 0x22 mkI [sRD w, sRA w] = true → exec (.blt c w) s = .next (settle (jump s (sPid c)
        ((rdX (getS s (sPid c)) (fld w 4 0)).slt (rdX (getS s (sPid c)) (fld w 9 5)))
        ((getCore s (sPid c)).pc + BitVec.ofInt 64 (4 * sfld w 25 10)) ((getCore s (sPid c)).pc + 4)))) ∧
      (sIssue s c w 0x23 mkI [sRD w, sRA w] = true → exec (.bge c w) s = .next (settle (jump s (sPid c)
        (!(rdX (getS s (sPid c)) (fld w 4 0)).slt (rdX (getS s (sPid c)) (fld w 9 5)))
        ((getCore s (sPid c)).pc + BitVec.ofInt 64 (4 * sfld w 25 10)) ((getCore s (sPid c)).pc + 4)))) ∧
      (sIssue s c w 0x24 mkI [sRD w, sRA w] = true → exec (.bltu c w) s = .next (settle (jump s (sPid c)
        ((rdX (getS s (sPid c)) (fld w 4 0)).ult (rdX (getS s (sPid c)) (fld w 9 5)))
        ((getCore s (sPid c)).pc + BitVec.ofInt 64 (4 * sfld w 25 10)) ((getCore s (sPid c)).pc + 4)))) ∧
      (sIssue s c w 0x25 mkI [sRD w, sRA w] = true → exec (.bgeu c w) s = .next (settle (jump s (sPid c)
        (!(rdX (getS s (sPid c)) (fld w 4 0)).ult (rdX (getS s (sPid c)) (fld w 9 5)))
        ((getCore s (sPid c)).pc + BitVec.ofInt 64 (4 * sfld w 25 10)) ((getCore s (sPid c)).pc + 4)))) ∧
      (sIssue s c w 0x28 0x03FFFFFF [sRD w] = true → exec (.jal c w) s = .next (settle (retire
        (setS s (sPid c) (wrX (getS s (sPid c)) (sRD w) ((getCore s (sPid c)).pc + 4))) (sPid c)
        ((getCore s (sPid c)).pc + BitVec.ofInt 64 (4 * sfld w 25 5))))) ∧
      (sIssue s c w 0x29 mkI [sRD w, sRA w] = true → exec (.jalr c w) s = .next (settle (retire
        (setS s (sPid c) (wrX (getS s (sPid c)) (sRD w) ((getCore s (sPid c)).pc + 4))) (sPid c) (sAddr s c w &&& ~~~3))))) ∧
  (∀ (c : Fin 64) (w : Word) (s : State),
      (sIssue s c w 0x30 0 [] = true → exec (.sfence c w) s = .next (settle (if fenced s (sPid c) then sStep s c else s))) ∧
      (sIssue s c w 0x31 mkImm5 [] = true → fenced s (sPid c) = true →
        exec (.ssig c w) s = .next (settle { sStep s c with signals := (sStep s c).signals ++
          [(syncKey (getBinding (sStep s c) (sPid c)).sgCl (getBinding (sStep s c) (sPid c)).sgSlot, fld w 14 10)] })) ∧
      (sIssue s c w 0x32 (mkImm5 ||| mkRA) [sRA w] = true → exec (.swait c w) s = .next (settle (
        if waitDone (coreCounter s (sPid c) (fld w 14 10)) ((rdX (getS s (sPid c)) (sRA w)).setWidth 16) then sStep s c
        else setCore s (sPid c) { getCore s (sPid c) with
          wait := .counter (BitVec.ofNat 5 (fld w 14 10)) ((rdX (getS s (sPid c)) (sRA w)).setWidth 16) }))) ∧
      (sIssue s c w 0x34 mkImm3 [] = true → (getCore s (sPid c)).point = .none ∨ (getS s (sPid c)).pl = true →
        exec (.ssafe c w) s = .next (settle (sStep s c))) ∧
      (sIssue s c w 0x34 mkImm3 [] = true → (getCore s (sPid c)).point ≠ .none → (getS s (sPid c)).pl = false → fenced s (sPid c) = true →
        exec (.ssafe c w) s = .next (settle (takePoint
          (updCore (sStep s c) (sPid c) fun k => { k with live := BitVec.ofNat 12 (fld w 12 10) }) (sPid c) true))) ∧
      (sIssue s c w 0x35 0 [] = true → (getS s (sPid c)).pl = false → fenced s (sPid c) = true →
        exec (.shalt c w) s = .next (settle (kernelEnd (sStep s c) (sPid c) false))) ∧
      (sIssue s c w 0x3D 0 [] = true → (getS s (sPid c)).pl = true → frameOk (getS s (sPid c)).tsp = true → loadsOut s (sPid c) = false →
        procOf s (sPid c) = none →
        exec (.tret c w) s = .next (settle (restoreFrame (count s 1 (sPid c) 0) (sPid c)))) ∧
      (∀ q u, sIssue s c w 0x3D 0 [] = true → (getS s (sPid c)).pl = true → frameOk (getS s (sPid c)).tsp = true →
        loadsOut s (sPid c) = false → procOf s (sPid c) = some q → u = completeFrame (count s 1 (sPid c) 0) q (frameRead (getS s (sPid c)) (getS s (sPid c)).tsp 1) →
        exec (.tret c w) s = .next (settle (
          if chains u (sPid c) q (frameRead (getS s (sPid c)) (getS s (sPid c)).tsp 1) then
            claimEntry (updCore u (sPid c) fun k => { k with pc := (getS s (sPid c)).tvec + 0x40 }) (sPid c) q
          else restoreFrame u (sPid c)))) ∧
      (sIssue s c w 0x3D 0 [] = true → (getS s (sPid c)).pl = false → loadsOut s (sPid c) = false →
        exec (.tret c w) s = .next (settle (sException s (sPid c) 0x0B 0))) ∧
      (sIssue s c w 0x3E 0 [] = true → (getS s (sPid c)).pl = true →
        exec (.sidle c w) s = .next (settle (updS (sStep s c) (sPid c) fun x => { x with sidle := true })))) ∧
  (∀ (c : Fin 64) (w : Word) (s : State),
      (sIssue s c w 0x38 (mkImm12 ||| mkRD) [sRD w] = true → csrCheck (getS s (sPid c)) (fld w 21 10) false = none →
        exec (.csrr c w) s = .next (settle (sPut s c (wrX (getS s (sPid c)) (sRD w) (csrRead s (sPid c) (getS s (sPid c)) (fld w 21 10)))))) ∧
      (sIssue s c w 0x39 (mkImm12 ||| mkRA) [sRA w] = true → csrCheck (getS s (sPid c)) (fld w 21 10) true = none →
        exec (.csrw c w) s = .next (settle (sPut s c (csrWrite (getS s (sPid c)) (fld w 21 10) (rdX (getS s (sPid c)) (sRA w)))))) ∧
      (sIssue s c w 0x3A (mkImm12 ||| mkRA) [sRA w] = true → csrCheck (getS s (sPid c)) (fld w 21 10) true = none →
        exec (.csrset c w) s = .next (settle (sPut s c (csrWrite (getS s (sPid c)) (fld w 21 10)
          (csrRead s (sPid c) (getS s (sPid c)) (fld w 21 10) ||| rdX (getS s (sPid c)) (sRA w)))))) ∧
      (sIssue s c w 0x3B (mkImm12 ||| mkRA) [sRA w] = true → csrCheck (getS s (sPid c)) (fld w 21 10) true = none →
        exec (.csrclr c w) s = .next (settle (sPut s c (csrWrite (getS s (sPid c)) (fld w 21 10)
          (csrRead s (sPid c) (getS s (sPid c)) (fld w 21 10) &&& ~~~rdX (getS s (sPid c)) (sRA w)))))) ∧
      (sIssue s c w 0x39 (mkImm12 ||| mkRA) [sRA w] = true → (getS s (sPid c)).pl = false → fld w 21 10 = 0x001 → loadsOut s (sPid c) = false →
        exec (.csrw c w) s = .next (settle (sException s (sPid c) 0x0B 0))))

/-! ### Pace and the events of cores -/

/-- R32, R34, R37: an edge of the oscillator takes 10 ns, writes every TARGET in force and adds it to ACC; ACC keeps the remainder below
10 and every multiple of 10 leaves as a tick or as a bubble. REF_LOST raises source S280 and event 0x05 once, and every ACC is 0 at the
first edge after it. -/
def Obligations.MetersAndTheReference : Prop :=
  (∀ (s : State), exec .referenceEdge s = .next (settle (metersEdge { s with refNs := s.refNs + 10, time := s.time + 10 }))) ∧
  (∀ (s : State), metersEdge s = (List.range 16).foldl (fun s p =>
    countN (countN (setMeter s p (meterEdge (getMeter s p) (bubbleF s p)).1) 4 p 0 (meterEdge (getMeter s p) (bubbleF s p)).2.1)
      4 p 2 (meterEdge (getMeter s p) (bubbleF s p)).2.2) s) ∧
  (∀ (m : PaceMeter) (f : Nat), (meterEdge m f).1.target = m.written ∧ (meterEdge m f).1.acc < 10 ∧
    (f ≤ 64 → m.bubbleAcc < 64 → (meterEdge m f).1.acc + 10 * ((meterEdge m f).2.1 + (meterEdge m f).2.2) =
      (if m.target = 0 ∧ m.written ≠ 0 then 0 else m.acc) + m.written.toNat)) ∧
  (∀ (s : State), s.refLost = false → exec .referenceLost s =
    .next (settle (logEvent (irqLevel { s with refLost := true } 280 true) 0x0000 0x05 false [1]))) ∧
  (∀ (s : State), s.refLost = true → exec .referenceRestored s = .next (settle (metersEdge
    { logEvent (irqLevel { s with refLost := false } 280 false) 0x0000 0x05 false [0] with
      meters := (s.meters.map fun e => (e.1, { e.2 with acc := 0 })).filter fun e => e.2 ≠ {}
      refNs := s.refNs + 10, time := s.time + 10 })))

/-- R35, R327: a tick that reaches a metered core adds a credit, up to 4; one more is discarded and counted as shortfall (core counter 3
and the meter's counter 1) where the core has work to admit, and as idle (core counter 2) where it has none and no filler is admitted.
R72, R90, R122, R430: an instruction line arrives; transfer `i` of a core takes effect; a drained core offers its image at a forced point;
a signal on its way adds to its counter and wakes the cores that wait for it. R75, R101, R117: an instruction word whose opcode no table
lists raises illegal instruction (MCAUSE, VCAUSE or SCAUSE 0x01). -/
def Obligations.TicksAndCoreEvents : Prop :=
  (∀ (c : Fin 320) (s : State),
      (c.val % 10 < 8 → clusterTicks s (c.val / 10) = true → (getCore s c.val).credits < 4 →
        exec (.paceTick c) s = .next (settle (setCore s c.val { getCore s c.val with credits := (getCore s c.val).credits + 1 }))) ∧
      (c.val % 10 < 8 → clusterTicks s (c.val / 10) = true → 4 ≤ (getCore s c.val).credits →
        (if c.val % 10 < 5 then mReady s c.val else vReady s c.val) = true →
        exec (.paceTick c) s = .next (settle (count (count s 1 c.val 3) 4 (corePart s c.val) 1))) ∧
      (c.val % 10 < 8 → clusterTicks s (c.val / 10) = true → 4 ≤ (getCore s c.val).credits →
        (if c.val % 10 < 5 then mReady s c.val else vReady s c.val) = false → fillerAdmits s c.val = false →
        exec (.paceTick c) s = .next (settle (count s 1 c.val 2))) ∧
      (8 ≤ c.val % 10 ∨ clusterTicks s (c.val / 10) = false → exec (.paceTick c) s = .next (settle s))) ∧
  ((∀ (c : Fin 320) (line : BitVec 58) (s : State), (getCore s c.val).run = .running →
      exec (.icacheFill c line) s = .next (settle (setCore s c.val (touchLine (icacheSets c.val) (getCore s c.val) line.toNat)))) ∧
    (∀ (c : Fin 320) (i : Nat) (refused : Bool) (x : Xfer) (s : State), (getCore s c.val).xfers[i]? = some x → s.gov.domains = [] →
      s.cohHeld = [] → s.snoops = [] → fabricWait s c.val x = false →
      exec (.transferComplete c i refused) s = .next (settle (xferEffectOf
        (setCore s c.val { getCore s c.val with xfers := (getCore s c.val).xfers.eraseIdx i }) c.val x refused))) ∧
    (∀ (c : Fin 320) (s : State), (getCore s c.val).run = .running → (getCore s c.val).point ≠ .none → (getCore s c.val).forced = true →
      drained s c.val = true → exec (.forcedPointReached c) s = .next (settle (takePoint s c.val false))) ∧
    (∀ (cl : Fin 32) (slot : Fin 8) (n : Fin 32) (g : SyncGroup) (s : State), (cl.val * 8 + slot.val, n.val) ∈ s.signals →
      Tbl.get none s.sync (cl.val * 8 + slot.val) = some g →
      exec (.syncCounterAdd cl slot n) s = .next (settle (wakeCounter { s with
        signals := s.signals.erase (cl.val * 8 + slot.val, n.val)
        sync := Tbl.set none s.sync (cl.val * 8 + slot.val)
          (some { g with counters := Tbl.set 0 g.counters n.val (Tbl.get 0 g.counters n.val + 1) }) }
        (cl.val * 8 + slot.val) n.val (Tbl.get 0 g.counters n.val + 1))))) ∧
  ((∀ (m : Fin 160) (w : Dword) (s : State), mIssue s m w (fld w 63 56) 0x00FFFFFFFFFFFFFF = true → fld w 63 56 ∉ mOpcodes →
      exec (.illegalOpcode ⟨mPid m, by simp only [mPid]; omega⟩ w) s = .next (settle (coreException s (mPid m) 0x01))) ∧
    (∀ (m : Fin 96) (w : Dword) (s : State), vIssue s m w (fld w 63 56) 0x00FFFFFFFFFFFFFF [] = true → fld w 63 56 ∉ vOpcodes →
      exec (.illegalOpcode ⟨vPid m, by simp only [vPid]; omega⟩ w) s = .next (settle (coreException s (vPid m) 0x01))) ∧
    (∀ (m : Fin 64) (w : Dword) (s : State), sIssue s m (w.setWidth 32) (fld w 31 26) 0x03FFFFFF [] = true → fld w 31 26 ∉ sOpcodes →
      loadsOut s (sPid m) = false →
      exec (.illegalOpcode ⟨sPid m, by simp only [sPid]; omega⟩ w) s = .next (settle (sException s (sPid m) 0x01 0))))

/-! ### Memory and the mesh -/

/-- R131, R142, R156, R325: requests at the banks of their destination cluster. A packet is counted at the router; the access wakes the
cluster's domain and goes on where it is in run. A read that no core of the slice sent sees zeros in protected lines, and the context of
another slice's core has a fault; a write and an update clear or carry poison with their bytes, and each is answered. -/
def Obligations.MeshRequestsAtTheBanks : Prop :=
  ∀ (p : MeshPkt) (s t : State), p.dstPort = 10 →
    (meetDomains s [p.dstCl.toNat] = (t, false) → exec (.meshReadReq p) s = .next (settle t) ∧
      exec (.meshWrite p) s = .next (settle t) ∧ exec (.meshAtomic p) s = .next (settle t)) ∧
    (meetDomains s [p.dstCl.toNat] = (t, true) → sliceRange (partMap (routed t p) p.part) p.addr.toNat (32 * p.len.toNat) = true →
      exec (.meshReadReq p) s = .next (settle (
        let u := routed t p
        let core := p.srcCl.toNat * 10 + p.srcPort.toNat
        if p.srcPort.toNat < 10 ∧ (getBinding u core).part = p.part then
          emit (sliceLost u (partMap u p.part) p.part p.addr.toNat (32 * p.len.toNat) false)
            (answer p 1 (sliceRead u (partMap u p.part) p.addr.toNat (32 * p.len.toNat)).1
              (sliceFlags u (partMap u p.part) p.addr.toNat (32 * p.len.toNat)))
        else
          emit (sliceLost (if p.srcPort.toNat < 10 ∧ sliceProtected u (partMap u p.part) p.addr.toNat (32 * p.len.toNat) = true
              then raiseCore u core 5 0x02 false (p.addr.setWidth 64) else u) (partMap u p.part) p.part p.addr.toNat (32 * p.len.toNat) false)
            (answer p 1 (devRead u p.part false p.addr.toNat (32 * p.len.toNat)).1
              (devFlags u p.part false p.addr.toNat (32 * p.len.toNat)))))) ∧
    (meetDomains s [p.dstCl.toNat] = (t, true) → sliceRange (partMap (routed t p) p.part) p.addr.toNat p.payload.length = true →
      exec (.meshWrite p) s = .next (settle (
        emit (sliceCarry (sliceLost (routed t p) (partMap (routed t p) p.part) p.part p.addr.toNat p.payload.length true)
          (partMap (routed t p) p.part) p.addr.toNat p.payload (pktFlags p)) (answer p 3 [] [])))) ∧
    (∀ fn a rb rd, meetDomains s [p.dstCl.toNat] = (t, true) → fn = leNat (p.payload.take 1) → a = p.addr.toNat →
      rb = BitVec.ofNat 64 (leNat ((p.payload.drop 8).take 8)) → rd = BitVec.ofNat 64 (leNat ((p.payload.drop 16).take 8)) →
      fn < 6 → a % 8 = 0 → sliceRange (partMap (routed t p) p.part) a 8 = true →
      exec (.meshAtomic p) s = .next (settle (
        let d := sliceRead (routed t p) (partMap (routed t p) p.part) a 8
        emit (sliceWrite (sliceLost (routed t p) (partMap (routed t p) p.part) p.part a 8 true) (partMap (routed t p) p.part) a
          (leBytes 8 (amoOp fn (BitVec.ofNat 64 (leNat d.1)) rb rd).toNat) (d.2 || p.poison.any id))
          (answer p 1 d.1 (flagsOf d.1 d.2)))))

/-- R72, R142, R174: packets at a core. An acknowledgement completes the store that its TAG names; read data land in the buffer of a load
and complete it when they cover it; a write for the vcore that the core carries lands in its operand buffer or local memory. R122, R141,
R143 to R145: reduce packets and signals. A packet that meets one alike in the fields of R144 in the router where it enters is summed with
it; else it is held there, or where holding is off it passes the routers of its route to where 16 partials are added at a slice address or
a row arrives at a tile; a refused row is its sender's to learn. A packet whose hold ends goes on. A SYNC packet adds 1 to its counter. -/
def Obligations.MeshPacketsReachCores : Prop :=
  ((∀ (p : MeshPkt) (pid : Nat) (x : Xfer) (s : State), taggedXfer s p = some (pid, x) →
      (∃ a d, x.kind = .store a d) ∨ (∃ l, x.kind = .scatterBytes l) ∨ (∃ o l, x.kind = .scatter o l) ∨ (∃ b l, x.kind = .reduce b l) →
      exec (.meshWriteAck p) s = .next (settle (xferEffectOf
        (updCore (routed s p) pid fun k => { k with xfers := k.xfers.eraseIdx p.tag.toNat }) pid x false))) ∧
    (∀ (p : MeshPkt) (pid b o : Nat) (x : Xfer) (s : State), taggedXfer s p = some (pid, x) → x.kind = .load b o →
      p.addr.toNat = b → p.payload.length = x.bytes →
      exec (.meshReadResp p) s = .next (settle (pumpM pumpFuel
        (updCore (updM (routed s p) pid fun m => obCarry m o p.payload (pktFlags p)) pid fun k =>
          { k with xfers := k.xfers.eraseIdx p.tag.toNat }) pid))) ∧
    (∀ (p : MeshPkt) (pid b n : Nat) (rd : BitVec 5) (signed : Bool) (x : Xfer) (s : State), taggedXfer s p = some (pid, x) →
      x.kind = .sload rd b n signed → p.addr.toNat = b → n ≤ p.payload.length → p.poison = [] →
      exec (.meshReadResp p) s = .next (settle (updS
        (updCore (routed s p) pid fun k => { k with xfers := k.xfers.eraseIdx p.tag.toNat }) pid fun c =>
          wrX c rd.toNat (extendLoad n (leNat (p.payload.take n)) signed)))) ∧
    (∀ (p : MeshPkt) (pid b : Nat) (op : BitVec 11) (rd : BitVec 5) (rb rc : Dword) (x : Xfer) (s : State), taggedXfer s p = some (pid, x) →
      x.kind = .amo op rd b rb rc → p.addr.toNat = b → 8 ≤ p.payload.length → p.poison = [] →
      exec (.meshReadResp p) s = .next (settle (updS
        (updCore (routed s p) pid fun k => { k with xfers := k.xfers.eraseIdx p.tag.toNat }) pid fun c =>
          wrX c rd.toNat (BitVec.ofNat 64 (leNat (p.payload.take 8)))))) ∧
    (∀ (p : MeshPkt) (pid : Nat) (v : BitVec 6) (l k : List (Nat × Nat)) (x : Xfer) (s o : State), taggedXfer s p = some (pid, x) →
      x.kind = .gather v l → o = sliceCarry (routed s p) x.map p.addr.toNat p.payload (pktFlags p) →
      k = l.filter (fun e => within e.2 4 p.addr.toNat p.payload.length) → k ≠ [] →
      exec (.meshReadResp p) s = .next (settle (updCore (landGather o (routed s p) pid x v k) pid fun c =>
        if l.all (fun e => within e.2 4 p.addr.toNat p.payload.length) then { c with xfers := c.xfers.eraseIdx p.tag.toNat }
        else { c with xfers := c.xfers.set p.tag.toNat { x with
          kind := .gather v (l.filter fun e => !within e.2 4 p.addr.toNat p.payload.length) } }))) ∧
    (∀ (p : MeshPkt) (pid b : Nat) (w : Dword) (sc : Nat) (m k : BitVec 512) (x : Xfer) (s o : State), taggedXfer s p = some (pid, x) →
      x.kind = .vload w b sc m → o = sliceCarry (routed s p) x.map p.addr.toNat p.payload (pktFlags p) →
      k = lanesCarried m p.addr.toNat p.payload.length (fun i =>
        (b + (elemRange (fmtBits (fld w 27 24)) i).1, (elemRange (fmtBits (fld w 27 24)) i).2)) → k ≠ 0 →
      exec (.meshReadResp p) s = .next (settle (updCore (landVload o (routed s p) pid x w b sc k) pid fun c =>
        if m &&& ~~~k = 0 then { c with xfers := c.xfers.eraseIdx p.tag.toNat }
        else { c with xfers := c.xfers.set p.tag.toNat { x with kind := .vload w b sc (m &&& ~~~k) } }))) ∧
    (∀ (p : MeshPkt) (pid b : Nat) (v : BitVec 6) (m k : BitVec 512) (x : Xfer) (s o : State), taggedXfer s p = some (pid, x) →
      x.kind = .ledgerLoad v b m → o = sliceCarry (routed s p) x.map p.addr.toNat p.payload (pktFlags p) →
      k = lanesCarried m p.addr.toNat p.payload.length (fun i => (b + 12 * i, 12)) → k ≠ 0 →
      exec (.meshReadResp p) s = .next (settle (updCore (landLedger o (routed s p) pid x v b k) pid fun c =>
        if m &&& ~~~k = 0 then { c with xfers := c.xfers.eraseIdx p.tag.toNat }
        else { c with xfers := c.xfers.set p.tag.toNat { x with kind := .ledgerLoad v b (m &&& ~~~k) } }))) ∧
    (∀ (p : MeshPkt) (pid : Nat) (s : State), p.type ≠ 6 → p.dstPort.toNat < 10 → pid = p.dstCl.toNat * 10 + p.dstPort.toNat →
      portWaits (routed s p) p = false → steer (routed s p) pid p.gen = .serve → coreCuffed (routed s p) pid = false →
      (p.dstPort.toNat < 5 → p.addr.toNat + p.payload.length ≤ 2 ^ 20 → exec (.meshWrite p) s = .next (settle (emit
        (updM (routed s p) pid fun m => obCarry m p.addr.toNat p.payload (pktFlags p)) (answer p 3 [] [])))) ∧
      (5 ≤ p.dstPort.toNat → p.dstPort.toNat < 8 → p.addr.toNat + p.payload.length ≤ 2 ^ 19 → exec (.meshWrite p) s = .next (settle (emit
        (updV (routed s p) pid fun v => { v with
          lm := memWrite v.lm p.addr.toNat p.payload
          lmPoison := poisonWrite v.lmPoison 8 p.addr.toNat (pktFlags p) }) (answer p 3 [] [])))) ∧
      (8 ≤ p.dstPort.toNat → p.addr.toNat + p.payload.length ≤ 0x30000 → exec (.meshWrite p) s = .next (settle (emit
        (updS (routed s p) pid fun c => { c with
          lm := memWrite c.lm p.addr.toNat p.payload
          lmPoison := poisonWrite c.lmPoison 8 p.addr.toNat (pktFlags p) }) (answer p 3 [] [])))))) ∧
  ((∀ (p : MeshPkt) (r i : Nat) (s : State), p.type = 6 → r = srcRouter p → findIdx? (combinable ⟨p, []⟩) (getRouter s r) 0 = some i →
      exec (.reduceTile p) s = .next (settle (count (setRouter s r ((getRouter s r).set i
        { (getRouter s r).getD i {} with pkt := combine ((getRouter s r).getD i {}).pkt p })) 8 r 4))) ∧
    (∀ (p : MeshPkt) (r : Nat) (s : State), p.type = 6 → r = srcRouter p → findIdx? (combinable ⟨p, []⟩) (getRouter s r) 0 = none →
      s.mem.redHold ≠ 0 → (getRouter s r).length < 16 →
      exec (.reduceTile p) s = .next (settle (setRouter s r (getRouter s r ++ [⟨p, []⟩])))) ∧
    (∀ (p : MeshPkt) (pid : Nat) (s : State), p.type = 6 → (∀ r ∈ pktRoute p, findIdx? (combinable ⟨p, []⟩) (getRouter s r) 0 = none) →
      s.mem.redHold = 0 → p.dstPort.toNat < 5 → pid = p.dstCl.toNat * 10 + p.dstPort.toNat → portWaits s p = false →
      steer s pid p.gen = .serve → coreCuffed s pid = false →
      exec (.reduceTile p) s = .next (settle (
        let t := tileArrive (routed s p) pid p.tile.toNat p.row.toNat p.seg.toNat p.contrib.toNat (pktPartials p.payload) (p.poison.any id)
        if t.2 = true ∨ 10 ≤ p.srcPort.toNat then t.1 else refuseRow t.1 (p.srcCl.toNat * 10 + p.srcPort.toNat)))) ∧
    (∀ (p : MeshPkt) (s t : State), p.type = 5 → p.dstPort = 10 → meetDomains s [p.dstCl.toNat] = (t, true) →
      (∀ r ∈ pktRoute p, findIdx? (combinable ⟨p, partMap s p.part⟩) (getRouter t r) 0 = none) →
      t.mem.redHold = 0 → sliceRange (partMap s p.part) p.addr.toNat 192 = true →
      p.addr.toNat / 2 ^ 26 = (p.addr.toNat + 191) / 2 ^ 26 →
      exec (.reduceSram p) s = .next (settle (sliceReduceAll
        (sliceLost (routed t p) (partMap s p.part) p.part p.addr.toNat 192 true) (partMap s p.part) p.addr.toNat (partialBad p)
        (pktPartials p.payload)))) ∧
    (∀ (cl : Fin 32) (i : Nat) (h : HeldPkt) (s : State), (getRouter s cl.val)[i]? = some h → h.pkt.type = 6 →
      exec (.reduceHoldExpire cl i) s = .next (settle (reduceOn (setRouter s cl.val ((getRouter s cl.val).eraseIdx i)) cl.val h))) ∧
    (∀ (cl : Fin 32) (i : Nat) (h : HeldPkt) (s t : State), (getRouter s cl.val)[i]? = some h → h.pkt.type = 5 →
      meetDomains s [h.pkt.dstCl.toNat] = (t, true) →
      exec (.reduceHoldExpire cl i) s = .next (settle (reduceOn (setRouter t cl.val ((getRouter s cl.val).eraseIdx i)) cl.val h))) ∧
    (∀ (p : MeshPkt) (s : State), p.dstPort = 11 →
      exec (.meshSync p) s = .next (settle (counterAdd { routed s p with
        signals := s.signals.erase (syncKey p.dstCl (BitVec.ofNat 3 (fld p.addr 7 5)), fld p.addr 4 0) }
        p.dstCl (BitVec.ofNat 3 (fld p.addr 7 5)) (fld p.addr 4 0)))) ∧
    (∀ (p : MeshPkt) (s : State), exec (.meshControl p) s = .next (settle (routed s p))))

/-- R132 to R134, R138, R152, R154, R407: a scrub reports the errors of a row and poisons its double-error words, but in a row written
since; a spare bank takes over when its copy is complete, as floor-plan change 0x05; a zeroed bank leaves its partition; a frame's bytes
move to its reserve frame, as change 0x08; a whole manager read of the error counts clears them; a gather engine writes a bag's output,
and the last bag ends the item. -/
def Obligations.MemoryUpkeep : Prop :=
  (∀ (cl bank : Fin 32) (row : BitVec 13) (single double : List (Fin 32)) (written : Bool) (s : State),
    (single ≠ [] ∨ double ≠ []) → Tbl.get false s.mem.bankLost (32 * cl.val + bank.val) = false →
    exec (.scrubRead cl bank row single double written) s = .next (settle (sramErrors s cl bank row (single.map (·.val)) (double.map (·.val))
      false written))) ∧
  (∀ (cl bank : Fin 32) (spare : Nat) (s : State), Tbl.get 0 s.mem.bankCopy (32 * cl.val + bank.val) = spare + 1 →
    exec (.spareBankCopyDone cl bank) s = .next (settle (queueChange { s with mem := { s.mem with
      bankMap := Tbl.set 0 s.mem.bankMap (32 * cl.val + bank.val) (spare + 1)
      bankCopy := Tbl.set 0 s.mem.bankCopy (32 * cl.val + bank.val) 0
      bankBad := Tbl.set false (Tbl.set false s.mem.bankBad (34 * cl.val + physBank s.mem cl.val bank.val) true)
        (34 * cl.val + spare) true } } (.spareBank cl bank)))) ∧
  (∀ (cl bank : Fin 32) (s : State), Tbl.get false s.mem.bankZero (32 * cl.val + bank.val) = true →
    exec (.bankZeroDone cl bank) s = .next (settle { s with
      mem := zeroBank s.mem (32 * cl.val + bank.val)
      sched := { s.sched with parts := s.sched.parts.map fun e =>
        (e.1, { e.2 with awaitBanks := Tbl.upd 0 e.2.awaitBanks cl.val (fun w => setBit w bank.val false) }) } })) ∧
  (∀ (ch : Fin 128) (frame : BitVec 20) (r old : Nat) (s : State), Tbl.get 0 s.mem.frameCopy (frameKey ch.val frame.toNat) = r + 1 →
    old = (match Tbl.get 0 s.mem.frameMap (frameKey ch.val frame.toNat) with
      | 0 => frameKey ch.val frame.toNat | k + 1 => frameKey ch.val k) →
    exec (.frameRetirementSwitch ch frame) s = .next (settle (queueChange { s with mem := {
      copyFrame s.mem old (frameKey ch.val r) with
      frameMap := Tbl.set 0 s.mem.frameMap (frameKey ch.val frame.toNat) (r + 1)
      frameCopy := Tbl.set 0 s.mem.frameCopy (frameKey ch.val frame.toNat) 0 } } (.hbmPage ch frame)))) ∧
  (∀ (v : View) (whole : Bool) (s : State), exec (.mshSramErrcntRead v whole) s = .next (settle { s with
    lastRead := BitVec.ofNat 32 (s.mem.errCe.toNat + s.mem.errUe.toNat * 2 ^ 16)
    mem := if v = .manager ∧ whole = true then { s.mem with errCe := 0, errUe := 0 } else s.mem })) ∧
  (∀ (x : ItemRef) (bag : Nat) (i : Item) (c : Context) (s : State) (r : List Byte × Flags × Bool × Bool) (out back : Nat) (run : ItemRun) (t : State),
    getItem s x = some i → getCtx s x.ctx = some c → itemOpc i = 0x0A → i.run.active = true → heldBack s c = false → BitVec.ofNat 64 bag ∉ i.run.list →
    bag < gpBags i → r = gpBag s (getSlice s c.part) i bag →
    out = fld (gpDesc i 5) 30 0 + bag * fld (gpDesc i 1) 63 48 * 32 →
    back = min (gpLookups t (getSlice s c.part) i bag) i.run.hbmOut →
    run = { i.run with
      flags := i.run.flags ||| r.2.1
      gpIndex := i.run.gpIndex || r.2.2.1
      poison := i.run.poison || r.2.2.2
      list := BitVec.ofNat 64 bag :: i.run.list
      bytes := i.run.bytes + 1
      hbmOut := i.run.hbmOut - back } →
    t = sliceWrite (sliceLost (gpRowsLost s (getSlice s c.part) i c.part x.ctx.toNat bag) (getSlice s c.part).regions c.part out r.1.length true x.ctx.toNat)
        (getSlice s c.part).regions out r.1 r.2.2.2 →
    exec (.gpLookupReturn x bag) s = .next (settle (
      let u := countN t 5 (16 * fld (i.words.getD 1 0) 2 0) 3
        (gpOffset t (getSlice s c.part) i (bag + 1) - gpOffset t (getSlice s c.part) i bag)
      let u := setItem (regDoneN u c.part.toNat 0 (classOf u x) i.run.hbmDue back) x { i with run := run }
      if run.bytes = gpBags i then completeItem u x 0x00 else u)))

/-! ### Queues, items, contexts and the host link -/

/-- R187, R192, R193, R196, R197, R292: doorbells, slots and flushes. A doorbell of the queue's epoch that moves the write index forward
is taken and any other counts as stale, as does one for a page without a queue; one beyond the ring faults the context. A queue whose turn
it is fetches its next slot. A slot of the queue's epoch with the next sequence number becomes an item; one of another epoch makes the
queue wait for a doorbell. -/
def Obligations.DoorbellsAndSlots : Prop :=
  (∀ (page : Fin 4096) (v : Word) (q : Queue) (w : BitVec 24) (s : State), queueOfPage s page.val = some q → w = BitVec.ofNat 24 (fld v 23 0) →
    (BitVec.ofNat 8 (fld v 31 24) = q.epoch → q.closing = false → (w - q.widx).toNat < 2 ^ 23 →
      (w - q.ridx).toNat ≤ 2 ^ (4 + q.ringLog.toNat) →
      exec (.hiuDbWrite page v) s = .next (settle (setQueue s { q with widx := w, hold := false }))) ∧
    (BitVec.ofNat 8 (fld v 31 24) = q.epoch → q.closing = false → (w - q.widx).toNat < 2 ^ 23 →
      2 ^ (4 + q.ringLog.toNat) < (w - q.ridx).toNat →
      exec (.hiuDbWrite page v) s = .next (settle (raise (setQueue s { q with widx := w, hold := false })
        { ctx := q.ctx, qid := q.qid, cls := 6, cause := 0x03 }))) ∧
    (BitVec.ofNat 8 (fld v 31 24) ≠ q.epoch ∨ q.closing = true ∨ 2 ^ 23 ≤ (w - q.widx).toNat →
      exec (.hiuDbWrite page v) s = .next (settle (count (countStale s q.page.toNat) 3 (queueKey q.ctx q.qid) 2))) ∧
    (exec (.hiuDbCplRead page v) s = .next (settle (setQueue s { q with cidx := w }))) ∧
    (BitVec.ofNat 8 (fld v 7 0) ≠ q.epoch → exec (.hiuDbFlush page v) s = .next (settle s)) ∧
    (BitVec.ofNat 8 (fld v 7 0) = q.epoch → bit v 8 = false → exec (.hiuDbFlush page v) s = .next (settle (setQueue s { q with
      epoch := q.epoch + 1
      items := q.items.filter (·.started)
      ridx := q.widx
      nextSeq := q.nextSeq + 1
      hold := false })))) ∧
  (∀ (page : Fin 4096) (v : Word) (s : State), queueOfPage s page.val = none →
    exec (.hiuDbWrite page v) s = .next (settle (countStale s page.val)) ∧ exec (.hiuDbCplRead page v) s = .next (settle s) ∧
    exec (.hiuDbFlush page v) s = .next (settle s)) ∧
  (∀ (page : Fin 4096) (v : Word) (q : Queue) (s : State), queueOfPage s page.val = some q → BitVec.ofNat 8 (fld v 7 0) = q.epoch →
    bit v 8 = true → exec (.hiuDbFlush page v) s = .next (settle ((q.items.filter (·.started)).foldl
      (fun s i => stopItem s ⟨q.ctx, q.qid, i.seq⟩ 0x11) (setQueue s { q with
        epoch := q.epoch + 1
        items := q.items.filter (·.started)
        ridx := q.widx
        nextSeq := q.nextSeq + 1
        hold := false })))) ∧
  (∀ (ctx : BitVec 16) (qid : BitVec 4) (r : Reply) (q : Queue) (c : Context) (b : List Byte) (s t u : State), getQueue s ctx qid = some q →
    getCtx s ctx = some c → mayFetch s q = true → fetchTurn s q = true →
    (q.lc = true ∨ ∀ p ∈ listOpt (fun (y : Queue) => y.lc && y.cp == q.cp) s.queues, mayFetch s p = false) →
    u = { s with sched := { s.sched with fetched := Tbl.set 0 s.sched.fetched (turnKey q) (queueKey ctx qid + 1) } } →
    gotPiece u c none r (q.ringBase + BitVec.ofNat 64 (128 * (q.ridx.toNat % 2 ^ (4 + q.ringLog.toNat)))) 0 128 = .ok t b →
    exec (.slotFetch ctx qid r) s = .next (settle (takeSlot (irqPrivate t (32 + q.cp.toNat) 5 true) q (leWords 16 b)))) ∧
  (∀ (q : Queue) (ws : List Dword) (s : State), BitVec.ofNat 8 (fld (ws.getD 0 0) 23 16) = q.epoch →
    BitVec.ofNat 32 (fld (ws.getD 0 0) 63 32) = q.nextSeq →
    takeSlot s q ws = count (setQueue { s with serial := s.serial + 1 } { q with
      items := q.items ++ [{ seq := q.nextSeq, words := ws.take (fld (ws.getD 0 0) 11 8 + 1), accepted := s.refNs, order := s.serial }]
      nextSeq := q.nextSeq + 1
      ridx := q.ridx + 1 }) 3 (queueKey q.ctx q.qid) 0) ∧
  (∀ (q : Queue) (ws : List Dword) (s : State), BitVec.ofNat 8 (fld (ws.getD 0 0) 23 16) ≠ q.epoch →
    takeSlot s q ws = setQueue s { q with hold := true })

/-- R196, R198: an item starts when its queue, its context and the rules of R196 let it: it takes the next place in the order of starts;
its form checks decide in order, and an item that fails one completes at once with that status (0x21 for an unknown opcode). R132, R187,
R295: a context with work takes the lowest free resident slot: its segment descriptors are read from its slice, with its states where an
eviction has written them, and its suspended items go on. A save area or segment table that the slice does not hold faults it, and so do
poisoned descriptors. Without a free slot, or at its partition's SLOTS, it takes the slot of a victim. -/
def Obligations.ItemsStartAndContextsRun : Prop :=
  (∀ (ctx : BitVec 16) (qid : BitVec 4) (q : Queue) (c : Context) (i : Item) (busy : Bool) (s t : State), getQueue s ctx qid = some q →
      getCtx s ctx = some c → nextItem q.items false = some (i, busy) → mayStart s c q i busy = true →
      t = setCtx (setItem { s with serial := s.serial + 1 } ⟨q.ctx, q.qid, i.seq⟩ { i with started := true })
        { c with lastStart := s.serial + 1 } →
      (formStatus c q i = none → exec (.itemStart ctx qid) s = .next (settle t)) ∧
      (∀ st, formStatus c q i = some st → exec (.itemStart ctx qid) s = .next (settle (completeItem t ⟨q.ctx, q.qid, i.seq⟩ st))) ∧
      (itemForm (itemOpc i) = none → exec (.unknownOpcode ctx qid) s = .next (settle (completeItem t ⟨q.ctx, q.qid, i.seq⟩ 0x21))) ∧
      (itemForm (itemOpc i) ≠ none → exec (.unknownOpcode ctx qid) s = .next (settle s))) ∧
  ((∀ (ctx : BitVec 16) (c : Context) (n : Nat) (s : State), getCtx s ctx = some c → wantsSlot s c = true → freeSlot s = some n →
      (c.id = 0 ∨
        ((residents s).filter fun r => inPart r c.part.toNat).length < (getPart s c.part.toNat).slots) →
      (hbmRange (getSlice s c.part) c.saveAddr.toNat 16384 = true → hbmRange (getSlice s c.part) c.segAddr.toNat 256 = true →
        let t := hbmLost s (getSlice s c.part) c.part c.segAddr.toNat 256 false c.id.toNat
        let t := if c.saved = true then hbmLost t (getSlice s c.part) c.part c.saveAddr.toNat 16384 false c.id.toNat else t
        (consumeCause t c.part true c.segAddr.toNat 256 = none → exec (.contextLoad ctx) s = .next (settle (
          endYield (pumpItems (setCtx t { c with slot := n + 1, segs := loadSegs t c, yielding := false }) c.id)))) ∧
        (∀ k, consumeCause t c.part true c.segAddr.toNat 256 = some k → exec (.contextLoad ctx) s = .next (settle (
          raise t { ctx := c.id, cls := 5, cause := k, addr := c.segAddr.setWidth 64 })))) ∧
      (hbmRange (getSlice s c.part) c.saveAddr.toNat 16384 = false ∨ hbmRange (getSlice s c.part) c.segAddr.toNat 256 = false →
        exec (.contextLoad ctx) s = .next (settle (raise s { ctx := c.id, cls := 6, cause := 0x06, addr := c.saveAddr.setWidth 64 })))) ∧
    (∀ (ctx : BitVec 16) (c : Context) (m : Nat) (s t : State), getCtx s ctx = some c → wantsSlot s c = true → slotFor s c = (t, some m) →
      exec (.contextLoad ctx) s = .next (settle (loadInto t c m))))

/-- R200, R201: fences and cookies. A fence signal writes its word, or raises it to the value in one update; a fence wait completes when
the word is at least the value, else it waits; a cookie is posted and the item completes. A misaligned fence word completes with 0x20.
R151, R153, R199, R209: items that move data. A copy of no byte and a misaligned fill complete with 0x20; every other one begins its first
piece; the floor-plan record is written whole; the transfer engine and the host deliver pieces. -/
def Obligations.FencesAndTransfers : Prop :=
  ((∀ (x : ItemRef) (i : Item) (c : Context) (s : State), itemReady s x 0x00 i c = true →
      exec (.nop x) s = .next (settle (completeItem s x 0x00))) ∧
    (∀ (x : ItemRef) (i : Item) (c : Context) (s : State), itemReady s x 0x01 i c = true →
      ((iw i 1).toNat % 8 ≠ 0 → exec (.fenceSignal x) s = .next (settle (completeItem s x 0x20))) ∧
      ((iw i 1).toNat % 8 = 0 → bit (iw i 3) 0 = true →
        exec (.fenceSignal x) s = .next (settle (writeRecord s x c (iw i 1) (leBytes 8 (iw i 2).toNat) 0))) ∧
      ((iw i 1).toNat % 8 = 0 → bit (iw i 3) 0 = false →
        exec (.fenceSignal x) s = .next (settle (fenceMax s x c (iw i 1) (iw i 2))))) ∧
    (∀ (x : ItemRef) (c : Context) (va value : Dword) (part : BitVec 4) (hbm : Bool) (a : Nat) (s : State),
      resolve (touchAtc s c va) c va .atomic 8 = .mem part hbm a →
      let t := devReadLog (touchAtc s c va) part hbm a 8 x.ctx.toNat
      consumeCause t part hbm a 8 = none →
      fenceMax s x c va value = finishItem (if leNat (devRead t part hbm a 8).1 < value.toNat then
        devWrite t part hbm a (leBytes 8 value.toNat) false x.ctx.toNat else t) x 0x00 0) ∧
    (∀ (x : ItemRef) (r : Reply) (i : Item) (c : Context) (b : List Byte) (s t : State), itemReady s x 0x02 i c = true →
      (iw i 1).toNat % 8 = 0 → s.fenceWaits.length < 1024 → readVa s c (some x) r (iw i 1) 8 = .ok t b →
      exec (.fenceWait x r) s = .next (settle (if (iw i 2).toNat ≤ ((leWords 1 b).getD 0 0).toNat then completeItem t x 0x00
        else updRun { t with fenceWaits := t.fenceWaits ++ [{ x := x, va := iw i 1, value := iw i 2 }] } x fun q =>
          { q with active := true }))) ∧
    (∀ (x : ItemRef) (w : FenceWait) (c : Context) (a : Dword) (b : List Byte) (s : State), findWait s x = some w →
      getCtx s x.ctx = some c → resolve (touchAtc s c w.va) c w.va .rd 8 = .host a →
      exec (.fenceWaitReread x (.data b false)) s = .next (settle (
        let t := listRead (touchAtc s c w.va) c (some x) a 8
        if w.value.toNat ≤ leNat b then completeItem t x 0x00 else t))) ∧
    (∀ (x : ItemRef) (w : FenceWait) (c : Context) (h : HostResult) (s : State), findWait s x = some w →
      getCtx s x.ctx = some c → resolve (touchAtc s c w.va) c w.va .rd 8 = .miss →
      exec (.fenceWaitReread x h) s = .next (settle (startXlate (touchAtc s c w.va) c w.va false (some x)))) ∧
    (∀ (x : ItemRef) (w : FenceWait) (i : Item) (s : State), findWait s x = some w → getItem s x = some i →
      exec (.fenceWaitTimeout x) s = .next (settle (if fld (iw i 3) 31 0 ≠ 0 then completeItem s x 0x02 else s))) ∧
    (∀ (x : ItemRef) (i : Item) (c : Context) (s : State), itemReady s x 0x03 i c = true →
      exec (.cookie x) s = .next (settle (completeItem (postCookie s x.ctx (BitVec.ofNat 32 (fld (iw i 1) 31 0)) x.qid 1) x 0x00)))) ∧
  ((∀ (x : ItemRef) (i : Item) (c : Context) (s : State), itemReady s x 0x08 i c = true →
      exec (.copy x) s = .next (settle (if fld (iw i 3) 39 0 = 0 then completeItem s x 0x20
        else nextPiece (updRun s x fun r => { r with active := true }) x))) ∧
    (∀ (x : ItemRef) (i : Item) (c : Context) (s : State), itemReady s x 0x09 i c = true →
      exec (.fill x) s = .next (settle (if (iw i 1).toNat % 8 ≠ 0 ∨ fld (iw i 2) 39 0 % 8 ≠ 0 then completeItem s x 0x20
        else nextPiece (updRun s x fun r => { r with active := true }) x))) ∧
    (∀ (x : ItemRef) (i : Item) (c : Context) (s : State), itemReady s x 0x0B i c = true →
      exec (.floorplanRead x) s = .next (settle (if (iw i 1).toNat % 8 ≠ 0 then completeItem s x 0x20
        else writeRecord s x c (iw i 1) (dwordBytes ((List.range 72).map (fpWord s))) 0))) ∧
    (∀ (x : ItemRef) (i : Item) (c : Context) (s : State), itemReady s x 0x0A i c = true → gpMalformed i = true →
      exec (.gatherPool x) s = .next (settle (completeItem s x 0x20))) ∧
    (∀ (x : ItemRef) (i : Item) (c : Context) (sl : Slice) (r total idx wts out off n : Nat) (s : State), itemReady s x 0x0A i c = true →
      gpMalformed i = false → sl = getSlice s c.part → gpRegion sl i = some r → stackLocal sl r (fld (iw i 1) 2 0) = true →
      bit (regionWord sl r 0) 62 = false → n = gpBags i → off = fld (gpDesc i 3) 30 0 → sliceRange sl.regions off (4 * (n + 1)) = true →
      consumeCause s c.part false off (4 * (n + 1)) = none →
      (∀ k, k < n → gpOffset s sl i k ≤ gpOffset s sl i (k + 1)) → total = gpOffset s sl i n → idx = fld (gpDesc i 2) 30 0 →
      wts = fld (gpDesc i 4) 30 0 → out = fld (gpDesc i 5) 30 0 →
      sliceRange sl.regions (idx + 4 * gpOffset s sl i 0) (4 * (total - gpOffset s sl i 0)) = true →
      (bit (gpDesc i 0) 52 = true → sliceRange sl.regions (wts + 4 * gpOffset s sl i 0) (4 * (total - gpOffset s sl i 0)) = true) →
      sliceRange sl.regions out ((n - 1) * fld (gpDesc i 1) 63 48 * 32 +
        gpElems i * (if fld (gpDesc i 0) 51 50 = 0 then 4 else if fld (gpDesc i 0) 51 50 = 1 then 2 else 12)) = true →
      (∀ l ∈ gpLists s sl i total, consumeCause s c.part false l.1 l.2 = none) →
      exec (.gatherPool x) s = .next (settle (
        let t := ((off, 4 * (n + 1)) :: gpLists s sl i total).foldl (fun t l => devReadLog t c.part false l.1 l.2 x.ctx.toNat) s
        hbmIssue (updRun t x fun q => { q with active := true }) x c ((List.range n).map (gpLookups s sl i)).sum))) ∧
    (∀ (x : ItemRef) (i : Item) (s : State), getItem s x = some i → (xferTotal i).isSome = true →
      exec (.transferEngineComplete x) s = .next (settle (enginePiece s x))) ∧
    (∀ (x : ItemRef) (i : Item) (s : State), getItem s x = some i → xferTotal i = none →
      exec (.transferEngineComplete x) s = .next (settle (imageWritten s x))) ∧
    (∀ (tag : Nat) (r : HostRead) (b : List Byte) (s : State), (s.hostReads.find? fun r => r.tag == tag && r.sent) = some r → b.length = r.bytes →
      r.use = .copy → exec (.hostReadCompletion tag (.data b false)) s = .next (settle (deliver
        (regDone { s with hostReads := s.hostReads.filter fun q => !(q.tag == r.tag) } r.part.toNat 2 r.lc r.due) r.x b (flagsOf b false) false))) ∧
    (∀ (tag : Nat) (r : HostRead) (h : HostResult) (s t : State), (s.hostReads.find? fun r => r.tag == tag && r.sent) = some r →
      h = .unsupported ∨ h = .abort →
      t = regDone { s with hostReads := s.hostReads.filter fun q => !(q.tag == r.tag) } r.part.toNat 2 r.lc r.due →
      exec (.hostReadCompletion tag h) s = .next (settle (stopDone (faultItem t r.x 4 (if r.peer then 0x0C else 0x04) r.va r.addr) r.x))))

/-- R186, R189, R203, R303: an opening item reads its descriptor and completes with the status of a check that fails, or installs what the
descriptor says and completes with 0. R204, Table 8.14: a closing item marks what it closes and begins a teardown; an unknown identifier
completes with 0x20 and one that is closing with 0x28. The cuff follows at idle or at the end of the grace; what is outstanding after the
time limit is given up; zeroing ends a memory object's teardown. -/
def Obligations.DescriptorsOpenAndClose : Prop :=
  ((∀ (x : ItemRef) (r : Reply) (i : Item) (c : Context) (b : List Byte) (s t : State), itemReady s x 0x20 i c = true →
      readVa s c (some x) r (iw i 1) 64 = .ok t b →
      exec (.ctxOpen x r) s = .next (settle (match ctxOpenStatus t c (leWords 8 b) with
        | some st => completeItem t x st
        | none => completeItem (setCtx t (ctxOf (leWords 8 b))) x 0x00))) ∧
    (∀ (x : ItemRef) (r : Reply) (i : Item) (c : Context) (b : List Byte) (s t : State), itemReady s x 0x24 i c = true →
      readVa s c (some x) r (iw i 1) 32 = .ok t b →
      exec (.queueOpen x r) s = .next (settle (match queueOpenStatus t (leWords 4 b) with
        | some st => completeItem t x st
        | none => completeItem (setQueue t { queueOf (leWords 4 b) with cp := assignCp t }) x 0x00))) ∧
    (∀ (x : ItemRef) (r : Reply) (i : Item) (c : Context) (b : List Byte) (s t : State), itemReady s x 0x26 i c = true →
      readVa s c (some x) r (iw i 1) 32 = .ok t b →
      exec (.memOpen x r) s = .next (settle (match memOpenStatus t (leWords 4 b) with
        | some st => completeItem t x st
        | none => completeItem (setObj t (objOf (leWords 4 b))) x 0x00))) ∧
    (∀ (s : State) (by_ : Context) (ws : List Dword), (ctxOf ws).manager = true → by_.manager = false →
      ctxReject s by_ (ctxOf ws) = some 0x40) ∧
    (∀ (s : State) (by_ : Context) (ws : List Dword), (getCtx s (ctxOf ws).id).isSome = true → ctxOpenStatus s by_ ws ≠ none) ∧
    (∀ (s : State) (ws : List Dword), (getQueue s (queueOf ws).ctx (queueOf ws).qid).isSome = true → queueOpenStatus s ws ≠ none) ∧
    (∀ (s : State) (ws : List Dword), (getObj s (objOf ws).obj).isSome = true → memOpenStatus s ws = some 0x28)) ∧
  ((∀ (x : ItemRef) (i : Item) (by_ : Context) (id : BitVec 16) (s : State), itemReady s x 0x21 i by_ = true →
      id = BitVec.ofNat 16 (fld (iw i 1) 15 0) →
      (getCtx s id = none → exec (.ctxClose x) s = .next (settle (completeItem s x 0x20))) ∧
      (∀ c, getCtx s id = some c → id ≠ 0 → id ≠ x.ctx → c.state = .closing →
        exec (.ctxClose x) s = .next (settle (completeItem s x 0x28))) ∧
      (∀ c, getCtx s id = some c → id ≠ 0 → id ≠ x.ctx → c.state ≠ .closing →
        exec (.ctxClose x) s = .next (settle (beginTeardown (closeCtx s c) { kind := 0, id := id.toNat, item := some x })))) ∧
    (∀ (x : ItemRef) (i : Item) (by_ : Context) (id : BitVec 16) (qid : BitVec 4) (q : Queue) (s : State), itemReady s x 0x25 i by_ = true →
      id = BitVec.ofNat 16 (fld (iw i 1) 15 0) → qid = BitVec.ofNat 4 (fld (iw i 1) 19 16) → getQueue s id qid = some q →
      ¬ (id = x.ctx ∧ qid = x.qid) →
      exec (.queueClose x) s = .next (settle (if q.closing then completeItem s x 0x28
        else beginTeardown (setQueue s { q with closing := true }) { kind := 1, id := queueKey id qid, item := some x }))) ∧
    (∀ (x : ItemRef) (i : Item) (by_ : Context) (o : MemObj) (s : State), itemReady s x 0x27 i by_ = true →
      getObj s (BitVec.ofNat 16 (fld (iw i 1) 15 0)) = some o →
      exec (.memClose x) s = .next (settle (if o.closing then completeItem s x 0x28
        else beginTeardown (setObj s { o with closing := true })
          { kind := 2, id := o.obj.toNat, item := some x, zero := bit (iw i 1) 16, obj := some o, part := objPart s o }))) ∧
    (∀ (n : Nat) (t : Teardown) (s : State), s.teardowns[n]? = some t → t.step = 2 →
      exec (.teardownIdle n) s = .next (settle (if tdIdle s t then cuffTeardown s t else s)) ∧
      exec (.teardownGraceExpire n) s = .next (settle (cuffTeardown
        { s with teardowns := s.teardowns.map fun v => if v == t then { t with forced := true } else v } { t with forced := true }))) ∧
    (∀ (n : Nat) (t : Teardown) (s : State), s.teardowns[n]? = some t → t.step = 4 → s.hostReads = [] → s.winReqs = [] →
      exec (.teardownRequestTimeout n) s = .next (settle (dropXlates s fun v => t.kind == 0 && v.ctx.toNat == t.id))) ∧
    (∀ (obj : BitVec 16) (t : Teardown) (o : MemObj) (s : State),
      (s.teardowns.find? fun t => t.kind == 2 && t.id == obj.toNat && t.step == 7) = some t → t.obj = some o →
      exec (.memZeroDone obj) s = .next (settle (tdComplete (dropTeardown (zeroObj s t.part o) t) t))))

/-- R187, R188, R205, R207: a faulted context resumes with every queue flushed into a new epoch and its saved images discarded; a parked
one takes a slot, or waits for one, and is set going again, under a new descriptor where the item names one that keeps its identity; a
context that next needs a lost host parks. R205 to R208, R373: the host link, its loss and the reattach. Leaving L0 arms the time of R205
and returning cancels it; a hot reset over L0 and PERST# lose the host at once and reset the host interface; the nonce that HOST_ATTACH
left lifts the fence, and each mismatch counts, the sixteenth locking the comparison. -/
def Obligations.ContextsAndTheHost : Prop :=
  ((∀ (x : ItemRef) (i : Item) (by_ c : Context) (id : BitVec 16) (s : State), itemReady s x 0x22 i by_ = true →
      id = BitVec.ofNat 16 (fld (iw i 1) 15 0) → getCtx s id = some c → c.state ≠ .closing →
      recordStuck s 0x02 0 (BitVec.ofNat 32 id.toNat) 2 = false →
      (c.faulted = false → exec (.ctxResume x) s = .next (settle (completeItem s x 0x00))) ∧
      (c.faulted = true → ∀ t u, t = setCtx s { c with faulted := false, victim := false, images := [] } →
        u = (ctxCores t id).foldl (fun s p => stopCore s p 0x10) t →
        exec (.ctxResume x) s = .next (settle (completeItem ((listOpt (fun q => q.ctx == id) u.queues).foldl
          (fun s q => flushQueue s q true) u) x 0x00)))) ∧
    (∀ (x : ItemRef) (r : Reply) (i : Item) (by_ c : Context) (s : State), itemReady s x 0x23 i by_ = true →
      getCtx s (BitVec.ofNat 16 (fld (iw i 1) 15 0)) = some c →
      (c.state ≠ .parked → exec (.ctxUnpark x r) s = .next (settle (completeItem s x 0x28))) ∧
      (∀ n u, c.state = .parked → iw i 2 = 0 → slotFor s c = (u, some n) →
        exec (.ctxUnpark x r) s = .next (settle (completeItem (unpark u c n) x 0x00))) ∧
      (∀ u, c.state = .parked → iw i 2 = 0 → slotFor s c = (u, none) → exec (.ctxUnpark x r) s = .next (settle u)) ∧
      (∀ b t d n u, c.state = .parked → iw i 2 ≠ 0 → readVa s by_ (some x) r (iw i 2) 64 = .ok t b → ctxBroken t (leWords 8 b) = false →
        unparkDescr c (ctxOf (leWords 8 b)) = some d → slotFor t d = (u, some n) →
        exec (.ctxUnpark x r) s = .next (settle (completeItem (unpark u d n) x 0x00))) ∧
      (∀ b t, c.state = .parked → iw i 2 ≠ 0 → readVa s by_ (some x) r (iw i 2) 64 = .ok t b →
        ctxBroken t (leWords 8 b) = true ∨ unparkDescr c (ctxOf (leWords 8 b)) = none →
        exec (.ctxUnpark x r) s = .next (settle (completeItem t x 0x29)))) ∧
    (∀ (ctx : BitVec 16) (c : Context) (s : State), getCtx s ctx = some c →
      exec (.contextPark ctx) s = .next (settle (if s.host.lost then parkCtx s c else s)))) ∧
  ((∀ (x : ItemRef) (i : Item) (c : Context) (s : State), itemReady s x 0x28 i c = true →
      exec (.hostAttach x) s = .next (settle (if 3600 < fld (iw i 2) 43 32 then completeItem s x 0x20
        else completeItem { s with host := { s.host with
          nonce := iw i 1
          attachId := BitVec.ofNat 32 (fld (iw i 2) 31 0)
          hold := BitVec.ofNat 12 (fld (iw i 2) 43 32) } } x 0x00))) ∧
    (∀ s : State, s.host.l0 = true → exec (.hostLinkStateChange .left) s =
      .next (settle { s with host := { s.host with l0 := false, down := true } })) ∧
    (∀ (offer : Bool) (s : State), s.host.perst = false → s.life.hostEn = true → exec (.hostLinkStateChange (.l0 offer)) s =
      .next (settle { s with host := { s.host with
        l0 := true
        down := false
        cxl := if s.host.l0 then s.host.cxl else offer && s.regs.cxlEn } })) ∧
    (∀ (s : State), s.host.down = true → s.host.l0 = false → exec .hostLinkDownTimeout s =
      .next (settle (hostLoss { s with host := { s.host with down := false } } 1))) ∧
    (∀ (s : State), exec .hotResetReceived s = .next (settle (if s.host.l0 then hostIfReset (hostLoss s 2) else s))) ∧
    (∀ (s : State), s.host.perst = false → exec .perstAssert s = .next (settle { hostIfReset (hostLoss s 3) with
      host := { (hostIfReset (hostLoss s 3)).host with perst := true } })) ∧
    (∀ (s : State), s.host.perst = true → s.life.hostEn = true → exec .perstRelease s =
      .next (settle { s with host := { s.host with perst := false } })) ∧
    (∀ (v : View) (s : State), exec (.hiuRaDataHiRead v true) s = .next (settle { s with
      lastRead := BitVec.ofNat 32 ((raWord s s.host.raIndex.toNat).toNat / 2 ^ 32)
      host := { s.host with raIndex := s.host.raIndex + 1 } })) ∧
    (∀ (v : View) (s : State), exec (.hiuRaDataHiRead v false) s = .next (settle { s with
      lastRead := BitVec.ofNat 32 ((raWord s s.host.raIndex.toNat).toNat / 2 ^ 32) })) ∧
    (∀ (v : View) (d : Word) (s : State), bit s.regs.frozen 0 = false → s.host.locked = false →
      s.host.nonce = BitVec.ofNat 64 (d.toNat * 2 ^ 32 + s.host.raLo.toNat) → s.host.lost = true →
      exec (.hiuReattachHi v d) s = .next (settle (reattach s)) ∧ (reattach s).host.lost = false) ∧
    (∀ (v : View) (d : Word) (s : State), bit s.regs.frozen 0 = false → s.host.locked = false →
      s.host.nonce ≠ BitVec.ofNat 64 (d.toNat * 2 ^ 32 + s.host.raLo.toNat) →
      exec (.hiuReattachHi v d) s = .next (settle { s with host := { s.host with
        mismatches := s.host.mismatches + 1
        fails := BitVec.ofNat 4 (min 15 (s.host.mismatches + 1))
        locked := decide (16 ≤ s.host.mismatches + 1) } })) ∧
    (∀ (v : View) (d : Word) (s : State), s.host.locked = true → exec (.hiuReattachHi v d) s = .next (settle s)) ∧
    (∀ (s : State), s.host.lost = true → exec .reattachHoldExpire s =
      .next (settle ((listOpt (fun c => c.state == .parked) s.ctxs).foldl holdClose s))) ∧
    (∀ (s : State), s.host.lost = false → exec .reattachHoldExpire s = .next (settle s)))

/-! ### Translation and windows -/

/-- R210, R217, R219, R222, R235: items that set translation up. Segments are checked in the order overlap 0x60, invalid 0x61, target
0x62, and then written to the context's segment table and resident slot; a walk format replaces the old one; a page range leaves the
caches; a migration waits for the accesses issued to its pages. -/
def Obligations.TranslationIsSetUp : Prop :=
  (∀ (x : ItemRef) (r : Reply) (i : Item) (by_ c : Context) (b : List Byte) (mask : Nat) (picked new : List Segment) (s t : State),
    itemReady s x 0x40 i by_ = true → getCtx s (BitVec.ofNat 16 (fld (iw i 1) 15 0)) = some c → readVa s by_ (some x) r (iw i 2) 256 = .ok t b →
    mask = fld (iw i 1) 23 16 → picked = ((List.range 8).filter fun k => mask / 2 ^ k % 2 = 1).map (segOf (leWords 32 b)) →
    new = ((curSegs t c).zipIdx).map (fun e => if mask / 2 ^ e.2 % 2 = 1 then segOf (leWords 32 b) e.2 else e.1) →
    (segsOverlap new = true → exec (.segSet x r) s = .next (settle (completeItem t x 0x60))) ∧
    (segsOverlap new = false → picked.any segBad = true → exec (.segSet x r) s = .next (settle (completeItem t x 0x61))) ∧
    (segsOverlap new = false → picked.any segBad = false → picked.any (segNoTarget t c) = true →
      exec (.segSet x r) s = .next (settle (completeItem t x 0x62))) ∧
    (∀ u, segsOverlap new = false → picked.any segBad = false → picked.any (segNoTarget t c) = false →
      u = (if c.id = 0 then t else devWrite t c.part true c.segAddr.toNat (dwordBytes (segWords new)) false c.id.toNat) →
      exec (.segSet x r) s = .next (settle (completeItem (if c.slot ≠ 0 then setCtx u { c with segs := new } else u) x 0x00)))) ∧
  (∀ (x : ItemRef) (r : Reply) (i : Item) (by_ c : Context) (id : BitVec 16) (s : State), itemReady s x 0x41 i by_ = true →
    id = BitVec.ofNat 16 (fld (iw i 1) 15 0) → getCtx s id = some c →
    (bit (iw i 1) 16 = false → exec (.walkSet x r) s = .next (settle (completeItem (pumpItems
      (dropXlates (setCtx s { c with walk := false }) fun v => v.ctx == id) id) x 0x00))) ∧
    (∀ b t, bit (iw i 1) 16 = true → readVa s by_ (some x) r (iw i 2) 32 = .ok t b → walkBad (leWords 4 b) = true →
      exec (.walkSet x r) s = .next (settle (completeItem t x 0x63))) ∧
    (∀ b t, bit (iw i 1) 16 = true → readVa s by_ (some x) r (iw i 2) 32 = .ok t b → walkBad (leWords 4 b) = false →
      exec (.walkSet x r) s = .next (settle (completeItem (pumpItems
        (dropXlates (setCtx t { c with walk := true, walkFmt := leWords 4 b }) fun v => v.ctx == id) id) x 0x00)))) ∧
  (∀ (x : ItemRef) (r : Reply) (i : Item) (c : Context) (b : List Byte) (s t : State), itemReady s x 0x42 i c = true →
    readVa s c (some x) r (iw i 1) 256 = .ok t b →
    exec (.walkGuard x r) s = .next (settle (completeItem { t with
      guards := tblOf (0, 0) 16 fun k => if (leWords 32 b).getD (2 * k + 1) 0 = 0 then (0, 0)
        else ((leWords 32 b).getD (2 * k) 0, (leWords 32 b).getD (2 * k + 1) 0) } x 0x00))) ∧
  (∀ (x : ItemRef) (i : Item) (by_ c : Context) (id : BitVec 16) (s : State), itemReady s x 0x43 i by_ = true →
    id = BitVec.ofNat 16 (fld (iw i 1) 15 0) →
    (id ≠ x.ctx → by_.manager = false → exec (.atcInval x) s = .next (settle (completeItem s x 0x40))) ∧
    ((id = x.ctx ∨ by_.manager = true) → getCtx s id = some c → bit (iw i 1) 16 = true → s.xlates = [] →
      exec (.atcInval x) s = .next (settle (completeItem { s with
        atc := s.atc.filter fun e => !(e.inst == c.inst && e.pasid == c.pasid)
        walks := s.walks.filter fun w => !(w.inst == c.inst && w.pasid == c.pasid) } x 0x00))) ∧
    ((id = x.ctx ∨ by_.manager = true) → getCtx s id = some c → bit (iw i 1) 16 = false → s.xlates = [] →
      (iw i 2).toNat % 4096 = 0 → (iw i 3).toNat % 4096 = 0 →
      exec (.atcInval x) s = .next (settle (completeItem { s with
        atc := s.atc.filter fun e => !(e.inst == c.inst && e.pasid == c.pasid && e.meets (iw i 2).toNat (iw i 3).toNat)
        walks := s.walks.filter fun w => !(w.inst == c.inst && w.pasid == c.pasid) } x 0x00)))) ∧
  (∀ (x : ItemRef) (i : Item) (c : Context) (n : Nat) (s : State), itemReady s x 0x44 i c = true →
    n = (if bit (iw i 1) 16 then 0x200000 else 0x1000) →
    ((iw i 2).toNat % n ≠ 0 ∨ (iw i 3).toNat % n ≠ 0 → exec (.migrate x) s = .next (settle (completeItem s x 0x20))) ∧
    ((iw i 2).toNat % n = 0 → (iw i 3).toNat % n = 0 →
      (s.hostReads.any fun r => decide (r.addr.toNat < (iw i 2).toNat + n) && decide ((iw i 2).toNat < r.addr.toNat + r.bytes)) = false →
      ((apertureAt s (iw i 3).toNat n).any fun e => memBusy s x (objPart s e.1) e.1.hbm e.2 n) = false →
      exec (.migrate x) s = .next (settle (startXfer s x)))) ∧
  (∀ (x : ItemRef) (i : Item) (c : Context) (s : State), itemReady s x 0x45 i c = true →
    exec (.faultRespond x) s = .next (settle (
      match s.pageReqs.find? fun r => r.native && r.id.toNat == fld (iw i 1) 31 16 && r.ctx.toNat == fld (iw i 1) 15 0 with
      | none => completeItem s x 0x66
      | some r => completeItem (if bit (iw i 1) 32 then failHolds s r else releaseHolds s r) x 0x00)))

/-- R216 to R221, R227, R229: replies to translation and window requests. A translation is installed, leads to a page request where it
grants no access, or faults its context; an invalidation drops what it meets, whatever the instance, and completes once the reads
translated under it have; a failed page request, a time-out and a walk that meets no entry are told by the cause of Table 8.2. -/
def Obligations.TranslationReplies : Prop :=
  (∀ (tag : Nat) (v : Xlate) (c : Context) (s t : State), (s.xlates.find? fun v => v.tag == tag && !v.walk) = some v →
    t = dropXlates s (fun u => u.tag == tag) → getCtx t v.ctx = some c →
    (∀ addr big, exec (.atsCompletion tag (.mapped addr big false false)) s = .next (settle (pageRequest t c v.va v.write v.holders))) ∧
    (∀ addr big rd wr, rd = true ∨ wr = true → (v.retry && v.write && !wr) = false →
      exec (.atsCompletion tag (.mapped addr big rd wr)) s = .next (settle (pumpItems
        (installAtc t c v.va addr (big && addr.toNat % 0x200000 == 0) rd wr) c.id))) ∧
    (exec (.atsCompletion tag .unsupported) s = .next (settle (raiseXlat t c.id 0x09 v.va 0))) ∧
    (exec (.atsCompletion tag .abort) s = .next (settle (raiseXlat t c.id 0x09 v.va 0))) ∧
    (exec (.atsCompletion tag .timeout) s = .next (settle (raiseXlat t c.id 0x09 v.va 0)))) ∧
  (∀ (pasid : BitVec 20) (base size : Dword) (itag : BitVec 5) (s : State), s.xlates = [] →
    exec (.atsInvalidateRequest pasid base size itag) s = .next (settle { s with
      atc := s.atc.filter fun e => !(e.pasid == pasid && e.meets base.toNat size.toNat)
      walks := s.walks.filter fun w => !(w.pasid == pasid)
      invals := s.invals ++ [(itag, (s.hostReads.filter fun r =>
        (s.atc.filter fun e => e.pasid == pasid && e.meets base.toNat size.toNat).any fun e => decide ((r.addr - e.addr).toNat < e.bytes)).map (·.tag))] })) ∧
  (∀ (itag : BitVec 5) (v : BitVec 5 × List Nat) (s : State), (s.invals.find? fun v => v.1 == itag) = some v →
    (s.hostReads.any fun r => v.2.contains r.tag) = false →
    exec (.invalidateCompletion itag) s = .next (settle (emit { s with invals := s.invals.erase v } (.invalidateCompletion itag)))) ∧
  (∀ (tag : Nat) (v : Xlate) (c : Context) (b : List Byte) (s t : State), (s.xlates.find? fun v => v.tag == tag && v.walk) = some v →
    getCtx s v.ctx = some c → b.length = walkEsize c.walkFmt → t = dropXlates s (fun u => u.tag == tag) →
    exec (.walkFetchComplete tag (.data b false)) s = .next (settle (walkEntry t c v (BitVec.ofNat 64 (leNat b)))) ∧
    exec (.walkFetchComplete tag (.data b true)) s = .next (settle (raiseXlat t c.id 0x06 v.va v.ea)) ∧
    exec (.walkFetchComplete tag .unsupported) s = .next (settle (raiseXlat t c.id 0x06 v.va v.ea)) ∧
    exec (.walkFetchComplete tag .abort) s = .next (settle (raiseXlat t c.id 0x06 v.va v.ea))) ∧
  (∀ (c : Context) (v : Xlate) (e : Dword) (s : State), bit e (fld (c.walkFmt.getD 2 0) 5 0) = false →
    walkEntry s c v e = pageRequest s c v.va v.write v.holders) ∧
  (∀ (req : BitVec 16) (r : PageReq) (s : State), (s.pageReqs.find? fun r => r.id == req && !r.native) = some r →
    exec (.pageRequestResponse req true) s = .next (settle (releaseHolds s r)) ∧
    exec (.pageRequestResponse req false) s = .next (settle (failHolds s r))) ∧
  (∀ (req : BitVec 16) (r : PageReq) (s : State), (s.pageReqs.find? fun r => r.id == req) = some r → r.withdrawn = false →
    exec (.pageRequestTimeout req) s = .next (settle (raiseXlat
      { s with pageReqs := s.pageReqs.filter fun q => !(q.id == r.id) } r.ctx 0x04 r.va 0))) ∧
  (∀ (tag : BitVec 16) (r : WinReq) (s t : State), (s.winReqs.find? fun r => r.tag == tag) = some r →
    t = regDone { s with winReqs := s.winReqs.filter fun q => !(q.tag == tag) } r.part.toNat 1 r.lc r.due →
    (r.use ≠ .ring → exec (.windowTimeout tag) s = .next (settle (stopDone (faultItem (uncountWrite t r) r.x 4 0x0B r.va
      (windowDetail 0 r.node r.window)) r.x))) ∧
    (r.use = .ring → exec (.windowTimeout tag) s = .next (settle (raise t { ctx := r.ctx, cls := 6, cause := 5, addr := r.va })))) ∧
  (∀ (tag : Nat) (r : HostRead) (s : State), (s.hostReads.find? fun r => r.tag == tag && r.sent) = some r →
    exec (.completionTimeout tag) s = .next (settle (stopDone (faultItem (regDone
      { s with hostReads := s.hostReads.filter fun q => !(q.tag == tag) } r.part.toNat 2 r.lc r.due) r.x 4
      (if r.peer then 0x0C else 0x04) r.va r.addr) r.x))) ∧
  (∀ (tag : Nat) (v : Xlate) (s : State), (s.hostReads.find? fun r => r.tag == tag && r.sent) = none → (s.xlates.find? fun v => v.tag == tag) = some v →
    exec (.completionTimeout tag) s = .next (settle (raiseXlat (dropXlates s fun u => u.tag == tag) v.ctx
      (if v.walk then 0x06 else 0x09) v.va (if v.walk then v.ea else 0))))

/-- R225, R229 to R232, R372, R401: windows, peers, the aperture, the coherent windows and configuration. A window object opens once,
under a new generation, and closes through a teardown; the host reads and writes slice memory through mapped slots only while memory
access is on and the function is not in D3hot, and sees zeros in protected lines; configuration requests before Ready get Retry Status. -/
def Obligations.WindowsAndHostAccess : Prop :=
  (∀ (x : ItemRef) (r : Reply) (i : Item) (c : Context) (b : List Byte) (w0 w1 : Dword) (k : Nat) (w : Window) (o : MemObj) (s t : State),
    itemReady s x 0x46 i c = true → readVa s c (some x) r (iw i 1) 16 = .ok t b → w0 = (leWords 2 b).getD 0 0 → w1 = (leWords 2 b).getD 1 0 →
    k = fld w1 28 17 →
    ((Tbl.get {} t.windows k).valid = true → exec (.windowOpen x r) s = .next (settle (completeItem t x 0x64))) ∧
    ((Tbl.get {} t.windows k).valid = false → closedRecently t 3 k = false → onlyBits w0 0x80FFFFFFFFFFFFFF = true →
      onlyBits w1 0x1FFFFFFFFF = true → fld w0 21 20 ≠ 3 → getObj t (BitVec.ofNat 16 (fld w0 15 0)) = some o → o.closing = false →
      (getCtx t o.owner).isSome = true → (objInst t o).toNat = fld w0 31 24 → ¬ (bit w0 22 = true ∧ bit w0 23 = true) →
      w = { obj := BitVec.ofNat 16 (fld w0 15 0), rights := BitVec.ofNat 4 (fld w0 19 16), filter := BitVec.ofNat 2 (fld w0 21 20),
            legacyOk := bit w0 22, keyed := bit w0 23, inst := BitVec.ofNat 8 (fld w0 31 24), gid := BitVec.ofNat 24 (fld w0 55 32),
            valid := true, node := BitVec.ofNat 17 (fld w1 16 0), wgen := (Tbl.get {} t.windows k).wgen + 1 } →
      exec (.windowOpen x r) s = .next (settle (completeResult { t with windows := Tbl.set {} t.windows k w } x 0x00
        (w.wgen.setWidth 64))))) ∧
  (∀ (x : ItemRef) (i : Item) (c : Context) (k : Nat) (s : State), itemReady s x 0x47 i c = true → k = fld (iw i 1) 11 0 →
    ((Tbl.get {} s.windows k).valid = false → exec (.windowClose x) s = .next (settle (completeItem s x 0x65))) ∧
    ((Tbl.get {} s.windows k).valid = true → (s.teardowns.any fun t => t.kind == 3 && t.id == k) = false →
      exec (.windowClose x) s = .next (settle (beginTeardown s
        { kind := 3, id := k, item := some x, obj := getObj s (Tbl.get {} s.windows k).obj })))) ∧
  (∀ (x : ItemRef) (r : Reply) (i : Item) (c : Context) (b : List Byte) (w0 w1 : Dword) (s t : State), itemReady s x 0x48 i c = true →
    readVa s c (some x) r (iw i 1) 16 = .ok t b → w0 = (leWords 2 b).getD 0 0 → w1 = (leWords 2 b).getD 1 0 →
    onlyBits w0 0xFFFFFFFFFFFFF01F = true → onlyBits w1 0xFFFFFFFFFFFFF000 = true →
    exec (.peerSet x r) s = .next (settle (completeItem { t with
      peers := Tbl.set {} t.peers (fld w0 3 0)
        (if bit w0 4 then { valid := true, base := w0 &&& ~~~0xFFF, size := w1 } else {}) } x 0x00))) ∧
  (∀ (x : ItemRef) (i : Item) (c : Context) (s : State), itemReady s x 0x49 i c = true →
    (bit (iw i 1) 32 = false → exec (.apertureSet x) s = .next (settle (completeItem
      { s with apertures := Tbl.set {} s.apertures (fld (iw i 1) 7 0) {} } x 0x00))) ∧
    (∀ o, bit (iw i 1) 32 = true → getObj s (BitVec.ofNat 16 (fld (iw i 1) 31 16)) = some o → o.closing = false →
      (iw i 2).toNat < o.size.toNat → (iw i 2).toNat % slotSize s = 0 →
      exec (.apertureSet x) s = .next (settle (completeItem { s with
        apertures := Tbl.set {} s.apertures (fld (iw i 1) 7 0)
          { valid := true, obj := BitVec.ofNat 16 (fld (iw i 1) 31 16), offset := iw i 2 } } x 0x00))) ∧
    (bit (iw i 1) 32 = true → getObj s (BitVec.ofNat 16 (fld (iw i 1) 31 16)) = none →
      exec (.apertureSet x) s = .next (settle (completeItem s x 0x67))) ∧
    (∀ o, bit (iw i 1) 32 = true → getObj s (BitVec.ofNat 16 (fld (iw i 1) 31 16)) = some o →
      o.closing = true ∨ o.size.toNat ≤ (iw i 2).toNat ∨ (iw i 2).toNat % slotSize s ≠ 0 →
      exec (.apertureSet x) s = .next (settle (completeItem s x 0x67)))) ∧
  (∀ (x : ItemRef) (i : Item) (c : Context) (s : State), itemReady s x 0x4A i c = true →
    (s.host.cxl = false → exec (.hdmSet x) s = .next (settle (completeItem s x 0x68))) ∧
    (s.host.cxl = true → bit (iw i 1) 32 = false →
      exec (.hdmSet x) s = .next (settle (completeItem { s with hdm := Tbl.set 0 s.hdm (fld (iw i 1) 1 0) 0 } x 0x00))) ∧
    (∀ o, s.host.cxl = true → bit (iw i 1) 32 = true → getObj s (BitVec.ofNat 16 (fld (iw i 1) 31 16)) = some o → o.closing = false →
      exec (.hdmSet x) s = .next (settle (completeItem
        { s with hdm := Tbl.set 0 s.hdm (fld (iw i 1) 1 0) ((BitVec.ofNat 16 (fld (iw i 1) 31 16)).toNat + 1) } x 0x00))) ∧
    (s.host.cxl = true → bit (iw i 1) 32 = true → getObj s (BitVec.ofNat 16 (fld (iw i 1) 31 16)) = none →
      exec (.hdmSet x) s = .next (settle (completeItem s x 0x29)))) ∧
  (∀ (off : BitVec 39) (op : Bar4Op) (o : MemObj) (a : Nat) (s t : State), apertureAt s off.toNat (bar4Bytes op) = some (o, a) →
    s.cfg.mse = true → s.cfg.d3hot = false → meetMem s (objPart s o) o.hbm a (bar4Bytes op) = (t, true) →
    (∀ n, op = .read n → exec (.bar4Access off op) s = .next (settle (emit (devReadLog t (objPart t o) o.hbm a n)
      (.bar4Reply (devRead t (objPart t o) o.hbm a n).1 (devRead t (objPart t o) o.hbm a n).2)))) ∧
    (∀ d, op = .write d → exec (.bar4Access off op) s = .next (settle (hostSideWrite t (objPart t o) o.hbm a d false))) ∧
    (∀ n v, op = .fetchAdd n v → bar4Supported off.toNat op = true → exec (.bar4Access off op) s = .next (settle
      (apertureAtomic t o a n fun y => (y + v.toNat) % 2 ^ (8 * n)))) ∧
    (∀ n v, op = .swap n v → bar4Supported off.toNat op = true → exec (.bar4Access off op) s = .next (settle
      (apertureAtomic t o a n fun _ => v.toNat % 2 ^ (8 * n)))) ∧
    (∀ n y v, op = .cas n y v → bar4Supported off.toNat op = true → exec (.bar4Access off op) s = .next (settle
      (apertureAtomic t o a n fun z => if z = y.toNat % 2 ^ (8 * n) then v.toNat % 2 ^ (8 * n) else z)))) ∧
  (∀ (off : BitVec 39) (op : Bar4Op) (s : State), apertureAt s off.toNat (bar4Bytes op) = none ∨ s.cfg.mse = false ∨
    s.cfg.d3hot = true ∨ bar4Supported off.toNat op = false → exec (.bar4Access off op) s = .next (settle (emit s .bar4Unsupported))) ∧
  (∀ (n : BitVec 6) (s : State), exec (.bar4Resize n) s = .next (settle (
    if s.cfg.mse = false ∧ 29 ≤ n.toNat ∧ n.toNat ≤ 39 then { s with cfg := { s.cfg with bar4Log := n }, apertures := [] } else s))) ∧
  (∀ (dec : BitVec 2) (off : Dword) (k a : Nat) (o : MemObj) (part : BitVec 4) (s t : State), s.host.cxl = true →
    Tbl.get 0 s.hdm dec.toNat = k + 1 → getObj s (BitVec.ofNat 16 k) = some o → part = objPart s o → a = o.base.toNat + off.toNat →
    o.cuffed = false →
    (∀ n, off.toNat + n ≤ o.size.toNat → memRange s part o.hbm a n = true → meetMem s part o.hbm a n = (t, true) →
      exec (.coherentWindowAccess dec off (.hostRead n)) s = .next (settle (emit { devReadLog t part o.hbm a n with
        cohHeld := t.cohHeld ++ ((unitsOf 64 a n).map (cohLine part o.hbm)).filter fun l => !(t.cohHeld.contains l) }
        (.cohReply (devRead t part o.hbm a n).1 (devRead t part o.hbm a n).2)))) ∧
    (∀ d, off.toNat + d.length ≤ o.size.toNat → memRange s part o.hbm a d.length = true → meetMem s part o.hbm a d.length = (t, true) →
      memRange t part o.hbm a d.length = true →
      exec (.coherentWindowAccess dec off (.hostWrite d)) s = .next (settle (hostSideWrite t part o.hbm a d false)))) ∧
  (∀ (w : Option Word) (reg : BitVec 10) (s : State), s.life.ready = false →
    exec (.configurationRequest w reg) s = .next (settle (emit s .cfgRetry))) ∧
  (∀ (reg : BitVec 10) (s : State), s.life.ready = true →
    exec (.configurationRequest none reg) s = .next (settle (emit s (.cfgReply (cfgRead s reg.toNat))))) ∧
  (∀ (reg : BitVec 10) (w : Word) (s : State), s.life.ready = true →
    exec (.configurationRequest (some w) reg) s = .next (settle (emit (cfgWrite s reg.toNat w) (.cfgReply 0))))

/-! ### Gloves -/

/-- R167 to R170, R182, R196: what every glove-wide item checks first. An unknown glove completes it with 0x46; a frozen glove with 0x42
unless it repairs; an epoch that is not the glove's next one, or for a repair not a later one, with 0x41. EPOCH 0 stands for no change of
epoch where the item is not glove-wide. R162 to R164, R169, R170, R176, R183, R184: what glove items do. A glove opens on a free partition
with its members; a slice and its channels and links are fitted; vcores are bound, unbound once their cores have stopped, and moved;
members join and leave; a glove closes once its cores have stopped, and not while a kernel runs unless it aborts; crown records are read,
twins set, pairs committed. -/
def Obligations.GloveItems : Prop :=
  ((∀ (s : State) (i : Item) (wide frozenOk : Bool), getGlove s (giGid i) = none → preGlove s i wide frozenOk = .error 0x46) ∧
    (∀ (s : State) (i : Item) (g : Glove) (wide : Bool), getGlove s (giGid i) = some g → g.frozen = true → giRepair i = false →
      preGlove s i wide false = .error 0x42) ∧
    (∀ (s : State) (i : Item) (g : Glove) (wide frozenOk : Bool), getGlove s (giGid i) = some g →
      (g.frozen = false ∨ giRepair i = true ∨ frozenOk = true) →
      preGlove s i wide frozenOk =
        if (giEpoch i = 0 ∧ wide = false) ∨ (giEpoch i ≠ 0 ∧ giRepair i = true ∧ g.epoch < giEpoch i) ∨
          (giEpoch i ≠ 0 ∧ giRepair i = false ∧ giEpoch i = g.epoch + 1) then .ok g else .error 0x41) ∧
    (∀ (x : ItemRef) (r : Reply) (i : Item) (c : Context) (st : Nat) (s : State), preGlove s i true false = .error st →
      (itemReady s x 0x62 i c = true → exec (.vcoreBind x r) s = .next (settle (completeItem s x st))) ∧
      (itemReady s x 0x64 i c = true → exec (.vcoreUnbind x r) s = .next (settle (completeItem s x st))) ∧
      (itemReady s x 0x67 i c = true → exec (.memberJoin x r) s = .next (settle (completeItem s x st))) ∧
      (itemReady s x 0x68 i c = true → exec (.memberLeave x r) s = .next (settle (completeItem s x st))) ∧
      (itemReady s x 0x6B i c = true → exec (.pairSet x) s = .next (settle (completeItem s x st)))) ∧
    (∀ (x : ItemRef) (r : Reply) (i : Item) (c : Context) (st : Nat) (s : State), preGlove s i false false = .error st →
      (itemReady s x 0x61 i c = true → exec (.sliceFit x r) s = .next (settle (completeItem s x st))) ∧
      (itemReady s x 0x65 i c = true → exec (.channelRefit x r) s = .next (settle (completeItem s x st))) ∧
      (itemReady s x 0x66 i c = true → exec (.linkRefit x) s = .next (settle (completeItem s x st))) ∧
      (itemReady s x 0x63 i c = true → exec (.vcoreMove x r) s = .next (settle (completeItem s x st))))) ∧
  ((∀ (x : ItemRef) (r : Reply) (i : Item) (c : Context) (b : List Byte) (s t : State), itemReady s x 0x60 i c = true →
      ((getGlove s (giGid i)).isSome = true → exec (.gloveOpen x r) s = .next (settle (completeItem s x 0x4D))) ∧
      (getGlove s (giGid i) = none → (giList i).toNat % 8 = 0 → readVa s c (some x) r (giList i) (memberBytes i) = .ok t b →
        exec (.gloveOpen x r) s = .next (settle (gloveOpenWith t x i (leWords ((memberBytes i + 7) / 8) b))))) ∧
    (∀ (x : ItemRef) (r : Reply) (i : Item) (c : Context) (g : Glove) (b : List Byte) (s t : State), preGlove s i false false = .ok g →
      (giList i).toNat % 8 = 0 →
      (itemReady s x 0x61 i c = true → readVa s c (some x) r (giList i) 896 = .ok t b →
        exec (.sliceFit x r) s = .next (settle (sliceFitWith t x i g (leWords 112 b)))) ∧
      (itemReady s x 0x65 i c = true → readVa s c (some x) r (giList i) 640 = .ok t b →
        exec (.channelRefit x r) s = .next (settle (channelRefitWith t x i g (leWords 80 b)))) ∧
      (itemReady s x 0x63 i c = true → readVa s c (some x) r (giList i) (8 * giCount i) = .ok t b →
        exec (.vcoreMove x r) s = .next (settle (vcoreMoveWith t x i g (leWords ((8 * giCount i + 7) / 8) b))))) ∧
    (∀ (x : ItemRef) (r : Reply) (i : Item) (c : Context) (g : Glove) (b : List Byte) (s t : State), preGlove s i true false = .ok g →
      (giList i).toNat % 8 = 0 →
      (itemReady s x 0x62 i c = true → readVa s c (some x) r (giList i) (8 * giCount i) = .ok t b →
        exec (.vcoreBind x r) s = .next (settle (vcoreBindWith t x i g (leWords ((8 * giCount i + 7) / 8) b)))) ∧
      (itemReady s x 0x64 i c = true → readVa s c (some x) r (giList i) (8 * giCount i) = .ok t b →
        exec (.vcoreUnbind x r) s = .next (settle (vcoreUnbindWith t x g (leWords ((8 * giCount i + 7) / 8) b)))) ∧
      (itemReady s x 0x67 i c = true → readVa s c (some x) r (giList i) (memberBytes i) = .ok t b →
        exec (.memberJoin x r) s = .next (settle (memberJoinWith t x i g (leWords ((memberBytes i + 7) / 8) b)))) ∧
      (itemReady s x 0x68 i c = true → readVa s c (some x) r (giList i) (memberBytes i) = .ok t b →
        exec (.memberLeave x r) s = .next (settle (memberLeaveWith t x i g (leWords ((memberBytes i + 7) / 8) b))))) ∧
    (∀ (s : State) (x : ItemRef) (i : Item) (g : Glove) (ws : List Dword),
      firstStatus (bindStatuses s g ws [] []) = none →
      vcoreBindWith s x i g ws = gloveDone (ws.foldl (fun s w => bindVcore s g w) s) x g.gid (giEpoch i)) ∧
    (∀ (s : State) (g : Glove) (w : Dword), bindVcore s g w =
      let t := dirWrite s g (beVcore w).toNat (dirPack (beNode w) (beKind w) 0)
      if beNode w = t.node then fitSync (setBinding t (bePcore w)
        { vcore := beVcore w, gid := g.gid, sgCl := beCl w, sgSlot := beSlot w, state := 1, part := g.part }) g.gid g.part (beCl w) (beSlot w)
      else t) ∧
    (∀ (x : ItemRef) (i : Item) (c : Context) (g : Glove) (s : State), preGlove s i false false = .ok g → itemReady s x 0x66 i c = true →
      exec (.linkRefit x) s = .next (settle (
        if i.words.getD 4 0 &&& ~~~((getPart s g.part.toNat).links ||| g.links) ≠ 0 then completeItem s x 0x4A
        else gloveDone (setGlove s { g with links := i.words.getD 4 0, linked := true }) x g.gid (giEpoch i)))) ∧
    (∀ (x : ItemRef) (i : Item) (c : Context) (g : Glove) (s : State), preGlove s i false true = .ok g → itemReady s x 0x69 i c = true →
      exec (.gloveClose x) s = .next (settle (
        if gloveBusy s g.gid = true ∧ bit (i.words.getD 3 0) 17 = false then completeItem s x 0x4D
        else startDrop s x [] (gloveCores s g.gid)))) ∧
    (∀ (x : ItemRef) (i : Item) (c : Context) (g : Glove) (s : State), preGlove s i true false = .ok g → itemReady s x 0x6B i c = true →
      exec (.pairSet x) s = .next (settle (gloveDone (setGlove s
        { g with twin := BitVec.ofNat 24 (fld (i.words.getD 3 0) 40 17) }) x g.gid (giEpoch i)))) ∧
    (∀ (x : ItemRef) (i : Item) (c : Context) (g : Glove) (s : State), itemReady s x 0x6A i c = true → getGlove s (giGid i) = some g →
      giEpoch i = 0 → (giList i).toNat % 8 = 0 →
      (writeRecord s x c (giList i) (crownRecord g) 0).faults.length ≤ s.faults.length →
      exec (.crownRead x) s = .next (settle (writeRecord s x c (giList i) (crownRecord g) 0))) ∧
    (∀ (x : ItemRef) (r : Reply) (i : Item) (c : Context) (g : Glove) (b : List Byte) (s t : State), itemReady s x 0x6C i c = true →
      getGlove s (giGid i) = some g → giEpoch i = 0 → 1 ≤ giCount i → giCount i ≤ 65536 → iw i 6 ≠ 0 → (iw i 5).toNat % 8 = 0 →
      (giList i).toNat % 8 = 0 → readVa s c (some x) r (iw i 5) 8 = .ok t b →
      exec (.pairCommit x r) s = .next (settle (if iw i 6 ≤ (leWords 1 b).getD 0 0 then completeItem t x 0x01 else startXfer t x))))

/-- R172 to R176, Table 7.9: the moves of vcores between members. PREPARE reserves a core and is accepted or refused with a status; ACCEPT
asks for the source's point; image chunks in order are kept and acknowledged; the last acknowledgement swaps; COMMIT binds and resumes;
the time limits force the point, end forwarding and release a destination that no COMMIT reached. -/
def Obligations.VcoresMove : Prop :=
  (∀ (p q : Packet) (g : Glove) (v : BitVec 16) (pc : Nat) (cl : BitVec 5) (slot : BitVec 3) (gen : Byte) (s u : State),
    received s p 0x0D = some (u, q) → msgCode q = 0x01 → v = BitVec.ofNat 16 (msgField q 0 2) → pc = msgField q 3 2 →
    cl = BitVec.ofNat 5 (msgField q 5 1) → slot = BitVec.ofNat 3 (msgField q 6 1) → gen = BitVec.ofNat 8 (msgField q 7 1) →
    getGlove u q.gid = some g → v.toNat < g.vcount → coreStatus u g pc (BitVec.ofNat 2 (msgField q 2 1)) cl slot = [] →
    exec (.prepare p) s = .next (settle (
      let w := fitSync (setBinding u pc
        { vcore := v, gid := g.gid, gen := gen + 1, sgCl := cl, sgSlot := slot, state := 3, part := g.part }) g.gid g.part cl slot
      sendMsg { w with moveIns := w.moveIns ++ [{ pid := pc, gid := g.gid, vcore := v, src := q.src, gen := gen + 1 }] }
        q.src q.gid 0 0x02 0 (vcoreAddr 0 v 0 0 0) (leBytes 2 v.toNat ++ [])))) ∧
  (∀ (p q : Packet) (s u : State), received s p 0x0D = some (u, q) → msgCode q = 0x01 → getGlove u q.gid = none →
    exec (.prepare p) s = .next (settle (sendMsg u q.src q.gid 0 0x03 0 (vcoreAddr 0 (BitVec.ofNat 16 (msgField q 0 2)) 0 0 0)
      (leBytes 2 (BitVec.ofNat 16 (msgField q 0 2)).toNat ++ [0x46])))) ∧
  (∀ (p q : Packet) (m : Move) (s u : State), received s p 0x0D = some (u, q) → msgCode q = 0x02 → moveOf u q = some m → m.stage = .prepare →
    exec (.accept p) s = .next (settle (requestRefit
      { u with moves := u.moves.map fun k => if k == m then { m with stage := .point } else k } { m with stage := .point }))) ∧
  (∀ (p q : Packet) (m : Move) (s u : State), received s p 0x0D = some (u, q) → msgCode q = 0x03 → moveOf u q = some m →
    exec (.refuse p) s = .next (settle (abortMove u m (if m.stage = .prepare then msgField q 2 1 else 0x4B)))) ∧
  (∀ (p q : Packet) (m n : MoveIn) (s u : State), received s p 0x0D = some (u, q) → msgCode q = 0x05 →
    (u.moveIns.find? fun m => m.gid == q.gid && m.vcore == BitVec.ofNat 16 (fld q.addr 55 40) && m.src == q.src) = some m →
    n = (if m.image.length = 192 * fld q.ext 31 8 then { m with image := m.image ++ q.data } else m) →
    exec (.image p) s = .next (settle (sendMsg { u with moveIns := u.moveIns.map fun k => if k == m then n else k } q.src q.gid 2 0x06 0
      (vcoreAddr 0 (BitVec.ofNat 16 (fld q.addr 55 40)) 0 0 0)
      (leBytes 2 (BitVec.ofNat 16 (fld q.addr 55 40)).toNat ++ leBytes 4 ((n.image.length + 191) / 192))))) ∧
  (∀ (p q : Packet) (m : Move) (s u : State), received s p 0x0D = some (u, q) → msgCode q = 0x06 → moveOf u q = some m →
    exec (.imageAck p) s = .next (settle (
      if m.stage = .copy ∧ m.chunks ≤ msgField q 2 4 then swapCross u m else u))) ∧
  (∀ (p q : Packet) (v : BitVec 16) (m : MoveIn) (s u t : State), received s p 0x0D = some (u, q) → msgCode q = 0x04 →
    v = BitVec.ofNat 16 (msgField q 0 2) → (u.moveIns.find? fun m => m.gid == q.gid && m.vcore == v && m.src == q.src) = some m →
    t = { u with moveIns := u.moveIns.filter fun k => !(k == m) } →
    exec (.commit p) s = .next (settle (m.stash.foldl (fun s k => servePkt k s m.pid) (resumeImage
      (setBinding t m.pid { getBinding t m.pid with state := 1, gen := BitVec.ofNat 8 (msgField q 2 1), swapped := some t.refNs })
      m.pid (imageOf (slotKind m.pid) v q.gid m.image))))) ∧
  (∀ (c : Fin 320) (s : State), (getCore s c.val).point = .refit →
    (s.moves.any fun m => m.src == c.val && m.stage == .point && m.force != 0xFFFF) = true →
    exec (.forceTimeout c) s = .next (settle (setCore s c.val { getCore s c.val with forced := true }))) ∧
  (∀ (c : Fin 320) (s : State), exec (.forwardingRecordExpire c) s =
    .next (settle (kickMoves { s with forwards := s.forwards.filter fun f => !(f.pid == c.val) }))) ∧
  (∀ (c : Fin 320) (m : MoveIn) (g : Glove) (s t : State), (s.moveIns.find? fun m => m.pid == c.val) = some m →
    t = abortIn s m false → getGlove t m.gid = some g →
    exec (.acceptCommitTimeout c) s = .next (settle (logEvent t 0x0000 0x08 true
      (leBytes 4 m.gid.toNat ++ leBytes 4 ((rankOf g m.src).getD 0) ++ leBytes 2 0x13 ++ leBytes 4 0))))

/-- R170, R175, R179, R181, R182, R270: the messages that keep members alike. A binding update that is the next one is applied, a later
one is held, any other freezes the glove; a child's report is kept, and rank 0 agrees or freezes; a mismatch travels up; AGREED is
recorded and passed down, ending a freeze of an earlier epoch; a malformed packet is dropped and counted. -/
def Obligations.CrownsAgree : Prop :=
  (∀ (p q : Packet) (g : Glove) (b : BindUpdate) (s u : State), received s p 0x0D = some (u, q) → msgCode q = 0x07 → getGlove u q.gid = some g →
    b = { vcore := BitVec.ofNat 16 (msgField q 0 2), node := BitVec.ofNat 17 (msgField q 2 4), kind := BitVec.ofNat 2 (msgField q 6 1),
          epoch := BitVec.ofNat 32 (msgField q 7 4), src := q.src } →
    (updateFits g b = true → exec (.bindingUpdate p) s = .next (settle (epochChanged (applyUpdate u g.gid b) g.gid))) ∧
    (updateFits g b = false → g.epoch < b.epoch → g.held.length < 16 →
      exec (.bindingUpdate p) s = .next (settle (setGlove u { g with held := g.held ++ [b] }))) ∧
    (updateFits g b = false → ¬ (g.epoch < b.epoch ∧ g.held.length < 16) →
      exec (.bindingUpdate p) s = .next (settle (updateConflict u g b)))) ∧
  (∀ (p q : Packet) (g h : Glove) (k : Nat) (s u : State), received s p 0x0D = some (u, q) → msgCode q = 0x08 → getGlove u q.gid = some g →
    rankOf g q.src = some k →
    h = keepReport g { rank := BitVec.ofNat 17 k, epoch := BitVec.ofNat 32 (msgField q 0 4), count := msgField q 4 4,
                       digest := BitVec.ofNat 384 (msgField q 8 48) } →
    exec (.crown p) s = .next (settle (if (parentRank g).isNone then sendCrown (setGlove u h) g.gid else setGlove u h))) ∧
  (∀ (p q : Packet) (g h : Glove) (k : Nat) (s u : State), received s p 0x0D = some (u, q) → msgCode q = 0x09 → getGlove u q.gid = some g →
    rankOf g q.src = some k →
    h = keepReport g { rank := BitVec.ofNat 17 k, mismatch := true, epoch := BitVec.ofNat 32 (msgField q 0 4),
                       epochB := BitVec.ofNat 32 (msgField q 4 4), rankA := BitVec.ofNat 17 (msgField q 8 4),
                       rankB := BitVec.ofNat 17 (msgField q 12 4) } →
    exec (.mismatch p) s = .next (settle (sendCrown (setGlove u h) g.gid))) ∧
  (∀ (p q : Packet) (g : Glove) (s u : State), received s p 0x0D = some (u, q) → msgCode q = 0x0A → getGlove u q.gid = some g →
    exec (.agreed p) s = .next (settle (agreeGlove u g.gid (BitVec.ofNat 32 (msgField q 0 4)) (BitVec.ofNat 384 (msgField q 4 48))))) ∧
  (∀ (gid : BitVec 24) (g : Glove) (epoch : Word) (digest : BitVec 384) (s : State), getGlove s gid = some g →
    agreeGlove s gid epoch digest = kickMoves (castMsg
      (setGlove s { g with agreed := epoch, frozen := g.frozen && decide (epoch ≤ g.mismatch) }) g (crownChildren g) 0x0A
      (leBytes 4 epoch.toNat ++ leBytes 48 digest.toNat))) ∧
  (∀ (p q : Packet) (g : Glove) (e : Word) (s u : State), received s p 0x0D = some (u, q) → msgCode q = 0x0B → getGlove u q.gid = some g →
    e = BitVec.ofNat 32 (msgField q 0 4) →
    exec (.freeze p) s = .next (settle (freezeGlove u g.gid e e g.epoch (msgField q 4 4) (msgField q 8 4) false))) ∧
  (∀ (gid : BitVec 24) (s : State), exec (.crownGossipTick gid) s = .next (settle (kickMoves (sendCrown s gid)))) ∧
  (∀ (p : Packet) (s : State), arrives s p = true → badHeader p = true →
    exec (.malformedPacket p) s = .next (settle (countDup (takeRx s p))))

/-! ### Links -/

/-- R242 to R245, R252 to R259, R260, R404: a link trains from DETECT through TRAIN, LOCK, IDENT and QUALIFY into service, each step that
fails leaving it FAILED with a cause; three failures in a row end the trials; one failing lane is replaced by the group's spare or leaves
three lanes; a retrain within 2 ms with the same partner resumes and any other trains in full. The manager enables and retrains links; the
host's writes are ignored and counted. -/
def Obligations.LinksTrain : Prop :=
  (∀ (l : Fin 64) (s : State), (getLink s l.val).st = 1 →
    exec (.linkSignalDetected l) s = .next (settle (changeLink s l.val fun x => { x with st := 2 })) ∧
    exec (.noSignal l) s = .next (settle (linkFail s l.val 0x01))) ∧
  (∀ (l : Fin 64) (s : State), (getLink s l.val).st ≠ 1 → (getLink s l.val).inService = true →
    exec (.noSignal l) s = .next (settle (goDown s l.val 0x01))) ∧
  (∀ (l : Fin 64) (s : State), (getLink s l.val).st = 2 →
    exec (.lanesTrained l) s = .next (settle (changeLink s l.val fun x => { x with st := 3 })) ∧
    exec (.trainTimeout l) s = .next (settle (linkFail s l.val 0x02))) ∧
  (∀ (l : Fin 64) (whole : Bool) (lanes : Byte) (s : State), (getLink s l.val).st = 3 →
    exec (.lanesLocked l (.locked whole lanes)) s = .next (settle (sendIdentity
      (noteWhole (changeLink s l.val fun x => { x with st := 4, laneMap := lanes }) (l.val / 4) whole) l.val)) ∧
    exec (.lanesLocked l .mixed) s = .next (settle (linkFail s l.val 0x03))) ∧
  (∀ (l : Fin 64) (b : Identity) (s : State), b.spare = false → (getLink s l.val).st = 4 →
    (b.proto ≠ 1 → exec (.identityBlock l b) s = .next (settle (linkFail s l.val 0x0A))) ∧
    (b.proto = 1 → mismatched (getLink s l.val) b = true → exec (.identityBlock l b) s = .next (settle (linkFail
      (linkEvent (updLink s l.val fun y => { y with partner := some b }) l.val 0x04 1) l.val 0x04))) ∧
    (b.proto = 1 → mismatched (getLink s l.val) b = false → (getLink s l.val).hold = false →
      exec (.identityBlock l b) s = .next (settle (changeLink
        (compareSpare (updLink s l.val fun y => { y with partner := some b, valid := true }) l.val b) l.val
        fun x => { x with st := 5, qualBad := 0 })))) ∧
  (∀ (l : Fin 64) (b : Identity) (s : State), b.spare = false → (getLink s l.val).st ≠ 4 → (getLink s l.val).inService = true →
    exec (.identityBlock l b) s = .next (settle (updLink s l.val fun y =>
      { y with partner := y.partner.map fun p => { p with node := b.node } }))) ∧
  (∀ (l : Fin 64) (bits : List Nat) (spare : Option Nat) (lost : BitVec 4) (s t : State), (getLink s l.val).st = 5 →
    lost = qualFailing s l.val bits →
    t = (if (getGroup s (l.val / 4)).spare = 0 then spareMeasured s (l.val / 4) spare else s) →
    (popcount lost = 0 → exec (.qualifyWindowEnd l ⟨bits, spare⟩) s = .next (settle (enterService t l.val 4))) ∧
    (popcount lost = 1 → spareUsable t (l.val / 4) = true → exec (.qualifyWindowEnd l ⟨bits, spare⟩) s = .next (settle (enterService
      (takeSpare t (l.val / 4) (lanePair t l.val (BitVec.ofNat 2 (nthSet lost 0)))) l.val 4))) ∧
    (popcount lost = 1 → spareUsable t (l.val / 4) = false → exec (.qualifyWindowEnd l ⟨bits, spare⟩) s = .next (settle (updLink
      (enterService t l.val 3) l.val fun y => { y with dropped := BitVec.ofNat 2 (nthSet lost 0) }))) ∧
    (2 ≤ popcount lost → exec (.qualifyWindowEnd l ⟨bits, spare⟩) s = .next (settle (linkFail t l.val 0x05)))) ∧
  (∀ (l : Fin 64) (s : State), (getLink s l.val).st = 9 →
    exec (.failedRetryTimer l) s = .next (settle (if (getLink s l.val).fails = 3 then s else startTraining s l.val))) ∧
  (∀ (l : Fin 64) (b : Identity) (short : Bool) (s : State), (getLink s l.val).st = 8 →
    (short = true → samePartner (getLink s l.val) b = true → b.proto = 1 → mismatched (getLink s l.val) b = false →
      exec (.retrainDone l b short) s = .next (settle (sendLink (keptVerdict (replay (updLink (compareSpare
        (changeLink s l.val fun y => { y with st := y.before, partner := some b }) l.val b) l.val fun y => { y with replays := 0 })
        l.val) l.val) l.val))) ∧
    (short = false ∨ samePartner (getLink s l.val) b = false →
      exec (.retrainDone l b short) s = .next (settle (goDown s l.val 0x07))) ∧
    (short = true → samePartner (getLink s l.val) b = true → b.proto ≠ 1 → exec (.retrainDone l b short) s = .next (settle
      (linkFail (leaveService s l.val 0x0A 9) l.val 0x0A))) ∧
    (short = true → samePartner (getLink s l.val) b = true → b.proto = 1 → mismatched (getLink s l.val) b = true →
      exec (.retrainDone l b short) s = .next (settle (linkFail (linkEvent (leaveService s l.val 0x04 9) l.val 0x04 1) l.val 0x04)))) ∧
  (∀ (l : Fin 64) (s : State), (getLink s l.val).st = 8 → exec (.retrainTimeout l) s = .next (settle (goDown s l.val 0x07))) ∧
  (∀ (l : Fin 64) (s : State), exec (.holdRestartTimeout l) s =
    .next (settle (if (getLink s l.val).hold then startTraining s l.val else s))) ∧
  (∀ (l : Fin 64) (on : Bool) (s : State),
    (exec (.fabLinkEnable .host l on) s = .next (settle (ignoreHostWrite s))) ∧
    (exec (.fabLinkRetrain .host l) s = .next (settle (ignoreHostWrite s))) ∧
    (frozenBlock s 4 = false → linkRegs s l.val = true →
      exec (.fabLinkEnable .manager l on) s = .next (settle (linkEnable s l.val on)) ∧
      exec (.fabLinkRetrain .manager l) s = .next (settle (linkRetrain s l.val))))

/-- R246 to R249: the link layer. A good flit's ACK and credit are taken, and then the link sends what it can; a DATA flit with the
expected SEQ enters the receive buffer, a duplicate is acknowledged again and any other is discarded; a NAK and the replay timer send the
retry buffer again; a flit that fails its CRC is counted, with one NAK until the expected SEQ arrives. R252 to R257, R259: lanes. A fault
reported by the partner or found here drops the lane, or takes the link down when it runs on three already; the spare is asked for,
answered and acknowledged; errors of one lane within a second fault it and of two lanes retrain the link; a BER above one in 10,000 faults
the lane. -/
def Obligations.FlitsAndLanes : Prop :=
  ((∀ (l : Fin 64) (f : Flit) (s : State), goodFlit s l.val f 1 = true →
      exec (.dataFlit l f) s = .next (settle (sendLink (takeData (takeHeader s l.val f) l.val f) l.val))) ∧
    (∀ (n : Nat) (f : Flit) (s : State), f.seq = (getLink s n).rxSeq → takeData s n f = count (setLink s n { getLink s n with
      rxSeq := (getLink s n).rxSeq + 1
      nakSent := false
      rxBuf := (getLink s n).rxBuf ++ [{ f.pkt with vc := f.vc, link := BitVec.ofNat 6 n, prio := none, maybe := false }] }) 6 n 5) ∧
    (∀ (n : Nat) (f : Flit) (s : State), f.seq ≠ (getLink s n).rxSeq → takeData s n f =
      if ((getLink s n).rxSeq - f.seq).toNat < 2 ^ 11 then emitFlit s n ((getLink s n).header 0) else s) ∧
    (∀ (l : Fin 64) (f : Flit) (s : State), goodFlit s l.val f 2 = true →
      exec (.ctrlFlit l f) s = .next (settle (sendLink (updLink (takeHeader s l.val f) l.val fun x => { x with
        ccumIn := (f.ccums.take 4).zipIdx.foldl (fun t e => Tbl.upd 0 t e.2 fun c => ccumTake c e.1) x.ccumIn }) l.val))) ∧
    (∀ (l : Fin 64) (f : Flit) (s : State), goodFlit s l.val f 3 = true →
      exec (.nak l f) s = .next (settle (sendLink (replay (takeHeader s l.val f) l.val) l.val))) ∧
    (∀ (l : Fin 64) (f : Flit) (s : State), goodFlit s l.val f 0 = true →
      exec (.idleFlit l f) s = .next (settle (sendLink (takeHeader s l.val f) l.val))) ∧
    (∀ (l : Fin 64) (s : State), ((getLink s l.val).replayAt.all fun t => decide (t + 2000 ≤ s.refNs)) = true →
      exec (.replayTimeout l) s = .next (settle (replay s l.val))) ∧
    (∀ (l : Fin 64) (f : Flit) (s : State), (getLink s l.val).up = true → badFlit f = true →
      exec (.dataFlit l f) s = .next (settle (crcFail s l.val)) ∧ exec (.ctrlFlit l f) s = .next (settle (crcFail s l.val)) ∧
      exec (.nak l f) s = .next (settle (crcFail s l.val)) ∧ exec (.idleFlit l f) s = .next (settle (crcFail s l.val))) ∧
    (∀ (n : Nat) (s : State), (getLink (count s 6 n 2) n).nakSent = true → crcFail s n = count s 6 n 2)) ∧
  ((∀ (l : Fin 64) (f : Flit) (s : State), goodLane s l.val f 1 = true →
      exec (.laneDrop l f) s = .next (settle (sendLink (laneFault (takeHeader s l.val f) l.val (f.pair.setWidth 2) false) l.val))) ∧
    (∀ (l : Fin 64) (f : Flit) (k : BitVec 2) (s t : State), goodLane s l.val f 2 = true → t = takeHeader s l.val f → k = f.pair.setWidth 2 →
      exec (.laneSpareIn l f) s = .next (settle (sendLink
        (if (getLink t l.val).lanes = 3 ∧ (findElem t (.lane l (physLane t l.val k))).testing then updLink t l.val fun x => { x with asked := true }
         else takeSpareIn t l.val k) l.val))) ∧
    (∀ (l : Fin 64) (f : Flit) (p : BitVec 2) (s t : State), goodLane s l.val f 3 = true → t = takeHeader s l.val f →
      (getLink t l.val).bringIn = some p →
      exec (.laneSpareAck l f) s = .next (settle (sendLink (
        if (getLink t l.val).rejoin then fourLanes t l.val
        else if spareUsable t (l.val / 4) then fourLanes (takeSpare t (l.val / 4) (lanePair t l.val p)) l.val
        else bringInDone (linkEvent t l.val 0 2) l.val) l.val))) ∧
    (∀ (l : Fin 64) (p : BitVec 2) (s : State), (getLink s l.val).bringIn = some p →
      exec (.spareAckTimeout l) s = .next (settle (bringInDone (linkEvent s l.val 0 3) l.val))) ∧
    (∀ (l : Fin 64) (f : Flit) (s : State), goodLane s l.val f 4 = true →
      exec (.laneRetrainReq l f) s = .next (settle (sendLink (startRetrain (takeHeader s l.val f) l.val false) l.val))) ∧
    (∀ (l : Fin 64) (f : Flit) (s : State), goodLane s l.val f 5 = true →
      exec (.laneHold l f) s = .next (settle (sendLink (holdLink (takeHeader s l.val f) l.val) l.val))) ∧
    (∀ (g : Fin 16) (s t : State), (getGroup s g.val).spare = 0 → t = setGroup s g.val { getGroup s g.val with warm := false } →
      (findElem t (.spareLane g)).testing = true → exec (.spareNotWarmTimeout g) s = .next (settle t)) ∧
    (∀ (g : Fin 16) (e : ElemErr) (s t : State), (getGroup s g.val).spare = 0 → t = setGroup s g.val { getGroup s g.val with warm := false } →
      e = findElem t (.spareLane g) → e.testing = false →
      exec (.spareNotWarmTimeout g) s = .next (settle (setElem t
        { e with testing := true, source := 0x05, severity := 0, detail := 0, injected := false }))) ∧
    (∀ (l : Fin 64) (lane : Fin 5) (s : State),
      (lane.val ≠ 4 → (getLink s l.val).hold = false →
        exec (.laneLockLoss l lane) s = .next (settle (laneFault (updLink s l.val fun x => { x with lockKept := x.lockKept && !x.hold })
          l.val (BitVec.ofNat 2 lane.val) true))) ∧
      (lane.val ≠ 4 → (getLink s l.val).hold = true → (getLink s l.val).heldFaults = [] →
        exec (.laneLockLoss l lane) s = .next (settle (updLink (updLink s l.val fun x => { x with lockKept := false })
          l.val fun x => { x with heldFaults := [BitVec.ofNat 2 lane.val] }))) ∧
      (lane.val = 4 → exec (.laneLockLoss l lane) s = .next (settle (setGroup s (l.val / 4) { getGroup s (l.val / 4) with
        warm := false, lockSince := s.refNs, win := [] })))) ∧
    (∀ (n : Nat) (k : BitVec 2) (inj : Bool) (s : State), (getLink s n).hold = false → (getLink s n).up = true → (getLink s n).lanes = 3 →
      (getLink s n).dropped ≠ k → laneFault s n k false inj = goDown s n 0x06) ∧
    (∀ (l : Fin 64) (lane : BitVec 2) (s t : State), t = count s 6 l.val 1 → (getLink t l.val).up = false →
      (getLink t l.val).hold = false →
      exec (.uncorrectableCodeword l lane) s = .next (settle (setLink t l.val { getLink t l.val with
        uncorr := ((getLink t l.val).uncorr.filter fun e => decide (t.refNs < e.2 + 1000000000)) ++ [(lane, t.refNs)]
        lockKept := (getLink t l.val).lockKept && !(getLink t l.val).hold
        qualBad := if (getLink t l.val).st = 5 then (getLink t l.val).qualBad ||| (1 : BitVec 4) <<< lane.toNat
          else (getLink t l.val).qualBad }))) ∧
    (∀ (l : Fin 64) (lane : BitVec 2) (recent : List (BitVec 2 × Nat)) (s t u : State), t = count s 6 l.val 1 →
      (getLink t l.val).up = true → recent = ((getLink t l.val).uncorr.filter fun e => decide (t.refNs < e.2 + 1000000000)) →
      u = setLink t l.val { getLink t l.val with
        uncorr := recent ++ [(lane, t.refNs)]
        lockKept := (getLink t l.val).lockKept && !(getLink t l.val).hold
        qualBad := if (getLink t l.val).st = 5 then (getLink t l.val).qualBad ||| (1 : BitVec 4) <<< lane.toNat
          else (getLink t l.val).qualBad } →
      exec (.uncorrectableCodeword l lane) s = .next (settle (
        let v := if recent.any (fun e => e.1 == lane) then foundFault u l.val lane else u
        if recent.any (fun e => e.1 != lane) then startRetrain v l.val true else v))) ∧
    (∀ (l : Fin 64) (lane : Fin 5) (bits codewords ppb : Nat) (s t : State), lane.val ≠ 4 →
      t = updLink (countN s 6 l.val 0 codewords) l.val (fun x => { x with
        laneBits := Tbl.upd 0 x.laneBits lane.val (· + BitVec.ofNat 32 bits)
        ber := Tbl.set 0 x.ber lane.val ppb }) →
      exec (.laneBerWindowEnd l lane bits codewords ppb) s = .next (settle (if 100000 < ppb then foundFault t l.val (BitVec.ofNat 2 lane.val) else t))) ∧
    (∀ (l : Fin 64) (lane : Fin 5) (bits codewords ppb : Nat) (s : State), lane.val = 4 →
      exec (.laneBerWindowEnd l lane bits codewords ppb) s = .next (settle (spareWindow s (l.val / 4) bits))))

/-! ### The fabric -/

/-- R226, R271, R274, R275, R326: window requests. A request that the checks of Table 9.7 refuse is answered with the first reason; one
that they pass waits for the domains it touches and is then served: a read in chunks of 192 bytes, a write, one indivisible atomic update
that returns the old value, rows packed in index order; the answer of a write to a line that the host holds waits for the snoop. A fence
is answered once no earlier request of its stream waits, and waits until then. R227, R233, R267, R274: answers at the requester. Data go
to the item's destination in order; an acknowledged write or ring index leaves the table; an atomic answer completes its item; protected
or poisoned old values and refusals fault the context. -/
def Obligations.WindowRequestsAndAnswers : Prop :=
  ((∀ (s : State) (p : Packet) (acc : Acc) (w : Window), w = Tbl.get {} s.windows (fld p.addr 55 44) →
      (w.valid = false → windowEntry s p acc = .error 0x01) ∧
      (w.valid = true → w.closing = true → windowEntry s p acc = .error 0x02) ∧
      (∀ o, w.valid = true → w.closing = false → getObj s w.obj = some o → o.cuffed = true → windowEntry s p acc = .error 0x02) ∧
      (∀ o, w.valid = true → w.closing = false → getObj s w.obj = some o → o.cuffed = false → fld p.addr 63 56 ≠ w.wgen.toNat →
        windowEntry s p acc = .error 0x03) ∧
      (∀ o, w.valid = true → w.closing = false → getObj s w.obj = some o → o.cuffed = false → fld p.addr 63 56 = w.wgen.toNat →
        passesFilter s w p.src = false → windowEntry s p acc = .error 0x04) ∧
      (∀ o, w.valid = true → w.closing = false → getObj s w.obj = some o → o.cuffed = false → fld p.addr 63 56 = w.wgen.toNat →
        passesFilter s w p.src = true → (w.keyed = true → p.keyed = true ∧ p.gid = w.gid) → (p.legacy = true → w.legacyOk = true) →
        hasRight w acc = true → windowEntry s p acc = .ok o)) ∧
    (∀ (p q : Packet) (k : Byte) (s u : State), received s p 0x01 = some (u, q) → windowEntry u q .rd = .error k →
      exec (.fabricReadReq p) s = .next (settle (respond u q 0x02 k [] false))) ∧
    (∀ (p q : Packet) (k : Byte) (s u : State), received s p 0x03 = some (u, q) → windowEntry u q .wr = .error k →
      exec (.fabricWrite p) s = .next (settle (respond u q 0x04 k [] false))) ∧
    (∀ (p q : Packet) (k : Byte) (s u : State), received s p 0x05 = some (u, q) → windowEntry u q .atomic = .error k → fld q.ext 3 0 ≤ 3 →
      exec (.fabricAtomic p) s = .next (settle (respond u q 0x06 k [] false))) ∧
    (∀ (p q : Packet) (k : Byte) (s u : State), received s p 0x07 = some (u, q) → windowEntry u q .rd = .error k →
      exec (.gather p) s = .next (settle (respond u q 0x02 k [] false))) ∧
    (∀ (p q : Packet) (o : MemObj) (n a : Nat) (s u t : State), received s p 0x01 = some (u, q) → windowEntry u q .rd = .ok o → n = q.len.toNat →
      a = o.base.toNat + windowOff q → meetDomains u (memDomains u (objPart u o) o.hbm a (min n 4096)) = (t, true) →
      windowAt t q .rd n (decide (1 ≤ n ∧ n ≤ 4096)) = .ok (o, a) →
      exec (.fabricReadReq p) s = .next (settle ((List.range ((n + 191) / 192)).foldl (fun s c =>
        let r := windowRead s o (a + 192 * c) (min 192 (n - 192 * c))
        respondData s q 0x02 r.1 r.2.1 r.2.2 (BitVec.ofNat 32 c)) (devReadLog t (objPart t o) o.hbm a n)))) ∧
    (∀ (p q : Packet) (o : MemObj) (n a : Nat) (s u t w : State), received s p 0x03 = some (u, q) → windowEntry u q .wr = .ok o → n = q.len.toNat →
      a = o.base.toNat + windowOff q → meetDomains u (memDomains u (objPart u o) o.hbm a (min n 4096)) = (t, true) →
      windowAt t q .wr n (decide (1 ≤ n ∧ n ≤ 192)) = .ok (o, a) → w = devWrite t (objPart t o) o.hbm a (q.data.take n) q.poison →
      exec (.fabricWrite p) s = .next (settle (respondAfter w q 0x04 0 [] false (snoopsIn w (objPart w o) o.hbm a n)))) ∧
    (∀ (p q : Packet) (o : MemObj) (v a : Nat) (r : List Byte × Bool × Bool) (s u t w : State), received s p 0x05 = some (u, q) → windowEntry u q .atomic = .ok o →
      a = o.base.toNat + windowOff q → fld q.ext 3 0 ≤ 3 → meetDomains u (memDomains u (objPart u o) o.hbm a 8) = (t, true) →
      windowAt t q .atomic 8 (windowOff q % 8 == 0) = .ok (o, a) →
      r = windowRead t o a 8 → v = atomicNew (fld q.ext 3 0) (leNat r.1) (leNat (q.data.take 8)) (leNat ((q.data.drop 8).take 8)) →
      w = devWrite (devReadLog t (objPart t o) o.hbm a 8) (objPart t o) o.hbm a (leBytes 8 v) (r.2.1 || q.poison) →
      exec (.fabricAtomic p) s = .next (settle (respondAfter w q 0x06 (dataStatus r.2.1 r.2.2) (if r.2.2 then r.1.map fun _ => 0 else r.1)
        (r.2.1 && !r.2.2) (snoopsIn w (objPart w o) o.hbm a 8)))) ∧
    (∀ (q : Packet) (t : BitVec 5) (k : Byte) (d : List Byte) (bad : Bool) (s : State),
      respondAfter s q t k d bad false = respond s q t k d bad ∧
      respondAfter s q t k d bad true = { s with fab := { s.fab with answers := s.fab.answers ++ [answerTo q t k d bad 0] } }) ∧
    (∀ (p q : Packet) (o : MemObj) (rb nr : Nat) (offs : List Nat) (rows : List (List Byte × Bool × Bool)) (s u t : State),
      received s p 0x07 = some (u, q) → windowEntry u q .rd = .ok o → rb = fld q.ext 7 0 → nr = fld q.ext 15 8 → u.gov.domains = [] →
      4 ≤ rb → rb ≤ 192 → rb % 4 = 0 → 1 ≤ nr → nr ≤ 48 →
      offs = (List.range nr).map (fun j => windowOff q + leNat ((q.data.drop (4 * j)).take 4) * rb) →
      (∀ f ∈ offs, objRange u o f rb = true) →
      t = offs.foldl (fun s f => devReadLog s (objPart s o) o.hbm (o.base.toNat + f) rb) u →
      rows = offs.map (fun f => windowRead t o (o.base.toNat + f) rb) →
      exec (.gather p) s = .next (settle ((List.range ((nr * rb + 191) / 192)).foldl (fun s c =>
        let mine := (rows.zipIdx.filter fun e => decide (e.2 * rb < 192 * c + 192) && decide (192 * c < e.2 * rb + rb)).map (·.1)
        respondData s q 0x02 (((rows.flatMap (·.1)).drop (192 * c)).take 192) (mine.any (·.2.1)) (mine.any (·.2.2)) (BitVec.ofNat 32 c)) t))) ∧
    (∀ (old v cmp : Nat), atomicNew 0 old v cmp = (old + v) % 2 ^ 64 ∧ atomicNew 1 old v cmp = v ∧
      atomicNew 2 old v cmp = (if old = cmp then v else old) ∧ atomicNew 3 old v cmp = max old v) ∧
    (∀ (p q : Packet) (s u : State), received s p 0x0B = some (u, q) →
      (fenceBehind s q = false → exec (.fence p) s = .next (settle (respond u q 0x0C 0 [] false))) ∧
      (fenceBehind s q = true → exec (.fence p) s = .next (settle s))) ∧
    (∀ (p q : Packet) (s u : State), received s p 0x0C = some (u, q) → exec (.fenceResp p) s = .next (settle u))) ∧
  ((∀ (p q : Packet) (r : WinReq) (s u : State), received s p 0x02 = some (u, q) →
      findReq u q (fun w => w == .read || w == .gather) = some r →
      (q.status = 0 ∨ q.status = 0x10 → exec (.fabricReadResp p) s = .next (settle (readChunk u r q))) ∧
      (q.status = 0x11 → exec (.fabricReadResp p) s = .next (settle (faultItem (endReq u r) r.x 5 0x02 r.va 0))) ∧
      (q.status ≠ 0 → q.status ≠ 0x10 → q.status ≠ 0x11 → exec (.fabricReadResp p) s = .next (settle (reqRefused u r q.status)))) ∧
    (∀ (p q : Packet) (r : WinReq) (s u : State), received s p 0x04 = some (u, q) →
      findReq u q (fun w => w == .write || w == .ring) = some r →
      (q.status ≠ 0 → exec (.fabricWriteAck p) s = .next (settle (reqRefused u r q.status))) ∧
      (q.status = 0 → r.use = .ring → exec (.fabricWriteAck p) s = .next (settle (endReq u r))) ∧
      (q.status = 0 → r.use ≠ .ring → exec (.fabricWriteAck p) s = .next (settle (requestDone (endReq u r) r.x)))) ∧
    (∀ (p q : Packet) (r : WinReq) (s u : State), received s p 0x06 = some (u, q) → findReq u q (fun w => w == .atomic) = some r →
      (q.status = 0 → exec (.atomicResp p) s = .next (settle (atomicDone (endReq u r) r.x))) ∧
      (q.status = 0x10 → exec (.atomicResp p) s = .next (settle (stopDone (faultItem (endReq u r) r.x 5 0x01 r.va 0) r.x))) ∧
      (q.status = 0x11 → exec (.atomicResp p) s = .next (settle (stopDone (faultItem (endReq u r) r.x 5 0x02 r.va 0) r.x))) ∧
      (q.status ≠ 0 → q.status ≠ 0x10 → q.status ≠ 0x11 → exec (.atomicResp p) s = .next (settle (reqRefused u r q.status)))) ∧
    (∀ (r : WinReq) (k : Byte) (s : State), r.use ≠ .ring → r.legacy = false →
      reqRefused s r k = stopDone (faultItem (uncountWrite (endReq s r) r) r.x 4 0x0A r.va (windowDetail k r.node r.window)) r.x) ∧
    (∀ (r : WinReq) (k : Byte) (s : State), r.use = .ring → r.legacy = false →
      reqRefused s r k = raise (endReq s r) { ctx := r.ctx, cls := 6, cause := 5, addr := r.va }))

/-- R275, R281 to R285: in-network reduction. A packet enters its tree's combining buffer or is answered NO_TREE; at the root, 16 partials
are added in a window's SRAM or arrive at a tile, and its contributors are told; a vertex that hears nothing answers REFUSED; trees are
set, in the order of their checks, and cleared, their held packets going to the root. -/
def Obligations.ReductionsCombine : Prop :=
  (∀ (p q : Packet) (s u : State), received s p 0x08 = some (u, q) → exec (.reduceWin p) s = .next (settle (reduceIn s u q))) ∧
  (∀ (p q : Packet) (s u : State), received s p 0x09 = some (u, q) → exec (.fabricReduceTile p) s = .next (settle (reduceIn s u q))) ∧
  (∀ (p q : Packet) (k : Byte) (s u t : State), received s p 0x08 = some (u, q) → leftReduce u q = false →
    BitVec.ofNat 7 (extTree q.ext) = 0 → rootDeliver u (combOf q) = .done t k →
    exec (.reduceWin p) s = .next (settle (tellAll t [.packet q.src q.tag q.gid q.addr] k))) ∧
  (∀ (p q : Packet) (k : Byte) (s u t : State), received s p 0x09 = some (u, q) → leftReduce u q = false →
    BitVec.ofNat 7 (extTree q.ext) = 0 → rootDeliver u (combOf q) = .done t k →
    exec (.fabricReduceTile p) s = .next (settle (tellAll t [.packet q.src q.tag q.gid q.addr] k))) ∧
  (∀ (p q : Packet) (t : Tree) (s u v : State), getTree u (BitVec.ofNat 7 (extTree q.ext)).toNat = some t → leftReduce u q = false →
    BitVec.ofNat 7 (extTree q.ext) ≠ 0 → t.gid = q.gid → memberOf u q.gid u.node = true → combEnter u t (combOf q) = (v, none) →
    (received s p 0x08 = some (u, q) → exec (.reduceWin p) s = .next (settle v)) ∧
    (received s p 0x09 = some (u, q) → exec (.fabricReduceTile p) s = .next (settle v))) ∧
  (∀ (c : Combined) (p : Nat) (k : MeshPkt) (h : State × HeldPkt) (t : State × Bool) (u : State), c.pkt.ttype = 9 →
    findBinding u c.pkt.gid (BitVec.ofNat 16 (fld c.pkt.addr 55 40)) = some p →
    k = rootRow c p (if c.pkt.fwd then BitVec.ofNat 8 (fld c.pkt.addr 63 56) else (getBinding u p).gen) → portWaits u k = false →
    steer u p k.gen = .serve → slotKind p = 0 → coreCuffed u p = false → h = carry (pktRoute k) u ⟨k, []⟩ →
    t = tileArrive h.1 p (fld c.pkt.addr 39 37) (fld c.pkt.addr 36 30) (fld c.pkt.addr 29 27) h.2.pkt.contrib.toNat
      (pktPartials h.2.pkt.payload) (h.2.pkt.poison.any id) →
    rootDeliver u c = .done t.1 (if t.2 then 0 else 0x14)) ∧
  (∀ (q : Packet) (s0 u : State), BitVec.ofNat 7 (extTree q.ext) ≠ 0 → getTree u (BitVec.ofNat 7 (extTree q.ext)).toNat = none →
    reduceIn s0 u q = refuse { u with fab := { u.fab with noTree := u.fab.noTree + 1 } } q 0x0A 0x13) ∧
  (∀ (q : Packet) (o : MemObj) (a : Nat) (c : Combined) (k : MeshPkt) (map : Tbl Dword) (h : State × HeldPkt) (t u : State), c.pkt = q →
    q.ttype = 8 → windowAt u q .red 192 (windowOff q % 4 == 0) = .ok (o, a) → o.hbm = false → a / 2 ^ 26 = (a + 191) / 2 ^ 26 → a % 4 = 0 →
    map = (getSlice u (objPart u o)).regions → k = rootPkt c (objPart u o) map a → h = carry (pktRoute k) u ⟨k, map⟩ →
    t = sliceLost (snoopLines h.1 (objPart u o) false a 192) map (objPart u o) a 192 true →
    rootDeliver u c =
      if snoopsIn t (objPart u o) false a 192 then .held (sliceReduceAll t map a (partialBad h.2.pkt) (pktPartials h.2.pkt.payload))
      else .done (sliceReduceAll t map a (partialBad h.2.pkt) (pktPartials h.2.pkt.payload)) 0) ∧
  (∀ (p q : Packet) (o : ReduceOut) (s u : State), received s p 0x0A = some (u, q) → findOut u q.tag = some o → q.status ≠ 0x12 → q.status ≠ 0x13 →
    exec (.reduceAck p) s = .next (settle (tellAll (dropOut u o.tag) o.from_ q.status))) ∧
  (∀ (p q : Packet) (o : ReduceOut) (s u : State), received s p 0x0A = some (u, q) → findOut u q.tag = some o → q.status = 0x12 ∨ q.status = 0x13 →
    exec (.reduceAck p) s = .next (settle (if o.again then tellAll (dropOut u o.tag) o.from_ 0x14
      else sendReduce (dropOut u o.tag) { o.pkt with dst := o.root, ext := reduceExt 0 (extContrib o.pkt.ext) o.root } o.root true o.from_))) ∧
  (∀ (tag : BitVec 16) (o : ReduceOut) (s : State), findOut s tag = some o →
    exec (.reduceAckTimeout tag) s = .next (settle (tellAll (dropOut s tag) o.from_ 0x14))) ∧
  (∀ (i : Nat) (c : Combined) (s : State), s.fab.comb[i]? = some c →
    exec (.treeHoldExpire i) s = .next (settle (releaseComb { s with fab := { s.fab with comb := s.fab.comb.eraseIdx i } } s c))) ∧
  (∀ (x : ItemRef) (i : Item) (c : Context) (n : Nat) (gid : BitVec 24) (t : Tree) (s : State), itemReady s x 0x52 i c = true → n = fld (iw i 1) 6 0 →
    gid = BitVec.ofNat 24 (fld (iw i 1) 31 8) →
    t = { gid := gid, parent := BitVec.ofNat 17 (fld (iw i 2) 16 0), root := BitVec.ofNat 17 (fld (iw i 2) 33 17),
          expect := BitVec.ofNat 8 (fld (iw i 2) 41 34), hold := BitVec.ofNat 16 (fld (iw i 2) 57 42) } →
    (memberOf s gid s.node = false → exec (.treeSet x) s = .next (settle (completeItem s x 0x82))) ∧
    (memberOf s gid s.node = true → memberOf s gid t.parent = true → memberOf s gid t.root = true → n = 0 ∨ t.expect = 0 →
      exec (.treeSet x) s = .next (settle (completeItem s x 0x83))) ∧
    (memberOf s gid s.node = true → memberOf s gid t.parent = true → memberOf s gid t.root = true → n ≠ 0 → t.expect ≠ 0 →
      (getTree s n).isSome = false → (findTree s gid t.root).isSome = false →
      exec (.treeSet x) s = .next (settle (completeItem
        { s with fab := { s.fab with trees := Tbl.set none s.fab.trees n (some t) } } x 0x00)))) ∧
  (∀ (x : ItemRef) (i : Item) (c : Context) (n : Nat) (t : Tree) (s u : State), itemReady s x 0x53 i c = true → n = fld (iw i 1) 6 0 →
    (n = 0 ∨ getTree s n = none → exec (.treeClear x) s = .next (settle (completeItem s x 0x83))) ∧
    (n ≠ 0 → getTree s n = some t → u = { s with fab := { s.fab with trees := Tbl.set none s.fab.trees n none } } →
      exec (.treeClear x) s = .next (settle (completeItem ((s.fab.comb.filter fun c => c.tree.toNat == n).foldl (fun s c =>
        releaseComb { s with fab := { s.fab with comb := s.fab.comb.erase c } } s c) u) x 0x00)))) ∧
  (∀ (x : ItemRef) (r : Reply) (i : Item) (c : Context) (count rb : Nat) (s : State), itemReady s x 0x56 i c = true → count = fld (iw i 3) 23 0 →
    rb = fld (iw i 3) 31 24 →
    (count = 0 ∨ rb < 4 ∨ 192 < rb ∨ rb % 4 ≠ 0 → exec (.wgather x r) s = .next (settle (completeItem s x 0x87))) ∧
    (∀ b t, count ≠ 0 → 4 ≤ rb → rb ≤ 192 → rb % 4 = 0 → readVa s c (some x) r (iw i 2) (4 * count) = .ok t b →
      exec (.wgather x r) s = .next (settle (startXfer (updRun t x fun q =>
        { q with list := leWords ((4 * count + 7) / 8) b }) x))))

/-- R262 to R267, R274, R286: transit, routes and time. A packet for another node goes on with one more hop, or is dropped beyond
HOP_LIMIT; a destination that drained uses its new routes; probes, window generations and TIME_SYNC are answered; a follower free-runs
when its parent is silent. NODE_SET, ROUTE_SET and TIME_SET check their values first. -/
def Obligations.TransitRoutesAndTime : Prop :=
  (∀ (p : Packet) (s : State), s.fab.nodeValid = true → p.dst ≠ s.node →
    ((takeRx s p).fab.hopLimit.toNat < p.hops.toNat + 1 → exec (.transitPacket p) s = .next (settle (countExpired (takeRx s p)))) ∧
    (p.hops.toNat + 1 ≤ (takeRx s p).fab.hopLimit.toNat →
      exec (.transitPacket p) s = .next (settle (routeOn (takeRx s p) { p with hops := p.hops + 1 })))) ∧
  (∀ (p : Packet) (s t : State), waitsHere s p = true → t = takeRx s p →
    exec (.packetExpire p) s = .next (settle (countExpired { t with
      links := t.links.map fun e => (e.1, { e.2 with txq := e.2.txq.eraseP (samePacket p) })
      fab := { t.fab with pauses := t.fab.pauses.map fun x => (x.1, x.2.eraseP (samePacket p)) } }))) ∧
  (∀ (node : BitVec 17) (x : BitVec 17 × List Packet) (s : State), (s.fab.pauses.find? fun x => x.1 == node) = some x →
    exec (.drainEnd node) s = .next (settle (x.2.foldl routeOn
      { s with fab := { s.fab with pauses := s.fab.pauses.filter fun y => y.1 != node } }))) ∧
  (∀ (p q : Packet) (s u : State), received s p 0x0E = some (u, q) → fld q.ext 7 0 = 1 →
    exec (.probe p) s = .next (settle (
      let t := updLink u q.link.toNat fun l => { l with follows := true }
      sendPacket t (ctrlPkt q.src 2 (leBytes 8 t.time.toNat) 0)))) ∧
  (∀ (p q : Packet) (t0 : Dword) (s u : State), received s p 0x0E = some (u, q) → fld q.ext 7 0 = 2 → u.fab.probe = some t0 → u.fab.role = 2 →
    q.src = linkNode u u.fab.parent.toNat →
    exec (.probeResp p) s = .next (settle { u with fab := { u.fab with
      probe := none
      delay := BitVec.ofNat 64 ((u.time - t0).toNat / 2) } })) ∧
  (∀ (p q : Packet) (k : Nat) (s u : State), received s p 0x0E = some (u, q) → fld q.ext 7 0 = 3 → k = leNat (q.data.take 2) →
    exec (.wgenQuery p) s = .next (settle (
      if (Tbl.get {} u.windows k).valid = true ∧ k < 4096 then sendPacket u (ctrlPkt q.src 4 (leBytes 2 k ++ [(Tbl.get {} u.windows k).wgen]) 0)
      else sendPacket u (ctrlPkt q.src 4 (leBytes 2 k ++ [0]) 1)))) ∧
  (∀ (p q : Packet) (s u : State), received s p 0x0E = some (u, q) → fld q.ext 7 0 = 4 → leNat (q.data.take 2) = 4095 →
    exec (.wgenReply p) s = .next (settle (pumpEveryone { u with legacyGen :=
      ((q.src, BitVec.ofNat 8 (leNat ((q.data.drop 2).take 1))) :: u.legacyGen.filter fun e => e.1 != q.src).take 256 }))) ∧
  (∀ (p q : Packet) (s u : State), received s p 0x0D = some (u, q) → msgCode q = 0x0C → u.fab.role = 2 → q.link = u.fab.parent →
    exec (.timeSync p) s = .next (settle { u with
      time := timeAfter u.time (BitVec.ofNat 64 (msgField q 0 8) + u.fab.delay) u.free
      free := u.free + 1
      fab := { u.fab with locked := true, level := BitVec.ofNat 8 (msgField q 8 1 + 1), err := Config.timeErr u.free } })) ∧
  (∀ (now target : Dword) (free : Nat), (10000 < (timeGap now target).natAbs → timeAfter now target free = target) ∧
    ((timeGap now target).natAbs ≤ 10000 → (timeGap (timeAfter now target free) target).natAbs ≤ (timeGap now target).natAbs ∧
      (timeAfter now target free - now).toInt.natAbs ≤ 50)) ∧
  (∀ (s t : State), t = (if hasTime s then ((s.links.filter fun e => e.2.up && e.2.follows).map (·.1)).foldl
      (fun s n => sendOnLink s n (timeMsg s n)) s else s) →
    exec (.timeSyncSendTick false) s = .next (settle t) ∧
    (t.fab.role = 2 → exec (.timeSyncSendTick true) s = .next (settle (sendOnLink
      { t with fab := { t.fab with probe := some t.time } } t.fab.parent.toNat (ctrlPkt (linkNode t t.fab.parent.toNat) 1 [] 0)))) ∧
    (t.fab.role ≠ 2 → exec (.timeSyncSendTick true) s = .next (settle t))) ∧
  (∀ (s : State), s.fab.role = 2 → exec .timeParentSilent s = .next (settle { s with fab := { s.fab with locked := false } })) ∧
  (∀ (x : ItemRef) (i : Item) (c : Context) (s : State), itemReady s x 0x57 i c = true →
    exec (.timeSet x) s = .next (settle (if BitVec.ofNat 2 (fld (iw i 1) 1 0) = 3 then completeItem s x 0x20
      else completeItem { s with fab := { s.fab with
        role := BitVec.ofNat 2 (fld (iw i 1) 1 0)
        parent := BitVec.ofNat 6 (fld (iw i 1) 7 2)
        locked := false
        level := 0
        delay := 0
        probe := none } } x 0x00))) ∧
  (∀ (x : ItemRef) (i : Item) (c : Context) (s : State), itemReady s x 0x50 i c = true →
    exec (.nodeSet x) s = .next (settle (
      if ((s.gloves.any fun e => e.2.isSome) || (s.windows.any fun e => e.2.valid) || s.fab.trees.any fun e => e.2.isSome) = true
      then completeItem s x 0x80
      else completeItem (resendIdentity { s with node := BitVec.ofNat 17 (fld (iw i 1) 16 0), fab := { s.fab with nodeValid := true } }
        fun _ => true) x 0x00))) ∧
  (∀ (x : ItemRef) (r : Reply) (i : Item) (c : Context) (first count : Nat) (drain : BitVec 16) (s : State), itemReady s x 0x51 i c = true →
    first = fld (iw i 1) 16 0 → count = fld (iw i 1) 34 17 → drain = BitVec.ofNat 16 (fld (iw i 1) 50 35) →
    (count = 0 ∨ 131072 < first + count → exec (.routeSet x r) s = .next (settle (completeItem s x 0x81))) ∧
    (∀ b t u, count ≠ 0 → first + count ≤ 131072 → readVa s c (some x) r (iw i 2) (8 * count) = .ok t b →
      (∀ w ∈ leWords ((8 * count + 7) / 8) b, onlyBits w 0xFFFFFFF = true) →
      u = (if drain = 0 then t else { t with fab := { t.fab with drain := drain } }) →
      exec (.routeSet x r) s = .next (settle (completeItem ((leWords ((8 * count + 7) / 8) b).zipIdx.foldl
        (fun s e => setRoute s (first + e.2) e.1) u) x 0x00))))

/-! ### Scheduling -/

/-- R290, R291, R297 to R299, R310: DISPATCH and DISPATCH_DL start a range of one kind and MIXED_STEP a range of any kinds, after the
checks; the step table is in slice SRAM before any kernel starts; FALLBACK_SET registers or removes a fallback program. R71, R98, R116,
R293 to R296, R300, R301: a free vcore starts the first LC kernel in order, else a BE kernel unless one is suspended there; a preempted
kernel's image goes to a slot and comes back when no LC kernel waits; the monitor judges every item with a deadline. -/
def Obligations.KernelsAreDispatched : Prop :=
  ((∀ (x : ItemRef) (i : Item) (c : Context) (q : Queue) (s : State), getQueue s x.ctx x.qid = some q →
      counterMissing s (deadlineWord q i) = false → (c.state = .closing ∨ q.closing) = false →
      rangeFail s c (fld (iw i 1) 15 0) (fld (iw i 1) 31 16 + 1)
        (fun k => k == vcoreKind s c (fld (iw i 1) 15 0) && entryAligned k (iw i 2)) = none →
      (itemReady s x 0x10 i c = true → exec (.dispatch x) s = .next (settle
        (beginKernels s x i c q (fld (iw i 1) 15 0) (fld (iw i 1) 31 16 + 1) (fun _ => iw i 2) (bit (iw i 1) 32)))) ∧
      (itemReady s x 0x12 i c = true → exec (.dispatchDl x) s = .next (settle
        (beginKernels s x i c q (fld (iw i 1) 15 0) (fld (iw i 1) 31 16 + 1) (fun _ => iw i 2) (bit (iw i 1) 32))))) ∧
    (∀ (x : ItemRef) (i : Item) (c : Context) (q : Queue) (first n : Nat) (entry : Nat → Dword) (idx : Bool) (s : State),
      (beginKernels s x i c q first n entry idx).sched.waiting = s.sched.waiting ++ (List.range n).map fun k =>
        { x := x, lc := itemLc q i, accepted := i.accepted, order := i.order
          deadline := if (deadlineWord q i).1 = 0 then none else some (i.accepted + 1000 * (deadlineWord q i).1)
          gid := c.gid, vcore := BitVec.ofNat 16 (first + k), entry := entry (vcoreKind s c (first + k)), args := kernelArgs i idx k }) ∧
    (∀ (x : ItemRef) (i : Item) (c : Context) (q : Queue) (s : State), getQueue s x.ctx x.qid = some q →
      counterMissing s (deadlineWord q i) = true →
      (itemReady s x 0x12 i c = true → exec (.dispatchDl x) s = .next (settle (completeItem s x 0x20))) ∧
      (∀ r, itemReady s x 0x11 i c = true → exec (.mixedStep x r) s = .next (settle (completeItem s x 0x20)))) ∧
    (∀ (x : ItemRef) (i : Item) (c : Context) (q : Queue) (st : Nat) (s : State), getQueue s x.ctx x.qid = some q →
      counterMissing s (deadlineWord q i) = false → (c.state = .closing ∨ q.closing) = false →
      rangeFail s c (fld (iw i 1) 15 0) (fld (iw i 1) 31 16 + 1)
        (fun k => k == vcoreKind s c (fld (iw i 1) 15 0) && entryAligned k (iw i 2)) = some st →
      (itemReady s x 0x10 i c = true → exec (.dispatch x) s = .next (settle (completeItem s x st))) ∧
      (itemReady s x 0x12 i c = true → exec (.dispatchDl x) s = .next (settle (completeItem s x st)))) ∧
    (∀ (x : ItemRef) (i : Item) (c : Context) (q : Queue) (s : State), itemReady s x 0x10 i c = true → getQueue s x.ctx x.qid = some q →
      counterMissing s (deadlineWord q i) = false → q.closing = true →
      rangeFail s c (fld (iw i 1) 15 0) (fld (iw i 1) 31 16 + 1)
        (fun k => k == vcoreKind s c (fld (iw i 1) 15 0) && entryAligned k (iw i 2)) = none →
      exec (.dispatch x) s = .next (settle (completeItem s x 0x28))) ∧
    (∀ (x : ItemRef) (r : Reply) (i : Item) (c : Context) (q : Queue) (st : Nat) (s : State), itemReady s x 0x11 i c = true →
      getQueue s x.ctx x.qid = some q → counterMissing s (deadlineWord q i) = false → (c.state = .closing ∨ q.closing) = false →
      stepStage i % 32 = 0 → rangeFail s c (fld (iw i 1) 15 0) (fld (iw i 1) 31 16 + 1) (stepEntryOk i) = some st → stepBad s c i = false →
      exec (.mixedStep x r) s = .next (settle (completeItem s x st))) ∧
    (∀ (x : ItemRef) (r : Reply) (i : Item) (c : Context) (q : Queue) (s : State), itemReady s x 0x11 i c = true →
      getQueue s x.ctx x.qid = some q → counterMissing s (deadlineWord q i) = false → (c.state = .closing ∨ q.closing) = false →
      (stepStage i % 32 ≠ 0 → exec (.mixedStep x r) s = .next (settle (completeItem s x 0x20))) ∧ (stepStage i % 32 = 0 →
      rangeFail s c (fld (iw i 1) 15 0) (fld (iw i 1) 31 16 + 1) (stepEntryOk i) = none →
      (stepBad s c i = true → exec (.mixedStep x r) s = .next (settle (completeItem s x 0xA4))) ∧
      (stepBad s c i = false → exec (.mixedStep x r) s = .next (settle (withList s x c r (iw i 3) (8 * stepCount i) fun t ws =>
        if ws.any fun w => !onlyBits w 0x01FFFFFFFFFFFFFF then completeItem t x 0xA4
        else beginKernels (devWrite t c.part false (stepStage i) (stepTable i ws) false x.ctx.toNat) x i c q (fld (iw i 1) 15 0)
          (fld (iw i 1) 31 16 + 1) (stepEntry i) true))))) ∧
    (∀ (x : ItemRef) (i : Item) (c d : Context) (q : Queue) (f : List Dword) (s : State), itemReady s x 0x13 i c = true →
      getQueue s (BitVec.ofNat 16 (fld (iw i 1) 15 0)) (BitVec.ofNat 4 (fld (iw i 1) 19 16)) = some q →
      getCtx s (BitVec.ofNat 16 (fld (iw i 1) 15 0)) = some d → f = [iw i 1, iw i 2, iw i 3, iw i 4] →
      (bit (iw i 1) 20 = false → exec (.fallbackSet x) s = .next (settle (completeItem (setQueue s { q with fallback := [] }) x 0x00))) ∧
      (bit (iw i 1) 20 = true → (rangeFail s d (fbFirst f) (fbCount f) (fbEntryOk f)).isSome = true →
        exec (.fallbackSet x) s = .next (settle (completeItem s x 0xA3))) ∧
      (bit (iw i 1) 20 = true → (rangeFail s d (fbFirst f) (fbCount f) (fbEntryOk f)).isSome = false →
        exec (.fallbackSet x) s = .next (settle (completeItem (setQueue s { q with fallback := f }) x 0x00))))) ∧
  ((∀ (c : Fin 320) (w : WaitKernel) (s : State), mayRun s c.val false = true →
      firstOf lcBefore ((waitingAt s c.val).filter (·.lc)) = some w →
      exec (.vcoreKernelStart c) s = .next (settle (startKernel s c.val w))) ∧
    (∀ (c : Fin 320) (s t : State) (w : WaitKernel), mayRun s c.val false = true →
      firstOf lcBefore ((waitingAt s c.val).filter (·.lc)) = none → suspendedAt s c.val = none →
      pickBe s c.val (waitingAt s c.val) = (t, some w) →
      exec (.vcoreKernelStart c) s = .next (settle (startKernel t c.val w))) ∧
    (∀ (c : Fin 320) (s : State), (suspendedAt s c.val).isSome = true →
      firstOf lcBefore ((waitingAt s c.val).filter (·.lc)) = none → exec (.vcoreKernelStart c) s = .next (settle s)) ∧
    (∀ (p : Nat) (w : WaitKernel) (s : State), slotKind p = 0 → procOf s p = none → getM (startKernel s p w) p =
      { getM s p with g := argRegs w.args, job := .none, refused := false }) ∧
    (∀ (c : Fin 320) (d : Bool) (s : State), (getCore s c.val).point = .preempt → (getCore s c.val).run = .atPoint d →
      freePreSlot s (getBinding s c.val).part.toNat = none →
      exec (.preemptReadoutDone c) s = .next (settle (kickCore (setCore s c.val { getCore s c.val with
        run := .running, icache := [], held := none, point := nextPoint s c.val, forced := nextPoint s c.val != .none }) c.val))) ∧
    (∀ (c : Fin 320) (u : Suspended) (s : State), suspendedAt s c.val = some u → mayRun s c.val false = true → u.written = true →
      u.image.kernel = none → (waitingAt s c.val).any (·.lc) = false → exec (.beResume c) s = .next (settle
        (endYield (resumeImage { s with sched := { s.sched with suspended := s.sched.suspended.erase u } } c.val u.image)))) ∧
    (∀ (c : Fin 320) (s : State), (waitingAt s c.val).any (·.lc) = true → exec (.beResume c) s = .next (settle s)) ∧
    (∀ (s t : State), t = (List.range 16).foldl (fun t k => irqPrivate t (32 + k) 6 true) s →
      exec .deadlineMonitorTick s = .next (settle (t.sched.monitors.foldl monitorOne t))) ∧
    (∀ (m : Monitor) (q : Queue) (i : Item) (s : State), getQueue s m.x.ctx m.x.qid = some q → getItem s m.x = some i → m.predicted = false →
      (missPredicted s m q (m.kernels - i.run.kernels) = true → monitorOne s m = predictedMiss s m) ∧
      (missPredicted s m q (m.kernels - i.run.kernels) = false → monitorOne s m = s)))

/-- R302, R305, R306, R309, R310: PART_SET installs a partition's descriptor in one step, REG_SET a regulator's budgets; SCHED_READ writes
the partition's record; at the end of a WINDOW more misses than MISS_LIMIT raise S(3p + t) and log event 0x0D, and the counts restart. -/
def Obligations.PartitionsAndRegulators : Prop :=
  (∀ (x : ItemRef) (r : Reply) (i : Item) (c : Context) (s : State), itemReady s x 0x14 i c = true → exec (.partSet x r) s = .next (settle
    (withList s x c r (iw i 1) 200 fun t ws =>
      if partBad t (fld (ws.getD 0 0) 3 0) ws then completeItem t x 0xA0
      else completeItem (installPart t (fld (ws.getD 0 0) 3 0) (partOf ws)) x 0x00))) ∧
  (∀ (x : ItemRef) (i : Item) (c : Context) (p t win : Nat) (s : State), itemReady s x 0x15 i c = true → p = fld (iw i 1) 3 0 →
    t = fld (iw i 1) 5 4 → win = fld (iw i 2) 19 0 →
    (t = 3 ∨ (1 ≤ win ∧ win ≤ 99) → exec (.regSet x) s = .next (settle (completeItem s x 0xA5))) ∧
    (¬(t = 3 ∨ (1 ≤ win ∧ win ≤ 99)) → exec (.regSet x) s = .next (settle (completeItem (setReg s p t { getReg s p t with
      lcBudget := BitVec.ofNat 12 (fld (iw i 1) 19 8), beBudget := BitVec.ofNat 12 (fld (iw i 1) 31 20)
      lcSlack := BitVec.ofNat 16 (fld (iw i 1) 47 32), beSlack := BitVec.ofNat 16 (fld (iw i 1) 63 48)
      window := BitVec.ofNat 20 win, missLimit := BitVec.ofNat 20 (fld (iw i 2) 51 32) }) x 0x00)))) ∧
  (∀ (x : ItemRef) (i : Item) (c : Context) (s : State), itemReady s x 0x16 i c = true → exec (.schedRead x) s = .next (settle
    (writeRecord s x c (iw i 1 &&& ~~~0xFF) (dwordBytes (schedRecord s (fld (iw i 1) 3 0))) 0))) ∧
  (∀ (p : Fin 16) (t : Fin 3) (r : Regulator) (s : State), r = getReg s p.val t.val →
    (r.window = 0 → exec (.guaranteeWindowEnd p t) s = .next (settle s)) ∧
    (r.window ≠ 0 → r.misses ≤ r.missLimit.toNat → exec (.guaranteeWindowEnd p t) s = .next (settle (setReg s p.val t.val
      { r with misses := 0, demoted := 0, lcIssued := 0, beIssued := 0, lastMisses := r.misses, lastDemoted := r.demoted }))) ∧
    (r.window ≠ 0 → r.missLimit.toNat < r.misses → exec (.guaranteeWindowEnd p t) s = .next (settle (setReg
      (logEvent (irqEdge s (3 * p.val + t.val)) srcRtp 0x0D false
        (leBytes 1 p.val ++ leBytes 1 t.val ++ leBytes 4 r.misses ++ leBytes 4 r.lcIssued ++ leBytes 4 r.beIssued)) p.val t.val
      { r with misses := 0, demoted := 0, lcIssued := 0, beIssued := 0, lastMisses := r.misses, lastDemoted := r.demoted }))))

/-! ### The governor -/

/-- R312, R314, R316 to R320: at a sample the tray cap is taken, the cap loop moves its bubbles unless a droop freezes it, every die runs
its current, thermal and trim loops, and then rails, TARGETs and episodes follow; the loops' arithmetic; the slow loop has no effect on
LIMIT while the RTP is in reset; a one-second record. R321 to R324, R329: a droop holds TARGET changes until it has settled; the filler
follows the current down at RAMP above the floor; glove pace is reported up, announced by rank 0 with rising rounds, and passed on. -/
def Obligations.GovernorLoopsAndDroop : Prop :=
  ((∀ (m : Sample) (s t u v : State), t = { s with gov := { s.gov with trayCap := s.gov.trayNext, power := m.power } } →
      u = (if (List.range 4).any fun d => (getDie t d).droop != 0 then t
        else { t with gov := { t.gov with fCap := nextFCap t.gov.fCap m.power (10 * effectiveCap t) } }) →
      v = (List.range 4).foldl (sampleDie m) u → exec (.governorSample m) s = .next (settle (countBubbles (govern (tripLimits { v with
        gov := { v.gov with hotStacks := (List.range 8).foldl (fun b h => setBit b h (decide (95 < m.stackTj.getD h 0))) 0 } }))))) ∧
    (∀ (f power cap : Nat), (cap < power → nextFCap f power cap = min 63 (f + (256 * (power - cap) + cap) / (2 * cap))) ∧
      (power ≤ cap → cap < 50 * (cap - power) → nextFCap f power cap = f - 1) ∧
      (power ≤ cap → 50 * (cap - power) ≤ cap → nextFCap f power cap = f)) ∧
    (∀ (f i j : Nat), (420 < i ∨ 560 < j → nextFCur f i j = min 63 (f + 4)) ∧
      (i ≤ 420 → j ≤ 560 → 399 ≤ i → nextFCur f i j = f) ∧ (i ≤ 420 → j ≤ 560 → 532 ≤ j → nextFCur f i j = f) ∧
      (i < 399 → j < 532 → nextFCur f i j = f - 1)) ∧
    (∀ (lim : Nat) (x : GovDie), (lim ≤ x.tj → (thermalLoop lim x).fTh = if x.hot = 9 then min 63 (x.fTh + 1) else x.fTh) ∧
      (x.tj + 3 < lim → (thermalLoop lim x).fTh = if x.cool = 99 then x.fTh - 1 else x.fTh) ∧
      (x.tj < lim → lim ≤ x.tj + 3 → thermalLoop lim x = { x with hot := 0, cool := 0 })) ∧
    (∀ (s : State) (p : Nat), (getGovPart s p).req = 0 ∨ tripped s p = true ∨ partRuns s p = false → wantTarget s p = 0) ∧
    (∀ (s : State) (p : Nat), (getGovPart s p).req ≠ 0 → tripped s p = false → partRuns s p = true →
      wantTarget s p = max 80 (min (min (getGovPart s p).req (getGovPart s p).limit) (paceGlove s p))) ∧
    (∀ (d sensor : Nat) (s : State), (getDie s d).trip = true →
      tripLoop s d sensor = if (getDie s d).tj + 5 ≤ s.gov.tjThrottle then setDie s d { getDie s d with trip := false } else s) ∧
    (∀ (s t : State), t = irqPrivate { s with cnt := { s.cnt with sample := s.cnt.live } } 48 6 true → t.rtpDown = true →
      exec .slowLoopTick s = .next (settle t)) ∧
    (∀ (s t u : State) (l : List (Nat × (GovPart × Bool))), t = irqPrivate { s with cnt := { s.cnt with sample := s.cnt.live } } 48 6 true →
      t.rtpDown = false → l = (List.range 16).map (fun p => (p, slowPart t p)) →
      u = l.foldl (fun s e => setGovPart s e.1 e.2.1) t → exec .slowLoopTick s = .next (settle (govern
        (if l.any fun e => e.2.2 then { u with gov := { u.gov with fCap := 0 } } else u)))) ∧
    (∀ (p : Nat) (s : State), 50 ≤ (getGovPart s p).fRun → slowPart s p = ({ getGovPart s p with
      limit := max 80 (targetOf s p * (64 - bubbleF s p) / 64), why := bubbleReason s p, raiseWait := 10 }, true)) ∧
    (∀ (i : Nat) (e : Episode) (s : State), s.gov.episodes[i]? = some e → exec (.throttleRecordTimer i) s = .next (settle
      { writeThrottle s e with gov := { (writeThrottle s e).gov with
        episodes := (writeThrottle s e).gov.episodes.set i (newEpisode (writeThrottle s e) e.part e.reason) } }))) ∧
  ((∀ (cl : Fin 32) (d : Nat) (s : State), d = cl.val / 8 → exec (.droopBegin cl) s = .next (settle (syncEpisodes (irqLevel
      (updDie s d fun x => { x with droop := setBit x.droop cl.val true, settle := false,
                                    mark := if (getDie s d).droop == 0 then shortfalls s else x.mark }) (276 + d) true)))) ∧
    (∀ (d : Fin 4) (s : State), (getDie s d.val).droop ≠ 0 → exec (.droopEnd d) s = .next (settle (syncEpisodes (irqLevel
      (updDie s d.val fun x => { x with
        droop := 0
        settle := true
        mark := []
        seen := (List.range 16).foldl (fun t p =>
          Tbl.set 0 t p (Tbl.get 0 x.seen p + (counterValue s (counterId 4 p 1) - Tbl.get 0 x.mark p))) [] }) (276 + d.val) false)))) ∧
    (∀ (d : Fin 4) (s : State), (getDie s d.val).droop = 0 → (getDie s d.val).settle = true →
      exec (.droopSettleEnd d) s = .next (settle (govern (setDie s d.val { getDie s d.val with settle := false })))) ∧
    (∀ (s : State) (p : Nat), droopHolds s p = true → wantTarget s p ≠ targetOf s p → wantTarget s p ≠ 0 →
      steerPart s p = updGovPart s p fun g => { g with held := some (wantTarget s p) }) ∧
    (∀ (amps : List Nat) (s : State), exec (.fillerTargetUpdate amps) s = .next (settle ((List.range 4).foldl (fun s d => updDie s d fun x =>
      { x with amps := amps.getD d 0, filler := if x.floor = 0 then 0 else max x.floor (amps.getD d 0 - s.gov.ramp) }) s))) ∧
    (∀ (p q : Packet) (g g' : Glove) (s u : State), received s p 0x0D = some (u, q) → msgCode q = 0x0E → getGlove u q.gid = some g →
      msgField q 5 1 = 0 → (crownChildren g).contains q.src = true →
      g' = { g with paces := Tbl.set 0 g.paces q.src.toNat (msgField q 4 1 + 1) } → exec (.pace p) s = .next (settle
        (if g.rank = 0 then paceAnnounce (setGlove u g') g' else setGlove u g'))) ∧
    (∀ (p q : Packet) (g : Glove) (s u : State), received s p 0x0D = some (u, q) → msgCode q = 0x0E → getGlove u q.gid = some g →
      msgField q 5 1 = 1 → g.rank ≠ 0 →
      (getGovPart u g.part.toNat).round.toNat < (BitVec.ofNat 32 (msgField q 0 4)).toNat →
      exec (.pace p) s = .next (settle (govern (castMsg (setGovPart u g.part.toNat { getGovPart u g.part.toNat with
        glove := msgField q 4 1, round := BitVec.ofNat 32 (msgField q 0 4) }) g (crownChildren g) 0x0E
        (paceData (BitVec.ofNat 32 (msgField q 0 4)) (msgField q 4 1) 1))))) ∧
    (∀ (gid : BitVec 24) (g : Glove) (s : State), getGlove s gid = some g →
      (g.rank = 0 → exec (.paceReportTick gid) s = .next (settle (paceAnnounce s g))) ∧
      (∀ r, g.rank ≠ 0 → parentRank g = some r → exec (.paceReportTick gid) s = .next (settle (castMsg s g [memberNode g r] 0x0E
        (paceData (getGovPart s g.part.toNat).round (paceLowest s g) 0))))))

/-- R313, R316, R318, R322, R330: PACE_SET, CAP_SET and FILLER_SET take effect or refuse their range; THROTTLE_READ and GOV_READ write
their records. R325 to R329: a switched domain is checked, drains, enters and completes, and loses in off what Table 13.3 says; a wake
starts its exit, in waves of 8 domains; when the exit is done, what waited goes on. -/
def Obligations.GovernorItemsAndDomains : Prop :=
  ((∀ (x : ItemRef) (i : Item) (c : Context) (pace : Nat) (s : State), itemReady s x 0x18 i c = true → pace = fld (iw i 1) 15 8 →
      ((1 ≤ pace ∧ pace < 80) ∨ 200 < pace → exec (.paceSet x) s = .next (settle (completeItem s x 0xB0))) ∧
      (pace = 0 ∨ (80 ≤ pace ∧ pace ≤ 200) → exec (.paceSet x) s = .next (settle (completeItem
        (govern (updGovPart s (fld (iw i 1) 3 0) fun g => { g with req := pace })) x 0x00)))) ∧
    (∀ (x : ItemRef) (i : Item) (c : Context) (cap tj : Nat) (s : State), itemReady s x 0x19 i c = true → cap = fld (iw i 1) 10 0 →
      tj = fld (iw i 1) 23 16 →
      (cap < 500 ∨ 1600 < cap ∨ (tj ≠ 0 ∧ (tj < 80 ∨ 100 < tj)) → exec (.capSet x) s = .next (settle (completeItem s x 0xB1))) ∧
      (500 ≤ cap → cap ≤ 1600 → tj = 0 → exec (.capSet x) s = .next (settle (completeItem
        { s with gov := { s.gov with cap := cap } } x 0x00))) ∧
      (500 ≤ cap → cap ≤ 1600 → 80 ≤ tj → tj ≤ 100 → exec (.capSet x) s = .next (settle (completeItem
        { s with gov := { s.gov with cap := cap, tjThrottle := tj } } x 0x00)))) ∧
    (∀ (x : ItemRef) (i : Item) (c : Context) (s : State), itemReady s x 0x1B i c = true →
      (fld (iw i 1) 39 32 = 0 → exec (.fillerSet x) s = .next (settle (completeItem s x 0xB5))) ∧
      (fld (iw i 1) 39 32 ≠ 0 → exec (.fillerSet x) s = .next (settle (completeItem ((List.range 4).foldl
        (fun s d => updDie s d fun y => { y with floor := 2 * fld (iw i 1) (8 * d + 7) (8 * d) })
        { s with gov := { s.gov with ramp := fld (iw i 1) 39 32 } }) x 0x00)))) ∧
    (∀ (x : ItemRef) (i : Item) (c : Context) (s : State), itemReady s x 0x1C i c = true →
      ((iw i 1).toNat % 8 ≠ 0 → exec (.throttleRead x) s = .next (settle (completeItem s x 0x20))) ∧
      ((iw i 1).toNat % 8 = 0 → exec (.throttleRead x) s = .next (settle (writeRecord s x c (iw i 1)
        (dwordBytes ([BitVec.ofNat 64 (s.gov.log.length + s.gov.overwritten.toNat * 2 ^ 16), 0] ++ s.gov.log.flatMap fun e => [e.1, e.2]))
        (BitVec.ofNat 64 s.gov.log.length))))) ∧
    (∀ (x : ItemRef) (i : Item) (c : Context) (s : State), itemReady s x 0x1D i c = true →
      ((iw i 1).toNat % 8 ≠ 0 → exec (.govRead x) s = .next (settle (completeItem s x 0x20))) ∧
      ((iw i 1).toNat % 8 = 0 → exec (.govRead x) s = .next (settle (writeRecord s x c (iw i 1) (dwordBytes (govRecord s)) 0))))) ∧
  ((∀ (x : ItemRef) (i : Item) (c : Context) (w : Dword) (d st : Nat) (wake : BitVec 4) (s : State), itemReady s x 0x1A i c = true →
      w = iw i 1 → d = fld w 5 0 → st = fld w 9 8 → wake = BitVec.ofNat 4 (fld w 19 16) →
      (bit wake 2 && (fld w 51 32 == 0 || decide (1000000 < fld w 51 32))) = false →
      (domainAllows d st = false → exec (.domainSet x) s = .next (settle (completeItem s x 0xB2))) ∧
      (domainAllows d st = true → (getDomain s d).busy = 3 → exec (.domainSet x) s = .next (settle s)) ∧
      (domainAllows d st = true → (getDomain s d).busy ≠ 3 → domainBusy s d st = true →
        exec (.domainSet x) s = .next (settle (completeItem s x 0xB3))) ∧
      (domainAllows d st = true → (getDomain s d).busy = 0 → domainBusy s d st = false → st = 0 → (getDomain s d).st = 0 →
        exec (.domainSet x) s = .next (settle (completeResult s x 0x00 (domainResult false 0)))) ∧
      (domainAllows d st = true → (getDomain s d).busy = 0 → domainBusy s d st = false → st = 0 → (getDomain s d).st ≠ 0 →
        exec (.domainSet x) s = .next (settle (startExit
          (setDomain (updRun s x fun r => { r with active := true }) d { getDomain s d with item := some x }) d))) ∧
      (domainAllows d st = true → (getDomain s d).busy = 0 → domainBusy s d st = false → st ≠ 0 → (wake &&& pendingSources s d) ≠ 0 →
        exec (.domainSet x) s = .next (settle (completeItem s x 0xB4))) ∧
      (domainAllows d st = true → (getDomain s d).busy = 0 → domainBusy s d st = false → st ≠ 0 → (wake &&& pendingSources s d) = 0 →
        exec (.domainSet x) s = .next (settle (setDomain (updRun s x fun r => { r with active := true }) d
          { getDomain s d with busy := 1, goal := BitVec.ofNat 2 st, wake := wake, timer := BitVec.ofNat 20 (fld w 51 32), woke := false
                               item := some x })))) ∧
    (∀ (d : BitVec 6) (s : State), (getDomain s d.toNat).busy = 1 →
      (domainDrained s d.toNat = false → exec (.domainEntryCommit d) s = .next (settle s)) ∧
      (domainDrained s d.toNat = true → exec (.domainEntryCommit d) s = .next (settle (govern ((quadLinks d.toNat).foldl
        (fun s l => linkOff s l 9)
        (setDomain s d.toNat { getDomain s d.toNat with busy := 2, st := (getDomain s d.toNat).goal })))))) ∧
    (∀ (d : BitVec 6) (i : ItemRef) (s : State), (getDomain s d.toNat).busy = 2 → (getDomain s d.toNat).item = some i →
      (getDomain s d.toNat).woke = false → exec (.domainEntryCommit d) s = .next (settle (completeResult
        (setDomain (if (getDomain s d.toNat).st = 3 then loseDomain s d.toNat else s) d.toNat
          { getDomain s d.toNat with busy := 0, woke := false, item := none }) i 0x00 (domainResult false (getDomain s d.toNat).st.toNat)))) ∧
    (∀ (d : BitVec 6) (src : BitVec 3) (s : State), exec (.wakeSource d src) s = .next (settle (wakeDomain s d.toNat src.toNat))) ∧
    (∀ (d : BitVec 6) (s : State), exec (.domainWakeTimer d) s = .next (settle
      (if (getDomain s d.toNat).busy = 0 then wakeDomain s d.toNat 2 else s))) ∧
    (∀ (d : BitVec 6) (i : ItemRef) (s : State), (getDomain s d.toNat).busy = 3 → (getDomain s d.toNat).wave = false →
      (getDomain s d.toNat).item = some i → exec (.domainExitDone d) s = .next (settle (govern (resumeItems (completeResult
        ((quadLinks d.toNat).foldl linkOn (setDomain s d.toNat {})) i 0x00 (domainResult false 0)))))) ∧
    (∀ (d : BitVec 6) (s : State), (getDomain s d.toNat).busy = 3 → (getDomain s d.toNat).wave = false → (getDomain s d.toNat).item = none →
      exec (.domainExitDone d) s = .next (settle (govern (resumeItems ((quadLinks d.toNat).foldl linkOn (setDomain s d.toNat {})))))) ∧
    (∀ (d : BitVec 6) (s : State), (getDomain s d.toNat).busy ≠ 3 ∨ (getDomain s d.toNat).wave = true →
      exec (.domainExitDone d) s = .next (settle s)) ∧
    (∀ (s : State), exec .powerWaveStart s = .next (settle ((s.gov.waves.take 8).foldl
      (fun s d => setDomain s d { getDomain s d with wave := false }) { s with gov := { s.gov with waves := s.gov.waves.drop 8 } }))))

/-! ### Errors and recovery -/

/-- R132, R152, R334 to R346: an error goes to its element's handling by the class of its source; a lockstep pair stops at a symptom and
the RTP pair restarts; a crossing that dropped an entry is reset; a verdict is lasting where the test fails or at the third transient in
24 h. -/
def Obligations.ErrorsAreHandled : Prop :=
  (∀ (src : BitVec 16) (e : Element) (d : Dword) (s : State),
    (src = 0 ∨ 0x15 < src.toNat ∨ src = 0x12 ∨ src = 0x13 → exec (.errorDetected src e d) s = .next (settle s)) ∧
    (src = 2 ∨ src = 4 → exec (.errorDetected src e d) s = .next (settle (memoryError s src.toNat e d false))) ∧
    (src = 1 ∨ src = 3 → exec (.errorDetected src e d) s = .next (settle (memoryError s src.toNat e d false)))) ∧
  (∀ (l : Fin 64) (k m : BitVec 2) (d : Dword) (s : State), m = logLane s l.val k → exec (.errorDetected 0x05 (.lane l k) d) s = .next (settle
    (laneFault (updLink s l.val fun x => { x with ber := Tbl.set 0 x.ber m.toNat d.toNat }) l.val m true))) ∧
  (∀ (src : BitVec 16) (e : Element) (d : Dword) (s : State), ¬(src = 0 ∨ 0x15 < src.toNat ∨ src = 0x12 ∨ src = 0x13) →
    (sourceSeverity src.toNat = 2 → exec (.errorDetected src e d) s = .next (settle (engineDetected s src.toNat e d))) ∧
    (sourceSeverity src.toNat = 3 → exec (.errorDetected src e d) s = .next (settle (partitionError s src.toNat e d))) ∧
    (sourceSeverity src.toNat = 4 → exec (.errorDetected src e d) s = .next (settle (packageError s src.toNat e d)))) ∧
  (∀ (n : Fin 17) (y : Symptom) (d : Dword) (s : State),
    exec (.lockstepMismatch n y d) s = .next (settle (pairStop s n.val (symptomSource y) y d))) ∧
  (∀ (n : Fin 17) (r : BitVec 2) (s : State), (r = 2 → exec (.latentScan n r) s = .next (settle s)) ∧
    (r ≠ 2 → exec (.latentScan n r) s = .next (settle (pairStop s n.val 0x08 .checker (r.setWidth 64))))) ∧
  (∀ (n : Fin 16) (d : Dword) (s : State), exec (.cpStall n d) s = .next (settle (pairStop s n.val 0x0C .unequal d))) ∧
  (∀ (n src : Nat) (y : Symptom) (d : Dword) (inj : Bool) (s : State), n < 16 → bit s.fp.cpOk n = false → pairStop s n src y d inj = s) ∧
  (∀ (k : BitVec 2) (i : Byte) (s : State), (elemOfCode (BitVec.ofNat 32 (elemCode (.crossing k i)))).isSome = true →
    (k = 0 → exec (.crossingOverflow k i) s = .next (settle (hostIfReset (hostLoss (engineError s 0x0A (.crossing k i) 1 false) 1)))) ∧
    (k = 1 → exec (.crossingOverflow k i) s = .next (settle (crcFail (engineError s 0x0A (.crossing k i) 1 false) i.toNat))) ∧
    (k ≠ 0 → k ≠ 1 → exec (.crossingOverflow k i) s = .next (settle (engineError s 0x0A (.crossing k i) 1 false)))) ∧
  (∀ (k : BitVec 2) (i : Byte) (s : State), (elemOfCode (BitVec.ofNat 32 (elemCode (.crossing k i)))).isSome = false →
    exec (.crossingOverflow k i) s = .next (settle s)) ∧
  (∀ (e : Element) (pass : Bool) (s : State), (findElem s e).testing = false ∨ s.rtpDown = true →
    exec (.selftestVerdict e pass) s = .next (settle s)) ∧
  (∀ (e : Element) (ts : List Nat) (last : Bool) (t : State × Bool) (u : State) (x : ElemErr) (s : State), x = findElem s e →
    x.testing = true → s.rtpDown = false → (∀ k, e ≠ .cp k) → x.source = 0 → x.items = [] → ts = recentTransients s x →
    last = decide (3 ≤ ts.length) →
    u = setElem s { x with testing := false, count := 0, items := [], transients := if last then [] else ts,
                           passed := if last then none else some s.refNs } →
    t = (if last then lasting { u with err := { u.err with lasting := u.err.lasting + 1 } } e
      else (transientAct { u with err := { u.err with transient := u.err.transient + 1 } } e, false)) →
    exec (.selftestVerdict e true) s = .next (settle
      (if t.2 then packageError { t.1 with fp := { t.1.fp with generation := t.1.fp.generation } } 0x11 .none 0
       else { t.1 with fp := { t.1.fp with generation := t.1.fp.generation } }))) ∧
  (∀ (hostDrops : Bool) (lost : Dword) (s : State), (s.refLost = false →
      exec (.referenceHoldoverEnd hostDrops lost) s = .next (settle s)) ∧
    (s.refLost = true → hostDrops = false ∨ s.host.l0 = false → exec (.referenceHoldoverEnd hostDrops lost) s = .next (settle
      ((setBits lost).foldl (fun s n => if (getLink s n).inService then goDown s n 0x01 else s) s))) ∧
    (s.refLost = true → hostDrops = true → s.host.l0 = true → exec (.referenceHoldoverEnd hostDrops lost) s = .next (settle
      ((setBits lost).foldl (fun s n => if (getLink s n).inService then goDown s n 0x01 else s)
        (hostLoss { s with host := { s.host with l0 := false, down := false } } 1)))))

/-- R346 to R351: a core that retires nothing is reset, a wait and an item beyond their limits fault their context; a completed reset
leaves its element at reset values and completes its item; one that overruns escalates; a silent member faults its gloves. R338, R346,
R347, R349, R353, R354: the manager's items: SELFTEST waits for its verdict, ERR_INJECT goes through the normal handling, WATCHDOG_SET
sets limits, RESET_REQ asks for a reset of its level, EDGE_SET sets an edge, ERR_READ writes the summary; what is not testable, has no
error of the kind or is not open is MALFORMED. -/
def Obligations.ResetsWatchdogsAndErrorItems : Prop :=
  ((∀ (c : Fin 320) (k : Core) (r : KernelRef) (s : State), k = getCore s c.val → k.kernel = some r → k.run = .running → k.wait = .none →
      k.cuffed = false → (getS s c.val).sidle = false → (getMeter s (corePart s c.val)).target ≠ 0 →
      exec (.coreStall c) s = .next (settle (engineReset (reportError s 0x0B 2 (.core c) k.pc) (.core c) none 7 0x03))) ∧
    (∀ (c : Fin 320) (s : State), (getMeter s (corePart s c.val)).target = 0 ∨ (getCore s c.val).wait ≠ .none →
      exec (.coreStall c) s = .next (settle s)) ∧
    (∀ (c : Fin 320) (k : Core) (r : KernelRef) (s : State), k = getCore s c.val → k.kernel = some r → k.run = .running →
      (inWait s c.val = true → Tbl.get 0 s.err.waitMs r.x.ctx.toNat ≠ 0 → exec (.waitTimeout c) s = .next (settle (raise s
        { ctx := r.x.ctx, qid := r.x.qid, seq := r.x.seq, cls := 7, cause := 0x02, vcore := r.vcore, pcore := BitVec.ofNat 10 c.val, pc := k.pc }))) ∧
      (Tbl.get 0 s.err.waitMs r.x.ctx.toNat = 0 → exec (.waitTimeout c) s = .next (settle s))) ∧
    (∀ (x : ItemRef) (i : Item) (s : State), getItem s x = some i → i.started = true →
      (Tbl.get 0 s.err.itemMs (queueKey x.ctx x.qid) ≠ 0 → exec (.itemTimeout x) s = .next (settle (raise s
        { ctx := x.ctx, qid := x.qid, seq := x.seq, cls := 7, cause := 0x01 }))) ∧
      (Tbl.get 0 s.err.itemMs (queueKey x.ctx x.qid) = 0 → exec (.itemTimeout x) s = .next (settle s))) ∧
    (∀ (i : Nat) (r : Reset) (s t : State), s.err.resets[i]? = some r → r.held = false → r.level = 2 →
      recordStuck s 0x01 4 (BitVec.ofNat 32 (elemCode r.target)) 4 = false →
      t = engineDone { s with err := { s.err with resets := s.err.resets.eraseIdx i } } r.target →
      (r.item = none → exec (.resetComplete i) s = .next (settle t)) ∧
      (∀ x, r.item = some x → exec (.resetComplete i) s = .next (settle (completeItem t x 0x00)))) ∧
    (∀ (i : Nat) (r : Reset) (cs : List Nat) (s t : State), s.err.resets[i]? = some r → r.held = false → r.level = 3 →
      t = { s with err := { s.err with resets := s.err.resets.eraseIdx i } } → cs = partCores t r.part.toNat →
      (r.item = none → exec (.resetComplete i) s = .next (settle (cs.foldl (fun s p => refitFailing s p)
        (resetSync (cs.foldl coreReset t) (cs.map (· / 10)))))) ∧
      (∀ x, r.item = some x → exec (.resetComplete i) s = .next (settle (completeItem (cs.foldl (fun s p => refitFailing s p)
        (resetSync (cs.foldl coreReset t) (cs.map (· / 10)))) x 0x00)))) ∧
    (∀ (i : Nat) (r : Reset) (s : State), s.err.resets[i]? = some r → r.held = false → r.level = 4 →
      exec (.resetComplete i) s = .next (settle (endPackage s))) ∧
    (∀ (i : Nat) (r : Reset) (s t u : State), s.err.resets[i]? = some r → r.held = false → r.level = 3 →
      t = { s with err := { s.err with resets := s.err.resets.eraseIdx i } } →
      u = logError t 4 4 3 0x12 false r.target none ((findElem t r.target).count + 1) 3 →
      exec (.resetTimeout i) s = .next (settle (packageReset { u with err := { u.err with sev := Tbl.upd 0 u.err.sev 4 (· + 1) } } 0x12 r.target))) ∧
    (∀ (i : Nat) (r : Reset) (s : State), s.err.resets[i]? = some r → r.held = true →
      exec (.resetTimeout i) s = .next (settle s) ∧ exec (.resetComplete i) s = .next (settle s)) ∧
    (∀ (gid : BitVec 24) (rank : BitVec 17) (g : Glove) (s t : State), getGlove s gid = some g → memberNode g rank.toNat ≠ 0x1FFFF →
      (parentRank g == some rank.toNat || (crownChildren g).contains (memberNode g rank.toNat)) = true →
      t = castMsg s g (otherMembers s g) 0x0F (leBytes 4 rank.toNat ++ leBytes 2 0x13 ++ leBytes 4 0) →
      exec (.glovePeerSilence gid rank) s =
        .next (settle (faultGlove (gloveEvent (loseMember t g rank.toNat) g rank.toNat 0x13 0) g .none))) ∧
    (∀ (p q : Packet) (g : Glove) (s u : State), received s p 0x0D = some (u, q) → msgCode q = 0x0F → getGlove u q.gid = some g →
      (msgField q 4 2 = 0x13 → exec (.gloveFault p) s = .next (settle (faultGlove
        (gloveEvent (loseMember u g (msgField q 0 4)) g (msgField q 0 4) 0x13 (msgField q 6 4)) g
        ((elemOfCode (BitVec.ofNat 32 (msgField q 6 4))).getD .none)))) ∧
      (msgField q 4 2 ≠ 0x13 → exec (.gloveFault p) s = .next (settle (faultGlove
        (gloveEvent u g (msgField q 0 4) (msgField q 4 2) (msgField q 6 4)) g
        ((elemOfCode (BitVec.ofNat 32 (msgField q 6 4))).getD .none)))))) ∧
  ((∀ (x : ItemRef) (i : Item) (c : Context) (e : Element) (s t : State), itemReady s x 0x78 i c = true →
      elemOfCode (BitVec.ofNat 32 (fld (iw i 1) 31 0)) = some e →
      (testable e = false → exec (.selftest x) s = .next (settle (completeItem s x 0x20))) ∧
      (testable e = true → t = updRun s x (fun r => { r with active := true }) →
        ((findElem s e).testing = true → exec (.selftest x) s = .next (settle (setElem t
          { findElem s e with items := (findElem s e).items ++ [x] }))) ∧
        ((findElem s e).testing = false → exec (.selftest x) s = .next (settle (beginTest (setElem t
          { findElem s e with testing := true, source := 0, severity := 0, detail := 0, injected := false, items := [x] }) e))))) ∧
    (∀ (x : ItemRef) (i : Item) (c : Context) (e : Element) (s : State), itemReady s x 0x79 i c = true →
      elemOfCode (BitVec.ofNat 32 (fld (iw i 1) 31 0)) = some e →
      (inject s e (fld (iw i 2) 2 0) = none → exec (.errInject x) s = .next (settle (completeItem s x 0x20))) ∧
      (∀ t, inject s e (fld (iw i 2) 2 0) = some t → exec (.errInject x) s = .next (settle (completeItem t x 0x00)))) ∧
    (∀ (x : ItemRef) (i : Item) (c : Context) (id ms : BitVec 16) (qid : BitVec 4) (s : State), itemReady s x 0x7A i c = true →
      id = BitVec.ofNat 16 (fld (iw i 1) 15 0) → qid = BitVec.ofNat 4 (fld (iw i 1) 19 16) → ms = BitVec.ofNat 16 (fld (iw i 2) 47 32) →
      ((getCtx s id).isNone = true → exec (.watchdogSet x) s = .next (settle (completeItem s x 0x20))) ∧
      ((getCtx s id).isNone = false → (getQueue s id qid).isNone = false → bit (iw i 1) 20 = false →
        exec (.watchdogSet x) s = .next (settle (completeItem { s with err := { s.err with
          waitMs := Tbl.set 0 s.err.waitMs id.toNat (BitVec.ofNat 16 (fld (iw i 2) 15 0))
          itemMs := Tbl.set 0 s.err.itemMs (queueKey id qid) ms } } x 0x00))) ∧
      ((getCtx s id).isNone = false → bit (iw i 1) 20 = true →
        exec (.watchdogSet x) s = .next (settle (completeItem { s with err := { s.err with
          waitMs := Tbl.set 0 s.err.waitMs id.toNat (BitVec.ofNat 16 (fld (iw i 2) 15 0))
          itemMs := ((listOpt (fun q => q.ctx == id) s.queues).map fun q => queueKey q.ctx q.qid).foldl (fun t k => Tbl.set 0 t k ms) s.err.itemMs } }
          x 0x00)))) ∧
    (∀ (x : ItemRef) (i : Item) (c : Context) (s : State), itemReady s x 0x7B i c = true →
      (fld (iw i 1) 2 0 = 4 → exec (.resetReq x) s = .next (settle (packageError s 0x11 .none 0))) ∧
      (fld (iw i 1) 2 0 = 3 → ¬(c.gid ≠ 0xFFFFFF ∧ c.part.toNat = fld (iw i 1) 63 32 % 16) → exec (.resetReq x) s = .next (settle
        (partitionReset (updRun s x fun r => { r with active := true }) (fld (iw i 1) 63 32 % 16) 0x10 .none (some x)))) ∧
      (∀ e, fld (iw i 1) 2 0 = 2 → elemOfCode (BitVec.ofNat 32 (fld (iw i 1) 63 32)) = some e →
        (isEngine e = true → exec (.resetReq x) s = .next (settle (requestEngine s x e))) ∧
        (isEngine e = false → exec (.resetReq x) s = .next (settle (completeItem s x 0x20))))) ∧
    (∀ (x : ItemRef) (i : Item) (c : Context) (s : State), itemReady s x 0x7C i c = true →
      (fld (iw i 1) 1 0 = 0 → exec (.edgeSet x) s = .next (settle (completeItem s x 0x20))) ∧
      (fld (iw i 1) 1 0 = 1 → exec (.edgeSet x) s = .next (settle (completeItem
        { s with err := { s.err with edgeContext := bit (iw i 1) 8 } } x 0x00))) ∧
      (fld (iw i 1) 1 0 = 2 → exec (.edgeSet x) s = .next (settle (completeItem
        { s with err := { s.err with edgeEngine := bit (iw i 1) 8 } } x 0x00))) ∧
      (fld (iw i 1) 1 0 = 3 → exec (.edgeSet x) s = .next (settle (completeItem
        { s with err := { s.err with edgePartition := bit (iw i 1) 8 } } x 0x00)))) ∧
    (∀ (x : ItemRef) (i : Item) (c : Context) (s : State), itemReady s x 0x7D i c = true →
      ((iw i 1).toNat % 8 ≠ 0 → exec (.errRead x) s = .next (settle (completeItem s x 0x20))) ∧
      ((iw i 1).toNat % 8 = 0 → exec (.errRead x) s = .next (settle (writeRecord s x c (iw i 1) (dwordBytes (errSummary s)) 0)))))

/-! ### Trust -/

/-- R277, R361, R362, R364: a wrapped weight or job key is unwrapped in the security engine and enters its slot; a failing blob, kind,
slot, glove or incarnation refuses it; slots are cleared once the transfers already issued have completed. The order of refusals that the
spec leaves open is the model's choice. -/
def Obligations.KeysAreLoadedAndCleared : Prop :=
  (∀ (x : ItemRef) (r : Reply) (i : Item) (c : Context) (slot : Nat) (s : State), itemReady s x 0x58 i c = true → slot = fld (iw i 1) 5 0 →
    (fld (iw i 3) 15 0 ≠ 224 → exec (.wkeySet x r) s = .next (settle (completeItem s x 0xC1))) ∧
    (fld (iw i 3) 15 0 = 224 → (wkey s slot).isSome = true → exec (.wkeySet x r) s = .next (settle (completeItem s x 0xC2))) ∧
    (fld (iw i 3) 15 0 = 224 → (wkey s slot).isSome = false → exec (.wkeySet x r) s = .next (settle
      (withList s x c r (iw i 2) 224 fun t ws => if blobBad ws then completeItem t x 0xC1
        else if fld (ws.getD 0 0) 15 8 = 2 then completeItem t x 0xC4
        else onEngine t fun t => match unwrapBlob t ws with
          | none => completeItem (secDone t) x 0xC0
          | some key => completeItem (secDone (setWkey t slot (some
            { part := BitVec.ofNat 4 (fld (iw i 1) 11 8), key := BitVec.ofNat 512 (leNat key) }))) x 0x00)))) ∧
  (∀ (s : State) (f : State → State), domainRuns s 45 = true → onEngine s f = f s) ∧
  (∀ (x : ItemRef) (i : Item) (c : Context) (s t : State), itemReady s x 0x59 i c = true →
    ((s.trust.wkeys.any fun e => bit (iw i 1) 8 || e.1 == fld (iw i 1) 5 0) = false →
      exec (.wkeyClear x) s = .next (settle (completeItem s x 0x00))) ∧
    ((s.trust.wkeys.any fun e => bit (iw i 1) 8 || e.1 == fld (iw i 1) 5 0) = true → domainRuns s 45 = true →
      t = updRun s x (fun r => { r with active := true }) → exec (.wkeyClear x) s = .next (settle
      { t with trust := { t.trust with wkeys := t.trust.wkeys.map fun e => (e.1, match e.2 with
          | some k => if bit (iw i 1) 8 || e.1 == fld (iw i 1) 5 0 then
              some { k with clearing := true
                            users := if k.clearing then k.users else slotUsers t e.1
                            items := k.items ++ [x] } else some k
          | none => none) } }))) ∧
  (∀ (n : Fin 64) (k : WeightKey) (s : State), wkey s n.val = some k →
    (k.clearing = true → (k.users.all fun x => (getItem s x).isNone) = true →
      exec (.wkeySlotEmptied n) s = .next (settle (emptySlot s n.val))) ∧
    (k.clearing = false → exec (.wkeySlotEmptied n) s = .next (settle s))) ∧
  (∀ (x : ItemRef) (r : Reply) (i : Item) (c : Context) (gid : BitVec 24) (s : State), itemReady s x 0x54 i c = true →
    gid = BitVec.ofNat 24 (fld (iw i 1) 23 0) →
    ((getGlove s gid).isNone = true → exec (.jobkeySet x r) s = .next (settle (completeItem s x 0x85))) ∧
    ((getGlove s gid).isNone = false → bit (iw i 1) 25 = true → iw i 2 = 0 →
      (((jobSlot s gid).key (bit (iw i 1) 24)).isNone = true → exec (.jobkeySet x r) s = .next (settle (completeItem s x 0x86))) ∧
      (((jobSlot s gid).key (bit (iw i 1) 24)).isNone = false → exec (.jobkeySet x r) s = .next (settle (completeItem
        (setJobSlot s { jobSlot s gid with active := bit (iw i 1) 24 }) x 0x00)))) ∧
    ((getGlove s gid).isNone = false → bit (iw i 1) 25 = false → fld (iw i 3) 15 0 = 224 → exec (.jobkeySet x r) s = .next (settle
      (withList s x c r (iw i 2) 224 fun t ws => if blobBad ws then completeItem t x 0xC1
        else if fld (ws.getD 0 0) 15 8 ≠ 2 ∨ fld (ws.getD 2 0) 23 0 ≠ gid.toNat then completeItem t x 0xC4
        else onEngine t fun t => match unwrapBlob t ws with
          | none => completeItem (secDone t) x 0xC0
          | some key => if (key.drop 32).any (· != 0) then completeItem (secDone t) x 0xC1
            else if 256 ≤ (t.incarnation - BitVec.ofNat 32 (fld (ws.getD 3 0) 31 0)).toNat then completeItem (secDone t) x 0xC6
            else completeItem (secDone (setJobSlot t { jobSlot t gid with
              key0 := if bit (iw i 1) 24 then (jobSlot t gid).key0 else some (BitVec.ofNat 256 (leNat (key.take 32)))
              key1 := if bit (iw i 1) 24 then some (BitVec.ofNat 256 (leNat (key.take 32))) else (jobSlot t gid).key1
              require := bit (iw i 1) 26 })) x 0x00)))) ∧
  (∀ (x : ItemRef) (i : Item) (c : Context) (gid : BitVec 24) (s : State), itemReady s x 0x55 i c = true →
    gid = BitVec.ofNat 24 (fld (iw i 1) 23 0) →
    ((getGlove s gid).isNone = true → exec (.jobkeyClear x) s = .next (settle (completeItem s x 0x85))) ∧
    ((getGlove s gid).isNone = false → bit (iw i 1) 25 = true → exec (.jobkeyClear x) s = .next (settle (completeItem
      (secDone { s with fab := { s.fab with keys := s.fab.keys.filter fun j => !(j.gid == gid) } }) x 0x00))) ∧
    ((getGlove s gid).isNone = false → bit (iw i 1) 25 = false → bit (iw i 1) 24 = (jobSlot s gid).active →
      ((jobSlot s gid).key (!bit (iw i 1) 24)).isNone = true → exec (.jobkeyClear x) s = .next (settle (completeItem s x 0x86))))

/-- R356, R357, R359, R360, R367, R423: MEAS_READ writes the measurements; IMAGE_STAGE writes a verified image no older than the floor to
the bank not booted; SPDM requests move the negotiation and the sessions of their transport; MCTP control sets the endpoint id. Message
layouts that the spec leaves to SPDM and MCTP are the model's PRESUMED ones. -/
def Obligations.MeasurementsAndSessions : Prop :=
  (∀ (x : ItemRef) (i : Item) (c : Context) (s : State), itemReady s x 0x5A i c = true →
    ((iw i 1).toNat % 8 ≠ 0 → exec (.measRead x) s = .next (settle (completeItem s x 0x20))) ∧
    ((iw i 1).toNat % 8 = 0 → exec (.measRead x) s = .next (settle (writeRecord s x c (iw i 1) (measBytes s) 0)))) ∧
  (∀ (x : ItemRef) (r : Reply) (i : Item) (c : Context) (s : State), itemReady s x 0x5B i c = true →
    exec (.imageStage x r) s = .next (settle (withList s x c r (iw i 1) (iw i 2).toNat fun t ws =>
      match Config.imageBank ((dwordBytes ws).take (iw i 2).toNat) with
      | none => completeItem t x 0xC5
      | some (svn, commit, digests) => if svn < t.life.flash.svnFloor then completeItem t x 0xC5
        else completeItem { t with life := { t.life with flash := { t.life.flash with
          bankA := if t.life.flash.bootedB then some { svn := svn, commitSvn := commit, digests := digests } else t.life.flash.bankA
          bankB := if t.life.flash.bootedB then t.life.flash.bankB
                   else some { svn := svn, commitSvn := commit, digests := digests } } } } x 0x00))) ∧
  (∀ (tr : Transport) (req : Nat) (msg : List Byte) (ok : Bool) (f : State → List Byte → State) (s t : State),
    t = (if s.life.powered then irqPrivate s 48 5 true else s) →
    (rtpServes t = false → spdmServe s tr req msg ok f = t) ∧
    (rtpServes t = true → ok = false → spdmServe s tr req msg ok f = emit t (.spdm tr (Config.spdmRefusal req msg))) ∧
    (rtpServes t = true → ok = true → spdmServe s tr req msg ok f =
      emit (if (Config.spdmAnswer req msg (spdmConn t tr).vca t.trust.meas (healthBlock t)).2 = true
          then f t (Config.spdmAnswer req msg (spdmConn t tr).vca t.trust.meas (healthBlock t)).1 else t)
        (.spdm tr (Config.spdmAnswer req msg (spdmConn t tr).vca t.trust.meas (healthBlock t)).1))) ∧
  (∀ (tr : Transport) (msg : List Byte) (s : State),
    (exec (.getVersion tr msg) s = .next (settle (spdmServe s tr 0 msg true fun t resp =>
      setConn { t with trust := { t.trust with sessions := t.trust.sessions.filter fun k => !(k.tr == tr) } } tr
        { stage := 1, vca := msg ++ resp }))) ∧
    (exec (.getCapabilities tr msg) s = .next (settle (spdmServe s tr 1 msg (decide (2 = (spdmConn s tr).stage + 1)) fun t resp =>
      setConn t tr { stage := 2, vca := (spdmConn t tr).vca ++ msg ++ resp }))) ∧
    (exec (.negotiateAlgorithms tr msg) s = .next (settle (spdmServe s tr 2 msg (decide (3 = (spdmConn s tr).stage + 1)) fun t resp =>
      setConn t tr { stage := 3, vca := (spdmConn t tr).vca ++ msg ++ resp })))) ∧
  (∀ (tr : Transport) (msg : List Byte) (s : State), (spdmConn s tr).stage = 3 →
    (exec (.getDigests tr msg) s = .next (settle (spdmServe s tr 3 msg true fun t _ => t))) ∧
    (exec (.getCertificate tr msg) s = .next (settle (spdmServe s tr 4 msg true fun t _ => t))) ∧
    (exec (.challenge tr msg) s = .next (settle (spdmServe s tr 5 msg true fun t _ => t))) ∧
    (exec (.getMeasurements tr msg) s = .next (settle (spdmServe s tr 6 msg true fun t _ => t))) ∧
    (s.trust.sessions.length < 4 → exec (.keyExchange tr msg) s = .next (settle (spdmServe s tr 7 msg true fun t _ =>
      { t with free := t.free + 1, trust := { t.trust with sessions := t.trust.sessions ++
        [{ id := BitVec.ofNat 32 (leNat ((msg.drop 4).take 2) + (Config.sessionId t.free).toNat * 2 ^ 16), tr := tr }] } }))) ∧
    (4 ≤ s.trust.sessions.length → exec (.keyExchange tr msg) s = .next (settle (spdmServe s tr 7 msg false fun t _ => t)))) ∧
  (∀ (tr : Transport) (msg : List Byte) (k : SpdmSession) (s : State), sessionOf s tr msg = some k →
    (k.up = false → exec (.finish tr msg) s = .next (settle (spdmServe s tr 8 msg true fun t _ => { t with trust := { t.trust with
      sessions := t.trust.sessions.filterMap fun j => if j == k then some { j with up := true } else some j } }))) ∧
    (k.up = true → exec (.heartbeat tr msg) s = .next (settle (spdmServe s tr 9 msg true fun t _ => { t with trust := { t.trust with
      sessions := t.trust.sessions.filterMap fun j => if j == k then some j else some j } }))) ∧
    (k.up = true → exec (.keyUpdate tr msg) s = .next (settle (spdmServe s tr 10 msg true fun t _ => { t with trust := { t.trust with
      sessions := t.trust.sessions.filterMap fun j => if j == k then some { j with keyRound := j.keyRound + 1 } else some j } }))) ∧
    (k.up = true → exec (.endSession tr msg) s = .next (settle (spdmServe s tr 11 msg true fun t _ => { t with trust := { t.trust with
      sessions := t.trust.sessions.filterMap fun j => if j == k then none else some j } })))) ∧
  (∀ (op eid : Byte) (b : Byte) (s : State), rtpServes s = true → op = 0 ∨ op = 1 → 8 ≤ eid.toNat → eid ≠ 0xFF →
    exec (.mctpControl [b, 1, op, eid]) s = .next (settle (emit { s with trust := { s.trust with eid := eid } }
      (.mctp (Config.mctpAnswer [b, 1, op, eid] eid))))) ∧
  (∀ (msg : List Byte) (s : State), rtpServes s = true → msg.getD 1 0 ≠ 1 → exec (.mctpControl msg) s =
    .next (settle (emit s (.mctp (Config.mctpAnswer msg s.trust.eid))))) ∧
  (∀ (tr : Transport) (msg : List Byte) (s : State), sessionOf s tr msg = none →
    exec (.finish tr msg) s = .next (settle (spdmServe s tr 8 msg false fun t _ => t)) ∧
    exec (.heartbeat tr msg) s = .next (settle (spdmServe s tr 9 msg false fun t _ => t)) ∧
    exec (.keyUpdate tr msg) s = .next (settle (spdmServe s tr 10 msg false fun t _ => t)) ∧
    exec (.endSession tr msg) s = .next (settle (spdmServe s tr 11 msg false fun t _ => t))) ∧
  (∀ (tr : Transport) (msg : List Byte) (s : State), (spdmConn s tr).stage ≠ 3 →
    exec (.keyExchange tr msg) s = .next (settle (spdmServe s tr 7 msg false fun t _ => t)))

/-! ### Interrupts, counters and the log -/

/-- R384 to R390: a processor takes its best source, claims and completes it; EIC_SOFT raises edge sources for the manager only; INTR_CFG
sets a source; an unmasked MSI-X vector that waits is sent. -/
def Obligations.InterruptsAreDelivered : Prop :=
  (∀ (q : Fin 49) (s : State), accepts s q.val = true → (bestOf (candidates s q.val)).isNone = false →
    (∀ k, q.val < 32 → Tbl.get 0 s.procCore q.val = k + 1 → clusterTicks s (pidCluster k) = true → loadsOut s k = false →
      exec (.interruptCommit q) s = .next (settle (takeInterrupt s k q.val))) ∧
    (32 ≤ q.val → q.val < 48 → pairStopped s (q.val - 32) = false →
      exec (.interruptCommit q) s = .next (settle (setProc s q.val { getProc s q.val with committed := true }))) ∧
    (q.val = 48 → s.rtpDown = false →
      exec (.interruptCommit q) s = .next (settle (setProc s q.val { getProc s q.val with committed := true })))) ∧
  (∀ (q : Fin 49) (s : State), accepts s q.val = false → exec (.interruptCommit q) s = .next (settle s)) ∧
  (∀ (q : Fin 49) (n : BitVec 16) (s t u : State), accepts s q.val = true → claimAt s q.val = (n, t) →
    u = setProc t q.val { getProc t q.val with committed := false } →
    exec (.eicClaim q) s = .next (settle { u with lastRead := n.setWidth 32 })) ∧
  (∀ (q : Fin 49) (src : BitVec 11) (s : State), exec (.eicComplete q src) s = .next (settle (completeSource s q.val src.toNat))) ∧
  (∀ (d : Word) (s : State), exec (.eicSoft .host d) s = .next (settle (ignoreHostWrite s))) ∧
  (∀ (d : Word) (s : State), frozenBlock s 3 = false →
    (fld d 10 0 < 4 → fld d 16 11 < 49 → exec (.eicSoft .manager d) s = .next (settle (irqPrivate s (fld d 16 11) (fld d 10 0) true))) ∧
    (576 ≤ fld d 10 0 → fld d 10 0 ≤ 1087 → exec (.eicSoft .manager d) s = .next (settle (irqEdge s (fld d 10 0 - 64)))) ∧
    (4 ≤ fld d 10 0 → fld d 10 0 < 576 → exec (.eicSoft .manager d) s = .next (settle s)) ∧
    (1087 < fld d 10 0 → exec (.eicSoft .manager d) s = .next (settle s))) ∧
  (∀ (x : ItemRef) (i : Item) (c : Context) (n : Nat) (s : State), itemReady s x 0x74 i c = true → n = fld (iw i 1) 9 0 →
    ((284 ≤ n ∧ n < 512) ∨ 48 < fld (iw i 1) 29 24 ∨ (n < 512 ∧ bit (iw i 1) 32 ≠ levelWired n) →
      exec (.intrCfg x) s = .next (settle (completeItem s x 0xE3))) ∧
    (512 ≤ n → fld (iw i 1) 29 24 ≤ 48 → exec (.intrCfg x) s = .next (settle (completeItem (setIrq s n { getIrq s n with
      prio := BitVec.ofNat 4 (fld (iw i 1) 19 16)
      target := BitVec.ofNat 6 (fld (iw i 1) 29 24)
      level := decide (512 ≤ n) && bit (iw i 1) 32
      mask := bit (iw i 1) 33 }) x 0x00))) ∧
    (n < 284 → fld (iw i 1) 29 24 ≤ 48 → bit (iw i 1) 32 = levelWired n → exec (.intrCfg x) s = .next (settle (completeItem
      (setIrq s n { getIrq s n with
        prio := BitVec.ofNat 4 (fld (iw i 1) 19 16)
        target := BitVec.ofNat 6 (fld (iw i 1) 29 24)
        level := false
        mask := bit (iw i 1) 33 }) x 0x00)))) ∧
  (∀ (v : BitVec 11) (s t : State), t = { s with cfg := { s.cfg with
      msix := Tbl.set 0 s.cfg.msix (4 * v.toNat + 3) (msixDword s (4 * v.toNat + 3) ||| 1) } } →
    (Tbl.get false t.cfg.pba v.toNat = false → exec (.msixVectorUnmask v) s = .next (settle t)) ∧
    (t.host.lost = true → exec (.msixVectorUnmask v) s = .next (settle t)) ∧
    (Tbl.get false t.cfg.pba v.toNat = true → t.host.lost = false → exec (.msixVectorUnmask v) s = .next (settle (sendMsix
      { t with cfg := { t.cfg with pba := Tbl.set false t.cfg.pba v.toNat false } } v))))

/-- R366, R391 to R400: counters are read live by the manager and by tenants from the last sample; a snapshot injects its epoch's marker,
each unit latches at it once, and reads name an epoch still held; records are stored, displaced oldest first but for retained ones, and
delivered. -/
def Obligations.CountersAndTheLog : Prop :=
  (∀ (x : ItemRef) (r : Reply) (i : Item) (c : Context) (s : State), itemReady s x 0x72 i c = true →
    (fld (iw i 1) 12 0 = 0 ∨ 4096 < fld (iw i 1) 12 0 → exec (.counterRead x r) s = .next (settle (completeItem s x 0x20))) ∧
    (1 ≤ fld (iw i 1) 12 0 → fld (iw i 1) 12 0 ≤ 4096 → exec (.counterRead x r) s = .next (settle
      (withList s x c r (iw i 2) (4 * fld (iw i 1) 12 0) fun t ws =>
        let ids := idList ws (fld (iw i 1) 12 0)
        if !c.manager && ids.any fun id => !tenantMay c id then completeItem t x 0x40
        else
          let got := ids.filterMap (fun id => liveId t c id)
          if got.length ≠ fld (iw i 1) 12 0 then completeItem t x 0xE2
          else writeRecord t x c (iw i 3) (dwordBytes (got.map fun id =>
            if c.manager then counterValue t id else coarse c (Tbl.get 0 t.cnt.sample id))) 0)))) ∧
  (∀ (x : ItemRef) (i : Item) (c : Context) (e : Word) (s t : State), itemReady s x 0x70 i c = true →
    e = BitVec.ofNat 32 (fld (iw i 1) 31 0) →
    (e.toNat ≤ s.cnt.epoch.toNat → exec (.snapTake x) s = .next (settle (completeItem s x 0xE0))) ∧
    (s.cnt.epoch.toNat < e.toNat → t = { s with cnt := { s.cnt with epoch := e, markers := s.cnt.markers ++ [(e, s.node)] } } →
      (bit (iw i 1) 32 = true → exec (.snapTake x) s = .next (settle (completeItem (floodSnapshot t e s.node) x 0x00))) ∧
      (bit (iw i 1) 32 = false → exec (.snapTake x) s = .next (settle (completeItem t x 0x00))))) ∧
  (∀ (p q : Packet) (e : Word) (o : BitVec 17) (s u : State), received s p 0x0D = some (u, q) → msgCode q = 0x0D →
    e = BitVec.ofNat 32 (msgField q 0 4) → o = BitVec.ofNat 17 (msgField q 4 4) →
    (e.toNat ≤ u.cnt.epoch.toNat → exec (.snapshot p) s = .next (settle u)) ∧
    (u.cnt.epoch.toNat < e.toNat → exec (.snapshot p) s = .next (settle (floodSnapshot (inject_ u e o) e o)))) ∧
  (∀ (n : Nat) (e : Word) (s : State), (s.cnt.markers.find? fun m => m.1 == e) = none ∨ unitCount ≤ n ∨ e.toNat ≤ unitLast s n →
    exec (.snapshotMarker n e) s = .next (settle s)) ∧
  (∀ (n : Nat) (e : Word) (m : Word × BitVec 17) (s t : State), (s.cnt.markers.find? fun m => m.1 == e) = some m → n < unitCount →
    unitLast s n < e.toNat → e.toNat % 2 = 0 →
    t = { s with cnt := { s.cnt with
      shadow0 := latchTable s n s.cnt.shadow0, bound0 := latchBinding s n s.cnt.bound0, bank0 := Tbl.set 0 s.cnt.bank0 n e } } →
    ((List.range unitCount).all fun v => decide (e.toNat ≤ unitLast t v)) = false →
    exec (.snapshotMarker n e) s = .next (settle t)) ∧
  (∀ (x : ItemRef) (r : Reply) (i : Item) (c : Context) (e : Word) (s : State), itemReady s x 0x71 i c = true →
    e = BitVec.ofNat 32 (fld (iw i 1) 31 0) →
    ((s.cnt.markers.any fun m => m.1 == e) = false ∨ ((List.range unitCount).all fun u => decide (e.toNat ≤ unitLast s u)) = true) →
    exec (.snapRead x r) s = .next (settle (withIds s x c r (fld (iw i 1) 44 32) (iw i 2)
      (fun t id => shadowId t c (decide (e.toNat % 2 = 0)) id) fun t ids =>
        if ids.any fun id => Tbl.get 0 (if decide (e.toNat % 2 = 0) then t.cnt.bank0 else t.cnt.bank1) (unitOf t id) != e then
          completeItem t x 0xE1
        else writeRecord t x c (iw i 3) (dwordBytes (ids.map fun id =>
          coarse c (Tbl.get 0 (if decide (e.toNat % 2 = 0) then t.cnt.shadow0 else t.cnt.shadow1) id))) (e.setWidth 64)))) ∧
  (∀ (x : ItemRef) (r : Reply) (i : Item) (c : Context) (e : Word) (s : State), itemReady s x 0x71 i c = true →
    e = BitVec.ofNat 32 (fld (iw i 1) 31 0) → (s.cnt.markers.any fun m => m.1 == e) = true →
    ((List.range unitCount).any fun u => decide (unitLast s u < e.toNat)) = true → exec (.snapRead x r) s = .next (settle s)) ∧
  (∀ (r : LogRec) (l : List LogRec) (s : State), s.rtpDown = false → s.log.held = [] → s.log.waiting = r :: l →
    s.log.store.length < 8192 → exec .logRecordStore s = .next (settle (reportGone
      { s with log := { s.log with waiting := l, store := s.log.store ++ [r] } }))) ∧
  (∀ (r : LogRec) (l : List LogRec) (s : State), s.rtpDown = true → s.log.held.length < 512 → s.log.waiting = r :: l →
    exec .logRecordStore s = .next (settle { s with log := { s.log with waiting := l, held := s.log.held ++ [r] } })) ∧
  (∀ (r : LogRec) (k : Nat) (s : State), 8192 ≤ s.log.store.length → findIdx? (fun q => !q.retained) s.log.store 0 = some k →
    storeRec s r = discardRec { s with log := { s.log with store := s.log.store.eraseIdx k ++ [r] } } (s.log.store.getD k {})) ∧
  (∀ (x : ItemRef) (i : Item) (c : Context) (s : State), itemReady s x 0x73 i c = true →
    (10 < fld (iw i 1) 3 0 ∨ (iw i 2).toNat % 4096 ≠ 0 → exec (.logCfg x) s = .next (settle (completeItem s x 0xE4))) ∧
    (fld (iw i 1) 3 0 ≤ 10 → (iw i 2).toNat % 4096 = 0 → exec (.logCfg x) s = .next (settle (completeItem { s with log := { s.log with
      ringLog := BitVec.ofNat 4 (fld (iw i 1) 3 0), msix := BitVec.ofNat 11 (fld (iw i 1) 26 16), base := iw i 2, widx := 0 } } x 0x00)))) ∧
  (∀ (c : Context) (r : LogRec) (l : List LogRec) (ridx : Dword) (a : Dword) (s t u v : State), getCtx s 0 = some c → s.log.store = r :: l →
    s.rtpDown = false → s.log.base ≠ 0 → c.faulted = false → c.state = .running → (s.posts.any fun p => p.1 == 0) = false →
    ringRidx s c s.log.base = (t, ridx) → ringFull t.log.widx (2 ^ (6 + s.log.ringLog.toNat)) ridx = false →
    a = t.log.base + BitVec.ofNat 64 (0x40 + 64 * (t.log.widx % 2 ^ (6 + s.log.ringLog.toNat))) →
    tryWrite t c a r.bytes = .done u → v = ringWrite u 0 u.log.base (leBytes 8 (u.log.widx + 1)) false →
    exec .logRecordDeliver s = .next (settle (logMsix { v with log := { v.log with
      store := l
      widx := u.log.widx + 1
      owed := v.log.owed || r.retained || decide (
        3 * 2 ^ (6 + s.log.ringLog.toNat) < 4 * (BitVec.ofNat 64 (u.log.widx + 1) - ridx).toNat ∧
        4 * ((BitVec.ofNat 64 (u.log.widx + 1) - ridx).toNat - 1) ≤ 3 * 2 ^ (6 + s.log.ringLog.toNat)) } }))) ∧
  (∀ (s : State), s.log.store = [] → exec .logRecordDeliver s = .next (settle (logMsix s)))

/-! ### Registers and the tray -/

/-- R402, R403, R405 to R411: an access through a pair reaches the register of its block, or reports that the block is off, denied to the
host, or silent, and HIU_IND_DATA advances ADDR; a register write takes effect whole, through the manager view or where the host may
write, unless its block is frozen; a parity error resets the register and freezes its block until UNFREEZE. R26, R35, R368, R402, R407,
R418, R422: reads with effects: TICKS_LO latches its high half and reads 0 to the host at Ready; FPR_DATA_HI advances its word. The tray
sets its cap, wakes domains, resets the host, reads and clears its alerts; a quadrant without a cable loses its 3.3 V. -/
def Obligations.RegistersAndTheTray : Prop :=
  ((∀ (v : View) (d : Option Word) (s : State), frozenBlock s 0 = false →
      exec (.hiuIndData v d) s = .next (settle (indAccess s v d true)) ∧
      exec (.hiuIndDataNoinc v d) s = .next (settle (indAccess s v d false))) ∧
    (∀ (v : View) (d : Word) (s : State), frozenBlock s 0 = true →
      exec (.hiuIndData v (some d)) s = .next (settle s) ∧ exec (.hiuIndDataNoinc v (some d)) s = .next (settle s)) ∧
    (∀ (v : View) (a : BitVec 24) (g : Reg) (s : State), a = (viewPair s v).addr → g = regAt (fld a 18 16) (a.setWidth 16) →
      regRuns s g = true → ownPair g = false →
      (indAccess s v none false = readReg s v g) ∧
      (∀ d, hostMay g = true ∨ v = .manager → indAccess s v (some d) false = writeReg s v (fld a 18 16) g d) ∧
      (∀ d, v = .host → hostMay g = false →
        indAccess s v (some d) false = setPair (ignoreHostWrite s) v { viewPair (ignoreHostWrite s) v with denied := true })) ∧
    (∀ (v : View) (a : BitVec 24) (g : Reg) (d : Word) (s : State), a = (viewPair s v).addr → g = regAt (fld a 18 16) (a.setWidth 16) →
      regRuns s g = false →
      indAccess s v (some d) false = setPair s v { viewPair s v with off := true } ∧
      indAccess s v none false = setPair { s with lastRead := 0 } v { viewPair s v with off := true }) ∧
    (∀ (v : View) (s : State), exec (.indAccessTimeout v) s = .next (settle (setPair { s with lastRead := 0xFFFFFFFF } v
      { viewPair s v with timeout := true }))) ∧
    (∀ (v : View) (s : State), exec (.hiuIndStatusRead v true) s = .next (settle (setPair { s with lastRead := regValue s v (.hiu 7) } v
        { viewPair s v with timeout := false, denied := false, off := false })) ∧
      exec (.hiuIndStatusRead v false) s = .next (settle { s with lastRead := regValue s v (.hiu 7) })) ∧
    (∀ (d : Word) (s : State), exec (.unfreeze .host d) s = .next (settle (ignoreHostWrite s)) ∧
      (bit d 15 = true → exec (.unfreeze .manager d) s = .next (settle
        { s with regs := { s.regs with frozen := setBit s.regs.frozen (fld d 14 12) false } })) ∧
      (bit d 15 = false → exec (.unfreeze .manager d) s = .next (settle s))) ∧
    (∀ (block : BitVec 3) (off : BitVec 16) (g : Reg) (s t : State), g = regAt block.toNat off → t = resetReg s g →
      (hasParity g = false → exec (.parityCheck block off) s = .next (settle s)) ∧
      (hasParity g = true → regRuns s g = true → exec (.parityCheck block off) s = .next (settle (reportError (irqEdge
        { t with regs := { t.regs with frozen := setBit t.regs.frozen block.toNat true, cfgBlock := block
                                       cfgOffset := BitVec.ofNat 14 (regOff g / 4) } } 282) 0x0E 2 .none
        (BitVec.ofNat 64 (block.toNat * 2 ^ 16 + regOff g)))))) ∧
    (∀ (a : RegPath) (d : Word) (s : State), exec (.registerWrite a d false) s = .next (settle s)) ∧
    (∀ (v : View) (off : BitVec 24) (g : Reg) (d : Word) (s : State), g = regAt (windowBlock off) (off.setWidth 16) → g ≠ .hiu 5 → g ≠ .hiu 6 →
      exec (.registerWrite (.bar0 v off) d true) s = .next (settle (writeReg s v (windowBlock off) g d))) ∧
    (∀ (v : View) (block : Nat) (g : Reg) (d : Word) (s : State),
      (v = .host → hostMay g = false → writeReg s v block g d = ignoreHostWrite s) ∧
      (hostMay g = true ∨ v = .manager → g ≠ .hiu 8 → frozenBlock s block = true → writeReg s v block g d = s) ∧
      (hostMay g = true ∨ v = .manager → g ≠ .hiu 8 → frozenBlock s block = false → regRuns s g = true →
        writeReg s v block g d = storeReg s v g d)) ∧
    (∀ (page : Fin 4096) (off : BitVec 12) (d : Word) (s : State),
      exec (.registerWrite (.bar2 page off) d true) s = .next (settle (writeDb s page.val (fld off 4 2) d))) ∧
    (∀ (off : Byte) (d : Word) (s : State), s.life.powered = false →
      exec (.registerWrite (.tray off) d true) s = .next (settle s))) ∧
  ((∀ (m : Fin 16) (whole : Bool) (s : State), s.life.ready = true →
      exec (.govPmTicksLoRead .host m whole) s = .next (settle { s with lastRead := 0 })) ∧
    (∀ (m : Fin 16) (v : View) (t : Dword) (s : State), t = counterValue s (counterId 4 m.val 0) → v = .manager ∨ s.life.ready = false →
      exec (.govPmTicksLoRead v m true) s = .next (settle (setMeter { s with lastRead := t.setWidth 32 } m.val
        { getMeter s m.val with ticksHi := BitVec.ofNat 32 (t.toNat / 2 ^ 32) })) ∧
      exec (.govPmTicksLoRead v m false) s = .next (settle { s with lastRead := t.setWidth 32 })) ∧
    (∀ (v : View) (w : Word) (s : State), w = BitVec.ofNat 32 ((fpWord s s.fp.index.toNat).toNat / 2 ^ 32) →
      exec (.rtpFprDataHiRead v false) s = .next (settle { s with lastRead := w }) ∧
      (s.fp.index.toNat = 71 → exec (.rtpFprDataHiRead v true) s = .next (settle { s with lastRead := w, fp := { s.fp with index := 0 } })) ∧
      (s.fp.index.toNat ≠ 71 → exec (.rtpFprDataHiRead v true) s =
        .next (settle { s with lastRead := w, fp := { s.fp with index := s.fp.index + 1 } }))) ∧
    (∀ (d : Word) (s : State), s.life.powered = true →
      exec (.govTrayCap d) s = .next (settle { s with gov := { s.gov with trayNext := min 1600 (max 200 (fld d 10 0)) } }) ∧
      (bit d 0 = true → bit d 1 = false → exec (.govTrayWake d) s = .next (settle (trayWake (irqPrivate s 48 7 true)))) ∧
      (bit d 0 = false → bit d 1 = true → exec (.govTrayHostReset d) s =
        .next (settle (hostIfReset (hostLoss (irqPrivate s 48 7 true) 4)))) ∧
      (exec (.govTrayAlertRead false) s = .next (settle { s with lastRead := s.regs.trayAlert.setWidth 32 })) ∧
      (exec (.govTrayAlertRead true) s = .next (settle (setAlerts { s with lastRead := s.regs.trayAlert.setWidth 32 } 0 s.regs.trayMask)))) ∧
    (∀ (s : State), s.life.powered = false → (∀ d, exec (.govTrayCap d) s = .next (settle s) ∧ exec (.govTrayWake d) s = .next (settle s) ∧
      exec (.govTrayHostReset d) s = .next (settle s)) ∧ (∀ whole, exec (.govTrayAlertRead whole) s = .next (settle s))) ∧
    (∀ (q : Fin 4) (s : State), exec (.cblPrsnt q) s =
      .next (settle { s with regs := { s.regs with cableOut := setBit s.regs.cableOut q.val true } })) ∧
    (∀ (q : Nat) (s : State), bit s.regs.cableOut q = true ∨ s.life.powered = false ∨ (getDomain s (40 + q)).st = 3 → cableSupply s q = false))

/-! ### Power, boot, removal and restart -/

/-- R356, R369, R370, R372, R415: power-on boots the bank of the higher SVN not below the floor, the other one once, and reaches Ready or
BOOT_FAIL; the loss of power by any cause leaves what flash holds; FLOORPLAN_COMMIT commits the oldest change unless the RTP restarts.
R374, R376, R377, R380, R381: the manager queue opens at GO; RM_REQ is logged once; PREPARE is refused or begins, CANCEL ends it before
RM_OK; the RTP restarts at its pin, watchdog, a pair's symptom or its firmware, counts RESTARTS, and its return lets what waited go on. -/
def Obligations.PowerAndManagement : Prop :=
  ((∀ (e : BootEnv) (s : State), (s.life.powered = true → exec (.powerOn e) s = .next (settle s)) ∧
      (s.life.powered = false → exec (.powerOn e) s = .next (settle
        (bootFrom { s with life := { s.life with powered := true, phase := 2 } } e)))) ∧
    (∀ (a b : FlashBank) (floor : Nat), (bankBoots a floor = false → bankBoots b floor = false → chooseBank a b floor = none) ∧
      (bankBoots a floor = true → b.svn ≤ a.svn → chooseBank a b floor = some false) ∧
      (bankBoots b floor = true → a.svn < b.svn → chooseBank a b floor = some true) ∧
      (bankBoots a floor = true → bankBoots b floor = false → chooseBank a b floor = some false)) ∧
    (∀ (e : BootEnv) (s : State), (e.rtpFails = true → readyFail s e = some 0x05) ∧
      (e.rtpFails = false → s.fp.cpOk = 0 → readyFail s e = some 0x02) ∧
      (e.rtpFails = false → s.fp.cpOk ≠ 0 → e.testsFailed.any isLoopback = true → readyFail s e = some 0x03) ∧
      (e.rtpFails = false → s.fp.cpOk ≠ 0 → e.testsFailed.any isLoopback = false → s.fp.computeMask = 0 → readyFail s e = some 0x04) ∧
      (e.rtpFails = false → s.fp.cpOk ≠ 0 → e.testsFailed.any isLoopback = false → s.fp.computeMask ≠ 0 → readyFail s e = none)) ∧
    (∀ (s : State) (c : Byte), (bootFailed s c).life.phase = 0xE ∧ (bootFailed s c).life.bootFail = c) ∧
    (∀ (s : State), s.life.powered = true →
      exec .pwrEnFall s = .next (powerOff s) ∧ exec .powerLoss s = .next (powerOff s) ∧ exec .inputOvervoltage s = .next (powerOff s) ∧
      exec .inputOvercurrent s = .next (powerOff s) ∧ exec .surpriseRemoval s = .next (powerOff s)) ∧
    (∀ (s : State), (powerOff s).life = { flash := s.life.flash } ∧ (powerOff s).fp = { repairLog := s.fp.repairLog } ∧
      (powerOff s).incarnation = s.incarnation ∧ (powerOff s).ctxs = State.reset.ctxs ∧ (powerOff s).mem = State.reset.mem ∧
      (powerOff s).gloves = State.reset.gloves ∧ (powerOff s).trust = State.reset.trust) ∧
    (∀ (c : FpChange) (l : List FpChange) (s : State), s.fp.pending = c :: l →
      (s.rtpDown = false → exec .floorplanCommit s = .next (settle (commitChange { s with fp := { s.fp with pending := l } } c))) ∧
      (s.rtpDown = true → exec .floorplanCommit s = .next (settle s))) ∧
    (∀ (s : State), s.fp.pending = [] → exec .floorplanCommit s = .next (settle s)) ∧
    (∀ (n : BitVec 6) (t : State) (s : State), s.life.powered = true → t = setReadyPin (clearPackage { s with links := s.links.map fun e =>
        (e.1, { e.2 with st := 0, lanes := 0, valid := false, hold := false }) } false) false →
      exec (.thermalShutdown n) s = .next (settle (setAlert (faultRequest (logError { t with
        groups := []
        life := { t.life with phase := 0, flash := { t.life.flash with events := t.life.flash.events ++
          [dwordBytes (errorRecord s 5 5 3 0x15 false .none none 0 (n.setWidth 64))] } }
        fp := { t.fp with pending := [] } } 5 5 3 0x15 false .none none 0 (n.setWidth 64))) 3)))) ∧
  ((∀ (d : Word) (s : State), exec (.hiuMgrGo .host d) s = .next (settle (ignoreHostWrite s)) ∧
      (frozenBlock s 0 = true → exec (.hiuMgrGo .manager d) s = .next (settle s))) ∧
    (∀ (d : Word) (s t : State), frozenBlock s 0 = false → t = { s with regs := { s.regs with mgr := Tbl.set 0 s.regs.mgr 9 (d &&& 0xF7FF) } } →
      (bit d 31 = true → exec (.hiuMgrGo .manager d) s = .next (settle (mgrGo t))) ∧
      (bit d 31 = false → exec (.hiuMgrGo .manager d) s = .next (settle t))) ∧
    (∀ (s : State), mgrOk s = false → mgrGo s = s) ∧
    (∀ (s : State), s.life.powered = true → s.life.rmReq = false → exec .rmReq s =
      .next (settle (setAlert (sideband (lifeEvent { s with life := { s.life with rmReq := true } })) 5))) ∧
    (∀ (s : State), s.life.rmReq = true → exec .rmReq s = .next (settle s)) ∧
    (∀ (s : State), exec (.rtpRemovePrepare .host) s = .next (settle (ignoreHostWrite s)) ∧
      exec (.rtpRemoveCancel .host) s = .next (settle (ignoreHostWrite s))) ∧
    (∀ (s : State), frozenBlock s 1 = false → s.life.ready = true → s.life.preparing = false →
      (s.rtpDown = true → exec (.rtpRemovePrepare .manager) s = .next (settle { s with life := { s.life with prepareWait := true } })) ∧
      (s.rtpDown = false → refuseBits s ≠ 0 →
        exec (.rtpRemovePrepare .manager) s = .next (settle { s with life := { s.life with refuse := refuseBits s } })) ∧
      (s.rtpDown = false → refuseBits s = 0 → exec (.rtpRemovePrepare .manager) s = .next (settle ((List.range 64).foldl (fun s n =>
        if (getLink s n).enable then linkOff (updLink s n fun l => { l with enable := false }) n 8 else s)
        { s with life := { s.life with preparing := true, refuse := 0 } })))) ∧
    (∀ (s : State), frozenBlock s 1 = false →
      (s.life.removeReady = true → exec (.rtpRemoveCancel .manager) s = .next (settle s)) ∧
      (s.life.removeReady = false → exec (.rtpRemoveCancel .manager) s =
        .next (settle { s with life := { s.life with preparing := false, prepareWait := false } }))) ∧
    (∀ (s t : State), s.life.powered = true → s.rtpDown = false → s.life.phase ≠ 0xE → s.life.phase ≠ 0 →
      t = { s with rtpDown := true, life := { s.life with phase := 0xF }
                   trust := { s.trust with doe := {}, mctp := {}, sessions := [] } } →
      exec .rtpWatchdog s = .next (settle t) ∧ exec (.rtpRestart .firmware) s = .next (settle t) ∧
      exec (.rtpRestart .pairSymptom) s = .next (settle t) ∧ exec (.rtpRestart .pin) s = .next (settle (rtpStop (irqPrivate s 48 7 true)))) ∧
    (∀ (bist : BitVec 2) (ok : Bool) (s : State), s.rtpDown = false → exec (.rtpRestartReturn bist ok) s = .next (settle s)) ∧
    (∀ (ok : Bool) (s : State), s.rtpDown = true → exec (.rtpRestartReturn 3 ok) s =
      .next (settle (fatalError { s with life := { s.life with bootFail := 0x05 } } 0x07 .rtp 0))) ∧
    (∀ (bist : BitVec 2) (s : State), s.rtpDown = true → bist ≠ 3 →
      exec (.rtpRestartReturn bist false) s = .next (settle (fatalError s 0x0D .rtp 0))) ∧
    (∀ (bist : BitVec 2) (s : State), s.rtpDown = true → bist ≠ 3 → s.life.ready = true →
      exec (.rtpRestartReturn bist true) s = .next (settle (rtpBack s (bist != 0)))) ∧
    (∀ (bist : BitVec 2) (s t : State), s.rtpDown = true → bist ≠ 3 → s.life.ready = false → t = clearPackage s false →
      exec (.rtpRestartReturn bist true) s = .next (settle (bootFrom { t with
        rtpDown := false
        life := { t.life with
          restarts := (rtpBack { s with err := { s.err with resets := [] } } (bist != 0)).life.restarts
          phase := 2 } } s.life.env))) ∧
    (∀ (s t : State), s.life.prepareWait = false → (s.err.resets.any fun r => r.held) = false → (findElem s .rtp).testing = false →
      t = { s with
        rtpDown := false
        life := { s.life with phase := if s.life.ready then 0xA else 3
                              restarts := if s.life.restarts = 0xFFFF then 0xFFFF else s.life.restarts + 1 }
        err := { s.err with pairs := Tbl.set {} s.err.pairs 16 {} } } → rtpBack s false = t) ∧
    (∀ (s : State), (s.rtpDown = true → exec .rtpRestartTimeout s = .next (settle (fatalError s 0x0D .rtp 0))) ∧
      (s.rtpDown = false → exec .rtpRestartTimeout s = .next (settle s))))

/-! ### Frames, and what every step leaves -/

/-- R77, R83: at a module at rest an M-core's register instruction or branch changes only its destination register, the PC and the count
of retired instructions: no other register, flag, tile, buffer byte or core, no byte of SRAM or HBM, no other counter or unit. MFLAGS with
CLR also clears FLAGS. -/
def Obligations.MInstructionsChangeOneRegister : Prop :=
  ∀ (c : Fin 160) (w : Dword) (s : State), Rest s = true →
    (mIssue s c w 0x00 0 = true → ∃ t, exec (.mnop c w) s = .next t ∧ MKeeps s t c 0) ∧
    (mIssue s c w 0x08 0x00F00000FFFFFFFF = true → ∃ t, exec (.mli c w) s = .next t ∧ MKeeps s t c (fA w)) ∧
    (mIssue s c w 0x09 0x00FF0000FFFFFFFF = true → ∃ t, exec (.maddi c w) s = .next t ∧ MKeeps s t c (fA w)) ∧
    (mIssue s c w 0x0A 0x00FFF00000000000 = true → ∃ t, exec (.madd c w) s = .next t ∧ MKeeps s t c (fA w)) ∧
    (mIssue s c w 0x0B 0x00FFF00000000000 = true → ∃ t, exec (.msub c w) s = .next t ∧ MKeeps s t c (fA w)) ∧
    (mIssue s c w 0x0C 0x00FF00000000003F = true → ∃ t, exec (.mshli c w) s = .next t ∧ MKeeps s t c (fA w)) ∧
    (mIssue s c w 0x1A 0x00F0000000000307 = true → bit w 8 = false → bit w 9 = false →
      ∃ t, exec (.mflags c w) s = .next t ∧ MKeeps s t c (fA w)) ∧
    (mIssue s c w 0x1A 0x00F0000000000307 = true → bit w 8 = false → bit w 9 = true →
      ∃ t, exec (.mflags c w) s = .next t ∧ OnlyCore s t (mPid c) ∧
        getM t (mPid c) = { getM s (mPid c) with g := (getM t (mPid c)).g, flags := 0 } ∧
        ∀ k, k ≠ fA w → rdG (getM t (mPid c)) k = rdG (getM s (mPid c)) k) ∧
    (∀ taken, mIssue s c w 0x10 0x00FF0E00000FFFFF = true →
      condHolds (fld w 43 41) (rdG (getM s (mPid c)) (fA w)) (rdG (getM s (mPid c)) (fB w)) = some taken →
      ∃ t, exec (.mbr c w) s = .next t ∧ MKeeps s t c 0) ∧
    (mIssue s c w 0x11 0x00F00000000FFFFF = true → ∃ t, exec (.mloop c w) s = .next t ∧ MKeeps s t c (fA w))

/-- R102, R103: the same for a V-core's scalar instructions and branches: no vector or mask register, flag or byte of local memory
changes. -/
def Obligations.VScalarsChangeOneRegister : Prop :=
  ∀ (c : Fin 96) (w : Dword) (s : State), Rest s = true →
    (vIssue s c w 0x00 0 [] = true → ∃ t, exec (.vnop c w) s = .next t ∧ VKeeps s t c 0) ∧
    (vIssue s c w 0x08 (mkDa ||| 0xFFFFFFFF) [128 + vD w] = true → ∃ t, exec (.vli c w) s = .next t ∧ VKeeps s t c (vD w)) ∧
    (vIssue s c w 0x09 (mkDa ||| mkAa ||| 0xFFFFFFFF) [128 + vD w, 128 + vA w] = true →
      ∃ t, exec (.vaddi c w) s = .next t ∧ VKeeps s t c (vD w)) ∧
    (vIssue s c w 0x0A (mkDa ||| mkAa ||| mkBa) [128 + vD w, 128 + vA w, 128 + vB w] = true →
      ∃ t, exec (.vadds c w) s = .next t ∧ VKeeps s t c (vD w)) ∧
    (vIssue s c w 0x0B (mkDa ||| mkAa ||| mkBa) [128 + vD w, 128 + vA w, 128 + vB w] = true →
      ∃ t, exec (.vsubs c w) s = .next t ∧ VKeeps s t c (vD w)) ∧
    (vIssue s c w 0x0C (mkDa ||| mkAa ||| mkBa) [128 + vD w, 128 + vA w, 128 + vB w] = true →
      ∃ t, exec (.vmuls c w) s = .next t ∧ VKeeps s t c (vD w)) ∧
    (vIssue s c w 0x0D (mkDa ||| mkAa ||| 0x3F) [128 + vD w, 128 + vA w] = true →
      ∃ t, exec (.vshli c w) s = .next t ∧ VKeeps s t c (vD w)) ∧
    (vIssue s c w 0x17 (mkDa ||| mkAk) [128 + vD w, 64 + vA w] = true → ∃ t, exec (.kcnt c w) s = .next t ∧ VKeeps s t c (vD w)) ∧
    (vIssue s c w 0x1D (mkDa ||| mkAv ||| 0x1FF) [128 + vD w, vA w] = true → ∃ t, exec (.vext c w) s = .next t ∧ VKeeps s t c (vD w)) ∧
    (vIssue s c w 0x1F (mkDk ||| mkAa) [64 + vD w, 128 + vA w] = true → ∃ t, exec (.kset c w) s = .next t ∧ OnlyCore s t (vPid c) ∧
      getV t (vPid c) = { getV s (vPid c) with k := (getV t (vPid c)).k } ∧
      ∀ k, k ≠ vD w → rdK (getV t (vPid c)) k = rdK (getV s (vPid c)) k) ∧
    (∀ taken, vIssue s c w 0x10 (mkAa ||| mkBa ||| 0xEFFFFF) [128 + vA w, 128 + vB w] = true →
      condHolds (fld w 23 21) (rdA (getV s (vPid c)) (vA w)) (rdA (getV s (vPid c)) (vB w)) = some taken →
      ∃ t, exec (.vbr c w) s = .next t ∧ VKeeps s t c 0) ∧
    (vIssue s c w 0x11 (mkDa ||| 0xFFFFF) [128 + vD w] = true → ∃ t, exec (.vloop c w) s = .next t ∧ VKeeps s t c (vD w))

/-- R117: the same for an S-core; a store to local memory changes only the bytes that it names. -/
def Obligations.SInstructionsChangeOneRegister : Prop :=
  ∀ (c : Fin 64) (w : Word) (s : State), Rest s = true →
    (∀ v, sIssue s c w 0x00 mkR [sRD w, sRA w, sRB w] = true →
      aluOp (sFN w) (rdX (getS s (sPid c)) (sRA w)) (rdX (getS s (sPid c)) (sRB w)) = some v →
      ∃ t, exec (.alu c w) s = .next t ∧ SKeeps s t c (sRD w)) ∧
    (sIssue s c w 0x01 mkI [sRD w, sRA w] = true → ∃ t, exec (.addi c w) s = .next t ∧ SKeeps s t c (sRD w)) ∧
    (sIssue s c w 0x02 mkI [sRD w, sRA w] = true → ∃ t, exec (.andi c w) s = .next t ∧ SKeeps s t c (sRD w)) ∧
    (sIssue s c w 0x03 mkI [sRD w, sRA w] = true → ∃ t, exec (.ori c w) s = .next t ∧ SKeeps s t c (sRD w)) ∧
    (sIssue s c w 0x04 mkI [sRD w, sRA w] = true → ∃ t, exec (.xori c w) s = .next t ∧ SKeeps s t c (sRD w)) ∧
    (sIssue s c w 0x05 (mkRD ||| mkRA ||| mkImm6) [sRD w, sRA w] = true → ∃ t, exec (.shli c w) s = .next t ∧ SKeeps s t c (sRD w)) ∧
    (sIssue s c w 0x06 (mkRD ||| mkRA ||| mkImm6) [sRD w, sRA w] = true → ∃ t, exec (.shri c w) s = .next t ∧ SKeeps s t c (sRD w)) ∧
    (sIssue s c w 0x07 (mkRD ||| mkRA ||| mkImm6) [sRD w, sRA w] = true → ∃ t, exec (.sari c w) s = .next t ∧ SKeeps s t c (sRD w)) ∧
    (sIssue s c w 0x08 mkI [sRD w, sRA w] = true → ∃ t, exec (.slti c w) s = .next t ∧ SKeeps s t c (sRD w)) ∧
    (sIssue s c w 0x09 0x03FFFFFF [sRD w] = true → ∃ t, exec (.lui c w) s = .next t ∧ SKeeps s t c (sRD w)) ∧
    (sIssue s c w 0x20 mkI [sRD w, sRA w] = true → ∃ t, exec (.beq c w) s = .next t ∧ SKeeps s t c 0) ∧
    (sIssue s c w 0x21 mkI [sRD w, sRA w] = true → ∃ t, exec (.bne c w) s = .next t ∧ SKeeps s t c 0) ∧
    (sIssue s c w 0x28 0x03FFFFFF [sRD w] = true → ∃ t, exec (.jal c w) s = .next t ∧ SKeeps s t c (sRD w)) ∧
    (sIssue s c w 0x29 mkI [sRD w, sRA w] = true → ∃ t, exec (.jalr c w) s = .next t ∧ SKeeps s t c (sRD w)) ∧
    (∀ o, sIssue s c w 0x10 mkI [sRD w, sRA w] = true → sAccess s c w 1 .read (.lm o) = true →
      ∃ t, exec (.ldb c w) s = .next t ∧ SKeeps s t c (sRD w)) ∧
    (∀ o, sIssue s c w 0x1B mkI [sRD w, sRA w] = true → sAccess s c w 8 .write (.lm o) = true →
      ∃ t, exec (.std c w) s = .next t ∧ OnlyCore s t (sPid c) ∧
        getS t (sPid c) = { getS s (sPid c) with lm := (getS t (sPid c)).lm, lmPoison := (getS t (sPid c)).lmPoison } ∧
        ∀ a, (a < o ∨ o + 8 ≤ a) → Tbl.get 0 (getS t (sPid c)).lm a = Tbl.get 0 (getS s (sPid c)).lm a)

/-- R72, R131: a load into the operand buffer, a store, a scatter or a reduce that completes (its clusters awake, none of its lines held
by the host) changes only the bytes of SRAM that its addresses and the region map name, and no byte of HBM; a core that is sending the
rows of an MCONV to another tile, or streaming weights while a domain may sleep, is left to the statement of what completing does. -/
def Obligations.StoresChangeOnlyTheirBytes : Prop :=
  ∀ (c : Fin 320) (i : Nat) (x : Xfer) (refused : Bool) (s : State), Rest s = true →
    (getCore s c.val).xfers[i]? = some x → plainXfer x.kind = true → meetDomains s (xferDomains x) = (s, true) →
    (xferWrites x).foldl (fun s r => snoopLines s x.part false r.1 r.2) s = s → snoopWait s x = false →
    quietJob s c.val = true →
    ∃ t, exec (.transferComplete c i refused) s = .next t ∧ t.mem.hbm = s.mem.hbm ∧
      ∀ k, (∀ r ∈ xferWrites x, ∀ p ∈ slicePieces x.map r.1 r.2, ¬(p.1 ≤ k ∧ k < p.1 + p.2)) →
        Tbl.get 0 t.mem.sram k = Tbl.get 0 s.mem.sram k

/-- At a module at rest memory stays in its canonical form through completed transfers, the zeroing of a bank (R138), the copy into a
spare bank (R134) and the switch to a reserve frame (R152): no bank or frame table lists what it need not. -/
def Obligations.MemoryStaysCanonical : Prop :=
  ∀ (s : State), Rest s = true → Memory.wf s.mem = true →
    (∀ (c : Fin 320) (i : Nat) (x : Xfer) (refused : Bool), (getCore s c.val).xfers[i]? = some x → plainXfer x.kind = true →
      meetDomains s (xferDomains x) = (s, true) → (xferWrites x).foldl (fun s r => snoopLines s x.part false r.1 r.2) s = s →
      snoopWait s x = false → quietJob s c.val = true →
      ∃ t, exec (.transferComplete c i refused) s = .next t ∧ Memory.wf t.mem = true) ∧
    (∀ (cl bank : Fin 32), ∃ t, exec (.bankZeroDone cl bank) s = .next t ∧ Memory.wf t.mem = true ∧
      Tbl.get false t.mem.bankZero (32 * cl.val + bank.val) = false) ∧
    (∀ (cl bank : Fin 32), ∃ t, exec (.spareBankCopyDone cl bank) s = .next t ∧ Memory.wf t.mem = true ∧
      Tbl.get 0 t.mem.bankCopy (32 * cl.val + bank.val) = 0) ∧
    (∀ (ch : Fin 128) (frame : BitVec 20), ∃ t, exec (.frameRetirementSwitch ch frame) s = .next t ∧ Memory.wf t.mem = true ∧
      Tbl.get 0 t.mem.frameCopy (frameKey ch.val frame.toNat) = 0)

/-- A step takes the command at the front of the queue and runs it with the queue's rest; an empty queue idles (the model's choice). -/
def Obligations.AStepRunsTheFrontCommand : Prop :=
  (∀ (c : Instr) (rest : List Instr) (s : State), s.pending = c :: rest → step s = exec c { s with pending := rest }) ∧
  (∀ (s : State), s.pending = [] → step s = .next s)

/-- Every step from a state in which what follows has been carried out leaves such a state: causes taken (R188), the reattach record
current (R206), FABRIC_SETTLED and RM_OK raised when due (R373, R377). -/
def Obligations.EveryStepLeavesAllFollowed : Prop :=
  ∀ (s t : State), Followed s = true → step s = .next t → Followed t = true

/-- The module at reset is at rest, in canonical form, with nothing waiting and no power: R370 starts it. -/
def Obligations.ResetIsAtRest : Prop :=
  Followed State.reset = true ∧ Rest State.reset = true ∧ Memory.wf State.reset.mem = true ∧ State.reset.pending = [] ∧
  State.reset.life.powered = false ∧ State.reset.fp.generation = 0 ∧ State.reset.node = 0x1FFFF ∧
  (∀ p, getMeter State.reset p = {}) ∧ (∀ p r, rdG (getM State.reset p) r = 0)

/-- R402: at a module at rest, a write of the host to a register that the manager alone may write, or to a manager's control, changes
nothing but the count of ignored host writes. -/
def Obligations.HostWritesOnlyCount : Prop :=
  ∀ (s : State), Rest s = true →
    (∀ (off : BitVec 24) (d : Word), hostMay (regAt (windowBlock off) (off.setWidth 16)) = false →
      exec (.registerWrite (.bar0 .host off) d true) s = .next (ignoreHostWrite s)) ∧
    (∀ d, exec (.eicSoft .host d) s = .next (ignoreHostWrite s) ∧ exec (.hiuMgrGo .host d) s = .next (ignoreHostWrite s) ∧
      exec (.unfreeze .host d) s = .next (ignoreHostWrite s)) ∧
    (∀ l on, exec (.fabLinkEnable .host l on) s = .next (ignoreHostWrite s) ∧ exec (.fabLinkRetrain .host l) s = .next (ignoreHostWrite s)) ∧
    exec (.rtpRemovePrepare .host) s = .next (ignoreHostWrite s) ∧ exec (.rtpRemoveCancel .host) s = .next (ignoreHostWrite s) ∧
    ignoreHostWrite s = { s with regs := { s.regs with hostWrIgn := (ignoreHostWrite s).regs.hostWrIgn } }

/-! ### Properties of the whole machine -/

/-- R53, R65: no intermediate addition exits the range, in any order and grouping, when the sum of the magnitudes is at most 2^47 − 2^−48;
the sum is then exact, and so one value whatever the order; a SAT code makes every sum SAT. Table 3.8: the largest safe counts. -/
def Obligations.LedgerSumsIgnoreOrder : Prop :=
  (∀ t : Adds, (∀ x ∈ t.codes, x ≠ satCode) → (t.codes.map fun x => x.toInt.natAbs).sum ≤ 2 ^ 95 - 1 →
    t.sum ≠ satCode ∧ t.sum.toInt = (t.codes.map BitVec.toInt).sum) ∧
  (∀ t u : Adds, t.codes.Perm u.codes → (t.codes.map fun x => x.toInt.natAbs).sum ≤ 2 ^ 95 - 1 → t.sum = u.sum) ∧
  (∀ t : Adds, satCode ∈ t.codes → t.sum = satCode) ∧
  (∀ e ∈ [(64, 2199023255551), (1024, 137438953471), (16384, 8589934591), (200704, 701219150), (25690112, 5478274), (3288334336, 42799)],
    e.1 * 2 ^ 48 * e.2 ≤ 2 ^ 95 - 1 ∧ 2 ^ 95 - 1 < e.1 * 2 ^ 48 * (e.2 + 1))

/-- R33: over any whole number k of reference periods, a meter with a constant TARGET and no bubbles releases either floor(k × TARGET /
10) or that number plus one ticks (its counter 0). -/
def Obligations.MetersKeepTheirPace : Prop :=
  ∀ (k p : Nat) (s : State), Rest s = true → p < 16 → (getMeter s p).target = (getMeter s p).written → (getMeter s p).acc < 10 →
    (getMeter s p).bubbleAcc < 64 → bubbleF s p = 0 →
    (∀ j, j < k → exec .referenceEdge (edges j s) = .next (edges (j + 1) s)) ∧
    ∃ n, (n = k * (getMeter s p).written.toNat / 10 ∨ n = k * (getMeter s p).written.toNat / 10 + 1) ∧
      counterValue (edges k s) (counterId 4 p 0) = counterValue s (counterId 4 p 0) + BitVec.ofNat 64 n ∧
      counterValue (edges k s) (counterId 4 p 2) = counterValue s (counterId 4 p 2)

/-- R137: within a region, slice addresses that decode name distinct bytes of the SRAM; each lies in a bank of the entry's cluster that
its mask names, in a row of that bank, and keeps its place in the 256-byte line. -/
def Obligations.SliceAddressesNameDistinctBytes : Prop :=
  (∀ (map : Tbl Dword) (a b k : Nat), sliceDecode map a = some k → sliceDecode map b = some k → a / 2 ^ 26 = b / 2 ^ 26 → a = b) ∧
  (∀ (map : Tbl Dword) (a k : Nat), sliceDecode map a = some k → a < 2 ^ 31 ∧ bit (Tbl.get 0 map (a / 2 ^ 26)) 63 = true ∧
    sramBank k / 32 = fld (Tbl.get 0 map (a / 2 ^ 26)) 36 32 ∧ bit (Tbl.get 0 map (a / 2 ^ 26)) (sramBank k % 32) = true ∧
    k % 256 = a % 256 ∧ k < 2 ^ 31)

/-- R72, R137: a store that completes in one region of the quota, its banks not lost, is read back byte for byte. -/
def Obligations.StoresAreReadBack : Prop :=
  ∀ (c : Fin 320) (i a : Nat) (d : List Byte) (x : Xfer) (refused : Bool) (s : State), Rest s = true →
    (getCore s c.val).xfers[i]? = some x → x.kind = .store a d → slotKind c.val ≠ 1 → meetDomains s (xferDomains x) = (s, true) →
    snoopLines s x.part false a d.length = s → snoopWait s x = false →
    quietJob s c.val = true →
    a % 2 ^ 26 + d.length ≤ 2 ^ 26 → sliceRange x.map a d.length = true →
    (∀ p ∈ slicePieces x.map a d.length, Tbl.get false s.mem.bankLost (sramBank p.1) = false) →
    ∃ t, exec (.transferComplete c i refused) s = .next t ∧ (sliceRead t x.map a d.length).1 = d

/-- R395: LOG_RECORD_STORE never discards a retained record: each stays in the store, in the places held for an RTP restart or among those
that wait; a full store makes room by its oldest non-retained record, whose loss is counted and noted for its report. -/
def Obligations.RetainedRecordsStay : Prop :=
  ∀ (s : State), Rest s = true → s.log.store.length ≤ 8192 → ∃ t, exec .logRecordStore s = .next t ∧ t.log.store.length ≤ 8192 ∧
    (∀ r, r.retained = true → r ∈ s.log.store ++ s.log.held ++ s.log.waiting → r ∈ t.log.store ++ t.log.held ++ t.log.waiting) ∧
    (∀ r l pre old post, s.rtpDown = false → s.log.held = [] → s.log.waiting = r :: l → s.log.store.length = 8192 →
      s.log.store = pre ++ old :: post → old.retained = false → (∀ q ∈ pre, q.retained = true) →
      t.log.store = pre ++ post ++ [r] ∧ t.log.lost = s.log.lost + 1 ∧ t.log.waiting = l)

/-- R248, R250: whatever DATA flits arrive at a link in service, good ones, those that enter its receive buffer are some of them, in the
order of their arrival, with consecutive sequence numbers from the next expected one. -/
def Obligations.DataFlitsEnterInOrder : Prop :=
  ∀ (l : Fin 64) (fs : List Flit) (s : State), Rest s = true → (getLink s l.val).up = true →
    (∀ f ∈ fs, badFlit f = false ∧ f.ftype = 1) →
    ∃ (t : State) (took : List Flit), arriveAll l fs s = .next t ∧ took.Sublist fs ∧
      (getLink t l.val).rxBuf = (getLink s l.val).rxBuf ++ took.map (fun f => { f.pkt with vc := f.vc, link := BitVec.ofNat 6 l.val, prio := none, maybe := false }) ∧
      (∀ (i : Nat) (f : Flit), took[i]? = some f → f.seq = (getLink s l.val).rxSeq + BitVec.ofNat 12 i) ∧
      (getLink t l.val).rxSeq = (getLink s l.val).rxSeq + BitVec.ofNat 12 took.length

/-- R386, R387: a claim takes a deliverable source of the highest PRIO, the lowest number among those, returns it as Table 17.3 lays out,
and marks it active, its edge cleared; with nothing deliverable it returns 0. An edge that fires while its source is active sets pending
once. -/
def Obligations.ClaimsTakeTheHighestPriority : Prop :=
  (∀ (q : Fin 49) (s : State), Rest s = true → Tbl.wf {} s.irqs = true → accepts s q.val = true → candidates s q.val ≠ [] →
    ∃ (t : State) (src prio : Nat), exec (.eicClaim q) s = .next t ∧ (src, prio) ∈ candidates s q.val ∧
      (∀ e ∈ candidates s q.val, e.2 < prio ∨ (e.2 = prio ∧ src ≤ e.1)) ∧
      t.lastRead = (BitVec.ofNat 16 (src + prio * 2 ^ 11 + 2 ^ 15)).setWidth 32 ∧
      (src < 64 → bit (getProc t q.val).pactive src = true) ∧
      (64 ≤ src → (getIrq t (src - 64)).active = true ∧ (getIrq t (src - 64)).at_ = BitVec.ofNat 6 q.val ∧
        (srcLevel s (src - 64) = false → (getIrq t (src - 64)).pend = false))) ∧
  (∀ (q : Fin 49) (s : State), Rest s = true → (accepts s q.val = false ∨ candidates s q.val = []) →
    ∃ t, exec (.eicClaim q) s = .next t ∧ t.lastRead = 0 ∧ t.irqs = s.irqs ∧ (getProc t q.val).pactive = (getProc s q.val).pactive) ∧
  (∀ (s : State) (n : Nat), irqEdge (irqEdge s n) n = irqEdge s n ∧ (getIrq (irqEdge s n) n).pend = true)

/-- Every command completes: at every state and every value of its operands exec answers a next state, and so does step. The spec gives
every command an effect, an item a status, an access an answer and an error a record: no command of the table ends in a fault or a
refusal. What the next state is, the statements of each family say. -/
def Obligations.EveryCommandAnswersANextState : Prop :=
  (∀ (c : Instr) (s : State), ∃ t, exec c s = .next t) ∧ ∀ s : State, ∃ t, step s = .next t
end

