-- ==== Sys2Proof/Laws/Cores.lean ====
section
/-!
SUPPORT. What the issue stage of a core does with an instruction that it can issue, and a CP with an item that is ready.
-/
namespace Sys2Proof.Machine

theorem issueM_ready {s : State} {c : Fin 160} {w : Dword} {opc : Nat} {mask : Dword} (body : State → Nat → MCore → MEffect)
    (h : mIssue s c w opc mask = true) :
    issueM s c w opc mask body = match body s (mPid c) (getM s (mPid c)) with
      | .wait => s
      | .exc e => coreException s (mPid c) e
      | .poison => corePoison s (mPid c)
      | .go t => t := by
  simp only [mIssue, Bool.and_eq_true, beq_iff_eq] at h
  obtain ⟨⟨⟨⟨h1, h2⟩, h3⟩, h4⟩, h5⟩ := h
  unfold issueM
  simp only [h1, h3, h4, h5, h2, ne_eq, not_true_eq_false, Bool.not_true, Bool.false_eq_true, or_self, ↓reduceIte]
  all_goals (cases body s (mPid c) (getM s (mPid c)) <;> rfl)

theorem issueV_ready {s : State} {c : Fin 96} {w : Dword} {opc : Nat} {mask : Dword} {regs : List Nat}
    (body : State → Nat → VCore → VEffect) (h : vIssue s c w opc mask regs = true) :
    issueV s c w opc mask regs body = match body s (vPid c) (getV s (vPid c)) with
      | .wait => s
      | .exc e => coreException s (vPid c) e
      | .poison t => corePoison t (vPid c)
      | .go t => t := by
  simp only [vIssue, Bool.and_eq_true, beq_iff_eq, Bool.not_eq_true'] at h
  obtain ⟨⟨⟨⟨⟨h1, h2⟩, h3⟩, h4⟩, h5⟩, h6⟩ := h
  unfold issueV
  simp only [h1, h3, h4, h5, h2, h6, ne_eq, not_true_eq_false, Bool.not_true, Bool.false_eq_true, or_self, ↓reduceIte]
  all_goals (cases body s (vPid c) (getV s (vPid c)) <;> rfl)

theorem issueS_ready {s : State} {c : Fin 64} {w : Word} {opc : Nat} {mask : Word} {regs : List Nat}
    (body : State → Nat → SCore → SEffect) (h : sIssue s c w opc mask regs = true) :
    issueS s c w opc mask regs body = match body s (sPid c) (getS s (sPid c)) with
      | .wait => s
      | .exc e a => if loadsOut s (sPid c) then s else sException s (sPid c) e a
      | .poison t a => sPoison t (sPid c) a
      | .go t => t := by
  simp only [sIssue, Bool.and_eq_true, beq_iff_eq, Bool.not_eq_true'] at h
  obtain ⟨⟨⟨⟨h1, h2⟩, h3⟩, h4⟩, h5⟩ := h
  unfold issueS
  simp only [h1, h3, h4, h5, h2, ne_eq, not_true_eq_false, Bool.not_true, Bool.false_eq_true, or_self, ↓reduceIte]
  all_goals (cases body s (sPid c) (getS s (sPid c)) <;> rfl)

theorem onItem_ready {s : State} {x : ItemRef} {opc : Nat} {i : Item} {c : Context} (f : Item → Context → State)
    (h : itemReady s x opc i c = true) : onItem s x opc f = f i c := by
  simp only [itemReady, Bool.and_eq_true, beq_iff_eq] at h
  obtain ⟨⟨⟨⟨⟨⟨⟨⟨⟨h1, h2⟩, h3⟩, h4⟩, h5⟩, h6⟩, h7⟩, h9⟩, h10⟩, h8⟩ := h
  simp only [onItem, h1, h2, h3, h4, h5, h6, h7, h8, h9, h10, beq_self_eq_true, Bool.and_self, if_true]

theorem onPacket_ready {s u : State} {p q : Packet} {t : BitVec 5} (f : State → Packet → State) (h : received s p t = some (u, q)) :
    onPacket s p t f = f u q := by
  unfold received at h
  split at h
  · rename_i hc
    rw [onPacket, if_neg (by simp [hc.1, hc.2])]
    split at h <;> simp_all
  · cases h

theorem onMsg_ready {s u : State} {p q : Packet} {code : Nat} (f : State → Packet → State) (h : received s p 0x0D = some (u, q))
    (hc : msgCode q = code) : onMsg s p code f = f u q := by
  unfold received at h
  split at h
  · rename_i ha
    rw [onMsg, if_neg (by simp [ha.1, ha.2])]
    split at h <;> simp_all
  · cases h

theorem onGloveMsg_ready {s u : State} {p q : Packet} {code : Nat} {g : Glove} (f : State → Packet → Glove → State)
    (h : received s p 0x0D = some (u, q)) (hc : msgCode q = code) (hg : getGlove u q.gid = some g) :
    onGloveMsg s p code f = f u q g := by
  rw [onGloveMsg, onMsg_ready _ h hc, hg]

theorem onFlit_ready {s : State} {n : Nat} {f : Flit} {t : BitVec 4} (g : State → State) (h : goodFlit s n f t = true) :
    onFlit s n f t g = sendLink (g (takeHeader s n f)) n := by
  simp only [goodFlit, Bool.and_eq_true, Bool.not_eq_true', beq_iff_eq] at h
  obtain ⟨⟨h1, h2⟩, h3⟩ := h
  simp [onFlit, h1, h2, h3]

theorem onLane_ready {s : State} {n : Nat} {f : Flit} {op : Nat} (g : State → BitVec 2 → State) (h : goodLane s n f op = true) :
    onLane s n f op g = sendLink (g (takeHeader s n f) (f.pair.setWidth 2)) n := by
  simp only [goodLane, Bool.and_eq_true, Bool.or_eq_true, beq_iff_eq] at h
  obtain ⟨⟨h1, h2⟩, h3⟩ := h
  rw [onLane, onFlit_ready _ h1]
  simp only [h2, ne_eq, not_true_eq_false, if_false]
  rw [if_pos h3]

end Sys2Proof.Machine
end

