-- ==== Sys2Proof/Laws/Tbl.lean ====
section
/-!
SUPPORT. The sparse table: what a read after a write finds, and that every write keeps the canonical form.
-/
namespace Sys2Proof.Tbl
variable {α : Type}

theorem get_put_self (d : α) (t : Tbl α) (k : Nat) (v : α) : get d (put t k v) k = v := by
  induction t with
  | nil => simp [put, get]
  | cons e t ih =>
    obtain ⟨j, u⟩ := e
    simp only [put]
    split
    · simp [get]
    · split
      · simp [get]
      · have : j ≠ k := fun h => by omega
        simp [get, this, ih]

theorem get_put_ne (d : α) (t : Tbl α) {k j : Nat} (v : α) (h : k ≠ j) : get d (put t k v) j = get d t j := by
  induction t with
  | nil => simp [put, get, h]
  | cons e t ih =>
    obtain ⟨i, u⟩ := e
    simp only [put]
    split
    · simp [get, h]
    · split
      · next h2 => subst h2; simp [get, h]
      · simp [get, ih]

theorem get_del_ne (d : α) (t : Tbl α) {k j : Nat} (h : k ≠ j) : get d (del t k) j = get d t j := by
  induction t with
  | nil => rfl
  | cons e t ih =>
    obtain ⟨i, u⟩ := e
    simp only [del]
    split
    · next h2 => subst h2; simp [get, h, ih]
    · simp [get, ih]

theorem get_del_self (d : α) (t : Tbl α) (k : Nat) : get d (del t k) k = d := by
  induction t with
  | nil => rfl
  | cons e t ih =>
    obtain ⟨j, v⟩ := e
    simp only [del]
    split
    · exact ih
    · next h => simp [get, h, ih]

variable [DecidableEq α]

theorem wfFrom_mono {d : α} {t : Tbl α} {lo hi : Nat} (h : wfFrom d hi t = true) (le : lo ≤ hi) : wfFrom d lo t = true := by
  cases t with
  | nil => rfl
  | cons e t =>
    obtain ⟨j, v⟩ := e
    simp only [wfFrom, Bool.and_eq_true, decide_eq_true_eq] at h ⊢
    exact ⟨⟨by omega, h.1.2⟩, h.2⟩

theorem get_below {d : α} {t : Tbl α} {lo k : Nat} (h : wfFrom d lo t = true) (lt : k < lo) : get d t k = d := by
  induction t generalizing lo with
  | nil => rfl
  | cons e t ih =>
    obtain ⟨j, v⟩ := e
    simp only [wfFrom, Bool.and_eq_true, decide_eq_true_eq] at h
    have : j ≠ k := by omega
    simp [get, this, ih h.2 (by omega)]

theorem wfFrom_put {d : α} {t : Tbl α} {lo k : Nat} {v : α} (h : wfFrom d lo t = true) (hk : lo ≤ k) (hv : v ≠ d) :
    wfFrom d lo (put t k v) = true := by
  induction t generalizing lo with
  | nil => simp [put, wfFrom, hk, hv]
  | cons e t ih =>
    obtain ⟨j, u⟩ := e
    have h' := h
    simp only [wfFrom, Bool.and_eq_true, decide_eq_true_eq] at h
    simp only [put]
    split
    · simp only [wfFrom, Bool.and_eq_true, decide_eq_true_eq]
      exact ⟨⟨hk, hv⟩, ⟨by omega, h.1.2⟩, h.2⟩
    · split
      · simp only [wfFrom, Bool.and_eq_true, decide_eq_true_eq]
        exact ⟨⟨hk, hv⟩, wfFrom_mono h.2 (by omega)⟩
      · simp only [wfFrom, Bool.and_eq_true, decide_eq_true_eq]
        exact ⟨h.1, ih h.2 (by omega)⟩

theorem wfFrom_del {d : α} {t : Tbl α} {lo : Nat} (h : wfFrom d lo t = true) (k : Nat) : wfFrom d lo (del t k) = true := by
  induction t generalizing lo with
  | nil => rfl
  | cons e t ih =>
    obtain ⟨j, v⟩ := e
    simp only [wfFrom, Bool.and_eq_true, decide_eq_true_eq] at h
    simp only [del]
    split
    · exact wfFrom_mono (ih h.2) (by omega)
    · simp only [wfFrom, Bool.and_eq_true, decide_eq_true_eq]
      exact ⟨h.1, ih h.2⟩

/-- A write keeps the canonical form. -/
theorem wf_set {d : α} {t : Tbl α} (h : wf d t = true) (k : Nat) (v : α) : wf d (set d t k v) = true := by
  unfold set
  split
  · exact wfFrom_del h k
  · next hv => exact wfFrom_put h (by omega) hv

theorem wf_upd {d : α} {t : Tbl α} (h : wf d t = true) (k : Nat) (f : α → α) : wf d (upd d t k f) = true := wf_set h k _

/-- A read after a write to the same key gives the value written. -/
theorem get_set_self (d : α) (t : Tbl α) (k : Nat) (v : α) : get d (set d t k v) k = v := by
  unfold set
  split
  · next hv => rw [hv]; exact get_del_self d t k
  · exact get_put_self d t k v

/-- A write leaves every other key alone. -/
theorem get_set_ne (d : α) (t : Tbl α) {k j : Nat} (v : α) (h : k ≠ j) : get d (set d t k v) j = get d t j := by
  unfold set
  split
  · exact get_del_ne d t h
  · exact get_put_ne d t v h

theorem ext_from {d : α} {lo : Nat} {t u : Tbl α} (ht : wfFrom d lo t = true) (hu : wfFrom d lo u = true)
    (h : ∀ k, get d t k = get d u k) : t = u := by
  induction t generalizing lo u with
  | nil =>
    cases u with
    | nil => rfl
    | cons e u =>
      obtain ⟨j, v⟩ := e
      have hj := h j
      simp only [wfFrom, Bool.and_eq_true, decide_eq_true_eq] at hu
      simp [get] at hj
      exact absurd hj.symm hu.1.2
  | cons e t ih =>
    obtain ⟨j, v⟩ := e
    simp only [wfFrom, Bool.and_eq_true, decide_eq_true_eq] at ht
    cases u with
    | nil =>
      have hj := h j
      simp [get] at hj
      exact absurd hj ht.1.2
    | cons e' u =>
      obtain ⟨i, w⟩ := e'
      have hu' := hu
      simp only [wfFrom, Bool.and_eq_true, decide_eq_true_eq] at hu
      have hij : i = j := by
        rcases Nat.lt_trichotomy i j with lt | eq | gt
        · have hi := h i
          have e1 : get d ((j, v) :: t) i = d :=
            get_below (lo := j) (by simp only [wfFrom, Bool.and_eq_true, decide_eq_true_eq]; exact ⟨⟨by omega, ht.1.2⟩, ht.2⟩) lt
          rw [e1] at hi
          simp [get] at hi
          exact absurd hi.symm hu.1.2
        · exact eq
        · have hj := h j
          have e1 : get d ((i, w) :: u) j = d :=
            get_below (lo := i) (by simp only [wfFrom, Bool.and_eq_true, decide_eq_true_eq]; exact ⟨⟨by omega, hu.1.2⟩, hu.2⟩) gt
          rw [e1] at hj
          simp [get] at hj
          exact absurd hj ht.1.2
      subst hij
      have hv : v = w := by have := h i; simpa [get] using this
      subst hv
      congr 1
      refine ih ht.2 hu.2 fun k => ?_
      by_cases hk : i = k
      · subst hk
        rw [get_below ht.2 (by omega), get_below hu.2 (by omega)]
      · have := h k
        simpa [get, hk] using this

/-- Equal memories are equal data: tables in canonical form with the same value at every key are one table. -/
theorem ext {d : α} {t u : Tbl α} (ht : wf d t = true) (hu : wf d u = true) (h : ∀ k, get d t k = get d u k) : t = u :=
  ext_from ht hu h

end Sys2Proof.Tbl

namespace Sys2Proof.Machine

/-- Writing bytes keeps the canonical form. -/
theorem memWrite_wf {m : Mem} (h : Tbl.wf 0 m = true) (a : Nat) (l : List Byte) : Tbl.wf 0 (memWrite m a l) = true := by
  induction l generalizing m a with
  | nil => exact h
  | cons b l ih => exact ih (Tbl.wf_set h a b) (a + 1)

/-- Bytes outside a write keep their value. -/
theorem memWrite_get_out (m : Mem) (a : Nat) (l : List Byte) {k : Nat} (h : k < a ∨ a + l.length ≤ k) :
    Tbl.get 0 (memWrite m a l) k = Tbl.get 0 m k := by
  induction l generalizing m a with
  | nil => rfl
  | cons b l ih =>
    simp only [List.length_cons] at h
    rw [memWrite, ih _ (a + 1) (by omega), Tbl.get_set_ne 0 m b (by omega)]

/-- Bytes inside a write have the value written. -/
theorem memWrite_get_in (m : Mem) (a : Nat) (l : List Byte) {i : Nat} (h : i < l.length) :
    Tbl.get 0 (memWrite m a l) (a + i) = l[i] := by
  induction l generalizing m a i with
  | nil => simp at h
  | cons b l ih =>
    rw [memWrite]
    cases i with
    | zero =>
      rw [memWrite_get_out _ _ _ (by omega)]
      simpa using Tbl.get_set_self 0 m a b
    | succ i =>
      have := ih (Tbl.set 0 m a b) (a + 1) (i := i) (by simpa using h)
      rw [show a + (i + 1) = a + 1 + i by omega, this]
      rfl

/-- Marking poison keeps the canonical form. -/
theorem poisonWriteAt_wf {p : Tbl Bool} (h : Tbl.wf false p = true) (u stop a : Nat) (flags : List Bool) :
    Tbl.wf false (poisonWriteAt p u stop a flags) = true := by
  induction flags generalizing p a with
  | nil => exact h
  | cons b l ih =>
    unfold poisonWriteAt
    refine ih ?_ (a + 1)
    split
    · exact Tbl.wf_set h _ _
    · split
      · exact Tbl.wf_set h _ _
      · exact h

theorem poisonWrite_wf {p : Tbl Bool} (h : Tbl.wf false p = true) (u a : Nat) (flags : List Bool) :
    Tbl.wf false (poisonWrite p u a flags) = true := poisonWriteAt_wf h u (a + flags.length) a flags

end Sys2Proof.Machine
end

