-- ==== Sys2Proof/Laws/Memory.lean ====
section
/-!
SUPPORT. Every memory operation keeps the canonical form of memory, and changes no byte but those it names.
-/
namespace Sys2Proof

namespace Tbl
variable {α : Type} [DecidableEq α]

/-- Leaving entries out keeps the canonical form. -/
theorem wfFrom_filter {d : α} {t : Tbl α} {lo : Nat} (h : wfFrom d lo t = true) (f : Nat × α → Bool) : wfFrom d lo (t.filter f) = true := by
  induction t generalizing lo with
  | nil => rfl
  | cons e t ih =>
    obtain ⟨j, v⟩ := e
    simp only [wfFrom, Bool.and_eq_true, decide_eq_true_eq] at h
    rw [List.filter_cons]
    split
    · simp only [wfFrom, Bool.and_eq_true, decide_eq_true_eq]
      exact ⟨h.1, ih h.2⟩
    · exact wfFrom_mono (ih h.2) (by omega)

theorem wf_filter {d : α} {t : Tbl α} (h : wf d t = true) (f : Nat × α → Bool) : wf d (t.filter f) = true := wfFrom_filter h f

/-- Writes one after another keep the canonical form. -/
theorem wf_foldl {β : Type} {d : α} (f : Tbl α → β → Tbl α) (hf : ∀ t b, wf d t = true → wf d (f t b) = true) (l : List β) {t : Tbl α}
    (h : wf d t = true) : wf d (l.foldl f t) = true := by
  induction l generalizing t with
  | nil => exact h
  | cons b l ih => exact ih (hf t b h)

end Tbl

namespace Machine

/-- The canonical form, table by table. -/
theorem wf_iff (m : Memory) : Memory.wf m = true ↔
    Tbl.wf 0 m.sram = true ∧ Tbl.wf false m.sramPoison = true ∧ Tbl.wf false m.sramProt = true ∧ Tbl.wf 0 m.bankMap = true ∧
    Tbl.wf 0 m.bankCopy = true ∧ Tbl.wf false m.bankBad = true ∧ Tbl.wf false m.bankLost = true ∧ Tbl.wf false m.bankZero = true ∧
    Tbl.wf 0 m.hbm = true ∧ Tbl.wf false m.hbmPoison = true ∧ Tbl.wf 0 m.frameMap = true ∧ Tbl.wf 0 m.frameCopy = true ∧
    Tbl.wf false m.frameDead = true := by
  simp only [Memory.wf, Bool.and_eq_true, and_assoc]

/-! ### Slice SRAM -/

theorem sramWritePiece_wf {m : Memory} (h : Memory.wf m = true) (k : Nat) (d : List Byte) (f : List Bool) (p : Bool) :
    Memory.wf (sramWritePiece m k d f p) = true := by
  unfold sramWritePiece
  split
  · exact h
  · rw [wf_iff] at h ⊢
    refine ⟨memWrite_wf h.1 _ _, poisonWrite_wf h.2.1 _ _ _, ?_, h.2.2.2⟩
    dsimp only
    split
    · exact Tbl.wf_set h.2.2.1 _ _
    · split
      · exact Tbl.wf_set h.2.2.1 _ _
      · exact h.2.2.1

theorem sramWritePieces_wf {m : Memory} (h : Memory.wf m = true) (p : Bool) (ps : List (Nat × Nat)) (d : List Byte) (f : List Bool) :
    Memory.wf (sramWritePieces m p ps d f) = true := by
  induction ps generalizing m d f with
  | nil => exact h
  | cons e l ih => exact ih (sramWritePiece_wf h e.1 _ _ p) _ _

theorem sliceCarry_wf {s : State} (h : Memory.wf s.mem = true) (map : Tbl Dword) (a : Nat) (d : List Byte) (f : List Bool) :
    Memory.wf (sliceCarry s map a d f).mem = true := sramWritePieces_wf h ..

theorem sliceWrite_wf {s : State} (h : Memory.wf s.mem = true) (map : Tbl Dword) (a : Nat) (d : List Byte) (b : Bool) :
    Memory.wf (sliceWrite s map a d b).mem = true := sliceCarry_wf h ..

theorem sliceReduceAll_wf {s : State} (h : Memory.wf s.mem = true) (map : Tbl Dword) (a : Nat) (bad : Nat → Bool)
    (l : List Ledger) : Memory.wf (sliceReduceAll s map a bad l).mem = true := by
  unfold sliceReduceAll
  generalize l.zipIdx = l
  induction l generalizing s with
  | nil => exact h
  | cons e l ih => exact ih (sliceWrite_wf h ..)

/-- What a write of slice SRAM can do: HBM and every byte outside its pieces stay as they are. -/
theorem sramWritePieces_out (m : Memory) (p : Bool) (ps : List (Nat × Nat)) (d : List Byte) (f : List Bool) :
    (sramWritePieces m p ps d f).hbm = m.hbm ∧
    ∀ k, (∀ e ∈ ps, ¬(e.1 ≤ k ∧ k < e.1 + e.2)) → Tbl.get 0 (sramWritePieces m p ps d f).sram k = Tbl.get 0 m.sram k := by
  induction ps generalizing m d f with
  | nil => exact ⟨rfl, fun _ _ => rfl⟩
  | cons e l ih =>
    obtain ⟨a, n⟩ := e
    obtain ⟨h1, h2⟩ := ih (sramWritePiece m a (d.take n) (f.take n) p) (d.drop n) (f.drop n)
    refine ⟨h1.trans (by unfold sramWritePiece; split <;> rfl), fun k hk => ?_⟩
    rw [sramWritePieces, h2 k fun e he => hk e (List.mem_cons_of_mem _ he)]
    unfold sramWritePiece
    split
    · rfl
    · have hn : ¬(a ≤ k ∧ k < a + n) := hk (a, n) (List.mem_cons_self ..)
      have hl : (d.take n).length ≤ n := List.length_take_le n d
      exact memWrite_get_out _ _ _ (by omega)

/-! ### HBM -/

theorem hbmWritePieces_wf {s : State} (h : Memory.wf s.mem = true) (ps : List (Nat × Nat × Nat)) (d : List Byte) (f : List Bool) :
    Memory.wf (hbmWritePieces s ps d f).mem = true := by
  induction ps generalizing s d f with
  | nil => exact h
  | cons e l ih =>
    obtain ⟨i, k, n⟩ := e
    unfold hbmWritePieces
    apply ih
    split
    · exact h
    · rw [wf_iff] at h ⊢
      obtain ⟨h1, h2, h3, h4, h5, h6, h7, h8, h9, h10, h11⟩ := h
      exact ⟨h1, h2, h3, h4, h5, h6, h7, h8, memWrite_wf h9 _ _, poisonWrite_wf h10 _ _ _, h11⟩

theorem hbmCarry_wf {s : State} (h : Memory.wf s.mem = true) (sl : Slice) (a : Nat) (d : List Byte) (f : List Bool) :
    Memory.wf (hbmCarry s sl a d f).mem = true := hbmWritePieces_wf h ..

theorem hbmWrite_wf {s : State} (h : Memory.wf s.mem = true) (sl : Slice) (a : Nat) (d : List Byte) (b : Bool) :
    Memory.wf (hbmWrite s sl a d b).mem = true := hbmCarry_wf h ..

/-- What a write of HBM can do: SRAM and every byte outside its pieces stay as they are. -/
theorem hbmWritePieces_out (s : State) (ps : List (Nat × Nat × Nat)) (d : List Byte) (f : List Bool) :
    (hbmWritePieces s ps d f).mem.sram = s.mem.sram ∧
    ∀ k, (∀ e ∈ ps, ¬(e.2.1 ≤ k ∧ k < e.2.1 + e.2.2)) → Tbl.get 0 (hbmWritePieces s ps d f).mem.hbm k = Tbl.get 0 s.mem.hbm k := by
  induction ps generalizing s d f with
  | nil => exact ⟨rfl, fun _ _ => rfl⟩
  | cons e l ih =>
    obtain ⟨i, a, n⟩ := e
    unfold hbmWritePieces
    dsimp only
    obtain ⟨h1, h2⟩ := ih (if hbmDead s a then s else { s with mem := { s.mem with
      hbm := memWrite s.mem.hbm a (d.take n), hbmPoison := poisonWrite s.mem.hbmPoison 64 a (f.take n) } }) (d.drop n) (f.drop n)
    refine ⟨h1.trans (by split <;> rfl), fun k hk => ?_⟩
    rw [h2 k fun e he => hk e (List.mem_cons_of_mem _ he)]
    split
    · rfl
    · have hn : ¬(a ≤ k ∧ k < a + n) := hk (i, a, n) (List.mem_cons_self ..)
      have hl : (d.take n).length ≤ n := List.length_take_le n d
      exact memWrite_get_out _ _ _ (by omega)

/-! ### Upkeep -/

theorem zeroBank_wf {m : Memory} (h : Memory.wf m = true) (k : Nat) : Memory.wf (zeroBank m k) = true := by
  rw [wf_iff] at h ⊢
  obtain ⟨h1, h2, h3, h4, h5, h6, h7, h8, h9⟩ := h
  exact ⟨Tbl.wf_filter h1 _, Tbl.wf_filter h2 _, Tbl.wf_filter h3 _, h4, h5, h6, h7, (Tbl.wf_set h8 k false : Tbl.wf false (Tbl.set false m.bankZero k false) = true), h9⟩

theorem copyFrame_wf {m : Memory} (h : Memory.wf m = true) (f g : Nat) : Memory.wf (copyFrame m f g) = true := by
  rw [wf_iff] at h ⊢
  obtain ⟨h1, h2, h3, h4, h5, h6, h7, h8, h9, h10, h11⟩ := h
  exact ⟨h1, h2, h3, h4, h5, h6, h7, h8, Tbl.wf_foldl _ (fun t e ht => Tbl.wf_set ht _ _) _ (Tbl.wf_filter h9 _),
    Tbl.wf_foldl _ (fun t e ht => Tbl.wf_set ht _ _) _ (Tbl.wf_filter h10 _), h11⟩

theorem loseStack_wf {s : State} (h : Memory.wf s.mem = true) (k : Nat) : Memory.wf (loseStack s k).mem = true := by
  rw [wf_iff] at h ⊢
  obtain ⟨h1, h2, h3, h4, h5, h6, h7, h8, h9, h10, h11⟩ := h
  exact ⟨h1, h2, h3, h4, h5, h6, h7, h8, Tbl.wf_filter h9 _, Tbl.wf_filter h10 _, h11⟩

theorem sparesBad_wf {m : Memory} (h : Memory.wf m = true) (e : BootEnv) : Memory.wf (sparesBad m e) = true := by
  rw [wf_iff] at h ⊢
  obtain ⟨h1, h2, h3, h4, h5, h6, h7⟩ := h
  exact ⟨h1, h2, h3, h4, h5, Tbl.wf_foldl _ (fun t x ht => Tbl.wf_foldl _ (fun t k ht => Tbl.wf_set ht _ _) _ ht) _ h6, h7⟩

theorem failBank_wf {s : State} (h : Memory.wf s.mem = true) (c b : Fin 32) : Memory.wf (failBank s c b).mem = true := by
  unfold failBank
  dsimp only
  split
  · exact h
  · rw [wf_iff] at h
    obtain ⟨h1, h2, h3, h4, h5, h6, h7, h8⟩ := h
    split
    · rename_i n _
      exact (wf_iff _).mpr ⟨h1, h2, h3, h4, (Tbl.wf_set h5 (32 * c.val + b.val) (n + 1) :
        Tbl.wf 0 (Tbl.set 0 s.mem.bankCopy (32 * c.val + b.val) (n + 1)) = true), h6, h7, h8⟩
    · exact (wf_iff _).mpr ⟨h1, h2, h3, h4, h5, h6, (Tbl.wf_set h7 (32 * c.val + b.val) true : Tbl.wf false (Tbl.set false s.mem.bankLost (32 * c.val + b.val) true) = true), h8⟩

theorem poisonFrame_wf {s : State} (h : Memory.wf s.mem = true) (c : Fin 128) (f : BitVec 20) (a : Nat) :
    Memory.wf (poisonFrame s c f a).mem = true := by
  rw [wf_iff] at h ⊢
  obtain ⟨h1, h2, h3, h4, h5, h6, h7, h8, h9, h10, h11⟩ := h
  exact ⟨h1, h2, h3, h4, h5, h6, h7, h8, h9, Tbl.wf_foldl _ (fun t e ht => Tbl.wf_set ht _ _) _ h10, h11⟩

theorem reset_wf : Memory.wf State.reset.mem = true := rfl

end Machine

end Sys2Proof
end

