-- ==== Sys2Proof/Laws/Settle.lean ====
section
/-!
SUPPORT. The end of a command at a module at rest changes nothing.
-/
namespace Sys2Proof.Machine

/-- What `Rest` reads of a state. -/
structure RestView where
  kick : List Nat
  meshWait : List MeshPkt
  bare : List Nat
  hostReads : List HostRead
  posts : List (BitVec 16 × Post)
  faults : List FaultReq
  pageReqs : List PageReq
  fenceWaits : List FenceWait
  teardowns : List Teardown
  drops : List ItemRef
  designated : Tbl Nat
  leaving : Word
  sched : Sched
  life : Life
  ctxs : Tbl (Option Context)
  objs : Tbl (Option MemObj)
  host : HostLink

def restView (s : State) : RestView :=
  ⟨s.kick, s.meshWait, s.fp.bare, s.hostReads, s.posts, s.faults, s.pageReqs, s.fenceWaits, s.teardowns, s.drops, s.fp.designated, s.err.leaving, s.sched, s.life, s.ctxs, s.objs,
    s.host⟩

def RestView.raBody (v : RestView) : List Dword :=
  Machine.raBody { ctxs := v.ctxs, objs := v.objs, host := v.host }

theorem raBody_view (s : State) : raBody s = (restView s).raBody := rfl

/-- Two states with the same view rest together. -/
theorem rest_congr {s t : State} (h : restView t = restView s) : Rest t = Rest s := by
  have hb : raBody t = raBody s := by rw [raBody_view, raBody_view, h]
  simp only [restView, RestView.mk.injEq] at h
  obtain ⟨k1, k2, k3, k4, h1, h2, h3, h4, h5, h6, h7, h8, h9, h10, -, -, h13⟩ := h
  simp only [Rest, k1, k2, k3, k4, h1, h2, h3, h4, h5, h6, h7, h8, h9, h10, h13, hb]

/-- Where every host request is out, the queue is empty. -/
theorem pumpHost_sent (n : Nat) {s : State} (h : s.hostReads.all (·.sent) = true) : pumpHost n s = s := by
  cases n with
  | zero => rfl
  | succ n =>
    have : (s.hostReads.filter fun r => !r.sent) = [] := by
      rw [List.filter_eq_nil_iff]
      intro r hr
      simpa using List.all_eq_true.mp h r hr
    simp [pumpHost, this, arbPick]

/-- A module at rest: the end of a command changes nothing. -/
theorem settle_rest {s : State} (h : Rest s = true) : settle s = s := by
  simp only [Rest, Bool.and_eq_true, List.isEmpty_iff, beq_iff_eq, Bool.not_eq_true', Bool.or_eq_true] at h
  obtain ⟨⟨⟨⟨⟨⟨⟨⟨⟨⟨⟨⟨⟨⟨⟨⟨⟨k1, k2⟩, h1⟩, h2⟩, h3⟩, h4⟩, h5⟩, h6⟩, h7⟩, k3⟩, h8⟩, k4⟩, h9⟩, h10⟩, h11⟩, h12⟩, h13⟩, h14⟩ := h
  have e0 : clearFaults s = s := by rw [clearFaults, ← h2]
  have e1 : tellRequests s = s := by
    have : (s.pageReqs.filter fun r => r.native && !r.told && !r.withdrawn) = [] := by
      rw [List.filter_eq_nil_iff]
      intro r hr
      have := List.all_eq_true.mp h3 r hr
      revert this
      cases r.native <;> cases r.told <;> cases r.withdrawn <;> simp
    simp [tellRequests, this]
  have e2 : takeFaults s = s := by rw [takeFaults, h2]; exact e0
  have e3 : retireFailing s = s := by simp [retireFailing, h7]
  have e4 : leaveClusters s = s := by simp [leaveClusters, h8]
  have e5 : launchFallbacks s = s := by simp [launchFallbacks, h9]
  have e6 : requestPreempts s = s := by simp [requestPreempts, h10]
  have e7 : latchSettled s = s := by
    rcases h12 with h | h <;> simp [latchSettled, h]
  have e8 : latchRemove s = s := by simp [latchRemove, h13]
  have e9 : refreshParts s = s := by simp [refreshParts, h11]
  have e10 : refreshRa s = s := by simp [refreshRa, h14]
  have e11 : kickCores s = s := by rw [kickCores, k1]; simp only [List.foldl_nil]; rw [← k1]
  have e12 : retryMesh s = s := by rw [retryMesh, k2]; simp only [List.foldl_nil]; rw [← k2]
  unfold settle
  rw [e11, e12]
  simp only []
  rw [if_pos h1]
  simp only [e1, e2]
  rw [if_pos h4, h5, List.foldl_nil, e2, h6, List.foldl_nil, e3, e4, k3, List.foldl_nil, e5, e2, e2, e6, pumpHost_sent _ k4, e0, e7, e8, e9, e10]

/-- A change that `Rest` does not see keeps a module at rest. -/
theorem settle_view {s t : State} (h : Rest s = true) (v : restView t = restView s) : settle t = t :=
  settle_rest (by rw [rest_congr v]; exact h)

end Sys2Proof.Machine
end

