-- ==== Sys2Proof/Laws/State.lean ====
section
/-!
SUPPORT. What the updates of the state leave alone: one lemma for each field and update.
-/
namespace Sys2Proof.Machine
variable (s : State)

/-! ### `setCore` -/

@[simp] theorem setCore_fp (p : Nat) (x : Core) : (setCore s p x).fp = s.fp := rfl
@[simp] theorem setCore_meters (p : Nat) (x : Core) : (setCore s p x).meters = s.meters := rfl
@[simp] theorem setCore_mcores (p : Nat) (x : Core) : (setCore s p x).mcores = s.mcores := rfl
@[simp] theorem setCore_vcores (p : Nat) (x : Core) : (setCore s p x).vcores = s.vcores := rfl
@[simp] theorem setCore_scores (p : Nat) (x : Core) : (setCore s p x).scores = s.scores := rfl
@[simp] theorem setCore_sync (p : Nat) (x : Core) : (setCore s p x).sync = s.sync := rfl
@[simp] theorem setCore_signals (p : Nat) (x : Core) : (setCore s p x).signals = s.signals := rfl
@[simp] theorem setCore_mem (p : Nat) (x : Core) : (setCore s p x).mem = s.mem := rfl
@[simp] theorem setCore_slices (p : Nat) (x : Core) : (setCore s p x).slices = s.slices := rfl
@[simp] theorem setCore_routers (p : Nat) (x : Core) : (setCore s p x).routers = s.routers := rfl
@[simp] theorem setCore_meshWait (p : Nat) (x : Core) : (setCore s p x).meshWait = s.meshWait := rfl
@[simp] theorem setCore_kick (p : Nat) (x : Core) : (setCore s p x).kick = s.kick := rfl
@[simp] theorem setCore_dirCache (p : Nat) (x : Core) : (setCore s p x).dirCache = s.dirCache := rfl
@[simp] theorem setCore_bindings (p : Nat) (x : Core) : (setCore s p x).bindings = s.bindings := rfl
@[simp] theorem setCore_forwards (p : Nat) (x : Core) : (setCore s p x).forwards = s.forwards := rfl
@[simp] theorem setCore_moves (p : Nat) (x : Core) : (setCore s p x).moves = s.moves := rfl
@[simp] theorem setCore_moveIns (p : Nat) (x : Core) : (setCore s p x).moveIns = s.moveIns := rfl
@[simp] theorem setCore_drops (p : Nat) (x : Core) : (setCore s p x).drops = s.drops := rfl
@[simp] theorem setCore_gloves (p : Nat) (x : Core) : (setCore s p x).gloves = s.gloves := rfl
@[simp] theorem setCore_ctxs (p : Nat) (x : Core) : (setCore s p x).ctxs = s.ctxs := rfl
@[simp] theorem setCore_queues (p : Nat) (x : Core) : (setCore s p x).queues = s.queues := rfl
@[simp] theorem setCore_objs (p : Nat) (x : Core) : (setCore s p x).objs = s.objs := rfl
@[simp] theorem setCore_windows (p : Nat) (x : Core) : (setCore s p x).windows = s.windows := rfl
@[simp] theorem setCore_peers (p : Nat) (x : Core) : (setCore s p x).peers = s.peers := rfl
@[simp] theorem setCore_apertures (p : Nat) (x : Core) : (setCore s p x).apertures = s.apertures := rfl
@[simp] theorem setCore_hdm (p : Nat) (x : Core) : (setCore s p x).hdm = s.hdm := rfl
@[simp] theorem setCore_guards (p : Nat) (x : Core) : (setCore s p x).guards = s.guards := rfl
@[simp] theorem setCore_atc (p : Nat) (x : Core) : (setCore s p x).atc = s.atc := rfl
@[simp] theorem setCore_walks (p : Nat) (x : Core) : (setCore s p x).walks = s.walks := rfl
@[simp] theorem setCore_xlates (p : Nat) (x : Core) : (setCore s p x).xlates = s.xlates := rfl
@[simp] theorem setCore_pageReqs (p : Nat) (x : Core) : (setCore s p x).pageReqs = s.pageReqs := rfl
@[simp] theorem setCore_legacyGen (p : Nat) (x : Core) : (setCore s p x).legacyGen = s.legacyGen := rfl
@[simp] theorem setCore_hostReads (p : Nat) (x : Core) : (setCore s p x).hostReads = s.hostReads := rfl
@[simp] theorem setCore_invals (p : Nat) (x : Core) : (setCore s p x).invals = s.invals := rfl
@[simp] theorem setCore_cohHeld (p : Nat) (x : Core) : (setCore s p x).cohHeld = s.cohHeld := rfl
@[simp] theorem setCore_snoops (p : Nat) (x : Core) : (setCore s p x).snoops = s.snoops := rfl
@[simp] theorem setCore_winReqs (p : Nat) (x : Core) : (setCore s p x).winReqs = s.winReqs := rfl
@[simp] theorem setCore_fenceWaits (p : Nat) (x : Core) : (setCore s p x).fenceWaits = s.fenceWaits := rfl
@[simp] theorem setCore_teardowns (p : Nat) (x : Core) : (setCore s p x).teardowns = s.teardowns := rfl
@[simp] theorem setCore_closed (p : Nat) (x : Core) : (setCore s p x).closed = s.closed := rfl
@[simp] theorem setCore_host (p : Nat) (x : Core) : (setCore s p x).host = s.host := rfl
@[simp] theorem setCore_cfg (p : Nat) (x : Core) : (setCore s p x).cfg = s.cfg := rfl
@[simp] theorem setCore_posts (p : Nat) (x : Core) : (setCore s p x).posts = s.posts := rfl
@[simp] theorem setCore_faults (p : Nat) (x : Core) : (setCore s p x).faults = s.faults := rfl
@[simp] theorem setCore_node (p : Nat) (x : Core) : (setCore s p x).node = s.node := rfl
@[simp] theorem setCore_incarnation (p : Nat) (x : Core) : (setCore s p x).incarnation = s.incarnation := rfl
@[simp] theorem setCore_sendSeq (p : Nat) (x : Core) : (setCore s p x).sendSeq = s.sendSeq := rfl
@[simp] theorem setCore_rtpDown (p : Nat) (x : Core) : (setCore s p x).rtpDown = s.rtpDown := rfl
@[simp] theorem setCore_log (p : Nat) (x : Core) : (setCore s p x).log = s.log := rfl
@[simp] theorem setCore_cnt (p : Nat) (x : Core) : (setCore s p x).cnt = s.cnt := rfl
@[simp] theorem setCore_err (p : Nat) (x : Core) : (setCore s p x).err = s.err := rfl
@[simp] theorem setCore_links (p : Nat) (x : Core) : (setCore s p x).links = s.links := rfl
@[simp] theorem setCore_groups (p : Nat) (x : Core) : (setCore s p x).groups = s.groups := rfl
@[simp] theorem setCore_fab (p : Nat) (x : Core) : (setCore s p x).fab = s.fab := rfl
@[simp] theorem setCore_sched (p : Nat) (x : Core) : (setCore s p x).sched = s.sched := rfl
@[simp] theorem setCore_gov (p : Nat) (x : Core) : (setCore s p x).gov = s.gov := rfl
@[simp] theorem setCore_trust (p : Nat) (x : Core) : (setCore s p x).trust = s.trust := rfl
@[simp] theorem setCore_life (p : Nat) (x : Core) : (setCore s p x).life = s.life := rfl
@[simp] theorem setCore_regs (p : Nat) (x : Core) : (setCore s p x).regs = s.regs := rfl
@[simp] theorem setCore_irqs (p : Nat) (x : Core) : (setCore s p x).irqs = s.irqs := rfl
@[simp] theorem setCore_procs (p : Nat) (x : Core) : (setCore s p x).procs = s.procs := rfl
@[simp] theorem setCore_procCore (p : Nat) (x : Core) : (setCore s p x).procCore = s.procCore := rfl
@[simp] theorem setCore_time (p : Nat) (x : Core) : (setCore s p x).time = s.time := rfl
@[simp] theorem setCore_refNs (p : Nat) (x : Core) : (setCore s p x).refNs = s.refNs := rfl
@[simp] theorem setCore_refLost (p : Nat) (x : Core) : (setCore s p x).refLost = s.refLost := rfl
@[simp] theorem setCore_serial (p : Nat) (x : Core) : (setCore s p x).serial = s.serial := rfl
@[simp] theorem setCore_free (p : Nat) (x : Core) : (setCore s p x).free = s.free := rfl
@[simp] theorem setCore_lastRead (p : Nat) (x : Core) : (setCore s p x).lastRead = s.lastRead := rfl
@[simp] theorem setCore_out (p : Nat) (x : Core) : (setCore s p x).out = s.out := rfl
@[simp] theorem setCore_pending (p : Nat) (x : Core) : (setCore s p x).pending = s.pending := rfl

/-! ### `setM` -/

@[simp] theorem setM_fp (p : Nat) (x : MCore) : (setM s p x).fp = s.fp := rfl
@[simp] theorem setM_meters (p : Nat) (x : MCore) : (setM s p x).meters = s.meters := rfl
@[simp] theorem setM_cores (p : Nat) (x : MCore) : (setM s p x).cores = s.cores := rfl
@[simp] theorem setM_vcores (p : Nat) (x : MCore) : (setM s p x).vcores = s.vcores := rfl
@[simp] theorem setM_scores (p : Nat) (x : MCore) : (setM s p x).scores = s.scores := rfl
@[simp] theorem setM_sync (p : Nat) (x : MCore) : (setM s p x).sync = s.sync := rfl
@[simp] theorem setM_signals (p : Nat) (x : MCore) : (setM s p x).signals = s.signals := rfl
@[simp] theorem setM_mem (p : Nat) (x : MCore) : (setM s p x).mem = s.mem := rfl
@[simp] theorem setM_slices (p : Nat) (x : MCore) : (setM s p x).slices = s.slices := rfl
@[simp] theorem setM_routers (p : Nat) (x : MCore) : (setM s p x).routers = s.routers := rfl
@[simp] theorem setM_meshWait (p : Nat) (x : MCore) : (setM s p x).meshWait = s.meshWait := rfl
@[simp] theorem setM_kick (p : Nat) (x : MCore) : (setM s p x).kick = s.kick := rfl
@[simp] theorem setM_dirCache (p : Nat) (x : MCore) : (setM s p x).dirCache = s.dirCache := rfl
@[simp] theorem setM_bindings (p : Nat) (x : MCore) : (setM s p x).bindings = s.bindings := rfl
@[simp] theorem setM_forwards (p : Nat) (x : MCore) : (setM s p x).forwards = s.forwards := rfl
@[simp] theorem setM_moves (p : Nat) (x : MCore) : (setM s p x).moves = s.moves := rfl
@[simp] theorem setM_moveIns (p : Nat) (x : MCore) : (setM s p x).moveIns = s.moveIns := rfl
@[simp] theorem setM_drops (p : Nat) (x : MCore) : (setM s p x).drops = s.drops := rfl
@[simp] theorem setM_gloves (p : Nat) (x : MCore) : (setM s p x).gloves = s.gloves := rfl
@[simp] theorem setM_ctxs (p : Nat) (x : MCore) : (setM s p x).ctxs = s.ctxs := rfl
@[simp] theorem setM_queues (p : Nat) (x : MCore) : (setM s p x).queues = s.queues := rfl
@[simp] theorem setM_objs (p : Nat) (x : MCore) : (setM s p x).objs = s.objs := rfl
@[simp] theorem setM_windows (p : Nat) (x : MCore) : (setM s p x).windows = s.windows := rfl
@[simp] theorem setM_peers (p : Nat) (x : MCore) : (setM s p x).peers = s.peers := rfl
@[simp] theorem setM_apertures (p : Nat) (x : MCore) : (setM s p x).apertures = s.apertures := rfl
@[simp] theorem setM_hdm (p : Nat) (x : MCore) : (setM s p x).hdm = s.hdm := rfl
@[simp] theorem setM_guards (p : Nat) (x : MCore) : (setM s p x).guards = s.guards := rfl
@[simp] theorem setM_atc (p : Nat) (x : MCore) : (setM s p x).atc = s.atc := rfl
@[simp] theorem setM_walks (p : Nat) (x : MCore) : (setM s p x).walks = s.walks := rfl
@[simp] theorem setM_xlates (p : Nat) (x : MCore) : (setM s p x).xlates = s.xlates := rfl
@[simp] theorem setM_pageReqs (p : Nat) (x : MCore) : (setM s p x).pageReqs = s.pageReqs := rfl
@[simp] theorem setM_legacyGen (p : Nat) (x : MCore) : (setM s p x).legacyGen = s.legacyGen := rfl
@[simp] theorem setM_hostReads (p : Nat) (x : MCore) : (setM s p x).hostReads = s.hostReads := rfl
@[simp] theorem setM_invals (p : Nat) (x : MCore) : (setM s p x).invals = s.invals := rfl
@[simp] theorem setM_cohHeld (p : Nat) (x : MCore) : (setM s p x).cohHeld = s.cohHeld := rfl
@[simp] theorem setM_snoops (p : Nat) (x : MCore) : (setM s p x).snoops = s.snoops := rfl
@[simp] theorem setM_winReqs (p : Nat) (x : MCore) : (setM s p x).winReqs = s.winReqs := rfl
@[simp] theorem setM_fenceWaits (p : Nat) (x : MCore) : (setM s p x).fenceWaits = s.fenceWaits := rfl
@[simp] theorem setM_teardowns (p : Nat) (x : MCore) : (setM s p x).teardowns = s.teardowns := rfl
@[simp] theorem setM_closed (p : Nat) (x : MCore) : (setM s p x).closed = s.closed := rfl
@[simp] theorem setM_host (p : Nat) (x : MCore) : (setM s p x).host = s.host := rfl
@[simp] theorem setM_cfg (p : Nat) (x : MCore) : (setM s p x).cfg = s.cfg := rfl
@[simp] theorem setM_posts (p : Nat) (x : MCore) : (setM s p x).posts = s.posts := rfl
@[simp] theorem setM_faults (p : Nat) (x : MCore) : (setM s p x).faults = s.faults := rfl
@[simp] theorem setM_node (p : Nat) (x : MCore) : (setM s p x).node = s.node := rfl
@[simp] theorem setM_incarnation (p : Nat) (x : MCore) : (setM s p x).incarnation = s.incarnation := rfl
@[simp] theorem setM_sendSeq (p : Nat) (x : MCore) : (setM s p x).sendSeq = s.sendSeq := rfl
@[simp] theorem setM_rtpDown (p : Nat) (x : MCore) : (setM s p x).rtpDown = s.rtpDown := rfl
@[simp] theorem setM_log (p : Nat) (x : MCore) : (setM s p x).log = s.log := rfl
@[simp] theorem setM_cnt (p : Nat) (x : MCore) : (setM s p x).cnt = s.cnt := rfl
@[simp] theorem setM_err (p : Nat) (x : MCore) : (setM s p x).err = s.err := rfl
@[simp] theorem setM_links (p : Nat) (x : MCore) : (setM s p x).links = s.links := rfl
@[simp] theorem setM_groups (p : Nat) (x : MCore) : (setM s p x).groups = s.groups := rfl
@[simp] theorem setM_fab (p : Nat) (x : MCore) : (setM s p x).fab = s.fab := rfl
@[simp] theorem setM_sched (p : Nat) (x : MCore) : (setM s p x).sched = s.sched := rfl
@[simp] theorem setM_gov (p : Nat) (x : MCore) : (setM s p x).gov = s.gov := rfl
@[simp] theorem setM_trust (p : Nat) (x : MCore) : (setM s p x).trust = s.trust := rfl
@[simp] theorem setM_life (p : Nat) (x : MCore) : (setM s p x).life = s.life := rfl
@[simp] theorem setM_regs (p : Nat) (x : MCore) : (setM s p x).regs = s.regs := rfl
@[simp] theorem setM_irqs (p : Nat) (x : MCore) : (setM s p x).irqs = s.irqs := rfl
@[simp] theorem setM_procs (p : Nat) (x : MCore) : (setM s p x).procs = s.procs := rfl
@[simp] theorem setM_procCore (p : Nat) (x : MCore) : (setM s p x).procCore = s.procCore := rfl
@[simp] theorem setM_time (p : Nat) (x : MCore) : (setM s p x).time = s.time := rfl
@[simp] theorem setM_refNs (p : Nat) (x : MCore) : (setM s p x).refNs = s.refNs := rfl
@[simp] theorem setM_refLost (p : Nat) (x : MCore) : (setM s p x).refLost = s.refLost := rfl
@[simp] theorem setM_serial (p : Nat) (x : MCore) : (setM s p x).serial = s.serial := rfl
@[simp] theorem setM_free (p : Nat) (x : MCore) : (setM s p x).free = s.free := rfl
@[simp] theorem setM_lastRead (p : Nat) (x : MCore) : (setM s p x).lastRead = s.lastRead := rfl
@[simp] theorem setM_out (p : Nat) (x : MCore) : (setM s p x).out = s.out := rfl
@[simp] theorem setM_pending (p : Nat) (x : MCore) : (setM s p x).pending = s.pending := rfl

/-! ### `setV` -/

@[simp] theorem setV_fp (p : Nat) (x : VCore) : (setV s p x).fp = s.fp := rfl
@[simp] theorem setV_meters (p : Nat) (x : VCore) : (setV s p x).meters = s.meters := rfl
@[simp] theorem setV_cores (p : Nat) (x : VCore) : (setV s p x).cores = s.cores := rfl
@[simp] theorem setV_mcores (p : Nat) (x : VCore) : (setV s p x).mcores = s.mcores := rfl
@[simp] theorem setV_scores (p : Nat) (x : VCore) : (setV s p x).scores = s.scores := rfl
@[simp] theorem setV_sync (p : Nat) (x : VCore) : (setV s p x).sync = s.sync := rfl
@[simp] theorem setV_signals (p : Nat) (x : VCore) : (setV s p x).signals = s.signals := rfl
@[simp] theorem setV_mem (p : Nat) (x : VCore) : (setV s p x).mem = s.mem := rfl
@[simp] theorem setV_slices (p : Nat) (x : VCore) : (setV s p x).slices = s.slices := rfl
@[simp] theorem setV_routers (p : Nat) (x : VCore) : (setV s p x).routers = s.routers := rfl
@[simp] theorem setV_meshWait (p : Nat) (x : VCore) : (setV s p x).meshWait = s.meshWait := rfl
@[simp] theorem setV_kick (p : Nat) (x : VCore) : (setV s p x).kick = s.kick := rfl
@[simp] theorem setV_dirCache (p : Nat) (x : VCore) : (setV s p x).dirCache = s.dirCache := rfl
@[simp] theorem setV_bindings (p : Nat) (x : VCore) : (setV s p x).bindings = s.bindings := rfl
@[simp] theorem setV_forwards (p : Nat) (x : VCore) : (setV s p x).forwards = s.forwards := rfl
@[simp] theorem setV_moves (p : Nat) (x : VCore) : (setV s p x).moves = s.moves := rfl
@[simp] theorem setV_moveIns (p : Nat) (x : VCore) : (setV s p x).moveIns = s.moveIns := rfl
@[simp] theorem setV_drops (p : Nat) (x : VCore) : (setV s p x).drops = s.drops := rfl
@[simp] theorem setV_gloves (p : Nat) (x : VCore) : (setV s p x).gloves = s.gloves := rfl
@[simp] theorem setV_ctxs (p : Nat) (x : VCore) : (setV s p x).ctxs = s.ctxs := rfl
@[simp] theorem setV_queues (p : Nat) (x : VCore) : (setV s p x).queues = s.queues := rfl
@[simp] theorem setV_objs (p : Nat) (x : VCore) : (setV s p x).objs = s.objs := rfl
@[simp] theorem setV_windows (p : Nat) (x : VCore) : (setV s p x).windows = s.windows := rfl
@[simp] theorem setV_peers (p : Nat) (x : VCore) : (setV s p x).peers = s.peers := rfl
@[simp] theorem setV_apertures (p : Nat) (x : VCore) : (setV s p x).apertures = s.apertures := rfl
@[simp] theorem setV_hdm (p : Nat) (x : VCore) : (setV s p x).hdm = s.hdm := rfl
@[simp] theorem setV_guards (p : Nat) (x : VCore) : (setV s p x).guards = s.guards := rfl
@[simp] theorem setV_atc (p : Nat) (x : VCore) : (setV s p x).atc = s.atc := rfl
@[simp] theorem setV_walks (p : Nat) (x : VCore) : (setV s p x).walks = s.walks := rfl
@[simp] theorem setV_xlates (p : Nat) (x : VCore) : (setV s p x).xlates = s.xlates := rfl
@[simp] theorem setV_pageReqs (p : Nat) (x : VCore) : (setV s p x).pageReqs = s.pageReqs := rfl
@[simp] theorem setV_legacyGen (p : Nat) (x : VCore) : (setV s p x).legacyGen = s.legacyGen := rfl
@[simp] theorem setV_hostReads (p : Nat) (x : VCore) : (setV s p x).hostReads = s.hostReads := rfl
@[simp] theorem setV_invals (p : Nat) (x : VCore) : (setV s p x).invals = s.invals := rfl
@[simp] theorem setV_cohHeld (p : Nat) (x : VCore) : (setV s p x).cohHeld = s.cohHeld := rfl
@[simp] theorem setV_snoops (p : Nat) (x : VCore) : (setV s p x).snoops = s.snoops := rfl
@[simp] theorem setV_winReqs (p : Nat) (x : VCore) : (setV s p x).winReqs = s.winReqs := rfl
@[simp] theorem setV_fenceWaits (p : Nat) (x : VCore) : (setV s p x).fenceWaits = s.fenceWaits := rfl
@[simp] theorem setV_teardowns (p : Nat) (x : VCore) : (setV s p x).teardowns = s.teardowns := rfl
@[simp] theorem setV_closed (p : Nat) (x : VCore) : (setV s p x).closed = s.closed := rfl
@[simp] theorem setV_host (p : Nat) (x : VCore) : (setV s p x).host = s.host := rfl
@[simp] theorem setV_cfg (p : Nat) (x : VCore) : (setV s p x).cfg = s.cfg := rfl
@[simp] theorem setV_posts (p : Nat) (x : VCore) : (setV s p x).posts = s.posts := rfl
@[simp] theorem setV_faults (p : Nat) (x : VCore) : (setV s p x).faults = s.faults := rfl
@[simp] theorem setV_node (p : Nat) (x : VCore) : (setV s p x).node = s.node := rfl
@[simp] theorem setV_incarnation (p : Nat) (x : VCore) : (setV s p x).incarnation = s.incarnation := rfl
@[simp] theorem setV_sendSeq (p : Nat) (x : VCore) : (setV s p x).sendSeq = s.sendSeq := rfl
@[simp] theorem setV_rtpDown (p : Nat) (x : VCore) : (setV s p x).rtpDown = s.rtpDown := rfl
@[simp] theorem setV_log (p : Nat) (x : VCore) : (setV s p x).log = s.log := rfl
@[simp] theorem setV_cnt (p : Nat) (x : VCore) : (setV s p x).cnt = s.cnt := rfl
@[simp] theorem setV_err (p : Nat) (x : VCore) : (setV s p x).err = s.err := rfl
@[simp] theorem setV_links (p : Nat) (x : VCore) : (setV s p x).links = s.links := rfl
@[simp] theorem setV_groups (p : Nat) (x : VCore) : (setV s p x).groups = s.groups := rfl
@[simp] theorem setV_fab (p : Nat) (x : VCore) : (setV s p x).fab = s.fab := rfl
@[simp] theorem setV_sched (p : Nat) (x : VCore) : (setV s p x).sched = s.sched := rfl
@[simp] theorem setV_gov (p : Nat) (x : VCore) : (setV s p x).gov = s.gov := rfl
@[simp] theorem setV_trust (p : Nat) (x : VCore) : (setV s p x).trust = s.trust := rfl
@[simp] theorem setV_life (p : Nat) (x : VCore) : (setV s p x).life = s.life := rfl
@[simp] theorem setV_regs (p : Nat) (x : VCore) : (setV s p x).regs = s.regs := rfl
@[simp] theorem setV_irqs (p : Nat) (x : VCore) : (setV s p x).irqs = s.irqs := rfl
@[simp] theorem setV_procs (p : Nat) (x : VCore) : (setV s p x).procs = s.procs := rfl
@[simp] theorem setV_procCore (p : Nat) (x : VCore) : (setV s p x).procCore = s.procCore := rfl
@[simp] theorem setV_time (p : Nat) (x : VCore) : (setV s p x).time = s.time := rfl
@[simp] theorem setV_refNs (p : Nat) (x : VCore) : (setV s p x).refNs = s.refNs := rfl
@[simp] theorem setV_refLost (p : Nat) (x : VCore) : (setV s p x).refLost = s.refLost := rfl
@[simp] theorem setV_serial (p : Nat) (x : VCore) : (setV s p x).serial = s.serial := rfl
@[simp] theorem setV_free (p : Nat) (x : VCore) : (setV s p x).free = s.free := rfl
@[simp] theorem setV_lastRead (p : Nat) (x : VCore) : (setV s p x).lastRead = s.lastRead := rfl
@[simp] theorem setV_out (p : Nat) (x : VCore) : (setV s p x).out = s.out := rfl
@[simp] theorem setV_pending (p : Nat) (x : VCore) : (setV s p x).pending = s.pending := rfl

/-! ### `setS` -/

@[simp] theorem setS_fp (p : Nat) (x : SCore) : (setS s p x).fp = s.fp := rfl
@[simp] theorem setS_meters (p : Nat) (x : SCore) : (setS s p x).meters = s.meters := rfl
@[simp] theorem setS_cores (p : Nat) (x : SCore) : (setS s p x).cores = s.cores := rfl
@[simp] theorem setS_mcores (p : Nat) (x : SCore) : (setS s p x).mcores = s.mcores := rfl
@[simp] theorem setS_vcores (p : Nat) (x : SCore) : (setS s p x).vcores = s.vcores := rfl
@[simp] theorem setS_sync (p : Nat) (x : SCore) : (setS s p x).sync = s.sync := rfl
@[simp] theorem setS_signals (p : Nat) (x : SCore) : (setS s p x).signals = s.signals := rfl
@[simp] theorem setS_mem (p : Nat) (x : SCore) : (setS s p x).mem = s.mem := rfl
@[simp] theorem setS_slices (p : Nat) (x : SCore) : (setS s p x).slices = s.slices := rfl
@[simp] theorem setS_routers (p : Nat) (x : SCore) : (setS s p x).routers = s.routers := rfl
@[simp] theorem setS_meshWait (p : Nat) (x : SCore) : (setS s p x).meshWait = s.meshWait := rfl
@[simp] theorem setS_kick (p : Nat) (x : SCore) : (setS s p x).kick = s.kick := rfl
@[simp] theorem setS_dirCache (p : Nat) (x : SCore) : (setS s p x).dirCache = s.dirCache := rfl
@[simp] theorem setS_bindings (p : Nat) (x : SCore) : (setS s p x).bindings = s.bindings := rfl
@[simp] theorem setS_forwards (p : Nat) (x : SCore) : (setS s p x).forwards = s.forwards := rfl
@[simp] theorem setS_moves (p : Nat) (x : SCore) : (setS s p x).moves = s.moves := rfl
@[simp] theorem setS_moveIns (p : Nat) (x : SCore) : (setS s p x).moveIns = s.moveIns := rfl
@[simp] theorem setS_drops (p : Nat) (x : SCore) : (setS s p x).drops = s.drops := rfl
@[simp] theorem setS_gloves (p : Nat) (x : SCore) : (setS s p x).gloves = s.gloves := rfl
@[simp] theorem setS_ctxs (p : Nat) (x : SCore) : (setS s p x).ctxs = s.ctxs := rfl
@[simp] theorem setS_queues (p : Nat) (x : SCore) : (setS s p x).queues = s.queues := rfl
@[simp] theorem setS_objs (p : Nat) (x : SCore) : (setS s p x).objs = s.objs := rfl
@[simp] theorem setS_windows (p : Nat) (x : SCore) : (setS s p x).windows = s.windows := rfl
@[simp] theorem setS_peers (p : Nat) (x : SCore) : (setS s p x).peers = s.peers := rfl
@[simp] theorem setS_apertures (p : Nat) (x : SCore) : (setS s p x).apertures = s.apertures := rfl
@[simp] theorem setS_hdm (p : Nat) (x : SCore) : (setS s p x).hdm = s.hdm := rfl
@[simp] theorem setS_guards (p : Nat) (x : SCore) : (setS s p x).guards = s.guards := rfl
@[simp] theorem setS_atc (p : Nat) (x : SCore) : (setS s p x).atc = s.atc := rfl
@[simp] theorem setS_walks (p : Nat) (x : SCore) : (setS s p x).walks = s.walks := rfl
@[simp] theorem setS_xlates (p : Nat) (x : SCore) : (setS s p x).xlates = s.xlates := rfl
@[simp] theorem setS_pageReqs (p : Nat) (x : SCore) : (setS s p x).pageReqs = s.pageReqs := rfl
@[simp] theorem setS_legacyGen (p : Nat) (x : SCore) : (setS s p x).legacyGen = s.legacyGen := rfl
@[simp] theorem setS_hostReads (p : Nat) (x : SCore) : (setS s p x).hostReads = s.hostReads := rfl
@[simp] theorem setS_invals (p : Nat) (x : SCore) : (setS s p x).invals = s.invals := rfl
@[simp] theorem setS_cohHeld (p : Nat) (x : SCore) : (setS s p x).cohHeld = s.cohHeld := rfl
@[simp] theorem setS_snoops (p : Nat) (x : SCore) : (setS s p x).snoops = s.snoops := rfl
@[simp] theorem setS_winReqs (p : Nat) (x : SCore) : (setS s p x).winReqs = s.winReqs := rfl
@[simp] theorem setS_fenceWaits (p : Nat) (x : SCore) : (setS s p x).fenceWaits = s.fenceWaits := rfl
@[simp] theorem setS_teardowns (p : Nat) (x : SCore) : (setS s p x).teardowns = s.teardowns := rfl
@[simp] theorem setS_closed (p : Nat) (x : SCore) : (setS s p x).closed = s.closed := rfl
@[simp] theorem setS_host (p : Nat) (x : SCore) : (setS s p x).host = s.host := rfl
@[simp] theorem setS_cfg (p : Nat) (x : SCore) : (setS s p x).cfg = s.cfg := rfl
@[simp] theorem setS_posts (p : Nat) (x : SCore) : (setS s p x).posts = s.posts := rfl
@[simp] theorem setS_faults (p : Nat) (x : SCore) : (setS s p x).faults = s.faults := rfl
@[simp] theorem setS_node (p : Nat) (x : SCore) : (setS s p x).node = s.node := rfl
@[simp] theorem setS_incarnation (p : Nat) (x : SCore) : (setS s p x).incarnation = s.incarnation := rfl
@[simp] theorem setS_sendSeq (p : Nat) (x : SCore) : (setS s p x).sendSeq = s.sendSeq := rfl
@[simp] theorem setS_rtpDown (p : Nat) (x : SCore) : (setS s p x).rtpDown = s.rtpDown := rfl
@[simp] theorem setS_log (p : Nat) (x : SCore) : (setS s p x).log = s.log := rfl
@[simp] theorem setS_cnt (p : Nat) (x : SCore) : (setS s p x).cnt = s.cnt := rfl
@[simp] theorem setS_err (p : Nat) (x : SCore) : (setS s p x).err = s.err := rfl
@[simp] theorem setS_links (p : Nat) (x : SCore) : (setS s p x).links = s.links := rfl
@[simp] theorem setS_groups (p : Nat) (x : SCore) : (setS s p x).groups = s.groups := rfl
@[simp] theorem setS_fab (p : Nat) (x : SCore) : (setS s p x).fab = s.fab := rfl
@[simp] theorem setS_sched (p : Nat) (x : SCore) : (setS s p x).sched = s.sched := rfl
@[simp] theorem setS_gov (p : Nat) (x : SCore) : (setS s p x).gov = s.gov := rfl
@[simp] theorem setS_trust (p : Nat) (x : SCore) : (setS s p x).trust = s.trust := rfl
@[simp] theorem setS_life (p : Nat) (x : SCore) : (setS s p x).life = s.life := rfl
@[simp] theorem setS_regs (p : Nat) (x : SCore) : (setS s p x).regs = s.regs := rfl
@[simp] theorem setS_irqs (p : Nat) (x : SCore) : (setS s p x).irqs = s.irqs := rfl
@[simp] theorem setS_procs (p : Nat) (x : SCore) : (setS s p x).procs = s.procs := rfl
@[simp] theorem setS_procCore (p : Nat) (x : SCore) : (setS s p x).procCore = s.procCore := rfl
@[simp] theorem setS_time (p : Nat) (x : SCore) : (setS s p x).time = s.time := rfl
@[simp] theorem setS_refNs (p : Nat) (x : SCore) : (setS s p x).refNs = s.refNs := rfl
@[simp] theorem setS_refLost (p : Nat) (x : SCore) : (setS s p x).refLost = s.refLost := rfl
@[simp] theorem setS_serial (p : Nat) (x : SCore) : (setS s p x).serial = s.serial := rfl
@[simp] theorem setS_free (p : Nat) (x : SCore) : (setS s p x).free = s.free := rfl
@[simp] theorem setS_lastRead (p : Nat) (x : SCore) : (setS s p x).lastRead = s.lastRead := rfl
@[simp] theorem setS_out (p : Nat) (x : SCore) : (setS s p x).out = s.out := rfl
@[simp] theorem setS_pending (p : Nat) (x : SCore) : (setS s p x).pending = s.pending := rfl

/-! ### `setBinding` -/

@[simp] theorem setBinding_fp (p : Nat) (x : Binding) : (setBinding s p x).fp = s.fp := rfl
@[simp] theorem setBinding_meters (p : Nat) (x : Binding) : (setBinding s p x).meters = s.meters := rfl
@[simp] theorem setBinding_cores (p : Nat) (x : Binding) : (setBinding s p x).cores = s.cores := rfl
@[simp] theorem setBinding_mcores (p : Nat) (x : Binding) : (setBinding s p x).mcores = s.mcores := rfl
@[simp] theorem setBinding_vcores (p : Nat) (x : Binding) : (setBinding s p x).vcores = s.vcores := rfl
@[simp] theorem setBinding_scores (p : Nat) (x : Binding) : (setBinding s p x).scores = s.scores := rfl
@[simp] theorem setBinding_sync (p : Nat) (x : Binding) : (setBinding s p x).sync = s.sync := rfl
@[simp] theorem setBinding_signals (p : Nat) (x : Binding) : (setBinding s p x).signals = s.signals := rfl
@[simp] theorem setBinding_mem (p : Nat) (x : Binding) : (setBinding s p x).mem = s.mem := rfl
@[simp] theorem setBinding_slices (p : Nat) (x : Binding) : (setBinding s p x).slices = s.slices := rfl
@[simp] theorem setBinding_routers (p : Nat) (x : Binding) : (setBinding s p x).routers = s.routers := rfl
@[simp] theorem setBinding_meshWait (p : Nat) (x : Binding) : (setBinding s p x).meshWait = s.meshWait := rfl
@[simp] theorem setBinding_kick (p : Nat) (x : Binding) : (setBinding s p x).kick = s.kick := rfl
@[simp] theorem setBinding_dirCache (p : Nat) (x : Binding) : (setBinding s p x).dirCache = s.dirCache := rfl
@[simp] theorem setBinding_forwards (p : Nat) (x : Binding) : (setBinding s p x).forwards = s.forwards := rfl
@[simp] theorem setBinding_moves (p : Nat) (x : Binding) : (setBinding s p x).moves = s.moves := rfl
@[simp] theorem setBinding_moveIns (p : Nat) (x : Binding) : (setBinding s p x).moveIns = s.moveIns := rfl
@[simp] theorem setBinding_drops (p : Nat) (x : Binding) : (setBinding s p x).drops = s.drops := rfl
@[simp] theorem setBinding_gloves (p : Nat) (x : Binding) : (setBinding s p x).gloves = s.gloves := rfl
@[simp] theorem setBinding_ctxs (p : Nat) (x : Binding) : (setBinding s p x).ctxs = s.ctxs := rfl
@[simp] theorem setBinding_queues (p : Nat) (x : Binding) : (setBinding s p x).queues = s.queues := rfl
@[simp] theorem setBinding_objs (p : Nat) (x : Binding) : (setBinding s p x).objs = s.objs := rfl
@[simp] theorem setBinding_windows (p : Nat) (x : Binding) : (setBinding s p x).windows = s.windows := rfl
@[simp] theorem setBinding_peers (p : Nat) (x : Binding) : (setBinding s p x).peers = s.peers := rfl
@[simp] theorem setBinding_apertures (p : Nat) (x : Binding) : (setBinding s p x).apertures = s.apertures := rfl
@[simp] theorem setBinding_hdm (p : Nat) (x : Binding) : (setBinding s p x).hdm = s.hdm := rfl
@[simp] theorem setBinding_guards (p : Nat) (x : Binding) : (setBinding s p x).guards = s.guards := rfl
@[simp] theorem setBinding_atc (p : Nat) (x : Binding) : (setBinding s p x).atc = s.atc := rfl
@[simp] theorem setBinding_walks (p : Nat) (x : Binding) : (setBinding s p x).walks = s.walks := rfl
@[simp] theorem setBinding_xlates (p : Nat) (x : Binding) : (setBinding s p x).xlates = s.xlates := rfl
@[simp] theorem setBinding_pageReqs (p : Nat) (x : Binding) : (setBinding s p x).pageReqs = s.pageReqs := rfl
@[simp] theorem setBinding_legacyGen (p : Nat) (x : Binding) : (setBinding s p x).legacyGen = s.legacyGen := rfl
@[simp] theorem setBinding_hostReads (p : Nat) (x : Binding) : (setBinding s p x).hostReads = s.hostReads := rfl
@[simp] theorem setBinding_invals (p : Nat) (x : Binding) : (setBinding s p x).invals = s.invals := rfl
@[simp] theorem setBinding_cohHeld (p : Nat) (x : Binding) : (setBinding s p x).cohHeld = s.cohHeld := rfl
@[simp] theorem setBinding_snoops (p : Nat) (x : Binding) : (setBinding s p x).snoops = s.snoops := rfl
@[simp] theorem setBinding_winReqs (p : Nat) (x : Binding) : (setBinding s p x).winReqs = s.winReqs := rfl
@[simp] theorem setBinding_fenceWaits (p : Nat) (x : Binding) : (setBinding s p x).fenceWaits = s.fenceWaits := rfl
@[simp] theorem setBinding_teardowns (p : Nat) (x : Binding) : (setBinding s p x).teardowns = s.teardowns := rfl
@[simp] theorem setBinding_closed (p : Nat) (x : Binding) : (setBinding s p x).closed = s.closed := rfl
@[simp] theorem setBinding_host (p : Nat) (x : Binding) : (setBinding s p x).host = s.host := rfl
@[simp] theorem setBinding_cfg (p : Nat) (x : Binding) : (setBinding s p x).cfg = s.cfg := rfl
@[simp] theorem setBinding_posts (p : Nat) (x : Binding) : (setBinding s p x).posts = s.posts := rfl
@[simp] theorem setBinding_faults (p : Nat) (x : Binding) : (setBinding s p x).faults = s.faults := rfl
@[simp] theorem setBinding_node (p : Nat) (x : Binding) : (setBinding s p x).node = s.node := rfl
@[simp] theorem setBinding_incarnation (p : Nat) (x : Binding) : (setBinding s p x).incarnation = s.incarnation := rfl
@[simp] theorem setBinding_sendSeq (p : Nat) (x : Binding) : (setBinding s p x).sendSeq = s.sendSeq := rfl
@[simp] theorem setBinding_rtpDown (p : Nat) (x : Binding) : (setBinding s p x).rtpDown = s.rtpDown := rfl
@[simp] theorem setBinding_log (p : Nat) (x : Binding) : (setBinding s p x).log = s.log := rfl
@[simp] theorem setBinding_cnt (p : Nat) (x : Binding) : (setBinding s p x).cnt = s.cnt := rfl
@[simp] theorem setBinding_err (p : Nat) (x : Binding) : (setBinding s p x).err = s.err := rfl
@[simp] theorem setBinding_links (p : Nat) (x : Binding) : (setBinding s p x).links = s.links := rfl
@[simp] theorem setBinding_groups (p : Nat) (x : Binding) : (setBinding s p x).groups = s.groups := rfl
@[simp] theorem setBinding_fab (p : Nat) (x : Binding) : (setBinding s p x).fab = s.fab := rfl
@[simp] theorem setBinding_sched (p : Nat) (x : Binding) : (setBinding s p x).sched = s.sched := rfl
@[simp] theorem setBinding_gov (p : Nat) (x : Binding) : (setBinding s p x).gov = s.gov := rfl
@[simp] theorem setBinding_trust (p : Nat) (x : Binding) : (setBinding s p x).trust = s.trust := rfl
@[simp] theorem setBinding_life (p : Nat) (x : Binding) : (setBinding s p x).life = s.life := rfl
@[simp] theorem setBinding_regs (p : Nat) (x : Binding) : (setBinding s p x).regs = s.regs := rfl
@[simp] theorem setBinding_irqs (p : Nat) (x : Binding) : (setBinding s p x).irqs = s.irqs := rfl
@[simp] theorem setBinding_procs (p : Nat) (x : Binding) : (setBinding s p x).procs = s.procs := rfl
@[simp] theorem setBinding_procCore (p : Nat) (x : Binding) : (setBinding s p x).procCore = s.procCore := rfl
@[simp] theorem setBinding_time (p : Nat) (x : Binding) : (setBinding s p x).time = s.time := rfl
@[simp] theorem setBinding_refNs (p : Nat) (x : Binding) : (setBinding s p x).refNs = s.refNs := rfl
@[simp] theorem setBinding_refLost (p : Nat) (x : Binding) : (setBinding s p x).refLost = s.refLost := rfl
@[simp] theorem setBinding_serial (p : Nat) (x : Binding) : (setBinding s p x).serial = s.serial := rfl
@[simp] theorem setBinding_free (p : Nat) (x : Binding) : (setBinding s p x).free = s.free := rfl
@[simp] theorem setBinding_lastRead (p : Nat) (x : Binding) : (setBinding s p x).lastRead = s.lastRead := rfl
@[simp] theorem setBinding_out (p : Nat) (x : Binding) : (setBinding s p x).out = s.out := rfl
@[simp] theorem setBinding_pending (p : Nat) (x : Binding) : (setBinding s p x).pending = s.pending := rfl

/-! ### `setCtx` -/

@[simp] theorem setCtx_fp (x : Context) : (setCtx s x).fp = s.fp := rfl
@[simp] theorem setCtx_meters (x : Context) : (setCtx s x).meters = s.meters := rfl
@[simp] theorem setCtx_cores (x : Context) : (setCtx s x).cores = s.cores := rfl
@[simp] theorem setCtx_mcores (x : Context) : (setCtx s x).mcores = s.mcores := rfl
@[simp] theorem setCtx_vcores (x : Context) : (setCtx s x).vcores = s.vcores := rfl
@[simp] theorem setCtx_scores (x : Context) : (setCtx s x).scores = s.scores := rfl
@[simp] theorem setCtx_sync (x : Context) : (setCtx s x).sync = s.sync := rfl
@[simp] theorem setCtx_signals (x : Context) : (setCtx s x).signals = s.signals := rfl
@[simp] theorem setCtx_mem (x : Context) : (setCtx s x).mem = s.mem := rfl
@[simp] theorem setCtx_slices (x : Context) : (setCtx s x).slices = s.slices := rfl
@[simp] theorem setCtx_routers (x : Context) : (setCtx s x).routers = s.routers := rfl
@[simp] theorem setCtx_meshWait (x : Context) : (setCtx s x).meshWait = s.meshWait := rfl
@[simp] theorem setCtx_kick (x : Context) : (setCtx s x).kick = s.kick := rfl
@[simp] theorem setCtx_dirCache (x : Context) : (setCtx s x).dirCache = s.dirCache := rfl
@[simp] theorem setCtx_bindings (x : Context) : (setCtx s x).bindings = s.bindings := rfl
@[simp] theorem setCtx_forwards (x : Context) : (setCtx s x).forwards = s.forwards := rfl
@[simp] theorem setCtx_moves (x : Context) : (setCtx s x).moves = s.moves := rfl
@[simp] theorem setCtx_moveIns (x : Context) : (setCtx s x).moveIns = s.moveIns := rfl
@[simp] theorem setCtx_drops (x : Context) : (setCtx s x).drops = s.drops := rfl
@[simp] theorem setCtx_gloves (x : Context) : (setCtx s x).gloves = s.gloves := rfl
@[simp] theorem setCtx_queues (x : Context) : (setCtx s x).queues = s.queues := rfl
@[simp] theorem setCtx_objs (x : Context) : (setCtx s x).objs = s.objs := rfl
@[simp] theorem setCtx_windows (x : Context) : (setCtx s x).windows = s.windows := rfl
@[simp] theorem setCtx_peers (x : Context) : (setCtx s x).peers = s.peers := rfl
@[simp] theorem setCtx_apertures (x : Context) : (setCtx s x).apertures = s.apertures := rfl
@[simp] theorem setCtx_hdm (x : Context) : (setCtx s x).hdm = s.hdm := rfl
@[simp] theorem setCtx_guards (x : Context) : (setCtx s x).guards = s.guards := rfl
@[simp] theorem setCtx_atc (x : Context) : (setCtx s x).atc = s.atc := rfl
@[simp] theorem setCtx_walks (x : Context) : (setCtx s x).walks = s.walks := rfl
@[simp] theorem setCtx_xlates (x : Context) : (setCtx s x).xlates = s.xlates := rfl
@[simp] theorem setCtx_pageReqs (x : Context) : (setCtx s x).pageReqs = s.pageReqs := rfl
@[simp] theorem setCtx_legacyGen (x : Context) : (setCtx s x).legacyGen = s.legacyGen := rfl
@[simp] theorem setCtx_hostReads (x : Context) : (setCtx s x).hostReads = s.hostReads := rfl
@[simp] theorem setCtx_invals (x : Context) : (setCtx s x).invals = s.invals := rfl
@[simp] theorem setCtx_cohHeld (x : Context) : (setCtx s x).cohHeld = s.cohHeld := rfl
@[simp] theorem setCtx_snoops (x : Context) : (setCtx s x).snoops = s.snoops := rfl
@[simp] theorem setCtx_winReqs (x : Context) : (setCtx s x).winReqs = s.winReqs := rfl
@[simp] theorem setCtx_fenceWaits (x : Context) : (setCtx s x).fenceWaits = s.fenceWaits := rfl
@[simp] theorem setCtx_teardowns (x : Context) : (setCtx s x).teardowns = s.teardowns := rfl
@[simp] theorem setCtx_closed (x : Context) : (setCtx s x).closed = s.closed := rfl
@[simp] theorem setCtx_host (x : Context) : (setCtx s x).host = s.host := rfl
@[simp] theorem setCtx_cfg (x : Context) : (setCtx s x).cfg = s.cfg := rfl
@[simp] theorem setCtx_posts (x : Context) : (setCtx s x).posts = s.posts := rfl
@[simp] theorem setCtx_faults (x : Context) : (setCtx s x).faults = s.faults := rfl
@[simp] theorem setCtx_node (x : Context) : (setCtx s x).node = s.node := rfl
@[simp] theorem setCtx_incarnation (x : Context) : (setCtx s x).incarnation = s.incarnation := rfl
@[simp] theorem setCtx_sendSeq (x : Context) : (setCtx s x).sendSeq = s.sendSeq := rfl
@[simp] theorem setCtx_rtpDown (x : Context) : (setCtx s x).rtpDown = s.rtpDown := rfl
@[simp] theorem setCtx_log (x : Context) : (setCtx s x).log = s.log := rfl
@[simp] theorem setCtx_cnt (x : Context) : (setCtx s x).cnt = s.cnt := rfl
@[simp] theorem setCtx_err (x : Context) : (setCtx s x).err = s.err := rfl
@[simp] theorem setCtx_links (x : Context) : (setCtx s x).links = s.links := rfl
@[simp] theorem setCtx_groups (x : Context) : (setCtx s x).groups = s.groups := rfl
@[simp] theorem setCtx_fab (x : Context) : (setCtx s x).fab = s.fab := rfl
@[simp] theorem setCtx_sched (x : Context) : (setCtx s x).sched = s.sched := rfl
@[simp] theorem setCtx_gov (x : Context) : (setCtx s x).gov = s.gov := rfl
@[simp] theorem setCtx_trust (x : Context) : (setCtx s x).trust = s.trust := rfl
@[simp] theorem setCtx_life (x : Context) : (setCtx s x).life = s.life := rfl
@[simp] theorem setCtx_regs (x : Context) : (setCtx s x).regs = s.regs := rfl
@[simp] theorem setCtx_irqs (x : Context) : (setCtx s x).irqs = s.irqs := rfl
@[simp] theorem setCtx_procs (x : Context) : (setCtx s x).procs = s.procs := rfl
@[simp] theorem setCtx_procCore (x : Context) : (setCtx s x).procCore = s.procCore := rfl
@[simp] theorem setCtx_time (x : Context) : (setCtx s x).time = s.time := rfl
@[simp] theorem setCtx_refNs (x : Context) : (setCtx s x).refNs = s.refNs := rfl
@[simp] theorem setCtx_refLost (x : Context) : (setCtx s x).refLost = s.refLost := rfl
@[simp] theorem setCtx_serial (x : Context) : (setCtx s x).serial = s.serial := rfl
@[simp] theorem setCtx_free (x : Context) : (setCtx s x).free = s.free := rfl
@[simp] theorem setCtx_lastRead (x : Context) : (setCtx s x).lastRead = s.lastRead := rfl
@[simp] theorem setCtx_out (x : Context) : (setCtx s x).out = s.out := rfl
@[simp] theorem setCtx_pending (x : Context) : (setCtx s x).pending = s.pending := rfl

/-! ### `setQueue` -/

@[simp] theorem setQueue_fp (x : Queue) : (setQueue s x).fp = s.fp := rfl
@[simp] theorem setQueue_meters (x : Queue) : (setQueue s x).meters = s.meters := rfl
@[simp] theorem setQueue_cores (x : Queue) : (setQueue s x).cores = s.cores := rfl
@[simp] theorem setQueue_mcores (x : Queue) : (setQueue s x).mcores = s.mcores := rfl
@[simp] theorem setQueue_vcores (x : Queue) : (setQueue s x).vcores = s.vcores := rfl
@[simp] theorem setQueue_scores (x : Queue) : (setQueue s x).scores = s.scores := rfl
@[simp] theorem setQueue_sync (x : Queue) : (setQueue s x).sync = s.sync := rfl
@[simp] theorem setQueue_signals (x : Queue) : (setQueue s x).signals = s.signals := rfl
@[simp] theorem setQueue_mem (x : Queue) : (setQueue s x).mem = s.mem := rfl
@[simp] theorem setQueue_slices (x : Queue) : (setQueue s x).slices = s.slices := rfl
@[simp] theorem setQueue_routers (x : Queue) : (setQueue s x).routers = s.routers := rfl
@[simp] theorem setQueue_meshWait (x : Queue) : (setQueue s x).meshWait = s.meshWait := rfl
@[simp] theorem setQueue_kick (x : Queue) : (setQueue s x).kick = s.kick := rfl
@[simp] theorem setQueue_dirCache (x : Queue) : (setQueue s x).dirCache = s.dirCache := rfl
@[simp] theorem setQueue_bindings (x : Queue) : (setQueue s x).bindings = s.bindings := rfl
@[simp] theorem setQueue_forwards (x : Queue) : (setQueue s x).forwards = s.forwards := rfl
@[simp] theorem setQueue_moves (x : Queue) : (setQueue s x).moves = s.moves := rfl
@[simp] theorem setQueue_moveIns (x : Queue) : (setQueue s x).moveIns = s.moveIns := rfl
@[simp] theorem setQueue_drops (x : Queue) : (setQueue s x).drops = s.drops := rfl
@[simp] theorem setQueue_gloves (x : Queue) : (setQueue s x).gloves = s.gloves := rfl
@[simp] theorem setQueue_ctxs (x : Queue) : (setQueue s x).ctxs = s.ctxs := rfl
@[simp] theorem setQueue_objs (x : Queue) : (setQueue s x).objs = s.objs := rfl
@[simp] theorem setQueue_windows (x : Queue) : (setQueue s x).windows = s.windows := rfl
@[simp] theorem setQueue_peers (x : Queue) : (setQueue s x).peers = s.peers := rfl
@[simp] theorem setQueue_apertures (x : Queue) : (setQueue s x).apertures = s.apertures := rfl
@[simp] theorem setQueue_hdm (x : Queue) : (setQueue s x).hdm = s.hdm := rfl
@[simp] theorem setQueue_guards (x : Queue) : (setQueue s x).guards = s.guards := rfl
@[simp] theorem setQueue_atc (x : Queue) : (setQueue s x).atc = s.atc := rfl
@[simp] theorem setQueue_walks (x : Queue) : (setQueue s x).walks = s.walks := rfl
@[simp] theorem setQueue_xlates (x : Queue) : (setQueue s x).xlates = s.xlates := rfl
@[simp] theorem setQueue_pageReqs (x : Queue) : (setQueue s x).pageReqs = s.pageReqs := rfl
@[simp] theorem setQueue_legacyGen (x : Queue) : (setQueue s x).legacyGen = s.legacyGen := rfl
@[simp] theorem setQueue_hostReads (x : Queue) : (setQueue s x).hostReads = s.hostReads := rfl
@[simp] theorem setQueue_invals (x : Queue) : (setQueue s x).invals = s.invals := rfl
@[simp] theorem setQueue_cohHeld (x : Queue) : (setQueue s x).cohHeld = s.cohHeld := rfl
@[simp] theorem setQueue_snoops (x : Queue) : (setQueue s x).snoops = s.snoops := rfl
@[simp] theorem setQueue_winReqs (x : Queue) : (setQueue s x).winReqs = s.winReqs := rfl
@[simp] theorem setQueue_fenceWaits (x : Queue) : (setQueue s x).fenceWaits = s.fenceWaits := rfl
@[simp] theorem setQueue_teardowns (x : Queue) : (setQueue s x).teardowns = s.teardowns := rfl
@[simp] theorem setQueue_closed (x : Queue) : (setQueue s x).closed = s.closed := rfl
@[simp] theorem setQueue_host (x : Queue) : (setQueue s x).host = s.host := rfl
@[simp] theorem setQueue_cfg (x : Queue) : (setQueue s x).cfg = s.cfg := rfl
@[simp] theorem setQueue_posts (x : Queue) : (setQueue s x).posts = s.posts := rfl
@[simp] theorem setQueue_faults (x : Queue) : (setQueue s x).faults = s.faults := rfl
@[simp] theorem setQueue_node (x : Queue) : (setQueue s x).node = s.node := rfl
@[simp] theorem setQueue_incarnation (x : Queue) : (setQueue s x).incarnation = s.incarnation := rfl
@[simp] theorem setQueue_sendSeq (x : Queue) : (setQueue s x).sendSeq = s.sendSeq := rfl
@[simp] theorem setQueue_rtpDown (x : Queue) : (setQueue s x).rtpDown = s.rtpDown := rfl
@[simp] theorem setQueue_log (x : Queue) : (setQueue s x).log = s.log := rfl
@[simp] theorem setQueue_cnt (x : Queue) : (setQueue s x).cnt = s.cnt := rfl
@[simp] theorem setQueue_err (x : Queue) : (setQueue s x).err = s.err := rfl
@[simp] theorem setQueue_links (x : Queue) : (setQueue s x).links = s.links := rfl
@[simp] theorem setQueue_groups (x : Queue) : (setQueue s x).groups = s.groups := rfl
@[simp] theorem setQueue_fab (x : Queue) : (setQueue s x).fab = s.fab := rfl
@[simp] theorem setQueue_sched (x : Queue) : (setQueue s x).sched = s.sched := rfl
@[simp] theorem setQueue_gov (x : Queue) : (setQueue s x).gov = s.gov := rfl
@[simp] theorem setQueue_trust (x : Queue) : (setQueue s x).trust = s.trust := rfl
@[simp] theorem setQueue_life (x : Queue) : (setQueue s x).life = s.life := rfl
@[simp] theorem setQueue_regs (x : Queue) : (setQueue s x).regs = s.regs := rfl
@[simp] theorem setQueue_irqs (x : Queue) : (setQueue s x).irqs = s.irqs := rfl
@[simp] theorem setQueue_procs (x : Queue) : (setQueue s x).procs = s.procs := rfl
@[simp] theorem setQueue_procCore (x : Queue) : (setQueue s x).procCore = s.procCore := rfl
@[simp] theorem setQueue_time (x : Queue) : (setQueue s x).time = s.time := rfl
@[simp] theorem setQueue_refNs (x : Queue) : (setQueue s x).refNs = s.refNs := rfl
@[simp] theorem setQueue_refLost (x : Queue) : (setQueue s x).refLost = s.refLost := rfl
@[simp] theorem setQueue_serial (x : Queue) : (setQueue s x).serial = s.serial := rfl
@[simp] theorem setQueue_free (x : Queue) : (setQueue s x).free = s.free := rfl
@[simp] theorem setQueue_lastRead (x : Queue) : (setQueue s x).lastRead = s.lastRead := rfl
@[simp] theorem setQueue_out (x : Queue) : (setQueue s x).out = s.out := rfl
@[simp] theorem setQueue_pending (x : Queue) : (setQueue s x).pending = s.pending := rfl

/-! ### `setIrq` -/

@[simp] theorem setIrq_fp (p : Nat) (x : IrqSource) : (setIrq s p x).fp = s.fp := rfl
@[simp] theorem setIrq_meters (p : Nat) (x : IrqSource) : (setIrq s p x).meters = s.meters := rfl
@[simp] theorem setIrq_cores (p : Nat) (x : IrqSource) : (setIrq s p x).cores = s.cores := rfl
@[simp] theorem setIrq_mcores (p : Nat) (x : IrqSource) : (setIrq s p x).mcores = s.mcores := rfl
@[simp] theorem setIrq_vcores (p : Nat) (x : IrqSource) : (setIrq s p x).vcores = s.vcores := rfl
@[simp] theorem setIrq_scores (p : Nat) (x : IrqSource) : (setIrq s p x).scores = s.scores := rfl
@[simp] theorem setIrq_sync (p : Nat) (x : IrqSource) : (setIrq s p x).sync = s.sync := rfl
@[simp] theorem setIrq_signals (p : Nat) (x : IrqSource) : (setIrq s p x).signals = s.signals := rfl
@[simp] theorem setIrq_mem (p : Nat) (x : IrqSource) : (setIrq s p x).mem = s.mem := rfl
@[simp] theorem setIrq_slices (p : Nat) (x : IrqSource) : (setIrq s p x).slices = s.slices := rfl
@[simp] theorem setIrq_routers (p : Nat) (x : IrqSource) : (setIrq s p x).routers = s.routers := rfl
@[simp] theorem setIrq_meshWait (p : Nat) (x : IrqSource) : (setIrq s p x).meshWait = s.meshWait := rfl
@[simp] theorem setIrq_kick (p : Nat) (x : IrqSource) : (setIrq s p x).kick = s.kick := rfl
@[simp] theorem setIrq_dirCache (p : Nat) (x : IrqSource) : (setIrq s p x).dirCache = s.dirCache := rfl
@[simp] theorem setIrq_bindings (p : Nat) (x : IrqSource) : (setIrq s p x).bindings = s.bindings := rfl
@[simp] theorem setIrq_forwards (p : Nat) (x : IrqSource) : (setIrq s p x).forwards = s.forwards := rfl
@[simp] theorem setIrq_moves (p : Nat) (x : IrqSource) : (setIrq s p x).moves = s.moves := rfl
@[simp] theorem setIrq_moveIns (p : Nat) (x : IrqSource) : (setIrq s p x).moveIns = s.moveIns := rfl
@[simp] theorem setIrq_drops (p : Nat) (x : IrqSource) : (setIrq s p x).drops = s.drops := rfl
@[simp] theorem setIrq_gloves (p : Nat) (x : IrqSource) : (setIrq s p x).gloves = s.gloves := rfl
@[simp] theorem setIrq_ctxs (p : Nat) (x : IrqSource) : (setIrq s p x).ctxs = s.ctxs := rfl
@[simp] theorem setIrq_queues (p : Nat) (x : IrqSource) : (setIrq s p x).queues = s.queues := rfl
@[simp] theorem setIrq_objs (p : Nat) (x : IrqSource) : (setIrq s p x).objs = s.objs := rfl
@[simp] theorem setIrq_windows (p : Nat) (x : IrqSource) : (setIrq s p x).windows = s.windows := rfl
@[simp] theorem setIrq_peers (p : Nat) (x : IrqSource) : (setIrq s p x).peers = s.peers := rfl
@[simp] theorem setIrq_apertures (p : Nat) (x : IrqSource) : (setIrq s p x).apertures = s.apertures := rfl
@[simp] theorem setIrq_hdm (p : Nat) (x : IrqSource) : (setIrq s p x).hdm = s.hdm := rfl
@[simp] theorem setIrq_guards (p : Nat) (x : IrqSource) : (setIrq s p x).guards = s.guards := rfl
@[simp] theorem setIrq_atc (p : Nat) (x : IrqSource) : (setIrq s p x).atc = s.atc := rfl
@[simp] theorem setIrq_walks (p : Nat) (x : IrqSource) : (setIrq s p x).walks = s.walks := rfl
@[simp] theorem setIrq_xlates (p : Nat) (x : IrqSource) : (setIrq s p x).xlates = s.xlates := rfl
@[simp] theorem setIrq_pageReqs (p : Nat) (x : IrqSource) : (setIrq s p x).pageReqs = s.pageReqs := rfl
@[simp] theorem setIrq_legacyGen (p : Nat) (x : IrqSource) : (setIrq s p x).legacyGen = s.legacyGen := rfl
@[simp] theorem setIrq_hostReads (p : Nat) (x : IrqSource) : (setIrq s p x).hostReads = s.hostReads := rfl
@[simp] theorem setIrq_invals (p : Nat) (x : IrqSource) : (setIrq s p x).invals = s.invals := rfl
@[simp] theorem setIrq_cohHeld (p : Nat) (x : IrqSource) : (setIrq s p x).cohHeld = s.cohHeld := rfl
@[simp] theorem setIrq_snoops (p : Nat) (x : IrqSource) : (setIrq s p x).snoops = s.snoops := rfl
@[simp] theorem setIrq_winReqs (p : Nat) (x : IrqSource) : (setIrq s p x).winReqs = s.winReqs := rfl
@[simp] theorem setIrq_fenceWaits (p : Nat) (x : IrqSource) : (setIrq s p x).fenceWaits = s.fenceWaits := rfl
@[simp] theorem setIrq_teardowns (p : Nat) (x : IrqSource) : (setIrq s p x).teardowns = s.teardowns := rfl
@[simp] theorem setIrq_closed (p : Nat) (x : IrqSource) : (setIrq s p x).closed = s.closed := rfl
@[simp] theorem setIrq_host (p : Nat) (x : IrqSource) : (setIrq s p x).host = s.host := rfl
@[simp] theorem setIrq_cfg (p : Nat) (x : IrqSource) : (setIrq s p x).cfg = s.cfg := rfl
@[simp] theorem setIrq_posts (p : Nat) (x : IrqSource) : (setIrq s p x).posts = s.posts := rfl
@[simp] theorem setIrq_faults (p : Nat) (x : IrqSource) : (setIrq s p x).faults = s.faults := rfl
@[simp] theorem setIrq_node (p : Nat) (x : IrqSource) : (setIrq s p x).node = s.node := rfl
@[simp] theorem setIrq_incarnation (p : Nat) (x : IrqSource) : (setIrq s p x).incarnation = s.incarnation := rfl
@[simp] theorem setIrq_sendSeq (p : Nat) (x : IrqSource) : (setIrq s p x).sendSeq = s.sendSeq := rfl
@[simp] theorem setIrq_rtpDown (p : Nat) (x : IrqSource) : (setIrq s p x).rtpDown = s.rtpDown := rfl
@[simp] theorem setIrq_log (p : Nat) (x : IrqSource) : (setIrq s p x).log = s.log := rfl
@[simp] theorem setIrq_cnt (p : Nat) (x : IrqSource) : (setIrq s p x).cnt = s.cnt := rfl
@[simp] theorem setIrq_err (p : Nat) (x : IrqSource) : (setIrq s p x).err = s.err := rfl
@[simp] theorem setIrq_links (p : Nat) (x : IrqSource) : (setIrq s p x).links = s.links := rfl
@[simp] theorem setIrq_groups (p : Nat) (x : IrqSource) : (setIrq s p x).groups = s.groups := rfl
@[simp] theorem setIrq_fab (p : Nat) (x : IrqSource) : (setIrq s p x).fab = s.fab := rfl
@[simp] theorem setIrq_sched (p : Nat) (x : IrqSource) : (setIrq s p x).sched = s.sched := rfl
@[simp] theorem setIrq_gov (p : Nat) (x : IrqSource) : (setIrq s p x).gov = s.gov := rfl
@[simp] theorem setIrq_trust (p : Nat) (x : IrqSource) : (setIrq s p x).trust = s.trust := rfl
@[simp] theorem setIrq_life (p : Nat) (x : IrqSource) : (setIrq s p x).life = s.life := rfl
@[simp] theorem setIrq_regs (p : Nat) (x : IrqSource) : (setIrq s p x).regs = s.regs := rfl
@[simp] theorem setIrq_procs (p : Nat) (x : IrqSource) : (setIrq s p x).procs = s.procs := rfl
@[simp] theorem setIrq_procCore (p : Nat) (x : IrqSource) : (setIrq s p x).procCore = s.procCore := rfl
@[simp] theorem setIrq_time (p : Nat) (x : IrqSource) : (setIrq s p x).time = s.time := rfl
@[simp] theorem setIrq_refNs (p : Nat) (x : IrqSource) : (setIrq s p x).refNs = s.refNs := rfl
@[simp] theorem setIrq_refLost (p : Nat) (x : IrqSource) : (setIrq s p x).refLost = s.refLost := rfl
@[simp] theorem setIrq_serial (p : Nat) (x : IrqSource) : (setIrq s p x).serial = s.serial := rfl
@[simp] theorem setIrq_free (p : Nat) (x : IrqSource) : (setIrq s p x).free = s.free := rfl
@[simp] theorem setIrq_lastRead (p : Nat) (x : IrqSource) : (setIrq s p x).lastRead = s.lastRead := rfl
@[simp] theorem setIrq_out (p : Nat) (x : IrqSource) : (setIrq s p x).out = s.out := rfl
@[simp] theorem setIrq_pending (p : Nat) (x : IrqSource) : (setIrq s p x).pending = s.pending := rfl

/-! ### `setMeter` -/

@[simp] theorem setMeter_fp (p : Nat) (x : PaceMeter) : (setMeter s p x).fp = s.fp := rfl
@[simp] theorem setMeter_cores (p : Nat) (x : PaceMeter) : (setMeter s p x).cores = s.cores := rfl
@[simp] theorem setMeter_mcores (p : Nat) (x : PaceMeter) : (setMeter s p x).mcores = s.mcores := rfl
@[simp] theorem setMeter_vcores (p : Nat) (x : PaceMeter) : (setMeter s p x).vcores = s.vcores := rfl
@[simp] theorem setMeter_scores (p : Nat) (x : PaceMeter) : (setMeter s p x).scores = s.scores := rfl
@[simp] theorem setMeter_sync (p : Nat) (x : PaceMeter) : (setMeter s p x).sync = s.sync := rfl
@[simp] theorem setMeter_signals (p : Nat) (x : PaceMeter) : (setMeter s p x).signals = s.signals := rfl
@[simp] theorem setMeter_mem (p : Nat) (x : PaceMeter) : (setMeter s p x).mem = s.mem := rfl
@[simp] theorem setMeter_slices (p : Nat) (x : PaceMeter) : (setMeter s p x).slices = s.slices := rfl
@[simp] theorem setMeter_routers (p : Nat) (x : PaceMeter) : (setMeter s p x).routers = s.routers := rfl
@[simp] theorem setMeter_meshWait (p : Nat) (x : PaceMeter) : (setMeter s p x).meshWait = s.meshWait := rfl
@[simp] theorem setMeter_kick (p : Nat) (x : PaceMeter) : (setMeter s p x).kick = s.kick := rfl
@[simp] theorem setMeter_dirCache (p : Nat) (x : PaceMeter) : (setMeter s p x).dirCache = s.dirCache := rfl
@[simp] theorem setMeter_bindings (p : Nat) (x : PaceMeter) : (setMeter s p x).bindings = s.bindings := rfl
@[simp] theorem setMeter_forwards (p : Nat) (x : PaceMeter) : (setMeter s p x).forwards = s.forwards := rfl
@[simp] theorem setMeter_moves (p : Nat) (x : PaceMeter) : (setMeter s p x).moves = s.moves := rfl
@[simp] theorem setMeter_moveIns (p : Nat) (x : PaceMeter) : (setMeter s p x).moveIns = s.moveIns := rfl
@[simp] theorem setMeter_drops (p : Nat) (x : PaceMeter) : (setMeter s p x).drops = s.drops := rfl
@[simp] theorem setMeter_gloves (p : Nat) (x : PaceMeter) : (setMeter s p x).gloves = s.gloves := rfl
@[simp] theorem setMeter_ctxs (p : Nat) (x : PaceMeter) : (setMeter s p x).ctxs = s.ctxs := rfl
@[simp] theorem setMeter_queues (p : Nat) (x : PaceMeter) : (setMeter s p x).queues = s.queues := rfl
@[simp] theorem setMeter_objs (p : Nat) (x : PaceMeter) : (setMeter s p x).objs = s.objs := rfl
@[simp] theorem setMeter_windows (p : Nat) (x : PaceMeter) : (setMeter s p x).windows = s.windows := rfl
@[simp] theorem setMeter_peers (p : Nat) (x : PaceMeter) : (setMeter s p x).peers = s.peers := rfl
@[simp] theorem setMeter_apertures (p : Nat) (x : PaceMeter) : (setMeter s p x).apertures = s.apertures := rfl
@[simp] theorem setMeter_hdm (p : Nat) (x : PaceMeter) : (setMeter s p x).hdm = s.hdm := rfl
@[simp] theorem setMeter_guards (p : Nat) (x : PaceMeter) : (setMeter s p x).guards = s.guards := rfl
@[simp] theorem setMeter_atc (p : Nat) (x : PaceMeter) : (setMeter s p x).atc = s.atc := rfl
@[simp] theorem setMeter_walks (p : Nat) (x : PaceMeter) : (setMeter s p x).walks = s.walks := rfl
@[simp] theorem setMeter_xlates (p : Nat) (x : PaceMeter) : (setMeter s p x).xlates = s.xlates := rfl
@[simp] theorem setMeter_pageReqs (p : Nat) (x : PaceMeter) : (setMeter s p x).pageReqs = s.pageReqs := rfl
@[simp] theorem setMeter_legacyGen (p : Nat) (x : PaceMeter) : (setMeter s p x).legacyGen = s.legacyGen := rfl
@[simp] theorem setMeter_hostReads (p : Nat) (x : PaceMeter) : (setMeter s p x).hostReads = s.hostReads := rfl
@[simp] theorem setMeter_invals (p : Nat) (x : PaceMeter) : (setMeter s p x).invals = s.invals := rfl
@[simp] theorem setMeter_cohHeld (p : Nat) (x : PaceMeter) : (setMeter s p x).cohHeld = s.cohHeld := rfl
@[simp] theorem setMeter_snoops (p : Nat) (x : PaceMeter) : (setMeter s p x).snoops = s.snoops := rfl
@[simp] theorem setMeter_winReqs (p : Nat) (x : PaceMeter) : (setMeter s p x).winReqs = s.winReqs := rfl
@[simp] theorem setMeter_fenceWaits (p : Nat) (x : PaceMeter) : (setMeter s p x).fenceWaits = s.fenceWaits := rfl
@[simp] theorem setMeter_teardowns (p : Nat) (x : PaceMeter) : (setMeter s p x).teardowns = s.teardowns := rfl
@[simp] theorem setMeter_closed (p : Nat) (x : PaceMeter) : (setMeter s p x).closed = s.closed := rfl
@[simp] theorem setMeter_host (p : Nat) (x : PaceMeter) : (setMeter s p x).host = s.host := rfl
@[simp] theorem setMeter_cfg (p : Nat) (x : PaceMeter) : (setMeter s p x).cfg = s.cfg := rfl
@[simp] theorem setMeter_posts (p : Nat) (x : PaceMeter) : (setMeter s p x).posts = s.posts := rfl
@[simp] theorem setMeter_faults (p : Nat) (x : PaceMeter) : (setMeter s p x).faults = s.faults := rfl
@[simp] theorem setMeter_node (p : Nat) (x : PaceMeter) : (setMeter s p x).node = s.node := rfl
@[simp] theorem setMeter_incarnation (p : Nat) (x : PaceMeter) : (setMeter s p x).incarnation = s.incarnation := rfl
@[simp] theorem setMeter_sendSeq (p : Nat) (x : PaceMeter) : (setMeter s p x).sendSeq = s.sendSeq := rfl
@[simp] theorem setMeter_rtpDown (p : Nat) (x : PaceMeter) : (setMeter s p x).rtpDown = s.rtpDown := rfl
@[simp] theorem setMeter_log (p : Nat) (x : PaceMeter) : (setMeter s p x).log = s.log := rfl
@[simp] theorem setMeter_cnt (p : Nat) (x : PaceMeter) : (setMeter s p x).cnt = s.cnt := rfl
@[simp] theorem setMeter_err (p : Nat) (x : PaceMeter) : (setMeter s p x).err = s.err := rfl
@[simp] theorem setMeter_links (p : Nat) (x : PaceMeter) : (setMeter s p x).links = s.links := rfl
@[simp] theorem setMeter_groups (p : Nat) (x : PaceMeter) : (setMeter s p x).groups = s.groups := rfl
@[simp] theorem setMeter_fab (p : Nat) (x : PaceMeter) : (setMeter s p x).fab = s.fab := rfl
@[simp] theorem setMeter_sched (p : Nat) (x : PaceMeter) : (setMeter s p x).sched = s.sched := rfl
@[simp] theorem setMeter_gov (p : Nat) (x : PaceMeter) : (setMeter s p x).gov = s.gov := rfl
@[simp] theorem setMeter_trust (p : Nat) (x : PaceMeter) : (setMeter s p x).trust = s.trust := rfl
@[simp] theorem setMeter_life (p : Nat) (x : PaceMeter) : (setMeter s p x).life = s.life := rfl
@[simp] theorem setMeter_regs (p : Nat) (x : PaceMeter) : (setMeter s p x).regs = s.regs := rfl
@[simp] theorem setMeter_irqs (p : Nat) (x : PaceMeter) : (setMeter s p x).irqs = s.irqs := rfl
@[simp] theorem setMeter_procs (p : Nat) (x : PaceMeter) : (setMeter s p x).procs = s.procs := rfl
@[simp] theorem setMeter_procCore (p : Nat) (x : PaceMeter) : (setMeter s p x).procCore = s.procCore := rfl
@[simp] theorem setMeter_time (p : Nat) (x : PaceMeter) : (setMeter s p x).time = s.time := rfl
@[simp] theorem setMeter_refNs (p : Nat) (x : PaceMeter) : (setMeter s p x).refNs = s.refNs := rfl
@[simp] theorem setMeter_refLost (p : Nat) (x : PaceMeter) : (setMeter s p x).refLost = s.refLost := rfl
@[simp] theorem setMeter_serial (p : Nat) (x : PaceMeter) : (setMeter s p x).serial = s.serial := rfl
@[simp] theorem setMeter_free (p : Nat) (x : PaceMeter) : (setMeter s p x).free = s.free := rfl
@[simp] theorem setMeter_lastRead (p : Nat) (x : PaceMeter) : (setMeter s p x).lastRead = s.lastRead := rfl
@[simp] theorem setMeter_out (p : Nat) (x : PaceMeter) : (setMeter s p x).out = s.out := rfl
@[simp] theorem setMeter_pending (p : Nat) (x : PaceMeter) : (setMeter s p x).pending = s.pending := rfl

/-! ### `setLink` -/

@[simp] theorem setLink_fp (p : Nat) (x : Link) : (setLink s p x).fp = s.fp := rfl
@[simp] theorem setLink_meters (p : Nat) (x : Link) : (setLink s p x).meters = s.meters := rfl
@[simp] theorem setLink_cores (p : Nat) (x : Link) : (setLink s p x).cores = s.cores := rfl
@[simp] theorem setLink_mcores (p : Nat) (x : Link) : (setLink s p x).mcores = s.mcores := rfl
@[simp] theorem setLink_vcores (p : Nat) (x : Link) : (setLink s p x).vcores = s.vcores := rfl
@[simp] theorem setLink_scores (p : Nat) (x : Link) : (setLink s p x).scores = s.scores := rfl
@[simp] theorem setLink_sync (p : Nat) (x : Link) : (setLink s p x).sync = s.sync := rfl
@[simp] theorem setLink_signals (p : Nat) (x : Link) : (setLink s p x).signals = s.signals := rfl
@[simp] theorem setLink_mem (p : Nat) (x : Link) : (setLink s p x).mem = s.mem := rfl
@[simp] theorem setLink_slices (p : Nat) (x : Link) : (setLink s p x).slices = s.slices := rfl
@[simp] theorem setLink_routers (p : Nat) (x : Link) : (setLink s p x).routers = s.routers := rfl
@[simp] theorem setLink_meshWait (p : Nat) (x : Link) : (setLink s p x).meshWait = s.meshWait := rfl
@[simp] theorem setLink_kick (p : Nat) (x : Link) : (setLink s p x).kick = s.kick := rfl
@[simp] theorem setLink_dirCache (p : Nat) (x : Link) : (setLink s p x).dirCache = s.dirCache := rfl
@[simp] theorem setLink_bindings (p : Nat) (x : Link) : (setLink s p x).bindings = s.bindings := rfl
@[simp] theorem setLink_forwards (p : Nat) (x : Link) : (setLink s p x).forwards = s.forwards := rfl
@[simp] theorem setLink_moves (p : Nat) (x : Link) : (setLink s p x).moves = s.moves := rfl
@[simp] theorem setLink_moveIns (p : Nat) (x : Link) : (setLink s p x).moveIns = s.moveIns := rfl
@[simp] theorem setLink_drops (p : Nat) (x : Link) : (setLink s p x).drops = s.drops := rfl
@[simp] theorem setLink_gloves (p : Nat) (x : Link) : (setLink s p x).gloves = s.gloves := rfl
@[simp] theorem setLink_ctxs (p : Nat) (x : Link) : (setLink s p x).ctxs = s.ctxs := rfl
@[simp] theorem setLink_queues (p : Nat) (x : Link) : (setLink s p x).queues = s.queues := rfl
@[simp] theorem setLink_objs (p : Nat) (x : Link) : (setLink s p x).objs = s.objs := rfl
@[simp] theorem setLink_windows (p : Nat) (x : Link) : (setLink s p x).windows = s.windows := rfl
@[simp] theorem setLink_peers (p : Nat) (x : Link) : (setLink s p x).peers = s.peers := rfl
@[simp] theorem setLink_apertures (p : Nat) (x : Link) : (setLink s p x).apertures = s.apertures := rfl
@[simp] theorem setLink_hdm (p : Nat) (x : Link) : (setLink s p x).hdm = s.hdm := rfl
@[simp] theorem setLink_guards (p : Nat) (x : Link) : (setLink s p x).guards = s.guards := rfl
@[simp] theorem setLink_atc (p : Nat) (x : Link) : (setLink s p x).atc = s.atc := rfl
@[simp] theorem setLink_walks (p : Nat) (x : Link) : (setLink s p x).walks = s.walks := rfl
@[simp] theorem setLink_xlates (p : Nat) (x : Link) : (setLink s p x).xlates = s.xlates := rfl
@[simp] theorem setLink_pageReqs (p : Nat) (x : Link) : (setLink s p x).pageReqs = s.pageReqs := rfl
@[simp] theorem setLink_legacyGen (p : Nat) (x : Link) : (setLink s p x).legacyGen = s.legacyGen := rfl
@[simp] theorem setLink_hostReads (p : Nat) (x : Link) : (setLink s p x).hostReads = s.hostReads := rfl
@[simp] theorem setLink_invals (p : Nat) (x : Link) : (setLink s p x).invals = s.invals := rfl
@[simp] theorem setLink_cohHeld (p : Nat) (x : Link) : (setLink s p x).cohHeld = s.cohHeld := rfl
@[simp] theorem setLink_snoops (p : Nat) (x : Link) : (setLink s p x).snoops = s.snoops := rfl
@[simp] theorem setLink_winReqs (p : Nat) (x : Link) : (setLink s p x).winReqs = s.winReqs := rfl
@[simp] theorem setLink_fenceWaits (p : Nat) (x : Link) : (setLink s p x).fenceWaits = s.fenceWaits := rfl
@[simp] theorem setLink_teardowns (p : Nat) (x : Link) : (setLink s p x).teardowns = s.teardowns := rfl
@[simp] theorem setLink_closed (p : Nat) (x : Link) : (setLink s p x).closed = s.closed := rfl
@[simp] theorem setLink_host (p : Nat) (x : Link) : (setLink s p x).host = s.host := rfl
@[simp] theorem setLink_cfg (p : Nat) (x : Link) : (setLink s p x).cfg = s.cfg := rfl
@[simp] theorem setLink_posts (p : Nat) (x : Link) : (setLink s p x).posts = s.posts := rfl
@[simp] theorem setLink_faults (p : Nat) (x : Link) : (setLink s p x).faults = s.faults := rfl
@[simp] theorem setLink_node (p : Nat) (x : Link) : (setLink s p x).node = s.node := rfl
@[simp] theorem setLink_incarnation (p : Nat) (x : Link) : (setLink s p x).incarnation = s.incarnation := rfl
@[simp] theorem setLink_sendSeq (p : Nat) (x : Link) : (setLink s p x).sendSeq = s.sendSeq := rfl
@[simp] theorem setLink_rtpDown (p : Nat) (x : Link) : (setLink s p x).rtpDown = s.rtpDown := rfl
@[simp] theorem setLink_log (p : Nat) (x : Link) : (setLink s p x).log = s.log := rfl
@[simp] theorem setLink_cnt (p : Nat) (x : Link) : (setLink s p x).cnt = s.cnt := rfl
@[simp] theorem setLink_err (p : Nat) (x : Link) : (setLink s p x).err = s.err := rfl
@[simp] theorem setLink_groups (p : Nat) (x : Link) : (setLink s p x).groups = s.groups := rfl
@[simp] theorem setLink_fab (p : Nat) (x : Link) : (setLink s p x).fab = s.fab := rfl
@[simp] theorem setLink_sched (p : Nat) (x : Link) : (setLink s p x).sched = s.sched := rfl
@[simp] theorem setLink_gov (p : Nat) (x : Link) : (setLink s p x).gov = s.gov := rfl
@[simp] theorem setLink_trust (p : Nat) (x : Link) : (setLink s p x).trust = s.trust := rfl
@[simp] theorem setLink_life (p : Nat) (x : Link) : (setLink s p x).life = s.life := rfl
@[simp] theorem setLink_regs (p : Nat) (x : Link) : (setLink s p x).regs = s.regs := rfl
@[simp] theorem setLink_irqs (p : Nat) (x : Link) : (setLink s p x).irqs = s.irqs := rfl
@[simp] theorem setLink_procs (p : Nat) (x : Link) : (setLink s p x).procs = s.procs := rfl
@[simp] theorem setLink_procCore (p : Nat) (x : Link) : (setLink s p x).procCore = s.procCore := rfl
@[simp] theorem setLink_time (p : Nat) (x : Link) : (setLink s p x).time = s.time := rfl
@[simp] theorem setLink_refNs (p : Nat) (x : Link) : (setLink s p x).refNs = s.refNs := rfl
@[simp] theorem setLink_refLost (p : Nat) (x : Link) : (setLink s p x).refLost = s.refLost := rfl
@[simp] theorem setLink_serial (p : Nat) (x : Link) : (setLink s p x).serial = s.serial := rfl
@[simp] theorem setLink_free (p : Nat) (x : Link) : (setLink s p x).free = s.free := rfl
@[simp] theorem setLink_lastRead (p : Nat) (x : Link) : (setLink s p x).lastRead = s.lastRead := rfl
@[simp] theorem setLink_out (p : Nat) (x : Link) : (setLink s p x).out = s.out := rfl
@[simp] theorem setLink_pending (p : Nat) (x : Link) : (setLink s p x).pending = s.pending := rfl

/-! ### `emit` -/

@[simp] theorem emit_fp (o : Out) : (emit s o).fp = s.fp := rfl
@[simp] theorem emit_meters (o : Out) : (emit s o).meters = s.meters := rfl
@[simp] theorem emit_cores (o : Out) : (emit s o).cores = s.cores := rfl
@[simp] theorem emit_mcores (o : Out) : (emit s o).mcores = s.mcores := rfl
@[simp] theorem emit_vcores (o : Out) : (emit s o).vcores = s.vcores := rfl
@[simp] theorem emit_scores (o : Out) : (emit s o).scores = s.scores := rfl
@[simp] theorem emit_sync (o : Out) : (emit s o).sync = s.sync := rfl
@[simp] theorem emit_signals (o : Out) : (emit s o).signals = s.signals := rfl
@[simp] theorem emit_mem (o : Out) : (emit s o).mem = s.mem := rfl
@[simp] theorem emit_slices (o : Out) : (emit s o).slices = s.slices := rfl
@[simp] theorem emit_routers (o : Out) : (emit s o).routers = s.routers := rfl
@[simp] theorem emit_meshWait (o : Out) : (emit s o).meshWait = s.meshWait := rfl
@[simp] theorem emit_kick (o : Out) : (emit s o).kick = s.kick := rfl
@[simp] theorem emit_dirCache (o : Out) : (emit s o).dirCache = s.dirCache := rfl
@[simp] theorem emit_bindings (o : Out) : (emit s o).bindings = s.bindings := rfl
@[simp] theorem emit_forwards (o : Out) : (emit s o).forwards = s.forwards := rfl
@[simp] theorem emit_moves (o : Out) : (emit s o).moves = s.moves := rfl
@[simp] theorem emit_moveIns (o : Out) : (emit s o).moveIns = s.moveIns := rfl
@[simp] theorem emit_drops (o : Out) : (emit s o).drops = s.drops := rfl
@[simp] theorem emit_gloves (o : Out) : (emit s o).gloves = s.gloves := rfl
@[simp] theorem emit_ctxs (o : Out) : (emit s o).ctxs = s.ctxs := rfl
@[simp] theorem emit_queues (o : Out) : (emit s o).queues = s.queues := rfl
@[simp] theorem emit_objs (o : Out) : (emit s o).objs = s.objs := rfl
@[simp] theorem emit_windows (o : Out) : (emit s o).windows = s.windows := rfl
@[simp] theorem emit_peers (o : Out) : (emit s o).peers = s.peers := rfl
@[simp] theorem emit_apertures (o : Out) : (emit s o).apertures = s.apertures := rfl
@[simp] theorem emit_hdm (o : Out) : (emit s o).hdm = s.hdm := rfl
@[simp] theorem emit_guards (o : Out) : (emit s o).guards = s.guards := rfl
@[simp] theorem emit_atc (o : Out) : (emit s o).atc = s.atc := rfl
@[simp] theorem emit_walks (o : Out) : (emit s o).walks = s.walks := rfl
@[simp] theorem emit_xlates (o : Out) : (emit s o).xlates = s.xlates := rfl
@[simp] theorem emit_pageReqs (o : Out) : (emit s o).pageReqs = s.pageReqs := rfl
@[simp] theorem emit_legacyGen (o : Out) : (emit s o).legacyGen = s.legacyGen := rfl
@[simp] theorem emit_hostReads (o : Out) : (emit s o).hostReads = s.hostReads := rfl
@[simp] theorem emit_invals (o : Out) : (emit s o).invals = s.invals := rfl
@[simp] theorem emit_cohHeld (o : Out) : (emit s o).cohHeld = s.cohHeld := rfl
@[simp] theorem emit_snoops (o : Out) : (emit s o).snoops = s.snoops := rfl
@[simp] theorem emit_winReqs (o : Out) : (emit s o).winReqs = s.winReqs := rfl
@[simp] theorem emit_fenceWaits (o : Out) : (emit s o).fenceWaits = s.fenceWaits := rfl
@[simp] theorem emit_teardowns (o : Out) : (emit s o).teardowns = s.teardowns := rfl
@[simp] theorem emit_closed (o : Out) : (emit s o).closed = s.closed := rfl
@[simp] theorem emit_host (o : Out) : (emit s o).host = s.host := rfl
@[simp] theorem emit_cfg (o : Out) : (emit s o).cfg = s.cfg := rfl
@[simp] theorem emit_posts (o : Out) : (emit s o).posts = s.posts := rfl
@[simp] theorem emit_faults (o : Out) : (emit s o).faults = s.faults := rfl
@[simp] theorem emit_node (o : Out) : (emit s o).node = s.node := rfl
@[simp] theorem emit_incarnation (o : Out) : (emit s o).incarnation = s.incarnation := rfl
@[simp] theorem emit_sendSeq (o : Out) : (emit s o).sendSeq = s.sendSeq := rfl
@[simp] theorem emit_rtpDown (o : Out) : (emit s o).rtpDown = s.rtpDown := rfl
@[simp] theorem emit_log (o : Out) : (emit s o).log = s.log := rfl
@[simp] theorem emit_cnt (o : Out) : (emit s o).cnt = s.cnt := rfl
@[simp] theorem emit_err (o : Out) : (emit s o).err = s.err := rfl
@[simp] theorem emit_links (o : Out) : (emit s o).links = s.links := rfl
@[simp] theorem emit_groups (o : Out) : (emit s o).groups = s.groups := rfl
@[simp] theorem emit_fab (o : Out) : (emit s o).fab = s.fab := rfl
@[simp] theorem emit_sched (o : Out) : (emit s o).sched = s.sched := rfl
@[simp] theorem emit_gov (o : Out) : (emit s o).gov = s.gov := rfl
@[simp] theorem emit_trust (o : Out) : (emit s o).trust = s.trust := rfl
@[simp] theorem emit_life (o : Out) : (emit s o).life = s.life := rfl
@[simp] theorem emit_regs (o : Out) : (emit s o).regs = s.regs := rfl
@[simp] theorem emit_irqs (o : Out) : (emit s o).irqs = s.irqs := rfl
@[simp] theorem emit_procs (o : Out) : (emit s o).procs = s.procs := rfl
@[simp] theorem emit_procCore (o : Out) : (emit s o).procCore = s.procCore := rfl
@[simp] theorem emit_time (o : Out) : (emit s o).time = s.time := rfl
@[simp] theorem emit_refNs (o : Out) : (emit s o).refNs = s.refNs := rfl
@[simp] theorem emit_refLost (o : Out) : (emit s o).refLost = s.refLost := rfl
@[simp] theorem emit_serial (o : Out) : (emit s o).serial = s.serial := rfl
@[simp] theorem emit_free (o : Out) : (emit s o).free = s.free := rfl
@[simp] theorem emit_lastRead (o : Out) : (emit s o).lastRead = s.lastRead := rfl
@[simp] theorem emit_pending (o : Out) : (emit s o).pending = s.pending := rfl

/-! ### `countN` -/

@[simp] theorem countN_fp (k i c n : Nat) : (countN s k i c n).fp = s.fp := rfl
@[simp] theorem countN_meters (k i c n : Nat) : (countN s k i c n).meters = s.meters := rfl
@[simp] theorem countN_cores (k i c n : Nat) : (countN s k i c n).cores = s.cores := rfl
@[simp] theorem countN_mcores (k i c n : Nat) : (countN s k i c n).mcores = s.mcores := rfl
@[simp] theorem countN_vcores (k i c n : Nat) : (countN s k i c n).vcores = s.vcores := rfl
@[simp] theorem countN_scores (k i c n : Nat) : (countN s k i c n).scores = s.scores := rfl
@[simp] theorem countN_sync (k i c n : Nat) : (countN s k i c n).sync = s.sync := rfl
@[simp] theorem countN_signals (k i c n : Nat) : (countN s k i c n).signals = s.signals := rfl
@[simp] theorem countN_mem (k i c n : Nat) : (countN s k i c n).mem = s.mem := rfl
@[simp] theorem countN_slices (k i c n : Nat) : (countN s k i c n).slices = s.slices := rfl
@[simp] theorem countN_routers (k i c n : Nat) : (countN s k i c n).routers = s.routers := rfl
@[simp] theorem countN_meshWait (k i c n : Nat) : (countN s k i c n).meshWait = s.meshWait := rfl
@[simp] theorem countN_kick (k i c n : Nat) : (countN s k i c n).kick = s.kick := rfl
@[simp] theorem countN_dirCache (k i c n : Nat) : (countN s k i c n).dirCache = s.dirCache := rfl
@[simp] theorem countN_bindings (k i c n : Nat) : (countN s k i c n).bindings = s.bindings := rfl
@[simp] theorem countN_forwards (k i c n : Nat) : (countN s k i c n).forwards = s.forwards := rfl
@[simp] theorem countN_moves (k i c n : Nat) : (countN s k i c n).moves = s.moves := rfl
@[simp] theorem countN_moveIns (k i c n : Nat) : (countN s k i c n).moveIns = s.moveIns := rfl
@[simp] theorem countN_drops (k i c n : Nat) : (countN s k i c n).drops = s.drops := rfl
@[simp] theorem countN_gloves (k i c n : Nat) : (countN s k i c n).gloves = s.gloves := rfl
@[simp] theorem countN_ctxs (k i c n : Nat) : (countN s k i c n).ctxs = s.ctxs := rfl
@[simp] theorem countN_queues (k i c n : Nat) : (countN s k i c n).queues = s.queues := rfl
@[simp] theorem countN_objs (k i c n : Nat) : (countN s k i c n).objs = s.objs := rfl
@[simp] theorem countN_windows (k i c n : Nat) : (countN s k i c n).windows = s.windows := rfl
@[simp] theorem countN_peers (k i c n : Nat) : (countN s k i c n).peers = s.peers := rfl
@[simp] theorem countN_apertures (k i c n : Nat) : (countN s k i c n).apertures = s.apertures := rfl
@[simp] theorem countN_hdm (k i c n : Nat) : (countN s k i c n).hdm = s.hdm := rfl
@[simp] theorem countN_guards (k i c n : Nat) : (countN s k i c n).guards = s.guards := rfl
@[simp] theorem countN_atc (k i c n : Nat) : (countN s k i c n).atc = s.atc := rfl
@[simp] theorem countN_walks (k i c n : Nat) : (countN s k i c n).walks = s.walks := rfl
@[simp] theorem countN_xlates (k i c n : Nat) : (countN s k i c n).xlates = s.xlates := rfl
@[simp] theorem countN_pageReqs (k i c n : Nat) : (countN s k i c n).pageReqs = s.pageReqs := rfl
@[simp] theorem countN_legacyGen (k i c n : Nat) : (countN s k i c n).legacyGen = s.legacyGen := rfl
@[simp] theorem countN_hostReads (k i c n : Nat) : (countN s k i c n).hostReads = s.hostReads := rfl
@[simp] theorem countN_invals (k i c n : Nat) : (countN s k i c n).invals = s.invals := rfl
@[simp] theorem countN_cohHeld (k i c n : Nat) : (countN s k i c n).cohHeld = s.cohHeld := rfl
@[simp] theorem countN_snoops (k i c n : Nat) : (countN s k i c n).snoops = s.snoops := rfl
@[simp] theorem countN_winReqs (k i c n : Nat) : (countN s k i c n).winReqs = s.winReqs := rfl
@[simp] theorem countN_fenceWaits (k i c n : Nat) : (countN s k i c n).fenceWaits = s.fenceWaits := rfl
@[simp] theorem countN_teardowns (k i c n : Nat) : (countN s k i c n).teardowns = s.teardowns := rfl
@[simp] theorem countN_closed (k i c n : Nat) : (countN s k i c n).closed = s.closed := rfl
@[simp] theorem countN_host (k i c n : Nat) : (countN s k i c n).host = s.host := rfl
@[simp] theorem countN_cfg (k i c n : Nat) : (countN s k i c n).cfg = s.cfg := rfl
@[simp] theorem countN_posts (k i c n : Nat) : (countN s k i c n).posts = s.posts := rfl
@[simp] theorem countN_faults (k i c n : Nat) : (countN s k i c n).faults = s.faults := rfl
@[simp] theorem countN_node (k i c n : Nat) : (countN s k i c n).node = s.node := rfl
@[simp] theorem countN_incarnation (k i c n : Nat) : (countN s k i c n).incarnation = s.incarnation := rfl
@[simp] theorem countN_sendSeq (k i c n : Nat) : (countN s k i c n).sendSeq = s.sendSeq := rfl
@[simp] theorem countN_rtpDown (k i c n : Nat) : (countN s k i c n).rtpDown = s.rtpDown := rfl
@[simp] theorem countN_log (k i c n : Nat) : (countN s k i c n).log = s.log := rfl
@[simp] theorem countN_err (k i c n : Nat) : (countN s k i c n).err = s.err := rfl
@[simp] theorem countN_links (k i c n : Nat) : (countN s k i c n).links = s.links := rfl
@[simp] theorem countN_groups (k i c n : Nat) : (countN s k i c n).groups = s.groups := rfl
@[simp] theorem countN_fab (k i c n : Nat) : (countN s k i c n).fab = s.fab := rfl
@[simp] theorem countN_sched (k i c n : Nat) : (countN s k i c n).sched = s.sched := rfl
@[simp] theorem countN_gov (k i c n : Nat) : (countN s k i c n).gov = s.gov := rfl
@[simp] theorem countN_trust (k i c n : Nat) : (countN s k i c n).trust = s.trust := rfl
@[simp] theorem countN_life (k i c n : Nat) : (countN s k i c n).life = s.life := rfl
@[simp] theorem countN_regs (k i c n : Nat) : (countN s k i c n).regs = s.regs := rfl
@[simp] theorem countN_irqs (k i c n : Nat) : (countN s k i c n).irqs = s.irqs := rfl
@[simp] theorem countN_procs (k i c n : Nat) : (countN s k i c n).procs = s.procs := rfl
@[simp] theorem countN_procCore (k i c n : Nat) : (countN s k i c n).procCore = s.procCore := rfl
@[simp] theorem countN_time (k i c n : Nat) : (countN s k i c n).time = s.time := rfl
@[simp] theorem countN_refNs (k i c n : Nat) : (countN s k i c n).refNs = s.refNs := rfl
@[simp] theorem countN_refLost (k i c n : Nat) : (countN s k i c n).refLost = s.refLost := rfl
@[simp] theorem countN_serial (k i c n : Nat) : (countN s k i c n).serial = s.serial := rfl
@[simp] theorem countN_free (k i c n : Nat) : (countN s k i c n).free = s.free := rfl
@[simp] theorem countN_lastRead (k i c n : Nat) : (countN s k i c n).lastRead = s.lastRead := rfl
@[simp] theorem countN_out (k i c n : Nat) : (countN s k i c n).out = s.out := rfl
@[simp] theorem countN_pending (k i c n : Nat) : (countN s k i c n).pending = s.pending := rfl

/-! ### `logEvent` -/

@[simp] theorem logEvent_fp (a b : Nat) (r : Bool) (l : List Byte) : (logEvent s a b r l).fp = s.fp := rfl
@[simp] theorem logEvent_meters (a b : Nat) (r : Bool) (l : List Byte) : (logEvent s a b r l).meters = s.meters := rfl
@[simp] theorem logEvent_cores (a b : Nat) (r : Bool) (l : List Byte) : (logEvent s a b r l).cores = s.cores := rfl
@[simp] theorem logEvent_mcores (a b : Nat) (r : Bool) (l : List Byte) : (logEvent s a b r l).mcores = s.mcores := rfl
@[simp] theorem logEvent_vcores (a b : Nat) (r : Bool) (l : List Byte) : (logEvent s a b r l).vcores = s.vcores := rfl
@[simp] theorem logEvent_scores (a b : Nat) (r : Bool) (l : List Byte) : (logEvent s a b r l).scores = s.scores := rfl
@[simp] theorem logEvent_sync (a b : Nat) (r : Bool) (l : List Byte) : (logEvent s a b r l).sync = s.sync := rfl
@[simp] theorem logEvent_signals (a b : Nat) (r : Bool) (l : List Byte) : (logEvent s a b r l).signals = s.signals := rfl
@[simp] theorem logEvent_mem (a b : Nat) (r : Bool) (l : List Byte) : (logEvent s a b r l).mem = s.mem := rfl
@[simp] theorem logEvent_slices (a b : Nat) (r : Bool) (l : List Byte) : (logEvent s a b r l).slices = s.slices := rfl
@[simp] theorem logEvent_routers (a b : Nat) (r : Bool) (l : List Byte) : (logEvent s a b r l).routers = s.routers := rfl
@[simp] theorem logEvent_meshWait (a b : Nat) (r : Bool) (l : List Byte) : (logEvent s a b r l).meshWait = s.meshWait := rfl
@[simp] theorem logEvent_kick (a b : Nat) (r : Bool) (l : List Byte) : (logEvent s a b r l).kick = s.kick := rfl
@[simp] theorem logEvent_dirCache (a b : Nat) (r : Bool) (l : List Byte) : (logEvent s a b r l).dirCache = s.dirCache := rfl
@[simp] theorem logEvent_bindings (a b : Nat) (r : Bool) (l : List Byte) : (logEvent s a b r l).bindings = s.bindings := rfl
@[simp] theorem logEvent_forwards (a b : Nat) (r : Bool) (l : List Byte) : (logEvent s a b r l).forwards = s.forwards := rfl
@[simp] theorem logEvent_moves (a b : Nat) (r : Bool) (l : List Byte) : (logEvent s a b r l).moves = s.moves := rfl
@[simp] theorem logEvent_moveIns (a b : Nat) (r : Bool) (l : List Byte) : (logEvent s a b r l).moveIns = s.moveIns := rfl
@[simp] theorem logEvent_drops (a b : Nat) (r : Bool) (l : List Byte) : (logEvent s a b r l).drops = s.drops := rfl
@[simp] theorem logEvent_gloves (a b : Nat) (r : Bool) (l : List Byte) : (logEvent s a b r l).gloves = s.gloves := rfl
@[simp] theorem logEvent_ctxs (a b : Nat) (r : Bool) (l : List Byte) : (logEvent s a b r l).ctxs = s.ctxs := rfl
@[simp] theorem logEvent_queues (a b : Nat) (r : Bool) (l : List Byte) : (logEvent s a b r l).queues = s.queues := rfl
@[simp] theorem logEvent_objs (a b : Nat) (r : Bool) (l : List Byte) : (logEvent s a b r l).objs = s.objs := rfl
@[simp] theorem logEvent_windows (a b : Nat) (r : Bool) (l : List Byte) : (logEvent s a b r l).windows = s.windows := rfl
@[simp] theorem logEvent_peers (a b : Nat) (r : Bool) (l : List Byte) : (logEvent s a b r l).peers = s.peers := rfl
@[simp] theorem logEvent_apertures (a b : Nat) (r : Bool) (l : List Byte) : (logEvent s a b r l).apertures = s.apertures := rfl
@[simp] theorem logEvent_hdm (a b : Nat) (r : Bool) (l : List Byte) : (logEvent s a b r l).hdm = s.hdm := rfl
@[simp] theorem logEvent_guards (a b : Nat) (r : Bool) (l : List Byte) : (logEvent s a b r l).guards = s.guards := rfl
@[simp] theorem logEvent_atc (a b : Nat) (r : Bool) (l : List Byte) : (logEvent s a b r l).atc = s.atc := rfl
@[simp] theorem logEvent_walks (a b : Nat) (r : Bool) (l : List Byte) : (logEvent s a b r l).walks = s.walks := rfl
@[simp] theorem logEvent_xlates (a b : Nat) (r : Bool) (l : List Byte) : (logEvent s a b r l).xlates = s.xlates := rfl
@[simp] theorem logEvent_pageReqs (a b : Nat) (r : Bool) (l : List Byte) : (logEvent s a b r l).pageReqs = s.pageReqs := rfl
@[simp] theorem logEvent_legacyGen (a b : Nat) (r : Bool) (l : List Byte) : (logEvent s a b r l).legacyGen = s.legacyGen := rfl
@[simp] theorem logEvent_hostReads (a b : Nat) (r : Bool) (l : List Byte) : (logEvent s a b r l).hostReads = s.hostReads := rfl
@[simp] theorem logEvent_invals (a b : Nat) (r : Bool) (l : List Byte) : (logEvent s a b r l).invals = s.invals := rfl
@[simp] theorem logEvent_cohHeld (a b : Nat) (r : Bool) (l : List Byte) : (logEvent s a b r l).cohHeld = s.cohHeld := rfl
@[simp] theorem logEvent_snoops (a b : Nat) (r : Bool) (l : List Byte) : (logEvent s a b r l).snoops = s.snoops := rfl
@[simp] theorem logEvent_winReqs (a b : Nat) (r : Bool) (l : List Byte) : (logEvent s a b r l).winReqs = s.winReqs := rfl
@[simp] theorem logEvent_fenceWaits (a b : Nat) (r : Bool) (l : List Byte) : (logEvent s a b r l).fenceWaits = s.fenceWaits := rfl
@[simp] theorem logEvent_teardowns (a b : Nat) (r : Bool) (l : List Byte) : (logEvent s a b r l).teardowns = s.teardowns := rfl
@[simp] theorem logEvent_closed (a b : Nat) (r : Bool) (l : List Byte) : (logEvent s a b r l).closed = s.closed := rfl
@[simp] theorem logEvent_host (a b : Nat) (r : Bool) (l : List Byte) : (logEvent s a b r l).host = s.host := rfl
@[simp] theorem logEvent_cfg (a b : Nat) (r : Bool) (l : List Byte) : (logEvent s a b r l).cfg = s.cfg := rfl
@[simp] theorem logEvent_posts (a b : Nat) (r : Bool) (l : List Byte) : (logEvent s a b r l).posts = s.posts := rfl
@[simp] theorem logEvent_faults (a b : Nat) (r : Bool) (l : List Byte) : (logEvent s a b r l).faults = s.faults := rfl
@[simp] theorem logEvent_node (a b : Nat) (r : Bool) (l : List Byte) : (logEvent s a b r l).node = s.node := rfl
@[simp] theorem logEvent_incarnation (a b : Nat) (r : Bool) (l : List Byte) : (logEvent s a b r l).incarnation = s.incarnation := rfl
@[simp] theorem logEvent_sendSeq (a b : Nat) (r : Bool) (l : List Byte) : (logEvent s a b r l).sendSeq = s.sendSeq := rfl
@[simp] theorem logEvent_rtpDown (a b : Nat) (r : Bool) (l : List Byte) : (logEvent s a b r l).rtpDown = s.rtpDown := rfl
@[simp] theorem logEvent_cnt (a b : Nat) (r : Bool) (l : List Byte) : (logEvent s a b r l).cnt = s.cnt := rfl
@[simp] theorem logEvent_err (a b : Nat) (r : Bool) (l : List Byte) : (logEvent s a b r l).err = s.err := rfl
@[simp] theorem logEvent_links (a b : Nat) (r : Bool) (l : List Byte) : (logEvent s a b r l).links = s.links := rfl
@[simp] theorem logEvent_groups (a b : Nat) (r : Bool) (l : List Byte) : (logEvent s a b r l).groups = s.groups := rfl
@[simp] theorem logEvent_fab (a b : Nat) (r : Bool) (l : List Byte) : (logEvent s a b r l).fab = s.fab := rfl
@[simp] theorem logEvent_sched (a b : Nat) (r : Bool) (l : List Byte) : (logEvent s a b r l).sched = s.sched := rfl
@[simp] theorem logEvent_gov (a b : Nat) (r : Bool) (l : List Byte) : (logEvent s a b r l).gov = s.gov := rfl
@[simp] theorem logEvent_trust (a b : Nat) (r : Bool) (l : List Byte) : (logEvent s a b r l).trust = s.trust := rfl
@[simp] theorem logEvent_life (a b : Nat) (r : Bool) (l : List Byte) : (logEvent s a b r l).life = s.life := rfl
@[simp] theorem logEvent_regs (a b : Nat) (r : Bool) (l : List Byte) : (logEvent s a b r l).regs = s.regs := rfl
@[simp] theorem logEvent_irqs (a b : Nat) (r : Bool) (l : List Byte) : (logEvent s a b r l).irqs = s.irqs := rfl
@[simp] theorem logEvent_procs (a b : Nat) (r : Bool) (l : List Byte) : (logEvent s a b r l).procs = s.procs := rfl
@[simp] theorem logEvent_procCore (a b : Nat) (r : Bool) (l : List Byte) : (logEvent s a b r l).procCore = s.procCore := rfl
@[simp] theorem logEvent_time (a b : Nat) (r : Bool) (l : List Byte) : (logEvent s a b r l).time = s.time := rfl
@[simp] theorem logEvent_refNs (a b : Nat) (r : Bool) (l : List Byte) : (logEvent s a b r l).refNs = s.refNs := rfl
@[simp] theorem logEvent_refLost (a b : Nat) (r : Bool) (l : List Byte) : (logEvent s a b r l).refLost = s.refLost := rfl
@[simp] theorem logEvent_serial (a b : Nat) (r : Bool) (l : List Byte) : (logEvent s a b r l).serial = s.serial := rfl
@[simp] theorem logEvent_free (a b : Nat) (r : Bool) (l : List Byte) : (logEvent s a b r l).free = s.free := rfl
@[simp] theorem logEvent_lastRead (a b : Nat) (r : Bool) (l : List Byte) : (logEvent s a b r l).lastRead = s.lastRead := rfl
@[simp] theorem logEvent_out (a b : Nat) (r : Bool) (l : List Byte) : (logEvent s a b r l).out = s.out := rfl
@[simp] theorem logEvent_pending (a b : Nat) (r : Bool) (l : List Byte) : (logEvent s a b r l).pending = s.pending := rfl

/-! ### `clearFaults` -/

@[simp] theorem clearFaults_fp : (clearFaults s).fp = s.fp := rfl
@[simp] theorem clearFaults_meters : (clearFaults s).meters = s.meters := rfl
@[simp] theorem clearFaults_cores : (clearFaults s).cores = s.cores := rfl
@[simp] theorem clearFaults_mcores : (clearFaults s).mcores = s.mcores := rfl
@[simp] theorem clearFaults_vcores : (clearFaults s).vcores = s.vcores := rfl
@[simp] theorem clearFaults_scores : (clearFaults s).scores = s.scores := rfl
@[simp] theorem clearFaults_sync : (clearFaults s).sync = s.sync := rfl
@[simp] theorem clearFaults_signals : (clearFaults s).signals = s.signals := rfl
@[simp] theorem clearFaults_mem : (clearFaults s).mem = s.mem := rfl
@[simp] theorem clearFaults_slices : (clearFaults s).slices = s.slices := rfl
@[simp] theorem clearFaults_routers : (clearFaults s).routers = s.routers := rfl
@[simp] theorem clearFaults_meshWait : (clearFaults s).meshWait = s.meshWait := rfl
@[simp] theorem clearFaults_kick : (clearFaults s).kick = s.kick := rfl
@[simp] theorem clearFaults_dirCache : (clearFaults s).dirCache = s.dirCache := rfl
@[simp] theorem clearFaults_bindings : (clearFaults s).bindings = s.bindings := rfl
@[simp] theorem clearFaults_forwards : (clearFaults s).forwards = s.forwards := rfl
@[simp] theorem clearFaults_moves : (clearFaults s).moves = s.moves := rfl
@[simp] theorem clearFaults_moveIns : (clearFaults s).moveIns = s.moveIns := rfl
@[simp] theorem clearFaults_drops : (clearFaults s).drops = s.drops := rfl
@[simp] theorem clearFaults_gloves : (clearFaults s).gloves = s.gloves := rfl
@[simp] theorem clearFaults_ctxs : (clearFaults s).ctxs = s.ctxs := rfl
@[simp] theorem clearFaults_queues : (clearFaults s).queues = s.queues := rfl
@[simp] theorem clearFaults_objs : (clearFaults s).objs = s.objs := rfl
@[simp] theorem clearFaults_windows : (clearFaults s).windows = s.windows := rfl
@[simp] theorem clearFaults_peers : (clearFaults s).peers = s.peers := rfl
@[simp] theorem clearFaults_apertures : (clearFaults s).apertures = s.apertures := rfl
@[simp] theorem clearFaults_hdm : (clearFaults s).hdm = s.hdm := rfl
@[simp] theorem clearFaults_guards : (clearFaults s).guards = s.guards := rfl
@[simp] theorem clearFaults_atc : (clearFaults s).atc = s.atc := rfl
@[simp] theorem clearFaults_walks : (clearFaults s).walks = s.walks := rfl
@[simp] theorem clearFaults_xlates : (clearFaults s).xlates = s.xlates := rfl
@[simp] theorem clearFaults_pageReqs : (clearFaults s).pageReqs = s.pageReqs := rfl
@[simp] theorem clearFaults_legacyGen : (clearFaults s).legacyGen = s.legacyGen := rfl
@[simp] theorem clearFaults_hostReads : (clearFaults s).hostReads = s.hostReads := rfl
@[simp] theorem clearFaults_invals : (clearFaults s).invals = s.invals := rfl
@[simp] theorem clearFaults_cohHeld : (clearFaults s).cohHeld = s.cohHeld := rfl
@[simp] theorem clearFaults_snoops : (clearFaults s).snoops = s.snoops := rfl
@[simp] theorem clearFaults_winReqs : (clearFaults s).winReqs = s.winReqs := rfl
@[simp] theorem clearFaults_fenceWaits : (clearFaults s).fenceWaits = s.fenceWaits := rfl
@[simp] theorem clearFaults_teardowns : (clearFaults s).teardowns = s.teardowns := rfl
@[simp] theorem clearFaults_closed : (clearFaults s).closed = s.closed := rfl
@[simp] theorem clearFaults_host : (clearFaults s).host = s.host := rfl
@[simp] theorem clearFaults_cfg : (clearFaults s).cfg = s.cfg := rfl
@[simp] theorem clearFaults_posts : (clearFaults s).posts = s.posts := rfl
@[simp] theorem clearFaults_node : (clearFaults s).node = s.node := rfl
@[simp] theorem clearFaults_incarnation : (clearFaults s).incarnation = s.incarnation := rfl
@[simp] theorem clearFaults_sendSeq : (clearFaults s).sendSeq = s.sendSeq := rfl
@[simp] theorem clearFaults_rtpDown : (clearFaults s).rtpDown = s.rtpDown := rfl
@[simp] theorem clearFaults_log : (clearFaults s).log = s.log := rfl
@[simp] theorem clearFaults_cnt : (clearFaults s).cnt = s.cnt := rfl
@[simp] theorem clearFaults_err : (clearFaults s).err = s.err := rfl
@[simp] theorem clearFaults_links : (clearFaults s).links = s.links := rfl
@[simp] theorem clearFaults_groups : (clearFaults s).groups = s.groups := rfl
@[simp] theorem clearFaults_fab : (clearFaults s).fab = s.fab := rfl
@[simp] theorem clearFaults_sched : (clearFaults s).sched = s.sched := rfl
@[simp] theorem clearFaults_gov : (clearFaults s).gov = s.gov := rfl
@[simp] theorem clearFaults_trust : (clearFaults s).trust = s.trust := rfl
@[simp] theorem clearFaults_life : (clearFaults s).life = s.life := rfl
@[simp] theorem clearFaults_regs : (clearFaults s).regs = s.regs := rfl
@[simp] theorem clearFaults_irqs : (clearFaults s).irqs = s.irqs := rfl
@[simp] theorem clearFaults_procs : (clearFaults s).procs = s.procs := rfl
@[simp] theorem clearFaults_procCore : (clearFaults s).procCore = s.procCore := rfl
@[simp] theorem clearFaults_time : (clearFaults s).time = s.time := rfl
@[simp] theorem clearFaults_refNs : (clearFaults s).refNs = s.refNs := rfl
@[simp] theorem clearFaults_refLost : (clearFaults s).refLost = s.refLost := rfl
@[simp] theorem clearFaults_serial : (clearFaults s).serial = s.serial := rfl
@[simp] theorem clearFaults_free : (clearFaults s).free = s.free := rfl
@[simp] theorem clearFaults_lastRead : (clearFaults s).lastRead = s.lastRead := rfl
@[simp] theorem clearFaults_out : (clearFaults s).out = s.out := rfl
@[simp] theorem clearFaults_pending : (clearFaults s).pending = s.pending := rfl

/-! ### A read of the entry just written, and of any other -/

@[simp] theorem getCore_setCore (s : State) (p : Nat) (x : Core) : getCore (setCore s p x) p = x :=
  Tbl.get_set_self _ _ p x
theorem getCore_setCore_ne {p q : Nat} (h : p ≠ q) (x : Core) : getCore (setCore s p x) q = getCore s q := Tbl.get_set_ne _ _ x h
theorem setCore_wf {s : State} (h : Tbl.wf ({} : Core) s.cores = true) (p : Nat) (x : Core) :
    Tbl.wf ({} : Core) (setCore s p x).cores = true := Tbl.wf_set h p x

@[simp] theorem getM_setM (s : State) (p : Nat) (x : MCore) : getM (setM s p x) p = x :=
  Tbl.get_set_self _ _ p x
theorem getM_setM_ne {p q : Nat} (h : p ≠ q) (x : MCore) : getM (setM s p x) q = getM s q := Tbl.get_set_ne _ _ x h
theorem setM_wf {s : State} (h : Tbl.wf ({} : MCore) s.mcores = true) (p : Nat) (x : MCore) :
    Tbl.wf ({} : MCore) (setM s p x).mcores = true := Tbl.wf_set h p x

@[simp] theorem getV_setV (s : State) (p : Nat) (x : VCore) : getV (setV s p x) p = x :=
  Tbl.get_set_self _ _ p x
theorem getV_setV_ne {p q : Nat} (h : p ≠ q) (x : VCore) : getV (setV s p x) q = getV s q := Tbl.get_set_ne _ _ x h
theorem setV_wf {s : State} (h : Tbl.wf ({} : VCore) s.vcores = true) (p : Nat) (x : VCore) :
    Tbl.wf ({} : VCore) (setV s p x).vcores = true := Tbl.wf_set h p x

@[simp] theorem getS_setS (s : State) (p : Nat) (x : SCore) : getS (setS s p x) p = x :=
  Tbl.get_set_self _ _ p x
theorem getS_setS_ne {p q : Nat} (h : p ≠ q) (x : SCore) : getS (setS s p x) q = getS s q := Tbl.get_set_ne _ _ x h
theorem setS_wf {s : State} (h : Tbl.wf ({} : SCore) s.scores = true) (p : Nat) (x : SCore) :
    Tbl.wf ({} : SCore) (setS s p x).scores = true := Tbl.wf_set h p x

@[simp] theorem getBinding_setBinding (s : State) (p : Nat) (x : Binding) : getBinding (setBinding s p x) p = x :=
  Tbl.get_set_self _ _ p x
theorem getBinding_setBinding_ne {p q : Nat} (h : p ≠ q) (x : Binding) : getBinding (setBinding s p x) q = getBinding s q := Tbl.get_set_ne _ _ x h
theorem setBinding_wf {s : State} (h : Tbl.wf ({} : Binding) s.bindings = true) (p : Nat) (x : Binding) :
    Tbl.wf ({} : Binding) (setBinding s p x).bindings = true := Tbl.wf_set h p x

@[simp] theorem getIrq_setIrq (s : State) (p : Nat) (x : IrqSource) : getIrq (setIrq s p x) p = x :=
  Tbl.get_set_self _ _ p x
theorem getIrq_setIrq_ne {p q : Nat} (h : p ≠ q) (x : IrqSource) : getIrq (setIrq s p x) q = getIrq s q := Tbl.get_set_ne _ _ x h
theorem setIrq_wf {s : State} (h : Tbl.wf ({} : IrqSource) s.irqs = true) (p : Nat) (x : IrqSource) :
    Tbl.wf ({} : IrqSource) (setIrq s p x).irqs = true := Tbl.wf_set h p x

@[simp] theorem getProc_setProc (s : State) (p : Nat) (x : IrqProc) : getProc (setProc s p x) p = x :=
  Tbl.get_set_self _ _ p x
theorem getProc_setProc_ne {p q : Nat} (h : p ≠ q) (x : IrqProc) : getProc (setProc s p x) q = getProc s q := Tbl.get_set_ne _ _ x h
theorem setProc_wf {s : State} (h : Tbl.wf ({} : IrqProc) s.procs = true) (p : Nat) (x : IrqProc) :
    Tbl.wf ({} : IrqProc) (setProc s p x).procs = true := Tbl.wf_set h p x

@[simp] theorem getMeter_setMeter (s : State) (p : Nat) (x : PaceMeter) : getMeter (setMeter s p x) p = x :=
  Tbl.get_set_self _ _ p x
theorem getMeter_setMeter_ne {p q : Nat} (h : p ≠ q) (x : PaceMeter) : getMeter (setMeter s p x) q = getMeter s q := Tbl.get_set_ne _ _ x h
theorem setMeter_wf {s : State} (h : Tbl.wf ({} : PaceMeter) s.meters = true) (p : Nat) (x : PaceMeter) :
    Tbl.wf ({} : PaceMeter) (setMeter s p x).meters = true := Tbl.wf_set h p x

@[simp] theorem getLink_setLink (s : State) (p : Nat) (x : Link) : getLink (setLink s p x) p = x :=
  Tbl.get_set_self _ _ p x
theorem getLink_setLink_ne {p q : Nat} (h : p ≠ q) (x : Link) : getLink (setLink s p x) q = getLink s q := Tbl.get_set_ne _ _ x h
theorem setLink_wf {s : State} (h : Tbl.wf ({} : Link) s.links = true) (p : Nat) (x : Link) :
    Tbl.wf ({} : Link) (setLink s p x).links = true := Tbl.wf_set h p x

end Sys2Proof.Machine
end

