-- ==== Sys2Proof/Laws/Retire.lean ====
section
/-!
SUPPORT. Retiring an instruction: all that it changes, and the register writes that go with it.
-/
namespace Sys2Proof.Machine

theorem getCore_retire (s : State) (p : Nat) (n : Dword) : getCore (retire s p n) p =
    touchLine (icacheSets p) { getCore s p with pc := n, wait := .none } ((getCore s p).pc.toNat / 64) :=
  getCore_setCore s p _

theorem getCore_retire_ne (s : State) {p q : Nat} (n : Dword) (h : p ≠ q) : getCore (retire s p n) q = getCore s q :=
  getCore_setCore_ne s h _

@[simp] theorem getM_retire (s : State) (p q : Nat) (n : Dword) : getM (retire s p n) q = getM s q := rfl
@[simp] theorem getV_retire (s : State) (p q : Nat) (n : Dword) : getV (retire s p n) q = getV s q := rfl
@[simp] theorem getS_retire (s : State) (p q : Nat) (n : Dword) : getS (retire s p n) q = getS s q := rfl
@[simp] theorem retire_mem (s : State) (p : Nat) (n : Dword) : (retire s p n).mem = s.mem := rfl
@[simp] theorem retire_pc (s : State) (p : Nat) (n : Dword) : (getCore (retire s p n) p).pc = n := by rw [getCore_retire]; rfl

theorem counterValue_retire (s : State) (p : Nat) (n : Dword) :
    counterValue (retire s p n) (counterId 1 p 0) = counterValue s (counterId 1 p 0) + 1 :=
  Tbl.get_set_self _ _ _ _

theorem counterValue_retire_ne (s : State) (p : Nat) (n : Dword) {k : Nat} (h : k ≠ counterId 1 p 0) :
    counterValue (retire s p n) k = counterValue s k :=
  Tbl.get_set_ne _ _ _ (Ne.symm h)

/-- Retiring is not seen by `Rest`. -/
theorem retire_view (s : State) (p : Nat) (n : Dword) : restView (retire s p n) = restView s := rfl

/-- What retiring after a change of the core's private state leaves alone. -/
theorem retire_onlyCore (s u : State) (p : Nat) (n : Dword) (hu : u = { s with mcores := u.mcores, vcores := u.vcores, scores := u.scores })
    (hm : ∀ q, q ≠ p → getM u q = getM s q) (hv : ∀ q, q ≠ p → getV u q = getV s q) (hs : ∀ q, q ≠ p → getS u q = getS s q) :
    OnlyCore s (retire u p n) p := by
  have hc : ∀ q, getCore u q = getCore s q := by intro q; rw [hu]; rfl
  have hn : ∀ k, counterValue u k = counterValue s k := by intro k; rw [hu]; rfl
  refine ⟨?_, ?_, ?_, ?_, ?_⟩
  · simp only [retire, count, countN, updCore, setCore]
    rw [hu]
  · intro q h
    exact ⟨by rw [getCore_retire_ne _ _ (Ne.symm h), hc], hm q h, hv q h, hs q h⟩
  · intro k h; rw [counterValue_retire_ne _ _ _ h, hn]
  · rw [counterValue_retire, hn]
  · rw [getCore_retire, hc]; rfl

/-! ### Register writes: the form of the result, and every other register -/

theorem wrG_form (m : MCore) (r : Nat) (v : Dword) : wrG m r v = { m with g := (wrG m r v).g } := by unfold wrG; split <;> rfl
theorem rdG_wrG_ne (m : MCore) (r : Nat) (v : Dword) (k : Nat) (h : k ≠ r) : rdG (wrG m r v) k = rdG m k := by
  unfold wrG; split
  · rfl
  · simp only [rdG]; split
    · rfl
    · exact Tbl.get_set_ne _ _ _ (Ne.symm h)
theorem rdG_wrG (m : MCore) {r : Nat} (v : Dword) (h : r ≠ 0) : rdG (wrG m r v) r = v := by
  simp only [wrG, rdG, if_neg h]; exact Tbl.get_set_self _ _ _ _

theorem wrA_form (m : VCore) (r : Nat) (v : Dword) : wrA m r v = { m with a := (wrA m r v).a } := by unfold wrA; split <;> rfl
theorem rdA_wrA_ne (m : VCore) (r : Nat) (v : Dword) (k : Nat) (h : k ≠ r) : rdA (wrA m r v) k = rdA m k := by
  unfold wrA; split
  · rfl
  · simp only [rdA]; split
    · rfl
    · exact Tbl.get_set_ne _ _ _ (Ne.symm h)
theorem rdA_wrA (m : VCore) {r : Nat} (v : Dword) (h : r ≠ 0) : rdA (wrA m r v) r = v := by
  simp only [wrA, rdA, if_neg h]; exact Tbl.get_set_self _ _ _ _

theorem wrK_form (m : VCore) (r : Nat) (v : BitVec 512) : wrK m r v = { m with k := (wrK m r v).k } := by unfold wrK; split <;> rfl
theorem rdK_wrK_ne (m : VCore) (r : Nat) (v : BitVec 512) (k : Nat) (h : k ≠ r) : rdK (wrK m r v) k = rdK m k := by
  unfold wrK; split
  · rfl
  · simp only [rdK]; split
    · rfl
    · exact Tbl.get_set_ne _ _ _ (Ne.symm h)

theorem wrX_form (m : SCore) (r : Nat) (v : Dword) : wrX m r v = { m with x := (wrX m r v).x } := by unfold wrX; split <;> rfl
theorem rdX_wrX_ne (m : SCore) (r : Nat) (v : Dword) (k : Nat) (h : k ≠ r) : rdX (wrX m r v) k = rdX m k := by
  unfold wrX; split
  · rfl
  · simp only [rdX]; split
    · rfl
    · exact Tbl.get_set_ne _ _ _ (Ne.symm h)
theorem rdX_wrX (m : SCore) {r : Nat} (v : Dword) (h : r ≠ 0) : rdX (wrX m r v) r = v := by
  simp only [wrX, rdX, if_neg h]; exact Tbl.get_set_self _ _ _ _

/-! ### An instruction that retires with a private part: what it keeps -/

theorem mPut_keeps (s : State) (c : Fin 160) (m : MCore) (n : Dword) (r : Nat) (hm : m = { getM s (mPid c) with g := m.g })
    (hr : ∀ k, k ≠ r → rdG m k = rdG (getM s (mPid c)) k) : MKeeps s (retire (setM s (mPid c) m) (mPid c) n) c r := by
  have e : getM (retire (setM s (mPid c) m) (mPid c) n) (mPid c) = m := getM_setM s _ m
  refine ⟨retire_onlyCore s _ _ _ rfl (fun q h => getM_setM_ne s (Ne.symm h) m) (fun _ _ => rfl) (fun _ _ => rfl), ?_, ?_⟩
  · rw [e]; exact hm
  · rw [e]; exact hr

theorem vPut_keeps (s : State) (c : Fin 96) (m : VCore) (n : Dword) (r : Nat) (hm : m = { getV s (vPid c) with a := m.a })
    (hr : ∀ k, k ≠ r → rdA m k = rdA (getV s (vPid c)) k) : VKeeps s (retire (setV s (vPid c) m) (vPid c) n) c r := by
  have e : getV (retire (setV s (vPid c) m) (vPid c) n) (vPid c) = m := getV_setV s _ m
  refine ⟨retire_onlyCore s _ _ _ rfl (fun _ _ => rfl) (fun q h => getV_setV_ne s (Ne.symm h) m) (fun _ _ => rfl), ?_, ?_⟩
  · rw [e]; exact hm
  · rw [e]; exact hr

theorem sPut_keeps (s : State) (c : Fin 64) (m : SCore) (n : Dword) (r : Nat) (hm : m = { getS s (sPid c) with x := m.x })
    (hr : ∀ k, k ≠ r → rdX m k = rdX (getS s (sPid c)) k) : SKeeps s (retire (setS s (sPid c) m) (sPid c) n) c r := by
  have e : getS (retire (setS s (sPid c) m) (sPid c) n) (sPid c) = m := getS_setS s _ m
  refine ⟨retire_onlyCore s _ _ _ rfl (fun _ _ => rfl) (fun _ _ => rfl) (fun q h => getS_setS_ne s (Ne.symm h) m), ?_, ?_⟩
  · rw [e]; exact hm
  · rw [e]; exact hr

theorem mStep_keeps (s : State) (c : Fin 160) (n : Dword) (r : Nat) : MKeeps s (retire s (mPid c) n) c r :=
  ⟨retire_onlyCore s s _ _ rfl (fun _ _ => rfl) (fun _ _ => rfl) (fun _ _ => rfl), rfl, fun _ _ => rfl⟩
theorem vStep_keeps (s : State) (c : Fin 96) (n : Dword) (r : Nat) : VKeeps s (retire s (vPid c) n) c r :=
  ⟨retire_onlyCore s s _ _ rfl (fun _ _ => rfl) (fun _ _ => rfl) (fun _ _ => rfl), rfl, fun _ _ => rfl⟩
theorem sStep_keeps (s : State) (c : Fin 64) (n : Dword) (r : Nat) : SKeeps s (retire s (sPid c) n) c r :=
  ⟨retire_onlyCore s s _ _ rfl (fun _ _ => rfl) (fun _ _ => rfl) (fun _ _ => rfl), rfl, fun _ _ => rfl⟩

end Sys2Proof.Machine
end

