-- ==== Sys2Proof/WellFormed.lean ====
section
/-!
DEFINITION. Well-formed commands: the limits that the specification puts on the shape of what a command carries and that its type does
not say. A command that is not well formed stands for no event of the module.
-/
namespace Sys2Proof

/-- A mesh packet (R142, Table 6.6): LEN payload flits of 32 bytes, at most 8; CONTRIB 1 to 255, and 1 unless it reduces (R142, R143);
a ring stop 0 to 17. -/
def MeshPkt.wf (p : MeshPkt) : Bool :=
  decide (p.len.toNat ≤ 8) && decide (p.payload.length ≤ 32 * p.len.toNat) && decide (p.contrib ≠ 0) &&
  (p.type == 5 || p.type == 6 || p.contrib == 1) && decide (p.stop.toNat < 18)

/-- A fabric packet that arrives (R269): 192 bytes of DATA at most; what a queue of the package keeps beside a packet is no part of it. -/
def Packet.wf (p : Packet) : Bool := decide (p.data.length ≤ 192) && p.prio.isNone && !p.maybe

/-- A flit (Table 10.4, R247): the packet it carries, cumulative credits of the four virtual channels or none, and no more bytes behind the
payload than a flit has. -/
def Flit.wf (f : Flit) : Bool := f.pkt.wf && (f.ccums.length == 4 || f.ccums.isEmpty) && decide (f.pad.length ≤ 244)

/-- What lanes lock on: an order of the four lanes names each of them once (R241). -/
def LockResult.wf : LockResult → Bool
  | .locked _ lanes => decide [lanes.extractLsb' 0 2, lanes.extractLsb' 2 2, lanes.extractLsb' 4 2, lanes.extractLsb' 6 2].Nodup
  | .mixed => true

/-- A hardware-loop sample: four dies and eight stacks (R314). -/
def Sample.wf (m : Sample) : Bool :=
  m.current10.length == 4 && m.current1m.length == 4 && m.tj.length == 4 && m.sensor.length == 4 && m.stackTj.length == 8

/-- What power-on finds: 320 core slots and 32 clusters at most, order variant 1 or 2, tables in canonical form. -/
def BootEnv.wf (e : BootEnv) : Bool :=
  decide (e.slots.length ≤ 320) && decide (e.paceMax.length ≤ 32) && (e.variant == 1 || e.variant == 2) &&
  Tbl.wf 0 e.banksBad && Tbl.wf 0 e.spareRows && Tbl.wf 0 e.reserveBad

/-- The words of a scrubbed row that are found in error: each is named once (R133). -/
def scrubWf (single double : List (Fin 32)) : Bool := decide (single ++ double).Nodup

/-- The sizes of Table 9.8: reads and writes of at most 4,096 and 512 bytes, FetchAdd and Swap of 4 or 8 bytes, CompareAndSwap of 4,
8 or 16. -/
def Bar4Op.wf : Bar4Op → Bool
  | .read n => decide (1 ≤ n ∧ n ≤ 4096)
  | .write d => decide (1 ≤ d.length ∧ d.length ≤ 512)
  | .fetchAdd n _ => n == 4 || n == 8
  | .swap n _ => n == 4 || n == 8
  | .cas n _ _ => n == 4 || n == 8 || n == 16

/-- An access at a coherent window stays in its 64-byte line (R232). -/
def CohOp.wf (off : Dword) : CohOp → Bool
  | .hostRead n => decide (1 ≤ n ∧ off.toNat % 64 + n ≤ 64)
  | .hostWrite d => decide (1 ≤ d.length ∧ off.toNat % 64 + d.length ≤ 64)
  | .snoopDone => true

/-- A command is well formed. -/
def Instr.wf : Instr → Bool
  | .floorplanCommit | .rtpFprDataHiRead .. | .govPmTicksLoRead .. | .paceTick .. | .waveAdmit .. | .waveSumsReachTile ..
  | .beatAdmit .. | .referenceLost | .referenceRestored | .referenceHoldoverEnd .. | .crossingOverflow .. | .icacheFill ..
  | .transferComplete .. | .mnop .. | .mhalt .. | .msafe .. | .mfence .. | .mli .. | .maddi .. | .madd .. | .msub ..
  | .mshli .. | .mbr .. | .mloop .. | .msig .. | .mwait .. | .mflags .. | .mld .. | .mst .. | .mplane .. | .mclr ..
  | .mtrx .. | .mwave .. | .mstream .. | .mconv .. => true
  | .tileReceiveRow _ _ _ _ contrib ps _ => ps.length == 16 && decide (contrib ≠ 0)
  | .forcedPointReached .. | .syncCounterAdd .. | .vnop .. | .vhalt .. | .vsafe .. | .vfence .. | .vli .. | .vaddi ..
  | .vadds .. | .vsubs .. | .vmuls .. | .vshli .. | .vbr .. | .vloop .. | .kcnt .. | .vsig .. | .vwait .. | .vflags ..
  | .vmovs .. | .vext .. | .kop .. | .kset .. | .vld .. | .vst .. | .vgath .. | .vscat .. | .vldl .. | .vstl .. | .vfop ..
  | .vfma .. | .viop .. | .vcmp .. | .vsel .. | .vtf .. | .vcvt .. | .vred .. | .vperm .. | .vrot .. | .vtopk .. | .vladd ..
  | .vlcvt .. | .vtol .. | .vlred .. | .alu .. | .addi .. | .slti .. | .andi .. | .ori .. | .xori .. | .shli .. | .shri ..
  | .sari .. | .lui .. | .ldb .. | .ldh .. | .ldw .. | .ldd .. | .ldbs .. | .ldhs .. | .ldws .. | .stb .. | .sth ..
  | .stw .. | .std .. | .amo .. | .beq .. | .bne .. | .blt .. | .bge .. | .bltu .. | .bgeu .. | .jal .. | .jalr ..
  | .sfence .. | .ssig .. | .swait .. | .srdc .. | .ssafe .. | .shalt .. | .csrr .. | .csrw .. | .csrset .. | .csrclr ..
  | .tret .. | .sidle .. => true
  | .meshReadReq p => p.wf && p.type == 0
  | .meshReadResp p => p.wf && p.type == 1
  | .meshWrite p => p.wf && p.type == 2
  | .meshWriteAck p => p.wf && p.type == 3
  | .meshAtomic p => p.wf && p.type == 4
  | .reduceSram p => p.wf && p.type == 5
  | .reduceTile p => p.wf && p.type == 6
  | .meshSync p => p.wf && p.type == 7
  | .meshControl p => p.wf && p.type == 8
  | .reduceHoldExpire .. => true
  | .scrubRead _ _ _ single double _ => scrubWf single double
  | .spareBankCopyDone .. | .bankZeroDone .. | .frameRetirementSwitch .. | .gpLookupReturn .. | .mshSramErrcntRead ..
  | .gloveOpen .. | .sliceFit .. | .vcoreBind .. | .vcoreMove .. | .vcoreUnbind .. | .channelRefit .. | .linkRefit ..
  | .memberJoin .. | .memberLeave .. | .gloveClose .. | .crownRead .. | .pairSet .. | .pairCommit .. => true
  | .prepare p => p.wf
  | .accept p => p.wf
  | .refuse p => p.wf
  | .commit p => p.wf
  | .image p => p.wf
  | .imageAck p => p.wf
  | .bindingUpdate p => p.wf
  | .crown p => p.wf
  | .mismatch p => p.wf
  | .agreed p => p.wf
  | .freeze p => p.wf
  | .crownGossipTick .. | .forceTimeout .. | .forwardingRecordExpire .. | .acceptCommitTimeout .. | .nop ..
  | .fenceSignal .. | .fenceWait .. | .fenceWaitReread .. | .fenceWaitTimeout .. | .cookie .. | .copy .. | .fill ..
  | .gatherPool .. | .floorplanRead .. | .dispatch .. | .ctxOpen .. | .ctxClose .. | .ctxResume .. | .ctxUnpark ..
  | .queueOpen .. | .queueClose .. | .memOpen .. | .memClose .. | .hostAttach .. | .hiuDbWrite .. | .hiuDbCplRead ..
  | .hiuDbFlush .. | .slotFetch .. | .itemStart .. | .contextLoad .. | .teardownGraceExpire .. | .teardownIdle ..
  | .teardownRequestTimeout .. | .memZeroDone .. | .hostLinkDownTimeout | .hotResetReceived | .perstAssert | .perstRelease
  | .contextPark .. | .hiuRaDataHiRead .. | .hiuReattachHi .. | .reattachHoldExpire | .segSet .. | .walkSet ..
  | .walkGuard .. | .atcInval .. | .migrate .. | .faultRespond .. | .windowOpen .. | .windowClose .. | .peerSet ..
  | .apertureSet .. | .hdmSet .. | .atsCompletion .. | .atsInvalidateRequest .. | .invalidateCompletion ..
  | .walkFetchComplete .. | .pageRequestResponse .. | .pageRequestTimeout .. | .windowTimeout .. => true
  | .bar4Access _ op => op.wf
  | .bar4Resize log2 => decide (29 ≤ log2.toNat ∧ log2.toNat ≤ 39)
  | .linkSignalDetected .. | .noSignal .. | .lanesTrained .. | .trainTimeout .. | .identityBlock .. | .failedRetryTimer .. => true
  | .lanesLocked _ k => k.wf
  | .qualifyWindowEnd _ w => w.bits.length == 4
  | .dataFlit _ f => f.wf
  | .ctrlFlit _ f => f.wf
  | .nak _ f => f.wf
  | .replayTimeout .. => true
  | .laneDrop _ f => f.wf
  | .laneSpareIn _ f => f.wf
  | .laneSpareAck _ f => f.wf
  | .spareAckTimeout .. => true
  | .laneRetrainReq _ f => f.wf
  | .laneHold _ f => f.wf
  | .holdRestartTimeout .. | .laneLockLoss .. | .uncorrectableCodeword .. | .laneBerWindowEnd .. | .spareNotWarmTimeout ..
  | .retrainDone .. | .retrainTimeout .. | .fabLinkEnable .. | .fabLinkRetrain .. => true
  | .transitPacket p => p.wf
  | .packetExpire p => p.wf
  | .drainEnd .. => true
  | .fabricReadReq p => p.wf
  | .fabricReadResp p => p.wf
  | .fabricWrite p => p.wf
  | .fabricWriteAck p => p.wf
  | .fabricAtomic p => p.wf
  | .atomicResp p => p.wf
  | .gather p => p.wf
  | .reduceWin p => p.wf
  | .fabricReduceTile p => p.wf
  | .reduceAck p => p.wf
  | .treeHoldExpire .. | .reduceAckTimeout .. => true
  | .fence p => p.wf
  | .fenceResp p => p.wf
  | .probe p => p.wf
  | .probeResp p => p.wf
  | .wgenQuery p => p.wf
  | .wgenReply p => p.wf
  | .timeSync p => p.wf
  | .timeSyncSendTick .. | .timeParentSilent | .nodeSet .. | .routeSet .. | .treeSet .. | .treeClear .. | .jobkeySet ..
  | .jobkeyClear .. | .wgather .. | .timeSet .. | .mixedStep .. | .dispatchDl .. | .fallbackSet .. | .partSet ..
  | .regSet .. | .schedRead .. | .vcoreKernelStart .. | .preemptReadoutDone .. | .beResume .. | .deadlineMonitorTick
  | .guaranteeWindowEnd .. => true
  | .governorSample m => m.wf
  | .slowLoopTick | .thermalShutdown .. | .throttleRecordTimer .. | .droopBegin .. | .droopEnd .. | .droopSettleEnd .. => true
  | .pace p => p.wf
  | .paceReportTick .. | .paceSet .. | .capSet .. | .domainSet .. | .fillerSet .. | .throttleRead .. | .govRead .. => true
  | .domainEntryCommit d => decide (d.toNat < 46)
  | .wakeSource d source => decide (d.toNat < 46 ∧ source.toNat ≤ 3)
  | .domainWakeTimer d => decide (d.toNat < 46)
  | .domainExitDone d => decide (d.toNat < 46)
  | .powerWaveStart | .errorDetected .. | .selftestVerdict .. | .lockstepMismatch .. | .latentScan .. | .cpStall ..
  | .coreStall .. | .waitTimeout .. | .itemTimeout .. | .resetTimeout .. | .resetComplete .. | .glovePeerSilence .. => true
  | .gloveFault p => p.wf
  | .selftest .. | .errInject .. | .watchdogSet .. | .resetReq .. | .edgeSet .. | .errRead .. | .wkeySet .. | .wkeyClear ..
  | .wkeySlotEmptied .. | .measRead .. | .imageStage .. | .getVersion .. | .getCapabilities .. | .negotiateAlgorithms ..
  | .getDigests .. | .getCertificate .. | .challenge .. | .getMeasurements .. | .keyExchange .. | .finish .. | .heartbeat ..
  | .keyUpdate .. | .endSession .. | .mctpControl .. => true
  | .powerOn e => e.wf
  | .pwrEnFall | .hiuMgrGo .. | .rmReq | .rtpRemovePrepare .. | .rtpRemoveCancel .. | .surpriseRemoval | .rtpRestart ..
  | .rtpWatchdog | .rtpRestartReturn .. | .rtpRestartTimeout | .interruptCommit .. | .eicClaim .. => true
  | .eicComplete _ source => decide (source.toNat < 1088)
  | .eicSoft .. | .msixVectorUnmask .. | .snapTake .. => true
  | .snapshotMarker unit _ => decide (unit < 458)
  | .snapshot p => p.wf
  | .snapRead .. | .counterRead .. | .logCfg .. | .intrCfg .. | .logRecordStore | .logRecordDeliver | .hiuIndData ..
  | .hiuIndDataNoinc .. | .indAccessTimeout .. | .hiuIndStatusRead .. | .unfreeze .. | .parityCheck .. | .registerWrite ..
  | .govTrayCap .. | .govTrayWake .. | .govTrayHostReset .. | .govTrayAlertRead .. | .powerLoss | .inputOvervoltage
  | .inputOvercurrent | .cblPrsnt .. | .referenceEdge | .hostLinkStateChange .. | .hostReadCompletion ..
  | .completionTimeout .. | .transferEngineComplete .. | .resultInRegister .. => true
  | .fillerTargetUpdate amps => amps.length == 4
  | .configurationRequest .. => true
  | .coherentWindowAccess _ off op => op.wf off
  | .illegalOpcode .. | .unknownOpcode .. => true
  | .idleFlit _ f => f.wf
  | .malformedPacket p => p.wf

end Sys2Proof
end

