-- ==== Sys2Proof/Tests/Slice0.lean ====
section
/-!
SUPPORT. Tests: the commands that `Instr.wf` refuses, examples the specification works out, and for each obligation states and operands
that meet its hypotheses together, one for each of its clauses. `okOf`, `errOf` and `doneOf` make an outcome comparable; a hypothesis that
a read gives some bytes reads here that it gives bytes at all, and a variable that a clause only names for its conclusion is left out.
-/
namespace Sys2Proof.Tests
open Sys2Proof Sys2Proof.Machine
set_option Elab.async false

/-! ### Ill-formed commands are refused -/

theorem test_wf_mesh_flits : (Instr.meshReadReq { len := 9 }).wf = false := by decide
theorem test_wf_mesh_payload : (Instr.meshWrite { type := 2, len := 1, payload := List.replicate 33 0 }).wf = false := by decide
theorem test_wf_mesh_contrib : (Instr.meshWrite { type := 2, contrib := 2 }).wf = false := by decide
theorem test_wf_mesh_contrib_zero : (Instr.reduceSram { type := 5, contrib := 0 }).wf = false := by decide
theorem test_wf_mesh_stop : (Instr.meshReadReq { stop := 18 }).wf = false := by decide
theorem test_wf_mesh_type : (Instr.meshReadReq { type := 1 }).wf = false := by decide
theorem test_wf_tile_row : (Instr.tileReceiveRow 0 0 0 0 1 [0] false).wf = false := by decide
theorem test_wf_tile_contrib : (Instr.tileReceiveRow 0 0 0 0 0 (List.replicate 16 0) false).wf = false := by decide
theorem test_wf_packet_data : (Instr.fabricWrite { data := List.replicate 193 0 }).wf = false := by decide +kernel
theorem test_wf_flit_credits : (Instr.dataFlit 0 { ccums := [0] }).wf = false := by decide
theorem test_wf_flit_pad : (Instr.ctrlFlit 0 { ftype := 2, pad := List.replicate 245 0 }).wf = false := by decide +kernel
theorem test_wf_packet_arrives_bare : (Instr.fabricWrite { maybe := true }).wf = false := by decide
theorem test_wf_packet_arrives_unordered : (Instr.fabricWrite { prio := some {} }).wf = false := by decide
theorem test_wf_lane_order : (Instr.lanesLocked 0 (.locked true 0x00)).wf = false := by decide
theorem test_wf_qualify_lanes : (Instr.qualifyWindowEnd 0 ⟨[0, 0, 0], none⟩).wf = false := by decide
theorem test_wf_spare_rows : (Instr.powerOn { spareRows := [(5, 0)] }).wf = false := by decide
theorem test_wf_sample : (Instr.governorSample { tj := [] }).wf = false := by decide
theorem test_wf_power_on_variant : (Instr.powerOn { variant := 3 }).wf = false := by decide
theorem test_wf_power_on_slots : (Instr.powerOn { slots := List.replicate 321 0 }).wf = false := by decide +kernel
theorem test_wf_power_on_pace : (Instr.powerOn { paceMax := List.replicate 33 0 }).wf = false := by decide
theorem test_wf_power_on_tables : (Instr.powerOn { banksBad := [(0, 0)] }).wf = false := by decide
theorem test_wf_scrub_once : (Instr.scrubRead 0 0 0 [3] [3] false).wf = false := by decide
theorem test_wf_bar4_read : (Instr.bar4Access 0 (.read 4097)).wf = false := by decide
theorem test_wf_bar4_write : (Instr.bar4Access 0 (.write [])).wf = false := by decide
theorem test_wf_bar4_atomic : (Instr.bar4Access 0 (.fetchAdd 2 1)).wf = false := by decide
theorem test_wf_bar4_swap : (Instr.bar4Access 0 (.swap 16 1)).wf = false := by decide
theorem test_wf_bar4_cas : (Instr.bar4Access 0 (.cas 12 0 1)).wf = false := by decide
theorem test_wf_bar4_resize : (Instr.bar4Resize 28).wf = false := by decide
theorem test_wf_coherent_line : (Instr.coherentWindowAccess 0 60 (.hostRead 8)).wf = false := by decide
theorem test_wf_coherent_write : (Instr.coherentWindowAccess 0 63 (.hostWrite [1, 2])).wf = false := by decide
theorem test_wf_sample_currents : (Instr.governorSample { current10 := [0] }).wf = false := by decide
theorem test_wf_sample_stacks : (Instr.governorSample { stackTj := [0] }).wf = false := by decide
theorem test_wf_flit_packet : (Instr.dataFlit 0 { pkt := { data := List.replicate 193 0 } }).wf = false := by decide +kernel
theorem test_wf_reserve_table : (Instr.powerOn { reserveBad := [(1, 1), (0, 1)] }).wf = false := by decide
theorem test_wf_domain : (Instr.domainEntryCommit 46).wf = false := by decide
theorem test_wf_wake_source : (Instr.wakeSource 45 4).wf = false := by decide
theorem test_wf_eic_source : (Instr.eicComplete 0 1088).wf = false := by decide
theorem test_wf_snapshot_unit : (Instr.snapshotMarker 458 0).wf = false := by decide
theorem test_wf_filler_dies : (Instr.fillerTargetUpdate [0, 0, 0]).wf = false := by decide

/-! ### Examples that the specification works out -/

/-- Section 3, one sum, three routes: the second product, and the sum of the four in two of the orders. -/
theorem test_product_enters_ledger :
    ledgerEnter (ledgerProduct (decodeElem 2 0xB3) (decodeElem 2 0x38) 127 127) = (0xFFFFFFFFFFFF500000000000, 0) := by decide
theorem test_smallest_product_enters_ledger :
    ledgerEnter (ledgerProduct (decodeElem 2 0x01) (decodeElem 2 0x40) 127 127) = (0x000000000000010000000000, 0) := by decide
theorem test_ledger_sum_of_the_routes :
    ledgerAdd 0x000000000230010000000000 0x000000000005500000000000 = 0x000000000235510000000000 := by decide
/-- Section 3: the conversions of the sum. -/
theorem test_ledger_to_bf16 : ledgerConvert 1 0x000000000235510000000000 0 = (0x440D, flConvInexact) := by decide +kernel
theorem test_ledger_to_e4m3_clamps :
    ledgerConvert 2 0x000000000235510000000000 0 = (0x7E, flConvInexact ||| flConvOverflow) := by decide +kernel
theorem test_ledger_to_e4m3_shifted : ledgerConvert 2 0x000000000235510000000000 (-1) = (0x79, flConvInexact) := by decide +kernel
/-- Section 3, block-scaled products: 18, the SAT code with LEDGER_RANGE, and 0 with LEDGER_LOW. -/
theorem test_block_scaled_product :
    ledgerEnter (ledgerProduct (decodeElem 6 7) (decodeElem 6 3) 0x7A 0x85) = (0x000000000012000000000000, 0) := by decide
theorem test_block_scaled_product_beyond :
    ledgerEnter (ledgerProduct (decodeElem 6 7) (decodeElem 6 3) 0xA4 0x93) = (satCode, flLedgerRange) := by decide +kernel
theorem test_block_scaled_product_below :
    ledgerEnter (ledgerProduct (decodeElem 6 7) (decodeElem 6 3) 0x50 0x5A) = (0, flLedgerLow) := by decide +kernel
/-- Section 3: an FP32 sum that depends on its order, (2^24 + 1) - 2^24. -/
theorem test_fp32_sum_in_one_order : (fp32Sub (fp32Add 0x4B800000 0x3F800000).1 0x4B800000).1 = 0 := by decide +kernel
theorem test_fp32_sum_in_the_other : (fp32Add 0x3F800000 (fp32Sub 0x4B800000 0x4B800000).1).1 = 0x3F800000 := by decide +kernel
/-- Section 5, R117: the quotient rounds toward zero; the corner of signed division. -/
theorem test_div : aluOp 12 (-7) 2 = some (-3) := by decide
theorem test_rem : aluOp 14 (-7) 2 = some (-1) := by decide
theorem test_div_corner : aluOp 12 0x8000000000000000 (-1) = some 0x8000000000000000 := by decide
theorem test_rem_corner : aluOp 14 0x8000000000000000 (-1) = some 0 := by decide
theorem test_div_by_zero : aluOp 12 5 0 = some 0 := by decide
theorem test_rem_by_zero : aluOp 14 5 0 = some 5 := by decide
/-- Section 7: the directory record of V-core vcore 128 of rank 7. -/
theorem test_directory_record : dirPack 0x02007 1 0 = 0x00022007 := by decide

/-- A meter of partition 3 at TARGET 125, and what an edge releases and leaves in ACC (section 2). -/
def pace125 (acc : Nat) : State := setMeter {} 3 { target := 125, written := 125, acc := acc }
def edge3 (s : State) : Option (Nat × Nat) :=
  match exec .referenceEdge s with
  | .next t => some ((counterValue t (counterId 4 3 0)).toNat, (getMeter t 3).acc)
  | _ => none
theorem test_meter_edge_one : edge3 (pace125 0) = some (12, 5) := by decide +kernel
theorem test_meter_edge_two : edge3 (pace125 5) = some (13, 0) := by decide +kernel

/-- Section 18, a stray write: 0x0B06 at EIC_SOFT raises S710. -/
def softPending (d : Word) : Option Bool :=
  match execEicSoft .manager d {} with
  | .next t => some (getIrq t 710).pend
  | _ => none
theorem test_stray_write_raises_S710 : softPending 0x00000B06 = some true := by decide +kernel

/-- No row of the table has bits, so no word spells a command and nothing is put in front of the queue. -/
theorem test_no_word_spells : decodeTableWord 64 0x0100000000000000 = none := rfl
theorem test_reset_queue_is_empty : State.reset.pending = [] := rfl
theorem test_empty_queue_idles : Machine.step State.reset = .next State.reset := rfl

/-- R247, "the same computation as the IEEE 802.3 frame check sequence": its check value, over the digits 1 to 9. -/
theorem test_crc32_check_value : crc32 [0x31, 0x32, 0x33, 0x34, 0x35, 0x36, 0x37, 0x38, 0x39] = 0xCBF43926 := by decide +kernel
/-- R179, SHA-384: the digest of "abc" in its own standard, first byte at the low end. -/
theorem test_sha384_of_abc : sha384 [0x61, 0x62, 0x63] =
    0xa725c834a1ecba5823cce7a12b078680ed5bff435a608b1a63d1de0eab322c270750c69a693da0b58b5ea3453f7500cb := by decide +kernel

/-! ### What the witnesses are built of -/

/-- Region 0 of partition 0 is the 32 banks of cluster 0. -/
def withMap : State := { slices := [(0, { regions := [(0, 0x80000000FFFFFFFF)] })] }
/-- The last M-, V- and S-core, running at PC 0 of the region; what is given is otherwise its state. -/
def mAt (m : MCore) (k : Core := {}) : State := setM (setCore withMap 314 { k with run := .running }) 314 m
def vAt (v : VCore) (k : Core := {}) : State := setV (setCore withMap 317 { k with run := .running }) 317 v
def sAt (x : SCore) (k : Core := {}) : State := setS (setCore withMap 319 { k with run := .running }) 319 x
def aXfer : Xfer := { bytes := 32, kind := .load 0 0 }
/-- Partition 0 with SRAM and an HBM region on stack 0, and an object over its SRAM. -/
def withMem : State := {
  slices := [(0, { regions := [(0, 0x80000000FFFFFFFF)], hbm := [(0, 0x8000000000000000), (1, 0x40000000), (3, 0xFFFF)] })]
  objs := [(1, some { obj := 1, owner := 1, size := 0x4000000 })]
  fp := { chInService := BitVec.allOnes 128 } }
/-- A tenant context resident in slot 1, whose segment 0 maps the object at VA 0, and the manager's context. -/
def tenant : Context := { id := 1, slot := 2, segs := [{ w0 := 0x78, w1 := 0x4000000, w2 := 1 }] }
def manager : Context := { id := 0, manager := true, slot := 1, segs := [{ w0 := 0x78, w1 := 0x4000000, w2 := 1 }] }
/-- A translation that maps 2 MiB at 2^44 to host memory. -/
def hostPage : AtcEntry := { va := 0x100000000000, addr := 0x200000000000, big := true, rd := true, wr := true }
/-- An item of the words given, started and not yet acted on, in queue 1 of a context; its reference is its context, queue 1, SEQ 7. -/
def anItem (ws : List Dword) (run : ItemRun := {}) : Item := { seq := 7, words := ws, started := true, run := run }
def queued (c : Context) (i : Item) (s : State := withMem) : State := setCtx (setQueue s { ctx := c.id, qid := 1, items := [i] }) c
def mine : ItemRef := ⟨1, 1, 7⟩
def theirs : ItemRef := ⟨0, 1, 7⟩
/-- What a read of a list gave. -/
def okOf : Got → Option (State × List Byte)
  | .ok s b => some (s, b)
  | _ => none
/-- Words at the start of the object. -/
def withWords (l : List Dword) : State := { withMem with mem := { sram := memOf (dwordBytes l) } }
def errOf {ε α : Type} : Except ε α → Option ε
  | .error n => some n
  | .ok _ => none
/-- Glove 5 of two members: this node, node 9, at rank 0 and node 6 at rank 1. -/
def pair5 : Glove := { gid := 5, vcount := 4, members := [(0, 9), (1, 6)], memberCount := 2 }
def onNet : State := setGlove { withMem with node := 9, fab := { nodeValid := true } } pair5
/-- A message of glove 5 from node 6, and what its arrival leaves. -/
def msg (code : Nat) (data : List Byte) (vc : BitVec 2 := 0) : Packet :=
  { ttype := 0x0D, dst := 9, src := 6, seq := 1, gid := 5, ext := BitVec.ofNat 32 code, data := data, len := BitVec.ofNat 13 data.length, vc := vc }
def after (s : State) (p : Packet) : State := (receive s p).1
/-- A packet of type `t` from node 6 for a window of the object. -/
def req (t : BitVec 5) (vc : BitVec 2) (addr : Dword) (ext : Word) (data : List Byte) (len : Nat) : Packet :=
  { ttype := t, dst := 9, src := 6, seq := 1, vc := vc, addr := addr, ext := ext, data := data, len := BitVec.ofNat 13 len }
/-- Window 4095 on the object. -/
def onWin (w : Window) : State := { onNet with windows := [(4095, w)] }
def whole : Window := { obj := 1, valid := true, rights := 15, wgen := 5 }
def theObj : MemObj := { obj := 1, owner := 1, size := 0x4000000 }
/-- Glove 5 with M-core vcore 3 bound here, at node 9; a tenant and the manager of it; its core 314. -/
def glove9 : State := setGlove { withMem with node := 9 } { pair5 with dir := [(3, 9)] }
def inGlove : Context := { tenant with gid := 5 }
def overGlove : Context := { manager with gid := 5 }
def boundCore (sc : Sched) : State := { withMem with bindings := [(314, { vcore := 3, gid := 5, state := 1 })], sched := sc }
def doneOf : Attempt → Option State
  | .done s => some s
  | _ => none
/-- The reattach record is that of the state. -/
def atRest (s : State) : State := { s with host := { s.host with raLast := raBody s } }
/-- A flit with its CRC. -/
def sealed (f : Flit) : Flit := { f with crc := flitCrc f }
def rootedOf : Rooted → Option (State × Byte)
  | .done s k => some (s, k)
  | _ => none

/-! ### Witnesses -/

theorem witness_MRegistersBranchesAndFences :
    (∃ (c : Fin 160) (w : Dword) (s : State), mIssue s c w 0x00 0 = true) ∧
    (∃ (c : Fin 160) (w : Dword) (s : State), mIssue s c w 0x08 0x00F00000FFFFFFFF = true) ∧
    (∃ (c : Fin 160) (w : Dword) (s : State), mIssue s c w 0x09 0x00FF0000FFFFFFFF = true) ∧
    (∃ (c : Fin 160) (w : Dword) (s : State), mIssue s c w 0x0A 0x00FFF00000000000 = true) ∧
    (∃ (c : Fin 160) (w : Dword) (s : State), mIssue s c w 0x0B 0x00FFF00000000000 = true) ∧
    (∃ (c : Fin 160) (w : Dword) (s : State), mIssue s c w 0x0C 0x00FF00000000003F = true) ∧
    (∃ (c : Fin 160) (w : Dword) (s : State), mIssue s c w 0x1A 0x00F0000000000307 = true ∧ bit w 8 = false) ∧
    (∃ (c : Fin 160) (w : Dword) (s : State), mIssue s c w 0x1A 0x00F0000000000307 = true ∧ bit w 8 = true ∧ bit w 9 = false ∧
      waveOnTile (getM s (mPid c)) (fld w 2 0) = false) ∧
    (∃ (c : Fin 160) (w : Dword) (s : State) (taken : _), mIssue s c w 0x10 0x00FF0E00000FFFFF = true ∧ condHolds (fld w 43 41) (rdG
      (getM s (mPid c)) (fA w)) (rdG (getM s (mPid c)) (fB w)) = some taken) ∧
    (∃ (c : Fin 160) (w : Dword) (s : State), mIssue s c w 0x11 0x00F00000000FFFFF = true) ∧
    (∃ (c : Fin 160) (w : Dword) (s : State), mIssue s c w 0x03 0 = true ∧ fenced s (mPid c) = true ∧ (getM s (mPid c)).refused = false) ∧
    (∃ (c : Fin 160) (w : Dword) (s : State), mIssue s c w 0x03 0 = true ∧ fenced s (mPid c) = false) ∧
    (∃ (c : Fin 160) (w : Dword) (s : State), mIssue s c w 0x03 0 = true ∧ fenced s (mPid c) = true ∧ (getM s (mPid c)).refused = true) ∧
    (∃ (c : Fin 160) (w : Dword) (s : State), mIssue s c w 0x18 0x1F = true ∧ fenced s (mPid c) = true ∧ (getM s (mPid c)).refused =
      false) ∧
    (∃ (c : Fin 160) (w : Dword) (s : State), mIssue s c w 0x19 0x00F000000000011F = true ∧ bit w 8 = false ∧ waitDone (coreCounter s
      (mPid c) (fld w 4 0)) ((rdG (getM s (mPid c)) (fA w)).setWidth 16) = true) ∧
    (∃ (c : Fin 160) (w : Dword) (s : State), mIssue s c w 0x19 0x00F000000000011F = true ∧ bit w 8 = false ∧ waitDone (coreCounter s
      (mPid c) (fld w 4 0)) ((rdG (getM s (mPid c)) (fA w)).setWidth 16) = false) ∧
    (∃ (c : Fin 160) (w : Dword) (s : State), mIssue s c w 0x19 0x00F000000000011F = true ∧ bit w 8 = true ∧ fld w 4 3 = 0) ∧
    (∃ (c : Fin 160) (w : Dword) (s : State), mIssue s c w 0x01 1 = true ∧ fenced s (mPid c) = true ∧ (getM s (mPid c)).refused = false
      ∧ (getM s (mPid c)).waves = []) ∧
    (∃ (c : Fin 160) (w : Dword) (s : State), mIssue s c w 0x02 0xFFF = true ∧ (getCore s (mPid c)).point = .none) ∧
    (∃ (c : Fin 160) (w : Dword) (s : State), mIssue s c w 0x02 0xFFF = true ∧ (getCore s (mPid c)).point ≠ .none ∧ fenced s (mPid c) =
      true ∧ (getM s (mPid c)).waves = []) :=
  ⟨⟨159, 0x0000000000000000, (mAt {}), by decide +kernel⟩,
   ⟨159, 0x08F00000FFFFFFFF, (mAt {}), by decide +kernel⟩,
   ⟨159, 0x09FF000080000000, (mAt {}), by decide +kernel⟩,
   ⟨159, 0x0A1FF00000000000, (mAt {}), by decide +kernel⟩,
   ⟨159, 0x0BF0100000000000, (mAt {}), by decide +kernel⟩,
   ⟨159, 0x0C2300000000003F, (mAt {}), by decide +kernel⟩,
   ⟨159, 0x1A10000000000207, (mAt {}), by decide +kernel⟩,
   ⟨159, 0x1A10000000000107, (mAt {}), by decide +kernel⟩,
   ⟨159, 0x10120A00000FFFFF, (mAt {}), true, by decide +kernel⟩,
   ⟨159, 0x1100000000080000, (mAt {}), by decide +kernel⟩,
   ⟨159, 0x0300000000000000, (mAt {}), by decide +kernel⟩,
   ⟨159, 0x0300000000000000, (mAt {} { xfers := [aXfer] }), by decide +kernel⟩,
   ⟨159, 0x0300000000000000, (mAt { refused := true }), by decide +kernel⟩,
   ⟨159, 0x180000000000001F, (mAt {}), by decide +kernel⟩,
   ⟨159, 0x190000000000001F, (mAt {}), by decide +kernel⟩,
   ⟨159, 0x1910000000000000, (mAt { g := [(1, 1)] }), by decide +kernel⟩,
   ⟨159, 0x1910000000000107, (mAt {}), by decide +kernel⟩,
   ⟨159, 0x0100000000000001, (mAt {}), by decide +kernel⟩,
   ⟨159, 0x0200000000000FFF, (mAt {}), by decide +kernel⟩,
   ⟨159, 0x0200000000000001, (mAt {} { point := .refit }), by decide +kernel⟩⟩

theorem witness_MTilesAndCopies :
    (∃ (c : Fin 160) (w : Dword) (s : State), mIssue s c w 0x29 0x0000071000000000 = true ∧ waveOnTile (getM s (mPid c)) (fld w 42 40)
      = false) ∧
    (∃ (c : Fin 160) (w : Dword) (s : State), mIssue s c w 0x2A 0x0000071000000000 = true ∧ bit w 36 = true) ∧
    (∃ (c : Fin 160) (w : Dword) (s : State), mIssue s c w 0x2A 0x0000071000000000 = true ∧ bit w 36 = false) ∧
    (∃ (c : Fin 160) (w : Dword) (s : State) (k : _) (n : _) (ns : _) (gp : _) (gps : _), mIssue s c w 0x28 0x00FF010FC0000000 = true ∧
      fmtForm (fld w 35 32) (bit w 31) = true ∧ (bit w 30 = true → 4 ≤ fld w 35 32 ∧ fld w 35 32 ≤ 6) ∧ k = (if bit w 30 then 256 else
      128) ∧ n = npOf (fld w 35 32) * k * fmtBits (fld w 35 32) / 8 ∧ ns = (if bit w 31 then npOf (fld w 35 32) * (k / 32) else 0) ∧ gp
      = (rdG (getM s (mPid c)) (fA w)).toNat ∧ gps = (rdG (getM s (mPid c)) (fB w)).toNat ∧ gp % 32 = 0 ∧ (bit w 31 = true → gps % 4 =
      0) ∧ obOneBank gp n = true ∧ (bit w 31 = true → obOneBank gps ns = true) ∧ waveOnPlane (getM s (mPid c)) (bit w 40) = false ∧
      localHazard (getCore s (mPid c)) gp n = false ∧ localHazard (getCore s (mPid c)) gps ns = false ∧ obPoisoned (getM s (mPid c)) gp
      n = false ∧ (bit w 31 = true → obPoisoned (getM s (mPid c)) gps ns = false)) ∧
    (∃ (c : Fin 160) (w : Dword) (s : State), rowLen w ≠ 0 ∧ (rdG (getM s (mPid c)) (fA w)).toNat % 32 = 0 ∧ (rdG (getM s (mPid c)) (fB
      w)).toNat % 32 = 0 ∧ (rdG (getM s (mPid c)) (fC w)).toNat % 32 = 0 ∧ (rdG (getM s (mPid c)) (fB w)).toNat + rowsOf w * rowLen w ≤
      2 ^ 20 ∧ (∀ i, i < rowsOf w → sliceRange (coreMap s (mPid c)) (rowAddr (rdG (getM s (mPid c)) (fA w)) (rdG (getM s (mPid c)) (fC
      w)) i) (rowLen w) = true) ∧ (getCore s (mPid c)).xfers = [] ∧ mIssue s c w 0x20 0x00FFF0FF00000FFF = true) ∧
    (∃ (c : Fin 160) (w : Dword) (s : State), rowLen w ≠ 0 ∧ (rdG (getM s (mPid c)) (fA w)).toNat % 32 = 0 ∧ (rdG (getM s (mPid c)) (fB
      w)).toNat % 32 = 0 ∧ (rdG (getM s (mPid c)) (fC w)).toNat % 32 = 0 ∧ (rdG (getM s (mPid c)) (fB w)).toNat + rowsOf w * rowLen w ≤
      2 ^ 20 ∧ (∀ i, i < rowsOf w → sliceRange (coreMap s (mPid c)) (rowAddr (rdG (getM s (mPid c)) (fA w)) (rdG (getM s (mPid c)) (fC
      w)) i) (rowLen w) = true) ∧ (getCore s (mPid c)).xfers = [] ∧ mIssue s c w 0x21 0x00FFF0FF00000FFF = true) :=
  ⟨⟨159, 0x2900071000000000, (mAt {}), by decide +kernel⟩,
   ⟨159, 0x2A00071000000000, (mAt {}), by decide +kernel⟩,
   ⟨159, 0x2A00000000000000, (mAt {}), by decide +kernel⟩,
   ⟨159, 0x28120106C0000000, (mAt { g := [(1, 0x80000), (2, 0xFFC00)] }), (if bit (0x28120106C0000000 : Dword) 30 then 256 else 128),
   npOf (fld (0x28120106C0000000 : Dword) 35 32) * (if bit (0x28120106C0000000 : Dword) 30 then 256 else 128) * fmtBits (fld
   (0x28120106C0000000 : Dword) 35 32) / 8, (if bit (0x28120106C0000000 : Dword) 31 then npOf (fld (0x28120106C0000000 : Dword) 35 32) *
   ((if bit (0x28120106C0000000 : Dword) 30 then 256 else 128) / 32) else 0), (rdG (getM ((mAt { g := [(1, 0x80000), (2, 0xFFC00)] }) :
   State) (mPid (159 : Fin 160))) (fA (0x28120106C0000000 : Dword))).toNat, (rdG (getM ((mAt { g := [(1, 0x80000), (2, 0xFFC00)] }) :
   State) (mPid (159 : Fin 160))) (fB (0x28120106C0000000 : Dword))).toNat, by decide +kernel⟩,
   ⟨159, 0x2012300200000800, (mAt { g := [(2, 0xE0000), (3, 0x10000)] }), by decide +kernel⟩,
   ⟨159, 0x2112300000000001, (mAt { g := [(2, 0xFE000), (3, 32)] }), by decide +kernel⟩⟩

theorem witness_MldIssuesEveryRow :
    ∃ (c : Fin 160) (w : Dword) (s : State), Rest s = true ∧ mIssue s c w 0x20 0x00FFF0FF00000FFF = true ∧ rowLen w ≠ 0 ∧ rowsOf w *
      rowLen w ≤ 65536 ∧ (rdG (getM s (mPid c)) (fA w)).toNat % 32 = 0 ∧ (rdG (getM s (mPid c)) (fB w)).toNat % 32 = 0 ∧ (rdG (getM s
      (mPid c)) (fC w)).toNat % 32 = 0 ∧ (rdG (getM s (mPid c)) (fB w)).toNat + rowsOf w * rowLen w ≤ 2 ^ 20 ∧ (∀ i, i < rowsOf w →
      sliceRange (coreMap s (mPid c)) (rowAddr (rdG (getM s (mPid c)) (fA w)) (rdG (getM s (mPid c)) (fC w)) i) (rowLen w) = true) ∧
      (getCore s (mPid c)).xfers = [] :=
  ⟨159, 0x2012300200000400, (mAt { g := [(2, 0xF0000), (3, 0x10000)] }), by decide +kernel⟩

theorem witness_MWavesAndTheirEvents :
    (∃ (c : Fin 160) (w : Dword) (s : State), mIssue s c w 0x30 0x00FF078FFFFFFFFF = true ∧ fmtForm (fld w 35 32) (bit w 31) = true ∧
      fld w 21 14 ≠ 0 ∧ fld w 28 22 + fld w 21 14 ≤ 128 ∧ (fld w 35 32 ≠ 7 → fld w 30 29 = 0) ∧ (planeOf (getM s (mPid c)) (bit w
      39)).loaded = true ∧ (pairing (fld w 35 32) (planeOf (getM s (mPid c)) (bit w 39)).fmt.toNat = some 0 ∧ (planeOf (getM s (mPid c))
      (bit w 39)).k256 = decide (0 = 2)) ∧ (getTile (getM s (mPid c)) (fld w 42 40)).fp32 = decide (fld w 35 32 = 7) ∧ (rdG (getM s
      (mPid c)) (fA w)).toNat % 32 = 0 ∧ (bit w 31 = true → (rdG (getM s (mPid c)) (fB w)).toNat % 4 = 0) ∧ (∀ i, i < fld w 21 14 → ∀ r
      ∈ mwaveRanges (getM s (mPid c)) w i, obOneBank r.1 r.2 = true)) ∧
    (∃ (c : Fin 160) (w : Dword) (s : State), mIssue s c w 0x31 0x00FFF7EFFC00FFFF = true ∧ fmtForm (streamArgs (getM s (mPid c))
      w).fmtW (streamArgs (getM s (mPid c)) w).scW = true ∧ fmtForm (streamArgs (getM s (mPid c)) w).fmtX (streamArgs (getM s (mPid c))
      w).scX = true ∧ (streamArgs (getM s (mPid c)) w).n ≠ 0 ∧ (streamArgs (getM s (mPid c)) w).ks ≠ 0 ∧ (streamArgs (getM s (mPid c))
      w).cg0 + ((streamArgs (getM s (mPid c)) w).n - 1) / (streamArgs (getM s (mPid c)) w).ks ≤ 63 ∧ fld (rdG (getM s (mPid c)) (fC w))
      31 22 = 0 ∧ (pairing (streamArgs (getM s (mPid c)) w).fmtX (streamArgs (getM s (mPid c)) w).fmtW = some 0) ∧ (∀ i, i ≤
      ((streamArgs (getM s (mPid c)) w).n - 1) / (streamArgs (getM s (mPid c)) w).ks → (getTile (getM s (mPid c)) (((streamArgs (getM s
      (mPid c)) w).t + ((streamArgs (getM s (mPid c)) w).cg0 + i) / 8) % 8)).fp32 = false) ∧ (streamArgs (getM s (mPid c)) w).gw % 32 =
      0 ∧ (streamArgs (getM s (mPid c)) w).gx % 32 = 0 ∧ (∀ b, b < (streamArgs (getM s (mPid c)) w).b → obOneBank ((streamArgs (getM s
      (mPid c)) w).gx + b * (streamArgs (getM s (mPid c)) w).xstr * 32) (min (streamArgs (getM s (mPid c)) w).ks (streamArgs (getM s
      (mPid c)) w).n * ((streamArgs (getM s (mPid c)) w).k * fmtBits (streamArgs (getM s (mPid c)) w).fmtX / 8)) = true ∧ ((streamArgs
      (getM s (mPid c)) w).scX = true → obOneBank ((streamArgs (getM s (mPid c)) w).ascale * 16 + b * ((streamArgs (getM s (mPid c))
      w).ks * ((streamArgs (getM s (mPid c)) w).k / 32))) (min (streamArgs (getM s (mPid c)) w).ks (streamArgs (getM s (mPid c)) w).n *
      ((streamArgs (getM s (mPid c)) w).k / 32)) = true)) ∧ sliceRange (coreMap s (mPid c)) (streamArgs (getM s (mPid c)) w).gw
      ((streamArgs (getM s (mPid c)) w).n * blockBytes (streamArgs (getM s (mPid c)) w).k (streamArgs (getM s (mPid c)) w).fmtW
      (streamArgs (getM s (mPid c)) w).scW) = true) ∧
    (∃ (c : Fin 160) (w : Dword) (s : State), mIssue s c w 0x38 0x00FF077FFFFFF800 = true ∧ fld w 38 36 ≠ 7 ∧ fld w 18 11 ≠ 0 ∧ fld w
      25 19 + fld w 18 11 ≤ 128 ∧ (fld w 35 29 ≠ 0 → (getTile (getM s (mPid c)) (fld w 42 40)).fp32 = false ∧ fld w 38 36 ≠ 6) ∧
      ((getTile (getM s (mPid c)) (fld w 42 40)).fp32 = false → 2 ≤ fld w 28 27 → fld w 38 36 = 6) ∧ ((getTile (getM s (mPid c)) (fld w
      42 40)).fp32 = true → fld w 28 27 ≤ 1 ∧ fld w 38 36 ≤ 1) ∧ (fld w 28 27 = 3 → fld (rdG (getM s (mPid c)) (fA w)) 25 19 + fld w 18
      11 ≤ 128) ∧ (fld w 28 27 ≠ 3 → (rdG (getM s (mPid c)) (fA w)).toNat % 32 = 0 ∧ (rdG (getM s (mPid c)) (fB w)).toNat % 32 = 0) ∧
      (fld w 28 27 = 0 → ∀ i, i < fld w 18 11 → rowAddr (rdG (getM s (mPid c)) (fA w)) (rdG (getM s (mPid c)) (fB w)) i + convRowBytes
      (fld w 38 36) ≤ 2 ^ 20) ∧ (fld w 28 27 = 1 ∨ fld w 28 27 = 2 → ∀ i, i < fld w 18 11 → sliceRange (coreMap s (mPid c)) (rowAddr
      (rdG (getM s (mPid c)) (fA w)) (rdG (getM s (mPid c)) (fB w)) i) (convRowBytes (fld w 38 36)) = true) ∧ (fld w 28 27 = 2 → ∀ i, i
      < fld w 18 11 → rowAddr (rdG (getM s (mPid c)) (fA w)) (rdG (getM s (mPid c)) (fB w)) i / 2 ^ 26 = (rdG (getM s (mPid c)) (fA
      w)).toNat / 2 ^ 26 ∧ (rowAddr (rdG (getM s (mPid c)) (fA w)) (rdG (getM s (mPid c)) (fB w)) i + convRowBytes (fld w 38 36) - 1) /
      2 ^ 26 = (rdG (getM s (mPid c)) (fA w)).toNat / 2 ^ 26) ∧ waveOnTile (getM s (mPid c)) (fld w 42 40) = false ∧ (getCore s (mPid
      c)).xfers = []) ∧
    (∃ (c : Fin 160) (s : State) (w : Dword) (i : _), mReady s (mPid c) = true ∧ (getCore s (mPid c)).credits ≠ 0 ∧ (getM s (mPid
      c)).job = .wave w i ∧ (getM s (mPid c)).stream = [] ∧ i + 1 ≠ fld w 21 14 ∧ (∀ r ∈ mwaveRanges (getM s (mPid c)) w i, obPoisoned
      (getM s (mPid c)) r.1 r.2 = false)) ∧
    (∃ (c : Fin 160) (s : State) (w : Dword) (i : _), (getM s (mPid c)).job = .wave w i ∧ (getCore s (mPid c)).credits = 0) ∧
    (∃ (c : Fin 160) (s : State) (w : Wave) (l : List Wave), (getM s (mPid c)).waves = w :: l) ∧
    (∃ (c : Fin 160) (s : State) (tile : Fin 8) (row : Fin 128) (seg : Fin 8) (contrib : Byte) (ps : List Ledger), tileReceive (getM s
      (mPid c)) tile.val row.val seg.val contrib.toNat (ps.take 16) |>.isSome) ∧
    (∃ (c : Fin 160) (s : State) (tile : Fin 8), (getTile (getM s (mPid c)) tile.val).isOpen = false) :=
  ⟨⟨159, 0x301207001FC04000, (mAt { plane0 := { loaded := true } }), by decide +kernel⟩,
   ⟨159, 0x3112370000000001, (mAt { g := [(3, 0x003F0001)] }), by decide +kernel⟩,
   ⟨159, 0x3812076013F80800, (mAt { g := [(1, 0x3FFF000)] }), by decide +kernel⟩,
   ⟨159, (mAt { job := .wave 0x3000000000008000 0 } { credits := 1 }), 0x3000000000008000, 0, by decide +kernel⟩,
   ⟨159, (mAt { job := .wave 0x3000000000008000 0 }), 0x3000000000008000, 0, by decide +kernel⟩,
   ⟨159, (mAt { waves := [{}] }), {}, [], by decide +kernel⟩,
   ⟨159, (mAt { tiles := [(7, { isOpen := true })] }), (7 : Fin 8), (127 : Fin 128), (7 : Fin 8), (255 : Byte), (List.replicate 16 0),
   by decide +kernel⟩,
   ⟨159, (mAt {}), (7 : Fin 8), by decide +kernel⟩⟩

theorem witness_VScalarsAndControl :
    (∃ (c : Fin 96) (w : Dword) (s : State), vIssue s c w 0x00 0 [] = true) ∧
    (∃ (c : Fin 96) (w : Dword) (s : State), vIssue s c w 0x08 (mkDa ||| 0xFFFFFFFF) [128 + vD w] = true) ∧
    (∃ (c : Fin 96) (w : Dword) (s : State), vIssue s c w 0x09 (mkDa ||| mkAa ||| 0xFFFFFFFF) [128 + vD w, 128 + vA w] = true) ∧
    (∃ (c : Fin 96) (w : Dword) (s : State), vIssue s c w 0x0A (mkDa ||| mkAa ||| mkBa) [128 + vD w, 128 + vA w, 128 + vB w] = true) ∧
    (∃ (c : Fin 96) (w : Dword) (s : State), vIssue s c w 0x0B (mkDa ||| mkAa ||| mkBa) [128 + vD w, 128 + vA w, 128 + vB w] = true) ∧
    (∃ (c : Fin 96) (w : Dword) (s : State), vIssue s c w 0x0C (mkDa ||| mkAa ||| mkBa) [128 + vD w, 128 + vA w, 128 + vB w] = true) ∧
    (∃ (c : Fin 96) (w : Dword) (s : State), vIssue s c w 0x0D (mkDa ||| mkAa ||| 0x3F) [128 + vD w, 128 + vA w] = true) ∧
    (∃ (c : Fin 96) (w : Dword) (s : State), vIssue s c w 0x17 (mkDa ||| mkAk) [128 + vD w, 64 + vA w] = true) ∧
    (∃ (c : Fin 96) (w : Dword) (s : State), vIssue s c w 0x1A (mkDa ||| 0x200) [128 + vD w] = true) ∧
    (∃ (c : Fin 96) (w : Dword) (s : State), vIssue s c w 0x1D (mkDa ||| mkAv ||| 0x1FF) [128 + vD w, vA w] = true) ∧
    (∃ (c : Fin 96) (w : Dword) (s : State), vIssue s c w 0x1E (mkDk ||| mkAk ||| mkBk ||| 7) [64 + vD w, 64 + vA w, 64 + vB w] = true
      ∧ fld w 2 0 ≤ 4) ∧
    (∃ (c : Fin 96) (w : Dword) (s : State), vIssue s c w 0x1F (mkDk ||| mkAa) [64 + vD w, 128 + vA w] = true) ∧
    (∃ (c : Fin 96) (w : Dword) (s : State) (taken : _), vIssue s c w 0x10 (mkAa ||| mkBa ||| 0xEFFFFF) [128 + vA w, 128 + vB w] = true
      ∧ condHolds (fld w 23 21) (rdA (getV s (vPid c)) (vA w)) (rdA (getV s (vPid c)) (vB w)) = some taken) ∧
    (∃ (c : Fin 96) (w : Dword) (s : State), vIssue s c w 0x11 (mkDa ||| 0xFFFFF) [128 + vD w] = true) ∧
    (∃ (c : Fin 96) (w : Dword) (s : State), vIssue s c w 0x03 0 [] = true) ∧
    (∃ (c : Fin 96) (w : Dword) (s : State), vIssue s c w 0x18 0x1F [] = true ∧ fenced s (vPid c) = true) ∧
    (∃ (c : Fin 96) (w : Dword) (s : State), vIssue s c w 0x19 (mkAa ||| 0x1F) [128 + vA w] = true) ∧
    (∃ (c : Fin 96) (w : Dword) (s : State), vIssue s c w 0x01 1 [] = true ∧ fenced s (vPid c) = true ∧ (getV s (vPid c)).results = []) ∧
    (∃ (c : Fin 96) (w : Dword) (s : State), vIssue s c w 0x02 0xFFF [] = true ∧ (getCore s (vPid c)).point = .none) ∧
    (∃ (c : Fin 96) (w : Dword) (s : State), vIssue s c w 0x02 0xFFF [] = true ∧ (getCore s (vPid c)).point ≠ .none ∧ fenced s (vPid c)
      = true ∧ (getV s (vPid c)).results = []) :=
  ⟨⟨95, 0x0000000000000000, (vAt {}), by decide +kernel⟩,
   ⟨95, 0x083C0000FFFFFFFF, (vAt {}), by decide +kernel⟩,
   ⟨95, 0x093CF00080000000, (vAt {}), by decide +kernel⟩,
   ⟨95, 0x0A04F3C000000000, (vAt {}), by decide +kernel⟩,
   ⟨95, 0x0B3C004000000000, (vAt {}), by decide +kernel⟩,
   ⟨95, 0x0C08310000000000, (vAt {}), by decide +kernel⟩,
   ⟨95, 0x0D0420000000003F, (vAt {}), by decide +kernel⟩,
   ⟨95, 0x1704700000000000, (vAt {}), by decide +kernel⟩,
   ⟨95, 0x1A04000000000200, (vAt {}), by decide +kernel⟩,
   ⟨95, 0x1D3FF000000001FF, (vAt {}), by decide +kernel⟩,
   ⟨95, 0x1E1C71C000000004, (vAt {}), by decide +kernel⟩,
   ⟨95, 0x1F1CF00000000000, (vAt {}), by decide +kernel⟩,
   ⟨95, 0x1000108000A8FFFF, (vAt {}), true, by decide +kernel⟩,
   ⟨95, 0x1100000000080000, (vAt {}), by decide +kernel⟩,
   ⟨95, 0x0300000000000000, (vAt {}), by decide +kernel⟩,
   ⟨95, 0x180000000000001F, (vAt {}), by decide +kernel⟩,
   ⟨95, 0x190010000000001F, (vAt {}), by decide +kernel⟩,
   ⟨95, 0x0100000000000001, (vAt {}), by decide +kernel⟩,
   ⟨95, 0x0200000000000FFF, (vAt {}), by decide +kernel⟩,
   ⟨95, 0x0200000000000004, (vAt {} { point := .park }), by decide +kernel⟩⟩

theorem witness_VLaneInstructionsRun :
    (∃ (c : Fin 96) (w : Dword) (s : State), vIssue s c w 0x1C (mkDv ||| mkAa ||| mkM) [] = true) ∧
    (∃ (c : Fin 96) (w : Dword) (s : State), vIssue s c w 0x30 (mkDv ||| mkAv ||| mkBs w ||| mkM ||| 0xF) [] = true ∧ fld w 3 0 ≤ 7) ∧
    (∃ (c : Fin 96) (w : Dword) (s : State), vIssue s c w 0x31 (mkDv ||| mkAv ||| mkBs w ||| mkCv ||| mkM) [] = true) ∧
    (∃ (c : Fin 96) (w : Dword) (s : State), vIssue s c w 0x32 (mkDv ||| mkAv ||| mkBs w ||| mkM ||| 0xF) [] = true ∧ fld w 3 0 ≤ 10) ∧
    (∃ (c : Fin 96) (w : Dword) (s : State), vIssue s c w 0x33 (mkDk ||| mkAv ||| mkBs w ||| mkM ||| 0x01E00000) [] = true ∧ fld w 23
      21 ≤ 5) ∧
    (∃ (c : Fin 96) (w : Dword) (s : State), vIssue s c w 0x34 (mkDv ||| mkAv ||| mkBv ||| mkM) [] = true) ∧
    (∃ (c : Fin 96) (w : Dword) (s : State), vIssue s c w 0x35 (mkDv ||| mkAv ||| mkM ||| 7) [] = true ∧ fld w 2 0 ≤ 5) ∧
    (∃ (c : Fin 96) (w : Dword) (s : State), vIssue s c w 0x36 (mkDv ||| mkAv ||| mkM ||| 7) [] = true ∧ fld w 2 0 ≤ 3) ∧
    (∃ (c : Fin 96) (w : Dword) (s : State), vIssue s c w 0x38 (mkDa ||| mkAv ||| mkM ||| 7) [] = true ∧ fld w 2 0 ≤ 6) ∧
    (∃ (c : Fin 96) (w : Dword) (s : State), vIssue s c w 0x39 (mkDv ||| mkAv ||| mkBv ||| mkM) [] = true) ∧
    (∃ (c : Fin 96) (w : Dword) (s : State), vIssue s c w 0x3A (mkDv ||| mkAv ||| mkBa ||| mkM) [] = true) ∧
    (∃ (c : Fin 96) (w : Dword) (s : State), vIssue s c w 0x3B (mkDv ||| mkAv ||| mkBa ||| mkM ||| 0x7FF) [] = true ∧ vD w ≤ 62 ∧ vA w
      ≠ vD w ∧ vA w ≠ vD w + 1) ∧
    (∃ (c : Fin 96) (w : Dword) (s : State), vIssue s c w 0x3C (mkDv ||| mkAv ||| mkBv ||| mkM) [] = true ∧ vD w ≤ 61 ∧ vA w ≤ 61 ∧ vB
      w ≤ 61) ∧
    (∃ (c : Fin 96) (w : Dword) (s : State), vIssue s c w 0x3D (mkDv ||| mkAv ||| mkM ||| 0x017F0000) [] = true ∧ vA w ≤ 61) ∧
    (∃ (c : Fin 96) (w : Dword) (s : State), vIssue s c w 0x3E (mkDv ||| mkAv ||| mkM ||| 0x01000000) [] = true ∧ vD w ≤ 61) ∧
    (∃ (c : Fin 96) (w : Dword) (s : State), vIssue s c w 0x3F (mkDv ||| mkAv ||| mkM) [] = true ∧ vD w ≤ 61 ∧ vA w ≤ 61) ∧
    (∃ (c : Fin 96) (s : State) (b : VBeat), (getV s (vPid c)).beat = some b ∧ vReady s (vPid c) = true ∧ b.begun = false ∧ b.left ≤ 1
      ∧ (getCore s (vPid c)).credits ≠ 0) ∧
    (∃ (c : Fin 96) (s : State), (getV s (vPid c)).beat = none) ∧
    (∃ (c : Fin 96) (s : State) (i : Nat) (r : VResult), (getV s (vPid c)).results[i]? = some r) :=
  ⟨⟨95, 0x1CFCF000E0000000, (vAt {}), by decide +kernel⟩,
   ⟨95, 0x30FFF3C0F0000007, (vAt {}), by decide +kernel⟩,
   ⟨95, 0x31FFFFFFE0000000, (vAt {}), by decide +kernel⟩,
   ⟨95, 0x32FFFFC0E000000A, (vAt {}), by decide +kernel⟩,
   ⟨95, 0x331FFFC0E0A00000, (vAt {}), by decide +kernel⟩,
   ⟨95, 0x34FFFFC0E0000000, (vAt {}), by decide +kernel⟩,
   ⟨95, 0x35FFF000E0000005, (vAt {}), by decide +kernel⟩,
   ⟨95, 0x36FFF000E0000003, (vAt {}), by decide +kernel⟩,
   ⟨95, 0x383FF000E0000006, (vAt {}), by decide +kernel⟩,
   ⟨95, 0x39FFFFC0E0000000, (vAt {}), by decide +kernel⟩,
   ⟨95, 0x3AFFF3C0E0000000, (vAt {}), by decide +kernel⟩,
   ⟨95, 0x3BFBD3C0E0000200, (vAt {}), by decide +kernel⟩,
   ⟨95, 0x3CF7DF40E0000000, (vAt {}), by decide +kernel⟩,
   ⟨95, 0x3DFFD000E0000000, (vAt {}), by decide +kernel⟩,
   ⟨95, 0x3EF7F000E0000000, (vAt {}), by decide +kernel⟩,
   ⟨95, 0x3FF7D000E0000000, (vAt {}), by decide +kernel⟩,
   ⟨95, (vAt { beat := some { w := 0x3000000000000000, left := 1 } } { credits := 1 }), { w := 0x3000000000000000, left := 1 }, by decide +kernel⟩,
   ⟨95, (vAt {}), by decide +kernel⟩,
   ⟨95, (vAt { results := [{}] }), 0, {}, by decide +kernel⟩⟩

theorem witness_VMemory :
    (∃ (c : Fin 96) (w : Dword) (s : State) (m : BitVec 512) (a : Nat) (b : Nat), (getCore s (vPid c)).xfers = [] ∧ m = rdK (getV s
      (vPid c)) (vM w) ∧ vIssue s c w 0x20 (mkDv ||| mkAa ||| mkBa ||| mkM ||| 0x0FC00000) [vD w, 128 + vA w, 128 + vB w, 64 + vM w] =
      true ∧ a = (rdA (getV s (vPid c)) (vA w)).toNat ∧ b = (rdA (getV s (vPid c)) (vB w)).toNat ∧ vFmtForm (fld w 27 24) (bit w 23) =
      true ∧ a % 32 = 0 ∧ (bit w 23 = true → b % 16 = 0) ∧ vLanesInRange (coreMap s (vPid c)) w a b m = true ∧ (vLoadAll s (coreMap s
      (vPid c)) (getV s (vPid c)) w a b m).2.2 = false) ∧
    (∃ (c : Fin 96) (w : Dword) (s : State) (m : BitVec 512) (a : Nat) (b : Nat), (getCore s (vPid c)).xfers = [] ∧ m = rdK (getV s
      (vPid c)) (vM w) ∧ vIssue s c w 0x21 (mkAa ||| mkBa ||| mkCv ||| mkM ||| 0x0FC00000) [128 + vA w, 128 + vB w, vC w, 64 + vM w] =
      true ∧ a = (rdA (getV s (vPid c)) (vA w)).toNat ∧ b = (rdA (getV s (vPid c)) (vB w)).toNat ∧ vFmtForm (fld w 27 24) (bit w 23) =
      true ∧ (bit w 23 = true ∨ fmtBits (fld w 27 24) = 4 ∨ fmtBits (fld w 27 24) = 6 → vM w = 0) ∧ a % 32 = 0 ∧ (bit w 23 = true → b %
      16 = 0) ∧ vLanesInRange (coreMap s (vPid c)) w a b m = true) ∧
    (∃ (c : Fin 96) (w : Dword) (s : State) (m : BitVec 512), (getCore s (vPid c)).xfers = [] ∧ m = rdK (getV s (vPid c)) (vM w) ∧
      vIssue s c w 0x24 (mkDv ||| mkAv ||| mkBa ||| mkM ||| 0x00400000) [vD w, vA w, 128 + vB w, 64 + vM w] = true ∧ (rdA (getV s (vPid
      c)) (vB w)).toNat % 4 = 0 ∧ (∀ e ∈ laneAddrs (getV s (vPid c)) w m, vInRange (coreMap s (vPid c)) (bit w 22) e.2 4 = true ∧ (vRead
      s (coreMap s (vPid c)) (getV s (vPid c)) (bit w 22) e.2 4).2 = false)) ∧
    (∃ (c : Fin 96) (w : Dword) (s : State) (m : BitVec 512), (getCore s (vPid c)).xfers = [] ∧ m = rdK (getV s (vPid c)) (vM w) ∧
      vIssue s c w 0x25 (mkAv ||| mkBa ||| mkCv ||| mkM ||| 0x00700000) [vA w, 128 + vB w, vC w, 64 + vM w] = true ∧ (rdA (getV s (vPid
      c)) (vB w)).toNat % 4 = 0 ∧ (∀ e ∈ laneAddrs (getV s (vPid c)) w m, vInRange (coreMap s (vPid c)) (bit w 22) e.2 4 = true ∧ (bit w
      22 = false → poisoned (getV s (vPid c)).lmPoison 8 e.2 4 = false))) ∧
    (∃ (c : Fin 96) (w : Dword) (s : State) (m : BitVec 512) (a : Nat), (getCore s (vPid c)).xfers = [] ∧ m = rdK (getV s (vPid c)) (vM
      w) ∧ vIssue s c w 0x26 (mkDv ||| mkAa ||| mkM ||| 0x00400000) [vD w, vD w + 1, vD w + 2, 128 + vA w, 64 + vM w] = true ∧ a = (rdA
      (getV s (vPid c)) (vA w)).toNat ∧ vD w ≤ 61 ∧ a % 32 = 0 ∧ (∀ i ∈ lanesOf m, vInRange (coreMap s (vPid c)) (bit w 22) (a + 12 * i)
      12 = true ∧ (vRead s (coreMap s (vPid c)) (getV s (vPid c)) (bit w 22) (a + 12 * i) 12).2 = false)) ∧
    (∃ (c : Fin 96) (w : Dword) (s : State) (m : BitVec 512) (a : Nat), (getCore s (vPid c)).xfers = [] ∧ m = rdK (getV s (vPid c)) (vM
      w) ∧ vIssue s c w 0x27 (mkAa ||| mkCv ||| mkM ||| 0x00600000) [vC w, vC w + 1, vC w + 2, 128 + vA w, 64 + vM w] = true ∧ a = (rdA
      (getV s (vPid c)) (vA w)).toNat ∧ vC w ≤ 61 ∧ a % 32 = 0 ∧ (bit w 21 = true → bit w 22 = true ∧ (ledgerSpan a m).1 / 2 ^ 26 =
      ((ledgerSpan a m).1 + (ledgerSpan a m).2 - 1) / 2 ^ 26) ∧ (∀ i ∈ lanesOf m, vInRange (coreMap s (vPid c)) (bit w 22) (a + 12 * i)
      12 = true)) :=
  ⟨⟨95, 0x20FC1000E8400000, (vAt { a := [(1, 0x3FFFFC0), (2, 0x7FFFC)], k := [(7, 1)] }), 1, 0x3FFFFC0, 0, by decide +kernel⟩,
   ⟨95, 0x2100103FE8400000, (vAt { a := [(1, 0x3FFFFC0), (2, 0x7FFFC)], k := [(7, 1)] }), 1, 0x3FFFFC0, 0, by decide +kernel⟩,
   ⟨95, 0x24FFE080E0000000, (vAt { a := [(1, 0x3FFFFC0), (2, 0x7FFFC)], k := [(7, 1)] }), 1, by decide +kernel⟩,
   ⟨95, 0x2503E0BDE0000000, (vAt { a := [(1, 0x3FFFFC0), (2, 0x7FFFC)], k := [(7, 1)] }), 1, by decide +kernel⟩,
   ⟨95, 0x26F41000E0400000, (vAt { a := [(1, 0x3FFFFC0), (2, 0x7FFFC)], k := [(7, 1)] }), 1, 0x3FFFFC0, by decide +kernel⟩,
   ⟨95, 0x2700103DE0600000, (vAt { a := [(1, 0x3FFFFC0), (2, 0x7FFFC)], k := [(7, 1)] }), 1, 0x3FFFFC0, by decide +kernel⟩⟩

theorem witness_SRegisterResults :
    (∃ (c : Fin 64) (w : Word) (s : State) (v : _), sIssue s c w 0x00 mkR [sRD w, sRA w, sRB w] = true ∧ aluOp (sFN w) (rdX (getS s
      (sPid c)) (sRA w)) (rdX (getS s (sPid c)) (sRB w)) = some v) ∧
    (∃ (c : Fin 64) (w : Word) (s : State), sIssue s c w 0x01 mkI [sRD w, sRA w] = true) ∧
    (∃ (c : Fin 64) (w : Word) (s : State), sIssue s c w 0x02 mkI [sRD w, sRA w] = true) ∧
    (∃ (c : Fin 64) (w : Word) (s : State), sIssue s c w 0x03 mkI [sRD w, sRA w] = true) ∧
    (∃ (c : Fin 64) (w : Word) (s : State), sIssue s c w 0x04 mkI [sRD w, sRA w] = true) ∧
    (∃ (c : Fin 64) (w : Word) (s : State), sIssue s c w 0x05 (mkRD ||| mkRA ||| mkImm6) [sRD w, sRA w] = true) ∧
    (∃ (c : Fin 64) (w : Word) (s : State), sIssue s c w 0x06 (mkRD ||| mkRA ||| mkImm6) [sRD w, sRA w] = true) ∧
    (∃ (c : Fin 64) (w : Word) (s : State), sIssue s c w 0x07 (mkRD ||| mkRA ||| mkImm6) [sRD w, sRA w] = true) ∧
    (∃ (c : Fin 64) (w : Word) (s : State), sIssue s c w 0x08 mkI [sRD w, sRA w] = true) ∧
    (∃ (c : Fin 64) (w : Word) (s : State), sIssue s c w 0x09 0x03FFFFFF [sRD w] = true) ∧
    (∃ (c : Fin 64) (w : Word) (s : State), sIssue s c w 0x33 (mkImm5 ||| mkRD) [sRD w] = true) :=
  ⟨⟨63, 0x0007FFFF, (sAt {}), 0, by decide +kernel⟩,
   ⟨63, 0x07FFFFDF, (sAt {}), by decide +kernel⟩,
   ⟨63, 0x0BFFFFDF, (sAt {}), by decide +kernel⟩,
   ⟨63, 0x0FFFFFDF, (sAt {}), by decide +kernel⟩,
   ⟨63, 0x13FFFFDF, (sAt {}), by decide +kernel⟩,
   ⟨63, 0x1400FFDF, (sAt {}), by decide +kernel⟩,
   ⟨63, 0x1800FFDF, (sAt {}), by decide +kernel⟩,
   ⟨63, 0x1C00FFDF, (sAt {}), by decide +kernel⟩,
   ⟨63, 0x220003DF, (sAt {}), by decide +kernel⟩,
   ⟨63, 0x27FFFFFF, (sAt {}), by decide +kernel⟩,
   ⟨63, 0xCC007C1F, (sAt {}), by decide +kernel⟩⟩

theorem witness_SLoadsAndStores :
    (∃ (c : Fin 64) (w : Word) (s : State) (k : SPlace), sIssue s c w 0x10 mkI [sRD w, sRA w] = true ∧ sAccess s c w 1 .read k = true) ∧
    (∃ (c : Fin 64) (w : Word) (s : State) (k : SPlace), sIssue s c w 0x11 mkI [sRD w, sRA w] = true ∧ sAccess s c w 2 .read k = true) ∧
    (∃ (c : Fin 64) (w : Word) (s : State) (k : SPlace), sIssue s c w 0x12 mkI [sRD w, sRA w] = true ∧ sAccess s c w 4 .read k = true) ∧
    (∃ (c : Fin 64) (w : Word) (s : State) (k : SPlace), sIssue s c w 0x13 mkI [sRD w, sRA w] = true ∧ sAccess s c w 8 .read k = true) ∧
    (∃ (c : Fin 64) (w : Word) (s : State) (k : SPlace), sIssue s c w 0x14 mkI [sRD w, sRA w] = true ∧ sAccess s c w 1 .read k = true) ∧
    (∃ (c : Fin 64) (w : Word) (s : State) (k : SPlace), sIssue s c w 0x15 mkI [sRD w, sRA w] = true ∧ sAccess s c w 2 .read k = true) ∧
    (∃ (c : Fin 64) (w : Word) (s : State) (k : SPlace), sIssue s c w 0x16 mkI [sRD w, sRA w] = true ∧ sAccess s c w 4 .read k = true) ∧
    (∃ (c : Fin 64) (w : Word) (s : State) (k : SPlace), sIssue s c w 0x18 mkI [sRD w, sRA w] = true ∧ sAccess s c w 1 .write k = true) ∧
    (∃ (c : Fin 64) (w : Word) (s : State) (k : SPlace), sIssue s c w 0x19 mkI [sRD w, sRA w] = true ∧ sAccess s c w 2 .write k = true) ∧
    (∃ (c : Fin 64) (w : Word) (s : State) (k : SPlace), sIssue s c w 0x1A mkI [sRD w, sRA w] = true ∧ sAccess s c w 4 .write k = true) ∧
    (∃ (c : Fin 64) (w : Word) (s : State) (k : SPlace), sIssue s c w 0x1B mkI [sRD w, sRA w] = true ∧ sAccess s c w 8 .write k = true) ∧
    (∃ (c : Fin 64) (w : Word) (s : State) (o : _), sIssue s c w 0x1C mkR [sRD w, sRA w, sRB w] = true ∧ sFN w ≤ 5 ∧ (rdX (getS s (sPid
      c)) (sRA w)).toNat % 8 = 0 ∧ sPlace (getS s (sPid c)).pl .write (rdX (getS s (sPid c)) (sRA w)).toNat 8 = .lm o ∧ poisoned (getS s
      (sPid c)).lmPoison 8 o 8 = false) ∧
    (∃ (c : Fin 64) (w : Word) (s : State) (a : _), sIssue s c w 0x1C mkR [sRD w, sRA w, sRB w] = true ∧ sFN w ≤ 5 ∧ (rdX (getS s (sPid
      c)) (sRA w)).toNat % 8 = 0 ∧ sPlace (getS s (sPid c)).pl .write (rdX (getS s (sPid c)) (sRA w)).toNat 8 = .slice a ∧ sliceRange
      (coreMap s (sPid c)) a 8 = true ∧ (getCore s (sPid c)).xfers = [] ∧ (sliceRead s (coreMap s (sPid c)) a 8).2 = false) :=
  ⟨⟨63, 0x400003DF, (sAt { x := [(30, 0x3ffffff)] }), (.slice 0x3ffffff), by decide +kernel⟩,
   ⟨63, 0x440003DF, (sAt { x := [(30, 0x3fffffe)] }), (.slice 0x3fffffe), by decide +kernel⟩,
   ⟨63, 0x480003DF, (sAt { x := [(30, 0x3fffffc)] }), (.slice 0x3fffffc), by decide +kernel⟩,
   ⟨63, 0x4C0003DF, (sAt { x := [(30, 0x3fffff8)] }), (.slice 0x3fffff8), by decide +kernel⟩,
   ⟨63, 0x500003DF, (sAt { pl := true, x := [(30, 0x10003ffff)] } { pc := 0x100030000 }), (.lm 0x3ffff), by decide +kernel⟩,
   ⟨63, 0x540003DF, (sAt { pl := true, x := [(30, 0x10003fffe)] } { pc := 0x100030000 }), (.lm 0x3fffe), by decide +kernel⟩,
   ⟨63, 0x580003DF, (sAt { pl := true, x := [(30, 0x10003fffc)] } { pc := 0x100030000 }), (.lm 0x3fffc), by decide +kernel⟩,
   ⟨63, 0x600003DF, (sAt { x := [(30, 0x3ffffff)] }), (.slice 0x3ffffff), by decide +kernel⟩,
   ⟨63, 0x640003DF, (sAt { x := [(30, 0x3fffffe)] }), (.slice 0x3fffffe), by decide +kernel⟩,
   ⟨63, 0x680003DF, (sAt { pl := true, x := [(30, 0x10003fffc)] } { pc := 0x100030000 }), (.lm 0x3fffc), by decide +kernel⟩,
   ⟨63, 0x6C0003DF, (sAt { pl := true, x := [(30, 0x10003fff8)] } { pc := 0x100030000 }), (.lm 0x3fff8), by decide +kernel⟩,
   ⟨63, 0x7002F7DF, (sAt { x := [(30, 0x10002FFF8)] }), 0x2FFF8, by decide +kernel⟩,
   ⟨63, 0x700077DF, (sAt { x := [(30, 0x3FFFFF8)] }), 0x3FFFFF8, by decide +kernel⟩⟩

theorem witness_SBranchesAndControl :
    (∃ (c : Fin 64) (w : Word) (s : State), sIssue s c w 0x20 mkI [sRD w, sRA w] = true) ∧
    (∃ (c : Fin 64) (w : Word) (s : State), sIssue s c w 0x21 mkI [sRD w, sRA w] = true) ∧
    (∃ (c : Fin 64) (w : Word) (s : State), sIssue s c w 0x22 mkI [sRD w, sRA w] = true) ∧
    (∃ (c : Fin 64) (w : Word) (s : State), sIssue s c w 0x23 mkI [sRD w, sRA w] = true) ∧
    (∃ (c : Fin 64) (w : Word) (s : State), sIssue s c w 0x24 mkI [sRD w, sRA w] = true) ∧
    (∃ (c : Fin 64) (w : Word) (s : State), sIssue s c w 0x25 mkI [sRD w, sRA w] = true) ∧
    (∃ (c : Fin 64) (w : Word) (s : State), sIssue s c w 0x28 0x03FFFFFF [sRD w] = true) ∧
    (∃ (c : Fin 64) (w : Word) (s : State), sIssue s c w 0x29 mkI [sRD w, sRA w] = true) ∧
    (∃ (c : Fin 64) (w : Word) (s : State), sIssue s c w 0x30 0 [] = true) ∧
    (∃ (c : Fin 64) (w : Word) (s : State), sIssue s c w 0x31 mkImm5 [] = true ∧ fenced s (sPid c) = true) ∧
    (∃ (c : Fin 64) (w : Word) (s : State), sIssue s c w 0x32 (mkImm5 ||| mkRA) [sRA w] = true) ∧
    (∃ (c : Fin 64) (w : Word) (s : State), sIssue s c w 0x34 mkImm3 [] = true ∧ ((getCore s (sPid c)).point = .none ∨ (getS s (sPid
      c)).pl = true)) ∧
    (∃ (c : Fin 64) (w : Word) (s : State), sIssue s c w 0x34 mkImm3 [] = true ∧ (getCore s (sPid c)).point ≠ .none ∧ (getS s (sPid
      c)).pl = false ∧ fenced s (sPid c) = true) ∧
    (∃ (c : Fin 64) (w : Word) (s : State), sIssue s c w 0x35 0 [] = true ∧ (getS s (sPid c)).pl = false ∧ fenced s (sPid c) = true) ∧
    (∃ (c : Fin 64) (w : Word) (s : State), sIssue s c w 0x3D 0 [] = true ∧ (getS s (sPid c)).pl = true ∧ frameOk (getS s (sPid c)).tsp
      = true ∧ loadsOut s (sPid c) = false ∧ procOf s (sPid c) = none) ∧
    (∃ (c : Fin 64) (w : Word) (s : State) (q : _), sIssue s c w 0x3D 0 [] = true ∧ (getS s (sPid c)).pl = true ∧ frameOk (getS s (sPid
      c)).tsp = true ∧ loadsOut s (sPid c) = false ∧ procOf s (sPid c) = some q) ∧
    (∃ (c : Fin 64) (w : Word) (s : State), sIssue s c w 0x3D 0 [] = true ∧ (getS s (sPid c)).pl = false ∧ loadsOut s (sPid c) = false) ∧
    (∃ (c : Fin 64) (w : Word) (s : State), sIssue s c w 0x3E 0 [] = true ∧ (getS s (sPid c)).pl = true) ∧
    (∃ (c : Fin 64) (w : Word) (s : State), sIssue s c w 0x38 (mkImm12 ||| mkRD) [sRD w] = true ∧ csrCheck (getS s (sPid c)) (fld w 21
      10) false = none) ∧
    (∃ (c : Fin 64) (w : Word) (s : State), sIssue s c w 0x39 (mkImm12 ||| mkRA) [sRA w] = true ∧ csrCheck (getS s (sPid c)) (fld w 21
      10) true = none) ∧
    (∃ (c : Fin 64) (w : Word) (s : State), sIssue s c w 0x3A (mkImm12 ||| mkRA) [sRA w] = true ∧ csrCheck (getS s (sPid c)) (fld w 21
      10) true = none) ∧
    (∃ (c : Fin 64) (w : Word) (s : State), sIssue s c w 0x3B (mkImm12 ||| mkRA) [sRA w] = true ∧ csrCheck (getS s (sPid c)) (fld w 21
      10) true = none) ∧
    (∃ (c : Fin 64) (w : Word) (s : State), sIssue s c w 0x39 (mkImm12 ||| mkRA) [sRA w] = true ∧ (getS s (sPid c)).pl = false ∧ fld w
      21 10 = 0x001 ∧ loadsOut s (sPid c) = false) :=
  ⟨⟨63, 0x820003DF, (sAt {}), by decide +kernel⟩,
   ⟨63, 0x860003DF, (sAt {}), by decide +kernel⟩,
   ⟨63, 0x8A0003DF, (sAt {}), by decide +kernel⟩,
   ⟨63, 0x8E0003DF, (sAt {}), by decide +kernel⟩,
   ⟨63, 0x920003DF, (sAt {}), by decide +kernel⟩,
   ⟨63, 0x960003DF, (sAt {}), by decide +kernel⟩,
   ⟨63, 0xA3FFFFFF, (sAt {}), by decide +kernel⟩,
   ⟨63, 0xA7FFFFE0, (sAt {}), by decide +kernel⟩,
   ⟨63, 0xC0000000, (sAt {}), by decide +kernel⟩,
   ⟨63, 0xC4007C00, (sAt {}), by decide +kernel⟩,
   ⟨63, 0xC8007FE0, (sAt {}), by decide +kernel⟩,
   ⟨63, 0xD0001C00, (sAt {}), by decide +kernel⟩,
   ⟨63, 0xD0001C00, (sAt {} { point := .preempt }), by decide +kernel⟩,
   ⟨63, 0xD4000000, (sAt {}), by decide +kernel⟩,
   ⟨63, 0xF4000000, (sAt { pl := true, tsp := 0x10003FFC0 } { pc := 0x100030000 }), by decide +kernel⟩,
   ⟨63, 0xF4000000, { sAt { pl := true, tsp := 0x10003FFC0 } { pc := 0x100030000 } with procCore := [(31, 320)] }, 31, by decide +kernel⟩,
   ⟨63, 0xF4000000, (sAt {}), by decide +kernel⟩,
   ⟨63, 0xF8000000, (sAt { pl := true } { pc := 0x100030000 }), by decide +kernel⟩,
   ⟨63, 0xE000601F, (sAt {}), by decide +kernel⟩,
   ⟨63, 0xE40023E0, (sAt { pl := true } { pc := 0x100030000 }), by decide +kernel⟩,
   ⟨63, 0xE8000BE0, (sAt { pl := true } { pc := 0x100030000 }), by decide +kernel⟩,
   ⟨63, 0xEC0003E0, (sAt { pl := true } { pc := 0x100030000 }), by decide +kernel⟩,
   ⟨63, 0xE40007E0, (sAt {}), by decide +kernel⟩⟩

theorem witness_MetersAndTheReference :
    (∃ (m : PaceMeter) (f : Nat), f ≤ 64 ∧ m.bubbleAcc < 64) ∧
    (∃ (s : State), s.refLost = false) ∧
    (∃ (s : State), s.refLost = true) :=
  ⟨⟨{ written := 255 }, 64, by decide +kernel⟩,
   ⟨withMap, by decide +kernel⟩,
   ⟨{ withMap with refLost := true }, by decide +kernel⟩⟩

theorem witness_TicksAndCoreEvents :
    (∃ (c : Fin 320) (s : State), c.val % 10 < 8 ∧ clusterTicks s (c.val / 10) = true ∧ (getCore s c.val).credits < 4) ∧
    (∃ (c : Fin 320) (s : State), c.val % 10 < 8 ∧ clusterTicks s (c.val / 10) = true ∧ 4 ≤ (getCore s c.val).credits ∧ (if c.val % 10
      < 5 then mReady s c.val else vReady s c.val) = true) ∧
    (∃ (c : Fin 320) (s : State), c.val % 10 < 8 ∧ clusterTicks s (c.val / 10) = true ∧ 4 ≤ (getCore s c.val).credits ∧ (if c.val % 10
      < 5 then mReady s c.val else vReady s c.val) = false ∧ fillerAdmits s c.val = false) ∧
    (∃ (c : Fin 320) (s : State), (8 ≤ c.val % 10 ∨ clusterTicks s (c.val / 10) = false)) ∧
    (∃ (c : Fin 320) (s : State), (getCore s c.val).run = .running) ∧
    (∃ (c : Fin 320) (i : Nat) (x : Xfer) (s : State), (getCore s c.val).xfers[i]? = some x ∧ s.gov.domains = [] ∧ s.cohHeld = [] ∧
      s.snoops = [] ∧ fabricWait s c.val x = false) ∧
    (∃ (c : Fin 320) (s : State), (getCore s c.val).run = .running ∧ (getCore s c.val).point ≠ .none ∧ (getCore s c.val).forced = true
      ∧ drained s c.val = true) ∧
    (∃ (cl : Fin 32) (slot : Fin 8) (n : Fin 32) (g : SyncGroup) (s : State), (cl.val * 8 + slot.val, n.val) ∈ s.signals ∧ Tbl.get none
      s.sync (cl.val * 8 + slot.val) = some g) ∧
    (∃ (m : Fin 160) (w : Dword) (s : State), mIssue s m w (fld w 63 56) 0x00FFFFFFFFFFFFFF = true ∧ fld w 63 56 ∉ mOpcodes) ∧
    (∃ (m : Fin 96) (w : Dword) (s : State), vIssue s m w (fld w 63 56) 0x00FFFFFFFFFFFFFF [] = true ∧ fld w 63 56 ∉ vOpcodes) ∧
    (∃ (m : Fin 64) (w : Dword) (s : State), sIssue s m (w.setWidth 32) (fld w 31 26) 0x03FFFFFF [] = true ∧ fld w 31 26 ∉ sOpcodes ∧
      loadsOut s (sPid m) = false) :=
  ⟨⟨314, withMap, by decide +kernel⟩,
   ⟨314, (mAt { job := .wave 0x3000000000008000 0 } { credits := 4 }), by decide +kernel⟩,
   ⟨314, (mAt {} { credits := 4 }), by decide +kernel⟩,
   ⟨318, withMap, by decide +kernel⟩,
   ⟨314, (mAt {}), by decide +kernel⟩,
   ⟨314, 0, aXfer, (mAt {} { xfers := [aXfer] }), by decide +kernel⟩,
   ⟨314, (mAt {} { point := .refit, forced := true }), by decide +kernel⟩,
   ⟨31, 7, 31, {}, { withMap with signals := [(255, 31)], sync := [(255, some {})] }, by decide +kernel⟩,
   ⟨159, 0xFF00000000000000, (mAt {}), by decide +kernel⟩,
   ⟨95, 0x0400000000000000, (vAt {}), by decide +kernel⟩,
   ⟨63, 0x000000002C000005, (sAt {}), by decide +kernel⟩⟩

theorem witness_MeshRequestsAtTheBanks :
    (∃ (p : MeshPkt) (s : State) (t : State), p.dstPort = 10 ∧ meetDomains s [p.dstCl.toNat] = (t, false)) ∧
    (∃ (p : MeshPkt) (s : State) (t : State), p.dstPort = 10 ∧ meetDomains s [p.dstCl.toNat] = (t, true) ∧ sliceRange (partMap (routed
      t p) p.part) p.addr.toNat (32 * p.len.toNat) = true) ∧
    (∃ (p : MeshPkt) (s : State) (t : State), p.dstPort = 10 ∧ meetDomains s [p.dstCl.toNat] = (t, true) ∧ sliceRange (partMap (routed
      t p) p.part) p.addr.toNat p.payload.length = true) ∧
    (∃ (p : MeshPkt) (s : State) (t : State) (fn : _) (a : _), p.dstPort = 10 ∧ meetDomains s [p.dstCl.toNat] = (t, true) ∧ fn = leNat
      (p.payload.take 1) ∧ a = p.addr.toNat ∧ fn < 6 ∧ a % 8 = 0 ∧ sliceRange (partMap (routed t p) p.part) a 8 = true) :=
  ⟨⟨({ dstPort := 10, dstCl := 31, srcPort := 10, addr := 0x3FFFF00, len := 8, payload := List.replicate 24 1 }),
   ({ withMem with gov := { domains := [(31, { st := 3, busy := 1 })] } }), (meetDomains
   ({ withMem with gov := { domains := [(31, { st := 3, busy := 1 })] } }) [31]).1, by decide +kernel⟩,
   ⟨({ dstPort := 10, dstCl := 31, srcPort := 10, addr := 0x3FFFF00, len := 8, payload := List.replicate 24 1 }), withMem, withMem,
   by decide +kernel⟩,
   ⟨({ dstPort := 10, dstCl := 31, srcPort := 10, addr := 0x3FFFF00, len := 8, payload := List.replicate 24 1 }), withMem, withMem,
   by decide +kernel⟩,
   ⟨({ dstPort := 10, dstCl := 31, srcPort := 10, addr := 0x3FFFF00, len := 8, payload := List.replicate 24 1 }), withMem, withMem,
   leNat ((({ dstPort := 10, dstCl := 31, srcPort := 10, addr := 0x3FFFF00, len := 8, payload := List.replicate 24 1 }) :
   MeshPkt).payload.take 1),
   (({ dstPort := 10, dstCl := 31, srcPort := 10, addr := 0x3FFFF00, len := 8, payload := List.replicate 24 1 }) : MeshPkt).addr.toNat,
   by decide +kernel⟩⟩

theorem witness_MeshPacketsReachCores :
    (∃ (p : MeshPkt) (pid : Nat) (x : Xfer) (s : State), taggedXfer s p = some (pid, x) ∧ x.kind = .store 0 [1]) ∧
    (∃ (p : MeshPkt) (pid : Nat) (b : Nat) (o : Nat) (x : Xfer) (s : State), taggedXfer s p = some (pid, x) ∧ x.kind = .load b o ∧
      p.addr.toNat = b ∧ p.payload.length = x.bytes) ∧
    (∃ (p : MeshPkt) (pid : Nat) (b : Nat) (n : Nat) (rd : BitVec 5) (signed : Bool) (x : Xfer) (s : State), taggedXfer s p = some
      (pid, x) ∧ x.kind = .sload rd b n signed ∧ p.addr.toNat = b ∧ n ≤ p.payload.length ∧ p.poison = []) ∧
    (∃ (p : MeshPkt) (pid : Nat) (b : Nat) (op : BitVec 11) (rd : BitVec 5) (rb : Dword) (rc : Dword) (x : Xfer) (s : State),
      taggedXfer s p = some (pid, x) ∧ x.kind = .amo op rd b rb rc ∧ p.addr.toNat = b ∧ 8 ≤ p.payload.length ∧ p.poison = []) ∧
    (∃ (p : MeshPkt) (pid : Nat) (v : BitVec 6) (l : List (Nat × Nat)) (k : List (Nat × Nat)) (x : Xfer) (s : State), taggedXfer s p =
      some (pid, x) ∧ x.kind = .gather v l ∧ k = l.filter (fun e => within e.2 4 p.addr.toNat p.payload.length) ∧ k ≠ []) ∧
    (∃ (p : MeshPkt) (pid : Nat) (b : Nat) (w : Dword) (sc : Nat) (m : BitVec 512) (k : BitVec 512) (x : Xfer) (s : State), taggedXfer
      s p = some (pid, x) ∧ x.kind = .vload w b sc m ∧ k = lanesCarried m p.addr.toNat p.payload.length (fun i => (b + (elemRange
      (fmtBits (fld w 27 24)) i).1, (elemRange (fmtBits (fld w 27 24)) i).2)) ∧ k ≠ 0) ∧
    (∃ (p : MeshPkt) (pid : Nat) (b : Nat) (v : BitVec 6) (m : BitVec 512) (k : BitVec 512) (x : Xfer) (s : State), taggedXfer s p =
      some (pid, x) ∧ x.kind = .ledgerLoad v b m ∧ k = lanesCarried m p.addr.toNat p.payload.length (fun i => (b + 12 * i, 12)) ∧ k ≠ 0) ∧
    (∃ (p : MeshPkt) (pid : Nat) (s : State), p.type ≠ 6 ∧ p.dstPort.toNat < 10 ∧ pid = p.dstCl.toNat * 10 + p.dstPort.toNat ∧
      portWaits (routed s p) p = false ∧ steer (routed s p) pid p.gen = .serve ∧ coreCuffed (routed s p) pid = false ∧ p.dstPort.toNat <
      5 ∧ p.addr.toNat + p.payload.length ≤ 2 ^ 20) ∧
    (∃ (p : MeshPkt) (pid : Nat) (s : State), p.type ≠ 6 ∧ p.dstPort.toNat < 10 ∧ pid = p.dstCl.toNat * 10 + p.dstPort.toNat ∧
      portWaits (routed s p) p = false ∧ steer (routed s p) pid p.gen = .serve ∧ coreCuffed (routed s p) pid = false ∧ 5 ≤
      p.dstPort.toNat ∧ p.dstPort.toNat < 8 ∧ p.addr.toNat + p.payload.length ≤ 2 ^ 19) ∧
    (∃ (p : MeshPkt) (pid : Nat) (s : State), p.type ≠ 6 ∧ p.dstPort.toNat < 10 ∧ pid = p.dstCl.toNat * 10 + p.dstPort.toNat ∧
      portWaits (routed s p) p = false ∧ steer (routed s p) pid p.gen = .serve ∧ coreCuffed (routed s p) pid = false ∧ 8 ≤
      p.dstPort.toNat ∧ p.addr.toNat + p.payload.length ≤ 0x30000) ∧
    (∃ (p : MeshPkt) (r : Nat) (i : Nat) (s : State), p.type = 6 ∧ r = srcRouter p ∧ findIdx? (combinable ⟨p, []⟩) (getRouter s r) 0 =
      some i) ∧
    (∃ (p : MeshPkt) (r : Nat) (s : State), p.type = 6 ∧ r = srcRouter p ∧ findIdx? (combinable ⟨p, []⟩) (getRouter s r) 0 = none ∧
      s.mem.redHold ≠ 0 ∧ (getRouter s r).length < 16) ∧
    (∃ (p : MeshPkt) (pid : Nat) (s : State), p.type = 6 ∧ (∀ r ∈ pktRoute p, findIdx? (combinable ⟨p, []⟩) (getRouter s r) 0 = none) ∧
      s.mem.redHold = 0 ∧ p.dstPort.toNat < 5 ∧ pid = p.dstCl.toNat * 10 + p.dstPort.toNat ∧ portWaits s p = false ∧ steer s pid p.gen =
      .serve ∧ coreCuffed s pid = false) ∧
    (∃ (p : MeshPkt) (s : State) (t : State), p.type = 5 ∧ p.dstPort = 10 ∧ meetDomains s [p.dstCl.toNat] = (t, true) ∧ (∀ r ∈ pktRoute
      p, findIdx? (combinable ⟨p, partMap s p.part⟩) (getRouter t r) 0 = none) ∧ t.mem.redHold = 0 ∧ sliceRange (partMap s p.part)
      p.addr.toNat 192 = true ∧ p.addr.toNat / 2 ^ 26 = (p.addr.toNat + 191) / 2 ^ 26) ∧
    (∃ (cl : Fin 32) (i : Nat) (h : HeldPkt) (s : State), (getRouter s cl.val)[i]? = some h ∧ h.pkt.type = 6) ∧
    (∃ (cl : Fin 32) (i : Nat) (h : HeldPkt) (s : State) (t : State), (getRouter s cl.val)[i]? = some h ∧ h.pkt.type = 5 ∧ meetDomains
      s [h.pkt.dstCl.toNat] = (t, true)) ∧
    (∃ (p : MeshPkt), p.dstPort = 11) :=
  ⟨⟨{ dstCl := 31, dstPort := 4, tag := 0 }, 314, { bytes := 1, kind := .store 0 [1] }, (mAt {}
   { xfers := [{ bytes := 1, kind := .store 0 [1] }] }), by decide +kernel⟩,
   ⟨{ dstCl := 31, dstPort := 4, addr := 64, payload := List.replicate 32 1 }, 314, 64, 0, { bytes := 32, kind := .load 64 0 }, (mAt {}
   { xfers := [{ bytes := 32, kind := .load 64 0 }] }), by decide +kernel⟩,
   ⟨{ dstCl := 31, dstPort := 9, addr := 64, payload := List.replicate 8 1 }, 319, 64, 8, 31, false,
   { bytes := 8, kind := .sload 31 64 8 false }, (sAt {} { xfers := [{ bytes := 8, kind := .sload 31 64 8 false }] }), by decide +kernel⟩,
   ⟨{ dstCl := 31, dstPort := 9, addr := 64, payload := List.replicate 8 1 }, 319, 64, 0, 31, 1, 1,
   { bytes := 8, kind := .amo 0 31 64 1 1 }, (sAt {} { xfers := [{ bytes := 8, kind := .amo 0 31 64 1 1 }] }), by decide +kernel⟩,
   ⟨{ dstCl := 31, dstPort := 7, addr := 64, payload := List.replicate 32 1 }, 317, 63, [(0, 64), (511, 128)], [(0, 64)],
   { bytes := 8, kind := .gather 63 [(0, 64), (511, 128)] }, (vAt {}
   { xfers := [{ bytes := 8, kind := .gather 63 [(0, 64), (511, 128)] }] }), by decide +kernel⟩,
   ⟨{ dstCl := 31, dstPort := 7, addr := 64, payload := List.replicate 32 1 }, 317, 64, 0x8000000, 0, 3, 3,
   { bytes := 2048, kind := .vload 0x8000000 64 0 3 }, (vAt {} { xfers := [{ bytes := 2048, kind := .vload 0x8000000 64 0 3 }] }),
   by decide +kernel⟩,
   ⟨{ dstCl := 31, dstPort := 7, addr := 64, payload := List.replicate 32 1 }, 317, 64, 61, 3, 3,
   { bytes := 6144, kind := .ledgerLoad 61 64 3 }, (vAt {} { xfers := [{ bytes := 6144, kind := .ledgerLoad 61 64 3 }] }), by decide +kernel⟩,
   ⟨{ dstCl := 31, dstPort := 4, gen := 3, addr := 0xFFFFF, payload := [1] }, 314,
   { withMem with bindings := [(314, { state := 1, gen := 3 })] }, by decide +kernel⟩,
   ⟨{ dstCl := 31, dstPort := 7, gen := 3, addr := 0x7FFFF, payload := [1] }, 317,
   { withMem with bindings := [(317, { state := 1, gen := 3 })] }, by decide +kernel⟩,
   ⟨{ dstCl := 31, dstPort := 9, gen := 3, addr := 0x2FFFF, payload := [1] }, 319,
   { withMem with bindings := [(319, { state := 1, gen := 3 })] }, by decide +kernel⟩,
   ⟨{ type := 6, srcCl := 31, dstCl := 31, dstPort := 4 }, srcRouter ({ type := 6, srcCl := 31, dstCl := 31, dstPort := 4 } : MeshPkt),
   0, { withMem with routers := [(31, [{ pkt := { type := 6, dstCl := 31, dstPort := 4, contrib := 254 } }])] }, by decide +kernel⟩,
   ⟨{ type := 6, dstCl := 31, dstPort := 4 }, srcRouter ({ type := 6, dstCl := 31, dstPort := 4 } : MeshPkt), withMem, by decide +kernel⟩,
   ⟨{ type := 6, dstCl := 31, dstPort := 4, gen := 3 }, 314,
   { withMem with mem := { redHold := 0 }, bindings := [(314, { state := 1, gen := 3 })] }, by decide +kernel⟩,
   ⟨{ type := 5, dstPort := 10, addr := 0x3FFFF40 }, { withMem with mem := { redHold := 0 } }, { withMem with mem := { redHold := 0 } },
   by decide +kernel⟩,
   ⟨31, 0, { pkt := { type := 6 } }, { withMem with routers := [(31, [{ pkt := { type := 6 } }])] }, by decide +kernel⟩,
   ⟨31, 0, { pkt := { type := 5 } }, { withMem with routers := [(31, [{ pkt := { type := 5 } }])] },
   { withMem with routers := [(31, [{ pkt := { type := 5 } }])] }, by decide +kernel⟩,
   ⟨{ dstPort := 11 }, by decide +kernel⟩⟩

theorem witness_MemoryUpkeep :
    (∃ (cl : Fin 32) (bank : Fin 32) (single : List (Fin 32)) (double : List (Fin 32)) (s : State), (single ≠ [] ∨ double ≠ []) ∧
      Tbl.get false s.mem.bankLost (32 * cl.val + bank.val) = false) ∧
    (∃ (cl : Fin 32) (bank : Fin 32) (spare : Nat) (s : State), Tbl.get 0 s.mem.bankCopy (32 * cl.val + bank.val) = spare + 1) ∧
    (∃ (cl : Fin 32) (bank : Fin 32) (s : State), Tbl.get false s.mem.bankZero (32 * cl.val + bank.val) = true) ∧
    (∃ (ch : Fin 128) (frame : BitVec 20) (r : Nat) (s : State), Tbl.get 0 s.mem.frameCopy (frameKey ch.val frame.toNat) = r + 1) ∧
    (∃ (x : ItemRef) (bag : Nat) (i : Item) (c : Context) (s : State), getItem s x = some i ∧ getCtx s x.ctx = some c ∧ itemOpc i =
      0x0A ∧ i.run.active = true ∧ heldBack s c = false ∧ BitVec.ofNat 64 bag ∉ i.run.list ∧ bag < gpBags i) :=
  ⟨⟨31, 31, [31], [], withMem, by decide +kernel⟩,
   ⟨31, 31, 33, { withMem with mem := { bankCopy := [(1023, 34)] } }, by decide +kernel⟩,
   ⟨31, 31, { withMem with mem := { bankZero := [(1023, true)] } }, by decide +kernel⟩,
   ⟨127, 0xFFFFF, 5, { withMem with mem := { frameCopy := [(frameKey 127 0xFFFFF, 6)] } }, by decide +kernel⟩,
   ⟨mine, 0, (anItem [0x70a, 0x0, 0x1400000000000, 0x100000001, 0x0, 0x0, 0x0, 0x1000] { active := true, total := 1 }), tenant, (queued
   tenant (anItem [0x70a, 0x0, 0x1400000000000, 0x100000001, 0x0, 0x0, 0x0, 0x1000] { active := true, total := 1 })), by decide +kernel⟩⟩

theorem witness_DoorbellsAndSlots :
    (∃ (page : Fin 4096) (v : Word) (q : Queue) (w : BitVec 24) (s : State), queueOfPage s page.val = some q ∧ w = BitVec.ofNat 24 (fld
      v 23 0) ∧ BitVec.ofNat 8 (fld v 31 24) = q.epoch ∧ q.closing = false ∧ (w - q.widx).toNat < 2 ^ 23 ∧ (w - q.ridx).toNat ≤ 2 ^ (4 +
      q.ringLog.toNat)) ∧
    (∃ (page : Fin 4096) (v : Word) (q : Queue) (w : BitVec 24) (s : State), queueOfPage s page.val = some q ∧ w = BitVec.ofNat 24 (fld
      v 23 0) ∧ BitVec.ofNat 8 (fld v 31 24) = q.epoch ∧ q.closing = false ∧ (w - q.widx).toNat < 2 ^ 23 ∧ 2 ^ (4 + q.ringLog.toNat) <
      (w - q.ridx).toNat) ∧
    (∃ (page : Fin 4096) (v : Word) (q : Queue) (w : BitVec 24) (s : State), queueOfPage s page.val = some q ∧ w = BitVec.ofNat 24 (fld
      v 23 0) ∧ (BitVec.ofNat 8 (fld v 31 24) ≠ q.epoch ∨ q.closing = true ∨ 2 ^ 23 ≤ (w - q.widx).toNat)) ∧
    (∃ (page : Fin 4096) (v : Word) (q : Queue) (s : State), queueOfPage s page.val = some q ∧ BitVec.ofNat 8 (fld v 7 0) ≠ q.epoch) ∧
    (∃ (page : Fin 4096) (v : Word) (q : Queue) (s : State), queueOfPage s page.val = some q ∧ BitVec.ofNat 8 (fld v 7 0) = q.epoch ∧
      bit v 8 = false) ∧
    (∃ (page : Fin 4096) (s : State), queueOfPage s page.val = none) ∧
    (∃ (page : Fin 4096) (v : Word) (q : Queue) (s : State), queueOfPage s page.val = some q ∧ BitVec.ofNat 8 (fld v 7 0) = q.epoch ∧
      bit v 8 = true) ∧
    (∃ (ctx : BitVec 16) (qid : BitVec 4) (r : Reply) (q : Queue) (c : Context) (s : State) (u : State), getQueue s ctx qid = some q ∧
      getCtx s ctx = some c ∧ mayFetch s q = true ∧ fetchTurn s q = true ∧ (q.lc = true ∨ ∀ p ∈ listOpt (fun (y : Queue) => y.lc && y.cp
      == q.cp) s.queues, mayFetch s p = false) ∧ u =
      { s with sched := { s.sched with fetched := Tbl.set 0 s.sched.fetched (turnKey q) (queueKey ctx qid + 1) } } ∧ (okOf (gotPiece u c
      none r (q.ringBase + BitVec.ofNat 64 (128 * (q.ridx.toNat % 2 ^ (4 + q.ringLog.toNat)))) 0 128)).isSome = true) ∧
    (∃ (q : Queue) (ws : List Dword), BitVec.ofNat 8 (fld (ws.getD 0 0) 23 16) = q.epoch ∧ BitVec.ofNat 32 (fld (ws.getD 0 0) 63 32) =
      q.nextSeq) ∧
    (∃ (q : Queue) (ws : List Dword), BitVec.ofNat 8 (fld (ws.getD 0 0) 23 16) ≠ q.epoch) :=
  ⟨⟨4095, 0x03000105, { ctx := 1, qid := 1, page := 4095, widx := 5, ridx := 5, ringLog := 4, epoch := 3 }, BitVec.ofNat 24 (fld
   (0x03000105 : Word) 23 0), (setQueue withMem { ctx := 1, qid := 1, page := 4095, widx := 5, ridx := 5, ringLog := 4, epoch := 3 }),
   by decide +kernel⟩,
   ⟨4095, 0x03000106, { ctx := 1, qid := 1, page := 4095, widx := 5, ridx := 5, ringLog := 4, epoch := 3 }, BitVec.ofNat 24 (fld
   (0x03000106 : Word) 23 0), (setQueue withMem { ctx := 1, qid := 1, page := 4095, widx := 5, ridx := 5, ringLog := 4, epoch := 3 }),
   by decide +kernel⟩,
   ⟨4095, 0x02000006, { ctx := 1, qid := 1, page := 4095, widx := 5, ridx := 5, ringLog := 4, epoch := 3 }, BitVec.ofNat 24 (fld
   (0x02000006 : Word) 23 0), (setQueue withMem { ctx := 1, qid := 1, page := 4095, widx := 5, ridx := 5, ringLog := 4, epoch := 3 }),
   by decide +kernel⟩,
   ⟨4095, 2, { ctx := 1, qid := 1, page := 4095, widx := 5, ridx := 5, ringLog := 4, epoch := 3 }, (setQueue withMem
   { ctx := 1, qid := 1, page := 4095, widx := 5, ridx := 5, ringLog := 4, epoch := 3 }), by decide +kernel⟩,
   ⟨4095, 3, { ctx := 1, qid := 1, page := 4095, widx := 5, ridx := 5, ringLog := 4, epoch := 3 }, (setQueue withMem
   { ctx := 1, qid := 1, page := 4095, widx := 5, ridx := 5, ringLog := 4, epoch := 3 }), by decide +kernel⟩,
   ⟨4095, withMem, by decide +kernel⟩,
   ⟨4095, 0x103, { ctx := 1, qid := 1, page := 4095, widx := 5, ridx := 5, ringLog := 4, epoch := 3 }, (setQueue withMem
   { ctx := 1, qid := 1, page := 4095, widx := 5, ridx := 5, ringLog := 4, epoch := 3 }), by decide +kernel⟩,
   ⟨1, 1, (.words []), { ctx := 1, qid := 1, widx := 1, ringLog := 4 }, tenant, (setCtx (setQueue withMem
   { ctx := 1, qid := 1, widx := 1, ringLog := 4 }) tenant),
   { ((setCtx (setQueue withMem { ctx := 1, qid := 1, widx := 1, ringLog := 4 }) tenant) : State) with sched := { ((setCtx (setQueue withMem { ctx := 1, qid := 1, widx := 1, ringLog := 4 }) tenant) : State).sched with fetched := Tbl.set 0 ((setCtx (setQueue withMem { ctx := 1, qid := 1, widx := 1, ringLog := 4 }) tenant) : State).sched.fetched (turnKey ({ ctx := 1, qid := 1, widx := 1, ringLog := 4 } : Queue)) (queueKey (1 : BitVec 16) (1 : BitVec 4) + 1) } },
   by decide +kernel⟩,
   ⟨{ ctx := 1, qid := 1, page := 4095, widx := 5, ridx := 5, ringLog := 4, epoch := 3 }, [0x30000], by decide +kernel⟩,
   ⟨{ ctx := 1, qid := 1, page := 4095, widx := 5, ridx := 5, ringLog := 4, epoch := 3 }, [0], by decide +kernel⟩⟩

theorem witness_ItemsStartAndContextsRun :
    (∃ (ctx : BitVec 16) (qid : BitVec 4) (q : Queue) (c : Context) (i : Item) (busy : Bool) (s : State), getQueue s ctx qid = some q ∧
      getCtx s ctx = some c ∧ nextItem q.items false = some (i, busy) ∧ mayStart s c q i busy = true ∧ formStatus c q i = none) ∧
    (∃ (ctx : BitVec 16) (qid : BitVec 4) (q : Queue) (c : Context) (i : Item) (busy : Bool) (s : State) (st : _), getQueue s ctx qid =
      some q ∧ getCtx s ctx = some c ∧ nextItem q.items false = some (i, busy) ∧ mayStart s c q i busy = true ∧ formStatus c q i = some
      st) ∧
    (∃ (ctx : BitVec 16) (qid : BitVec 4) (q : Queue) (c : Context) (i : Item) (busy : Bool) (s : State), getQueue s ctx qid = some q ∧
      getCtx s ctx = some c ∧ nextItem q.items false = some (i, busy) ∧ mayStart s c q i busy = true ∧ itemForm (itemOpc i) = none) ∧
    (∃ (ctx : BitVec 16) (qid : BitVec 4) (q : Queue) (c : Context) (i : Item) (busy : Bool) (s : State), getQueue s ctx qid = some q ∧
      getCtx s ctx = some c ∧ nextItem q.items false = some (i, busy) ∧ mayStart s c q i busy = true ∧ itemForm (itemOpc i) ≠ none) ∧
    (∃ (ctx : BitVec 16) (c : Context) (n : Nat) (s : State), getCtx s ctx = some c ∧ wantsSlot s c = true ∧ freeSlot s = some n ∧
      (c.id = 0 ∨ ((residents s).filter fun r => inPart r c.part.toNat).length < (getPart s c.part.toNat).slots) ∧ hbmRange (getSlice s
      c.part) c.saveAddr.toNat 16384 = true ∧ hbmRange (getSlice s c.part) c.segAddr.toNat 256 = true) ∧
    (∃ (ctx : BitVec 16) (c : Context) (n : Nat) (s : State), getCtx s ctx = some c ∧ wantsSlot s c = true ∧ freeSlot s = some n ∧
      (c.id = 0 ∨ ((residents s).filter fun r => inPart r c.part.toNat).length < (getPart s c.part.toNat).slots) ∧ (hbmRange (getSlice s
      c.part) c.saveAddr.toNat 16384 = false ∨ hbmRange (getSlice s c.part) c.segAddr.toNat 256 = false)) ∧
    (∃ (ctx : BitVec 16) (c : Context) (m : Nat) (s : State) (t : State), getCtx s ctx = some c ∧ wantsSlot s c = true ∧ slotFor s c =
      (t, some m)) :=
  ⟨⟨1, 1, { ctx := 1, qid := 1, items := [{ seq := 7, words := [0x103] }] }, tenant, { seq := 7, words := [0x103] }, false, (setCtx
   (setQueue withMem { ctx := 1, qid := 1, items := [{ seq := 7, words := [0x103] }] }) tenant), by decide +kernel⟩,
   ⟨1, 1, { ctx := 1, qid := 1, items := [{ seq := 7, words := [0x120] }] }, tenant, { seq := 7, words := [0x120] }, false, (setCtx
   (setQueue withMem { ctx := 1, qid := 1, items := [{ seq := 7, words := [0x120] }] }) tenant), 0x40, by decide +kernel⟩,
   ⟨1, 1, { ctx := 1, qid := 1, items := [{ seq := 7, words := [0xff] }] }, tenant, { seq := 7, words := [0xff] }, false, (setCtx
   (setQueue withMem { ctx := 1, qid := 1, items := [{ seq := 7, words := [0xff] }] }) tenant), by decide +kernel⟩,
   ⟨1, 1, { ctx := 1, qid := 1, items := [{ seq := 7, words := [0x0] }] }, tenant, { seq := 7, words := [0x0] }, false, (setCtx
   (setQueue withMem { ctx := 1, qid := 1, items := [{ seq := 7, words := [0x0] }] }) tenant), by decide +kernel⟩,
   ⟨1, { id := 1, saveAddr := 0, segAddr := 0x4000 }, 1,
   { (setCtx (setQueue withMem { ctx := 1, widx := 1 }) { id := 1, saveAddr := 0, segAddr := 0x4000 }) with sched := { parts := [(0, { slots := 48 })] } },
   by decide +kernel⟩,
   ⟨1, { id := 1, saveAddr := 0x40000000 }, 1,
   { (setCtx (setQueue withMem { ctx := 1, widx := 1 }) { id := 1, saveAddr := 0x40000000 }) with sched := { parts := [(0, { slots := 48 })] } },
   by decide +kernel⟩,
   ⟨1, { id := 1, saveAddr := 0, segAddr := 0x4000 }, 1,
   { (setCtx (setQueue withMem { ctx := 1, widx := 1 }) { id := 1, saveAddr := 0, segAddr := 0x4000 }) with sched := { parts := [(0, { slots := 48 })] } },
   { (setCtx (setQueue withMem { ctx := 1, widx := 1 }) { id := 1, saveAddr := 0, segAddr := 0x4000 }) with sched := { parts := [(0, { slots := 48 })] } },
   by decide +kernel⟩⟩

theorem witness_FencesAndTransfers :
    (∃ (x : ItemRef) (i : Item) (c : Context) (s : State), itemReady s x 0x00 i c = true) ∧
    (∃ (x : ItemRef) (i : Item) (c : Context) (s : State), itemReady s x 0x01 i c = true ∧ (iw i 1).toNat % 8 ≠ 0) ∧
    (∃ (x : ItemRef) (i : Item) (c : Context) (s : State), itemReady s x 0x01 i c = true ∧ (iw i 1).toNat % 8 = 0 ∧ bit (iw i 3) 0 =
      true) ∧
    (∃ (x : ItemRef) (i : Item) (c : Context) (s : State), itemReady s x 0x01 i c = true ∧ (iw i 1).toNat % 8 = 0 ∧ bit (iw i 3) 0 =
      false) ∧
    (∃ (c : Context) (va : Dword) (part : BitVec 4) (hbm : Bool) (a : Nat) (s : State), resolve (touchAtc s c va) c va .atomic 8 = .mem
      part hbm a) ∧
    (∃ (x : ItemRef) (r : Reply) (i : Item) (c : Context) (s : State), itemReady s x 0x02 i c = true ∧ (iw i 1).toNat % 8 = 0 ∧
      s.fenceWaits.length < 1024 ∧ (okOf (readVa s c (some x) r (iw i 1) 8)).isSome = true) ∧
    (∃ (x : ItemRef) (w : FenceWait) (c : Context) (a : Dword) (s : State), findWait s x = some w ∧ getCtx s x.ctx = some c ∧ resolve
      (touchAtc s c w.va) c w.va .rd 8 = .host a) ∧
    (∃ (x : ItemRef) (w : FenceWait) (c : Context) (s : State), findWait s x = some w ∧ getCtx s x.ctx = some c ∧ resolve (touchAtc s c
      w.va) c w.va .rd 8 = .miss) ∧
    (∃ (x : ItemRef) (w : FenceWait) (i : Item) (s : State), findWait s x = some w ∧ getItem s x = some i) ∧
    (∃ (x : ItemRef) (i : Item) (c : Context) (s : State), itemReady s x 0x03 i c = true) ∧
    (∃ (x : ItemRef) (i : Item) (c : Context) (s : State), itemReady s x 0x08 i c = true) ∧
    (∃ (x : ItemRef) (i : Item) (c : Context) (s : State), itemReady s x 0x09 i c = true) ∧
    (∃ (x : ItemRef) (i : Item) (c : Context) (s : State), itemReady s x 0x0B i c = true) ∧
    (∃ (x : ItemRef) (i : Item) (c : Context) (s : State), itemReady s x 0x0A i c = true ∧ gpMalformed i = true) ∧
    (∃ (x : ItemRef) (i : Item) (c : Context) (sl : Slice) (r : Nat) (total : Nat) (idx : Nat) (wts : Nat) (out : Nat) (off : Nat) (n :
      Nat) (s : State), itemReady s x 0x0A i c = true ∧ gpMalformed i = false ∧ sl = getSlice s c.part ∧ gpRegion sl i = some r ∧
      stackLocal sl r (fld (iw i 1) 2 0) = true ∧ bit (regionWord sl r 0) 62 = false ∧ n = gpBags i ∧ off = fld (gpDesc i 3) 30 0 ∧
      sliceRange sl.regions off (4 * (n + 1)) = true ∧ consumeCause s c.part false off (4 * (n + 1)) = none ∧ (∀ k, k < n → gpOffset s
      sl i k ≤ gpOffset s sl i (k + 1)) ∧ total = gpOffset s sl i n ∧ idx = fld (gpDesc i 2) 30 0 ∧ wts = fld (gpDesc i 4) 30 0 ∧ out =
      fld (gpDesc i 5) 30 0 ∧ sliceRange sl.regions (idx + 4 * gpOffset s sl i 0) (4 * (total - gpOffset s sl i 0)) = true ∧ (bit
      (gpDesc i 0) 52 = true → sliceRange sl.regions (wts + 4 * gpOffset s sl i 0) (4 * (total - gpOffset s sl i 0)) = true) ∧
      sliceRange sl.regions out ((n - 1) * fld (gpDesc i 1) 63 48 * 32 + gpElems i * (if fld (gpDesc i 0) 51 50 = 0 then 4 else if fld
      (gpDesc i 0) 51 50 = 1 then 2 else 12)) = true ∧ (∀ l ∈ gpLists s sl i total, consumeCause s c.part false l.1 l.2 = none)) ∧
    (∃ (x : ItemRef) (i : Item) (s : State), getItem s x = some i ∧ (xferTotal i).isSome = true) ∧
    (∃ (x : ItemRef) (i : Item) (s : State), getItem s x = some i ∧ xferTotal i = none) ∧
    (∃ (tag : Nat) (r : HostRead) (b : List Byte) (s : State), (s.hostReads.find? fun r => r.tag == tag && r.sent) = some r ∧ b.length
      = r.bytes ∧ r.use = .copy) ∧
    (∃ (tag : Nat) (r : HostRead) (h : HostResult) (s : State), (s.hostReads.find? fun r => r.tag == tag && r.sent) = some r ∧ (h =
      .unsupported ∨ h = .abort)) :=
  ⟨⟨mine, (anItem [0x0]), tenant, (queued tenant (anItem [0x0])), by decide +kernel⟩,
   ⟨mine, (anItem [0x301, 0x1004, 0x5, 0x1]), tenant, (queued tenant (anItem [0x301, 0x1004, 0x5, 0x1])), by decide +kernel⟩,
   ⟨mine, (anItem [0x301, 0x1000, 0x5, 0x1]), tenant, (queued tenant (anItem [0x301, 0x1000, 0x5, 0x1])), by decide +kernel⟩,
   ⟨mine, (anItem [0x301, 0x3fffff8, 0x5, 0x0]), tenant, (queued tenant (anItem [0x301, 0x3fffff8, 0x5, 0x0])), by decide +kernel⟩,
   ⟨tenant, 0x3FFFFF8, 0, false, 0x3FFFFF8, withMem, by decide +kernel⟩,
   ⟨mine, (.words []), (anItem [0x302, 0x3fffff8, 0x5, 0x0]), tenant, (queued tenant (anItem [0x302, 0x3fffff8, 0x5, 0x0])), by decide +kernel⟩,
   ⟨mine, { x := mine, va := 0x100000000000, value := 5 }, tenant, 0x200000000000, (setCtx
   { withMem with atc := [hostPage], fenceWaits := [{ x := mine, va := 0x100000000000, value := 5 }] } tenant), by decide +kernel⟩,
   ⟨mine, { x := mine, va := 0x100000000000, value := 5 }, tenant, (setCtx
   { withMem with fenceWaits := [{ x := mine, va := 0x100000000000, value := 5 }] } tenant), by decide +kernel⟩,
   ⟨mine, { x := mine }, (anItem [0x302, 0x100000000000, 0x5, 0x1]), (queued tenant (anItem [0x302, 0x100000000000, 0x5, 0x1])
   { withMem with fenceWaits := [{ x := mine }] }), by decide +kernel⟩,
   ⟨mine, (anItem [0x103, 0xffffffff]), tenant, (queued tenant (anItem [0x103, 0xffffffff])), by decide +kernel⟩,
   ⟨mine, (anItem [0x308, 0x0, 0x1000, 0x1000]), tenant, (queued tenant (anItem [0x308, 0x0, 0x1000, 0x1000])), by decide +kernel⟩,
   ⟨mine, (anItem [0x309, 0x0, 0x1000, 0x5]), tenant, (queued tenant (anItem [0x309, 0x0, 0x1000, 0x5])), by decide +kernel⟩,
   ⟨mine, (anItem [0x10b, 0x1000]), tenant, (queued tenant (anItem [0x10b, 0x1000])), by decide +kernel⟩,
   ⟨mine, (anItem [0x70a, 0x0, 0x0]), tenant, (queued tenant (anItem [0x70a, 0x0, 0x0])), by decide +kernel⟩,
   ⟨mine, (anItem [0x70a, 0x0, 0x1400000000000, 0x100000001, 0x0, 0x0, 0x0, 0x1000]), tenant, getSlice ((queued tenant (anItem [0x70a,
   0x0, 0x1400000000000, 0x100000001, 0x0, 0x0, 0x0, 0x1000])) : State) (tenant : Context).part, 0, gpOffset ((queued tenant (anItem
   [0x70a, 0x0, 0x1400000000000, 0x100000001, 0x0, 0x0, 0x0, 0x1000])) : State) (getSlice ((queued tenant (anItem [0x70a, 0x0,
   0x1400000000000, 0x100000001, 0x0, 0x0, 0x0, 0x1000])) : State) (tenant : Context).part : Slice) ((anItem [0x70a, 0x0,
   0x1400000000000, 0x100000001, 0x0, 0x0, 0x0, 0x1000]) : Item) (gpBags ((anItem [0x70a, 0x0, 0x1400000000000, 0x100000001, 0x0, 0x0,
   0x0, 0x1000]) : Item) : Nat), fld (gpDesc ((anItem [0x70a, 0x0, 0x1400000000000, 0x100000001, 0x0, 0x0, 0x0, 0x1000]) : Item) 2) 30
   0, fld (gpDesc ((anItem [0x70a, 0x0, 0x1400000000000, 0x100000001, 0x0, 0x0, 0x0, 0x1000]) : Item) 4) 30 0, fld (gpDesc ((anItem
   [0x70a, 0x0, 0x1400000000000, 0x100000001, 0x0, 0x0, 0x0, 0x1000]) : Item) 5) 30 0, fld (gpDesc ((anItem [0x70a, 0x0,
   0x1400000000000, 0x100000001, 0x0, 0x0, 0x0, 0x1000]) : Item) 3) 30 0, gpBags ((anItem [0x70a, 0x0, 0x1400000000000, 0x100000001,
   0x0, 0x0, 0x0, 0x1000]) : Item), (queued tenant (anItem [0x70a, 0x0, 0x1400000000000, 0x100000001, 0x0, 0x0, 0x0, 0x1000])), by decide +kernel⟩,
   ⟨mine, (anItem [0x308, 0x0, 0x1000, 0x1000] { active := true, total := 0x1000 }), (queued tenant (anItem [0x308, 0x0, 0x1000, 0x1000]
   { active := true, total := 0x1000 })), by decide +kernel⟩,
   ⟨mine, (anItem [0x103, 0x1]), (queued tenant (anItem [0x103, 0x1])), by decide +kernel⟩,
   ⟨3, { tag := 3, x := mine, bytes := 1, sent := true }, [1],
   { withMem with hostReads := [{ tag := 3, x := mine, bytes := 1, sent := true }] }, by decide +kernel⟩,
   ⟨3, { tag := 3, x := mine, bytes := 1, sent := true }, .abort,
   { withMem with hostReads := [{ tag := 3, x := mine, bytes := 1, sent := true }] }, by decide +kernel⟩⟩

theorem witness_DescriptorsOpenAndClose :
    (∃ (x : ItemRef) (r : Reply) (i : Item) (c : Context) (s : State), itemReady s x 0x20 i c = true ∧ (okOf (readVa s c (some x) r (iw
      i 1) 64)).isSome = true) ∧
    (∃ (x : ItemRef) (r : Reply) (i : Item) (c : Context) (s : State), itemReady s x 0x24 i c = true ∧ (okOf (readVa s c (some x) r (iw
      i 1) 32)).isSome = true) ∧
    (∃ (x : ItemRef) (r : Reply) (i : Item) (c : Context) (s : State), itemReady s x 0x26 i c = true ∧ (okOf (readVa s c (some x) r (iw
      i 1) 32)).isSome = true) ∧
    (∃ (by_ : Context) (ws : List Dword), (ctxOf ws).manager = true ∧ by_.manager = false) ∧
    (∃ (s : State) (ws : List Dword), (getCtx s (ctxOf ws).id).isSome = true) ∧
    (∃ (s : State) (ws : List Dword), (getQueue s (queueOf ws).ctx (queueOf ws).qid).isSome = true) ∧
    (∃ (s : State) (ws : List Dword), (getObj s (objOf ws).obj).isSome = true) ∧
    (∃ (x : ItemRef) (i : Item) (by_ : Context) (id : BitVec 16) (s : State), itemReady s x 0x21 i by_ = true ∧ id = BitVec.ofNat 16
      (fld (iw i 1) 15 0) ∧ getCtx s id = none) ∧
    (∃ (x : ItemRef) (i : Item) (by_ : Context) (id : BitVec 16) (s : State) (c : Context), itemReady s x 0x21 i by_ = true ∧ id =
      BitVec.ofNat 16 (fld (iw i 1) 15 0) ∧ getCtx s id = some c ∧ id ≠ 0 ∧ id ≠ x.ctx ∧ c.state = .closing) ∧
    (∃ (x : ItemRef) (i : Item) (by_ : Context) (id : BitVec 16) (s : State) (c : Context), itemReady s x 0x21 i by_ = true ∧ id =
      BitVec.ofNat 16 (fld (iw i 1) 15 0) ∧ getCtx s id = some c ∧ id ≠ 0 ∧ id ≠ x.ctx ∧ c.state ≠ .closing) ∧
    (∃ (x : ItemRef) (i : Item) (by_ : Context) (id : BitVec 16) (qid : BitVec 4) (q : Queue) (s : State), itemReady s x 0x25 i by_ =
      true ∧ id = BitVec.ofNat 16 (fld (iw i 1) 15 0) ∧ qid = BitVec.ofNat 4 (fld (iw i 1) 19 16) ∧ getQueue s id qid = some q ∧ ¬ (id =
      x.ctx ∧ qid = x.qid)) ∧
    (∃ (x : ItemRef) (i : Item) (by_ : Context) (o : MemObj) (s : State), itemReady s x 0x27 i by_ = true ∧ getObj s (BitVec.ofNat 16
      (fld (iw i 1) 15 0)) = some o) ∧
    (∃ (n : Nat) (t : Teardown) (s : State), s.teardowns[n]? = some t ∧ t.step = 2) ∧
    (∃ (n : Nat) (t : Teardown) (s : State), s.teardowns[n]? = some t ∧ t.step = 4 ∧ s.hostReads = [] ∧ s.winReqs = []) ∧
    (∃ (obj : BitVec 16) (t : Teardown) (o : MemObj) (s : State), (s.teardowns.find? fun t => t.kind == 2 && t.id == obj.toNat &&
      t.step == 7) = some t ∧ t.obj = some o) :=
  ⟨⟨theirs, (.words []), (anItem [0x120, 0x0]), manager, (queued manager (anItem [0x120, 0x0])), by decide +kernel⟩,
   ⟨theirs, (.words []), (anItem [0x124, 0x0]), manager, (queued manager (anItem [0x124, 0x0])), by decide +kernel⟩,
   ⟨theirs, (.words []), (anItem [0x126, 0x0]), manager, (queued manager (anItem [0x126, 0x0])), by decide +kernel⟩,
   ⟨tenant, [0x100000], by decide +kernel⟩,
   ⟨(queued manager (anItem [])), [0], by decide +kernel⟩,
   ⟨(queued tenant (anItem [])), [0x11], by decide +kernel⟩,
   ⟨withMem, [1], by decide +kernel⟩,
   ⟨theirs, (anItem [0x121, 0xffff]), manager, BitVec.ofNat 16 (fld (iw ((anItem [0x121, 0xffff]) : Item) 1) 15 0), (queued manager
   (anItem [0x121, 0xffff])), by decide +kernel⟩,
   ⟨theirs, (anItem [0x121, 0x2]), manager, BitVec.ofNat 16 (fld (iw ((anItem [0x121, 0x2]) : Item) 1) 15 0), (setCtx (queued manager
   (anItem [0x121, 0x2])) { id := 2, state := .closing }), { id := 2, state := .closing }, by decide +kernel⟩,
   ⟨theirs, (anItem [0x121, 0x1]), manager, BitVec.ofNat 16 (fld (iw ((anItem [0x121, 0x1]) : Item) 1) 15 0), (setCtx (queued manager
   (anItem [0x121, 0x1])) tenant), tenant, by decide +kernel⟩,
   ⟨theirs, (anItem [0x125, 0xf0001]), manager, BitVec.ofNat 16 (fld (iw ((anItem [0x125, 0xf0001]) : Item) 1) 15 0), 15,
   { ctx := 1, qid := 15 }, (setQueue (queued manager (anItem [0x125, 0xf0001])) { ctx := 1, qid := 15 }), by decide +kernel⟩,
   ⟨theirs, (anItem [0x127, 0x1]), manager, { obj := 1, owner := 1, size := 0x4000000 }, (queued manager (anItem [0x127, 0x1])), by decide +kernel⟩,
   ⟨0, { id := 1 }, { withMem with teardowns := [{ id := 1 }] }, by decide +kernel⟩,
   ⟨0, { id := 1, step := 4 }, { withMem with teardowns := [{ id := 1, step := 4 }] }, by decide +kernel⟩,
   ⟨0xFFFF, { kind := 2, id := 0xFFFF, step := 7, obj := some { obj := 0xFFFF } }, { obj := 0xFFFF },
   { withMem with teardowns := [{ kind := 2, id := 0xFFFF, step := 7, obj := some { obj := 0xFFFF } }] }, by decide +kernel⟩⟩

theorem witness_ContextsAndTheHost :
    (∃ (x : ItemRef) (i : Item) (by_ : Context) (c : Context) (id : BitVec 16) (s : State), itemReady s x 0x22 i by_ = true ∧ id =
      BitVec.ofNat 16 (fld (iw i 1) 15 0) ∧ getCtx s id = some c ∧ c.state ≠ .closing ∧ recordStuck s 0x02 0 (BitVec.ofNat 32 id.toNat)
      2 = false ∧ c.faulted = false) ∧
    (∃ (x : ItemRef) (i : Item) (by_ : Context) (c : Context) (id : BitVec 16) (s : State), itemReady s x 0x22 i by_ = true ∧ id =
      BitVec.ofNat 16 (fld (iw i 1) 15 0) ∧ getCtx s id = some c ∧ c.state ≠ .closing ∧ recordStuck s 0x02 0 (BitVec.ofNat 32 id.toNat)
      2 = false ∧ c.faulted = true) ∧
    (∃ (x : ItemRef) (i : Item) (by_ : Context) (c : Context) (s : State), itemReady s x 0x23 i by_ = true ∧ getCtx s (BitVec.ofNat 16
      (fld (iw i 1) 15 0)) = some c ∧ c.state ≠ .parked) ∧
    (∃ (x : ItemRef) (i : Item) (by_ : Context) (c : Context) (s : State) (n : _) (u : _), itemReady s x 0x23 i by_ = true ∧ getCtx s
      (BitVec.ofNat 16 (fld (iw i 1) 15 0)) = some c ∧ c.state = .parked ∧ iw i 2 = 0 ∧ slotFor s c = (u, some n)) ∧
    (∃ (x : ItemRef) (i : Item) (by_ : Context) (c : Context) (s : State) (u : _), itemReady s x 0x23 i by_ = true ∧ getCtx s
      (BitVec.ofNat 16 (fld (iw i 1) 15 0)) = some c ∧ c.state = .parked ∧ iw i 2 = 0 ∧ slotFor s c = (u, none)) ∧
    (∃ (x : ItemRef) (r : Reply) (i : Item) (by_ : Context) (c : Context) (s : State) (b : List Byte) (t : State) (d : Context) (n : _)
      (u : _), itemReady s x 0x23 i by_ = true ∧ getCtx s (BitVec.ofNat 16 (fld (iw i 1) 15 0)) = some c ∧ c.state = .parked ∧ iw i 2 ≠
      0 ∧ okOf (readVa s by_ (some x) r (iw i 2) 64) = some (t, b) ∧ ctxBroken t (leWords 8 b) = false ∧ unparkDescr c (ctxOf (leWords 8
      b)) = some d ∧ slotFor t d = (u, some n)) ∧
    (∃ (x : ItemRef) (r : Reply) (i : Item) (by_ : Context) (c : Context) (s : State) (b : List Byte) (t : State), itemReady s x 0x23 i
      by_ = true ∧ getCtx s (BitVec.ofNat 16 (fld (iw i 1) 15 0)) = some c ∧ c.state = .parked ∧ iw i 2 ≠ 0 ∧ okOf (readVa s by_ (some
      x) r (iw i 2) 64) = some (t, b) ∧ (ctxBroken t (leWords 8 b) = true ∨ unparkDescr c (ctxOf (leWords 8 b)) = none)) ∧
    (∃ (ctx : BitVec 16) (c : Context) (s : State), getCtx s ctx = some c) ∧
    (∃ (x : ItemRef) (i : Item) (c : Context) (s : State), itemReady s x 0x28 i c = true) ∧
    (∃ (s : State), s.host.l0 = true) ∧
    (∃ (s : State), s.host.perst = false ∧ s.life.hostEn = true) ∧
    (∃ (s : State), s.host.down = true ∧ s.host.l0 = false) ∧
    (∃ (s : State), s.host.perst = true ∧ s.life.hostEn = true) ∧
    (∃ (d : Word) (s : State), bit s.regs.frozen 0 = false ∧ s.host.locked = false ∧ s.host.nonce = BitVec.ofNat 64 (d.toNat * 2 ^ 32 +
      s.host.raLo.toNat) ∧ s.host.lost = true) ∧
    (∃ (d : Word) (s : State), bit s.regs.frozen 0 = false ∧ s.host.locked = false ∧ s.host.nonce ≠ BitVec.ofNat 64 (d.toNat * 2 ^ 32 +
      s.host.raLo.toNat)) ∧
    (∃ (s : State), s.host.locked = true) ∧
    (∃ (s : State), s.host.lost = false) :=
  ⟨⟨theirs, (anItem [0x122, 0x1]), manager, tenant, BitVec.ofNat 16 (fld (iw ((anItem [0x122, 0x1]) : Item) 1) 15 0), (setCtx (queued
   manager (anItem [0x122, 0x1])) tenant), by decide +kernel⟩,
   ⟨theirs, (anItem [0x122, 0x2]), manager, { id := 2, faulted := true }, BitVec.ofNat 16 (fld (iw ((anItem [0x122, 0x2]) : Item) 1) 15
   0), (setCtx (queued manager (anItem [0x122, 0x2])) { id := 2, faulted := true }), by decide +kernel⟩,
   ⟨theirs, (anItem [0x223, 0x1, 0x0]), manager, tenant, (setCtx (queued manager (anItem [0x223, 0x1, 0x0])) tenant), by decide +kernel⟩,
   ⟨theirs, (anItem [0x223, 0x2, 0x0]), manager, { id := 2, state := .parked },
   { (setCtx (queued manager (anItem [0x223, 0x2, 0x0])) { id := 2, state := .parked }) with sched := { parts := [(0, { slots := 48 })] } },
   1,
   { (setCtx (queued manager (anItem [0x223, 0x2, 0x0])) { id := 2, state := .parked }) with sched := { parts := [(0, { slots := 48 })] } },
   by decide +kernel⟩,
   ⟨theirs, (anItem [0x223, 0x2, 0x0]), manager, { id := 2, state := .parked }, (setCtx (queued manager (anItem [0x223, 0x2, 0x0]))
   { id := 2, state := .parked }), (setCtx (queued manager (anItem [0x223, 0x2, 0x0])) { id := 2, state := .parked }), by decide +kernel⟩,
   ⟨theirs, (.words []), (anItem [0x223, 0x2, 0x8]), manager, { id := 2, gid := 0, state := .parked },
   { (setCtx (queued manager (anItem [0x223, 0x2, 0x8]) (withWords [0, 2])) { id := 2, gid := 0, state := .parked }) with sched := { parts := [(0, { slots := 48 })] } },
   (dwordBytes [0x2, 0x0, 0x0, 0x0, 0x0, 0x0, 0x0, 0x0]), (devReadLog
   { (setCtx (queued manager (anItem [0x223, 0x2, 0x8]) (withWords [0, 2])) { id := 2, gid := 0, state := .parked }) with sched := { parts := [(0, { slots := 48 })] } }
   0 false 8 64 0), { id := 2, gid := 0, state := .parked }, 1, (devReadLog
   { (setCtx (queued manager (anItem [0x223, 0x2, 0x8]) (withWords [0, 2])) { id := 2, gid := 0, state := .parked }) with sched := { parts := [(0, { slots := 48 })] } }
   0 false 8 64 0), by decide +kernel⟩,
   ⟨theirs, (.words []), (anItem [0x223, 0x2, 0x1000]), manager, { id := 2, state := .parked }, (setCtx (queued manager (anItem [0x223,
   0x2, 0x1000])) { id := 2, state := .parked }), (List.replicate 64 0), (devReadLog (setCtx (queued manager (anItem [0x223, 0x2,
   0x1000])) { id := 2, state := .parked }) 0 false 4096 64 0), by decide +kernel⟩,
   ⟨1, tenant, (queued tenant (anItem [])), by decide +kernel⟩,
   ⟨theirs, (anItem [0x228, 0x0, 0xe1100000000]), manager, (queued manager (anItem [0x228, 0x0, 0xe1100000000])), by decide +kernel⟩,
   ⟨{ host := { l0 := true } }, by decide +kernel⟩,
   ⟨{ host := { perst := false }, life := { hostEn := true } }, by decide +kernel⟩,
   ⟨{ host := { down := true } }, by decide +kernel⟩,
   ⟨{ life := { hostEn := true } }, by decide +kernel⟩,
   ⟨0, { host := { lost := true } }, by decide +kernel⟩,
   ⟨1, {}, by decide +kernel⟩,
   ⟨{ host := { locked := true } }, by decide +kernel⟩,
   ⟨{}, by decide +kernel⟩⟩

theorem witness_TranslationIsSetUp :
    (∃ (x : ItemRef) (r : Reply) (i : Item) (by_ : Context) (c : Context) (b : List Byte) (mask : Nat) (new : List Segment) (s : State)
      (t : State), itemReady s x 0x40 i by_ = true ∧ getCtx s (BitVec.ofNat 16 (fld (iw i 1) 15 0)) = some c ∧ okOf (readVa s by_ (some
      x) r (iw i 2) 256) = some (t, b) ∧ mask = fld (iw i 1) 23 16 ∧ new = ((curSegs t c).zipIdx).map (fun e => if mask / 2 ^ e.2 % 2 =
      1 then segOf (leWords 32 b) e.2 else e.1) ∧ segsOverlap new = true) ∧
    (∃ (x : ItemRef) (r : Reply) (i : Item) (by_ : Context) (c : Context) (b : List Byte) (mask : Nat) (picked : List Segment) (new :
      List Segment) (s : State) (t : State), itemReady s x 0x40 i by_ = true ∧ getCtx s (BitVec.ofNat 16 (fld (iw i 1) 15 0)) = some c ∧
      okOf (readVa s by_ (some x) r (iw i 2) 256) = some (t, b) ∧ mask = fld (iw i 1) 23 16 ∧ picked = ((List.range 8).filter fun k =>
      mask / 2 ^ k % 2 = 1).map (segOf (leWords 32 b)) ∧ new = ((curSegs t c).zipIdx).map (fun e => if mask / 2 ^ e.2 % 2 = 1 then segOf
      (leWords 32 b) e.2 else e.1) ∧ segsOverlap new = false ∧ picked.any segBad = true) ∧
    (∃ (x : ItemRef) (r : Reply) (i : Item) (by_ : Context) (c : Context) (b : List Byte) (mask : Nat) (picked : List Segment) (new :
      List Segment) (s : State) (t : State), itemReady s x 0x40 i by_ = true ∧ getCtx s (BitVec.ofNat 16 (fld (iw i 1) 15 0)) = some c ∧
      okOf (readVa s by_ (some x) r (iw i 2) 256) = some (t, b) ∧ mask = fld (iw i 1) 23 16 ∧ picked = ((List.range 8).filter fun k =>
      mask / 2 ^ k % 2 = 1).map (segOf (leWords 32 b)) ∧ new = ((curSegs t c).zipIdx).map (fun e => if mask / 2 ^ e.2 % 2 = 1 then segOf
      (leWords 32 b) e.2 else e.1) ∧ segsOverlap new = false ∧ picked.any segBad = false ∧ picked.any (segNoTarget t c) = true) ∧
    (∃ (x : ItemRef) (r : Reply) (i : Item) (by_ : Context) (c : Context) (b : List Byte) (mask : Nat) (picked : List Segment) (new :
      List Segment) (s : State) (t : State), itemReady s x 0x40 i by_ = true ∧ getCtx s (BitVec.ofNat 16 (fld (iw i 1) 15 0)) = some c ∧
      okOf (readVa s by_ (some x) r (iw i 2) 256) = some (t, b) ∧ mask = fld (iw i 1) 23 16 ∧ picked = ((List.range 8).filter fun k =>
      mask / 2 ^ k % 2 = 1).map (segOf (leWords 32 b)) ∧ new = ((curSegs t c).zipIdx).map (fun e => if mask / 2 ^ e.2 % 2 = 1 then segOf
      (leWords 32 b) e.2 else e.1) ∧ segsOverlap new = false ∧ picked.any segBad = false ∧ picked.any (segNoTarget t c) = false) ∧
    (∃ (x : ItemRef) (i : Item) (by_ : Context) (c : Context) (id : BitVec 16) (s : State), itemReady s x 0x41 i by_ = true ∧ id =
      BitVec.ofNat 16 (fld (iw i 1) 15 0) ∧ getCtx s id = some c ∧ bit (iw i 1) 16 = false) ∧
    (∃ (x : ItemRef) (r : Reply) (i : Item) (by_ : Context) (c : Context) (id : BitVec 16) (s : State) (b : List Byte) (t : State),
      itemReady s x 0x41 i by_ = true ∧ id = BitVec.ofNat 16 (fld (iw i 1) 15 0) ∧ getCtx s id = some c ∧ bit (iw i 1) 16 = true ∧ okOf
      (readVa s by_ (some x) r (iw i 2) 32) = some (t, b) ∧ walkBad (leWords 4 b) = true) ∧
    (∃ (x : ItemRef) (r : Reply) (i : Item) (by_ : Context) (c : Context) (id : BitVec 16) (s : State) (b : List Byte) (t : State),
      itemReady s x 0x41 i by_ = true ∧ id = BitVec.ofNat 16 (fld (iw i 1) 15 0) ∧ getCtx s id = some c ∧ bit (iw i 1) 16 = true ∧ okOf
      (readVa s by_ (some x) r (iw i 2) 32) = some (t, b) ∧ walkBad (leWords 4 b) = false) ∧
    (∃ (x : ItemRef) (r : Reply) (i : Item) (c : Context) (s : State), itemReady s x 0x42 i c = true ∧ (okOf (readVa s c (some x) r (iw
      i 1) 256)).isSome = true) ∧
    (∃ (x : ItemRef) (i : Item) (by_ : Context) (id : BitVec 16) (s : State), itemReady s x 0x43 i by_ = true ∧ id = BitVec.ofNat 16
      (fld (iw i 1) 15 0) ∧ id ≠ x.ctx ∧ by_.manager = false) ∧
    (∃ (x : ItemRef) (i : Item) (by_ : Context) (c : Context) (id : BitVec 16) (s : State), itemReady s x 0x43 i by_ = true ∧ id =
      BitVec.ofNat 16 (fld (iw i 1) 15 0) ∧ (id = x.ctx ∨ by_.manager = true) ∧ getCtx s id = some c ∧ bit (iw i 1) 16 = true ∧ s.xlates
      = []) ∧
    (∃ (x : ItemRef) (i : Item) (by_ : Context) (c : Context) (id : BitVec 16) (s : State), itemReady s x 0x43 i by_ = true ∧ id =
      BitVec.ofNat 16 (fld (iw i 1) 15 0) ∧ (id = x.ctx ∨ by_.manager = true) ∧ getCtx s id = some c ∧ bit (iw i 1) 16 = false ∧
      s.xlates = [] ∧ (iw i 2).toNat % 4096 = 0 ∧ (iw i 3).toNat % 4096 = 0) ∧
    (∃ (x : ItemRef) (i : Item) (c : Context) (n : Nat) (s : State), itemReady s x 0x44 i c = true ∧ n = (if bit (iw i 1) 16 then
      0x200000 else 0x1000) ∧ ((iw i 2).toNat % n ≠ 0 ∨ (iw i 3).toNat % n ≠ 0)) ∧
    (∃ (x : ItemRef) (i : Item) (c : Context) (n : Nat) (s : State), itemReady s x 0x44 i c = true ∧ n = (if bit (iw i 1) 16 then
      0x200000 else 0x1000) ∧ (iw i 2).toNat % n = 0 ∧ (iw i 3).toNat % n = 0 ∧ (s.hostReads.any fun r => decide (r.addr.toNat < (iw i
      2).toNat + n) && decide ((iw i 2).toNat < r.addr.toNat + r.bytes)) = false ∧ ((apertureAt s (iw i 3).toNat n).any fun e => memBusy
      s x (objPart s e.1) e.1.hbm e.2 n) = false) ∧
    (∃ (x : ItemRef) (i : Item) (c : Context) (s : State), itemReady s x 0x45 i c = true) :=
  ⟨⟨theirs, (.words []), (anItem [0x240, 0x30001, 0x0]), manager, tenant, (dwordBytes [0x8, 0x2000, 0x1, 0x0, 0x8, 0x1000, 0x1, 0x0,
   0x0, 0x0, 0x0, 0x0, 0x0, 0x0, 0x0, 0x0, 0x0, 0x0, 0x0, 0x0, 0x0, 0x0, 0x0, 0x0, 0x0, 0x0, 0x0, 0x0, 0x0, 0x0, 0x0, 0x0]), fld (iw
   ((anItem [0x240, 0x30001, 0x0]) : Item) 1) 23 16, ((curSegs ((devReadLog (setCtx (queued manager (anItem [0x240, 0x30001, 0x0])
   (withWords [0x8, 0x2000, 0x1, 0x0, 0x8, 0x1000, 0x1, 0x0, 0x0, 0x0, 0x0, 0x0, 0x0, 0x0, 0x0, 0x0, 0x0, 0x0, 0x0, 0x0, 0x0, 0x0, 0x0,
   0x0, 0x0, 0x0, 0x0, 0x0, 0x0, 0x0, 0x0, 0x0])) tenant) 0 false 0 256 0) : State) (tenant : Context)).zipIdx).map (fun e => if (fld
   (iw ((anItem [0x240, 0x30001, 0x0]) : Item) 1) 23 16 : Nat) / 2 ^ e.2 % 2 = 1 then segOf (leWords 32 ((dwordBytes [0x8, 0x2000, 0x1,
   0x0, 0x8, 0x1000, 0x1, 0x0, 0x0, 0x0, 0x0, 0x0, 0x0, 0x0, 0x0, 0x0, 0x0, 0x0, 0x0, 0x0, 0x0, 0x0, 0x0, 0x0, 0x0, 0x0, 0x0, 0x0, 0x0,
   0x0, 0x0, 0x0]) : List Byte)) e.2 else e.1), (setCtx (queued manager (anItem [0x240, 0x30001, 0x0]) (withWords [0x8, 0x2000, 0x1,
   0x0, 0x8, 0x1000, 0x1, 0x0, 0x0, 0x0, 0x0, 0x0, 0x0, 0x0, 0x0, 0x0, 0x0, 0x0, 0x0, 0x0, 0x0, 0x0, 0x0, 0x0, 0x0, 0x0, 0x0, 0x0, 0x0,
   0x0, 0x0, 0x0])) tenant), (devReadLog (setCtx (queued manager (anItem [0x240, 0x30001, 0x0]) (withWords [0x8, 0x2000, 0x1, 0x0, 0x8,
   0x1000, 0x1, 0x0, 0x0, 0x0, 0x0, 0x0, 0x0, 0x0, 0x0, 0x0, 0x0, 0x0, 0x0, 0x0, 0x0, 0x0, 0x0, 0x0, 0x0, 0x0, 0x0, 0x0, 0x0, 0x0, 0x0,
   0x0])) tenant) 0 false 0 256 0), by decide +kernel⟩,
   ⟨theirs, (.words []), (anItem [0x240, 0x10001, 0x0]), manager, tenant, (dwordBytes [0x8, 0x0, 0x1, 0x0, 0x0, 0x0, 0x0, 0x0, 0x0, 0x0,
   0x0, 0x0, 0x0, 0x0, 0x0, 0x0, 0x0, 0x0, 0x0, 0x0, 0x0, 0x0, 0x0, 0x0, 0x0, 0x0, 0x0, 0x0, 0x0, 0x0, 0x0, 0x0]), fld (iw ((anItem
   [0x240, 0x10001, 0x0]) : Item) 1) 23 16, ((List.range 8).filter fun k => (fld (iw ((anItem [0x240, 0x10001, 0x0]) : Item) 1) 23 16 :
   Nat) / 2 ^ k % 2 = 1).map (segOf (leWords 32 ((dwordBytes [0x8, 0x0, 0x1, 0x0, 0x0, 0x0, 0x0, 0x0, 0x0, 0x0, 0x0, 0x0, 0x0, 0x0, 0x0,
   0x0, 0x0, 0x0, 0x0, 0x0, 0x0, 0x0, 0x0, 0x0, 0x0, 0x0, 0x0, 0x0, 0x0, 0x0, 0x0, 0x0]) : List Byte))), ((curSegs ((devReadLog (setCtx
   (queued manager (anItem [0x240, 0x10001, 0x0]) (withWords [0x8, 0x0, 0x1, 0x0, 0x0, 0x0, 0x0, 0x0, 0x0, 0x0, 0x0, 0x0, 0x0, 0x0, 0x0,
   0x0, 0x0, 0x0, 0x0, 0x0, 0x0, 0x0, 0x0, 0x0, 0x0, 0x0, 0x0, 0x0, 0x0, 0x0, 0x0, 0x0])) tenant) 0 false 0 256 0) : State) (tenant :
   Context)).zipIdx).map (fun e => if (fld (iw ((anItem [0x240, 0x10001, 0x0]) : Item) 1) 23 16 : Nat) / 2 ^ e.2 % 2 = 1 then segOf
   (leWords 32 ((dwordBytes [0x8, 0x0, 0x1, 0x0, 0x0, 0x0, 0x0, 0x0, 0x0, 0x0, 0x0, 0x0, 0x0, 0x0, 0x0, 0x0, 0x0, 0x0, 0x0, 0x0, 0x0,
   0x0, 0x0, 0x0, 0x0, 0x0, 0x0, 0x0, 0x0, 0x0, 0x0, 0x0]) : List Byte)) e.2 else e.1), (setCtx (queued manager (anItem [0x240, 0x10001,
   0x0]) (withWords [0x8, 0x0, 0x1, 0x0, 0x0, 0x0, 0x0, 0x0, 0x0, 0x0, 0x0, 0x0, 0x0, 0x0, 0x0, 0x0, 0x0, 0x0, 0x0, 0x0, 0x0, 0x0, 0x0,
   0x0, 0x0, 0x0, 0x0, 0x0, 0x0, 0x0, 0x0, 0x0])) tenant), (devReadLog (setCtx (queued manager (anItem [0x240, 0x10001, 0x0]) (withWords
   [0x8, 0x0, 0x1, 0x0, 0x0, 0x0, 0x0, 0x0, 0x0, 0x0, 0x0, 0x0, 0x0, 0x0, 0x0, 0x0, 0x0, 0x0, 0x0, 0x0, 0x0, 0x0, 0x0, 0x0, 0x0, 0x0,
   0x0, 0x0, 0x0, 0x0, 0x0, 0x0])) tenant) 0 false 0 256 0), by decide +kernel⟩,
   ⟨theirs, (.words []), (anItem [0x240, 0x10001, 0x0]), manager, tenant, (dwordBytes [0x78, 0x1000, 0x9, 0x0, 0x0, 0x0, 0x0, 0x0, 0x0,
   0x0, 0x0, 0x0, 0x0, 0x0, 0x0, 0x0, 0x0, 0x0, 0x0, 0x0, 0x0, 0x0, 0x0, 0x0, 0x0, 0x0, 0x0, 0x0, 0x0, 0x0, 0x0, 0x0]), fld (iw ((anItem
   [0x240, 0x10001, 0x0]) : Item) 1) 23 16, ((List.range 8).filter fun k => (fld (iw ((anItem [0x240, 0x10001, 0x0]) : Item) 1) 23 16 :
   Nat) / 2 ^ k % 2 = 1).map (segOf (leWords 32 ((dwordBytes [0x78, 0x1000, 0x9, 0x0, 0x0, 0x0, 0x0, 0x0, 0x0, 0x0, 0x0, 0x0, 0x0, 0x0,
   0x0, 0x0, 0x0, 0x0, 0x0, 0x0, 0x0, 0x0, 0x0, 0x0, 0x0, 0x0, 0x0, 0x0, 0x0, 0x0, 0x0, 0x0]) : List Byte))), ((curSegs ((devReadLog
   (setCtx (queued manager (anItem [0x240, 0x10001, 0x0]) (withWords [0x78, 0x1000, 0x9, 0x0, 0x0, 0x0, 0x0, 0x0, 0x0, 0x0, 0x0, 0x0,
   0x0, 0x0, 0x0, 0x0, 0x0, 0x0, 0x0, 0x0, 0x0, 0x0, 0x0, 0x0, 0x0, 0x0, 0x0, 0x0, 0x0, 0x0, 0x0, 0x0])) tenant) 0 false 0 256 0) :
   State) (tenant : Context)).zipIdx).map (fun e => if (fld (iw ((anItem [0x240, 0x10001, 0x0]) : Item) 1) 23 16 : Nat) / 2 ^ e.2 % 2 =
   1 then segOf (leWords 32 ((dwordBytes [0x78, 0x1000, 0x9, 0x0, 0x0, 0x0, 0x0, 0x0, 0x0, 0x0, 0x0, 0x0, 0x0, 0x0, 0x0, 0x0, 0x0, 0x0,
   0x0, 0x0, 0x0, 0x0, 0x0, 0x0, 0x0, 0x0, 0x0, 0x0, 0x0, 0x0, 0x0, 0x0]) : List Byte)) e.2 else e.1), (setCtx (queued manager (anItem
   [0x240, 0x10001, 0x0]) (withWords [0x78, 0x1000, 0x9, 0x0, 0x0, 0x0, 0x0, 0x0, 0x0, 0x0, 0x0, 0x0, 0x0, 0x0, 0x0, 0x0, 0x0, 0x0, 0x0,
   0x0, 0x0, 0x0, 0x0, 0x0, 0x0, 0x0, 0x0, 0x0, 0x0, 0x0, 0x0, 0x0])) tenant), (devReadLog (setCtx (queued manager (anItem [0x240,
   0x10001, 0x0]) (withWords [0x78, 0x1000, 0x9, 0x0, 0x0, 0x0, 0x0, 0x0, 0x0, 0x0, 0x0, 0x0, 0x0, 0x0, 0x0, 0x0, 0x0, 0x0, 0x0, 0x0,
   0x0, 0x0, 0x0, 0x0, 0x0, 0x0, 0x0, 0x0, 0x0, 0x0, 0x0, 0x0])) tenant) 0 false 0 256 0), by decide +kernel⟩,
   ⟨theirs, (.words []), (anItem [0x240, 0x10001, 0x0]), manager, tenant, (dwordBytes [0x78, 0x4000000, 0x1, 0x0, 0x0, 0x0, 0x0, 0x0,
   0x0, 0x0, 0x0, 0x0, 0x0, 0x0, 0x0, 0x0, 0x0, 0x0, 0x0, 0x0, 0x0, 0x0, 0x0, 0x0, 0x0, 0x0, 0x0, 0x0, 0x0, 0x0, 0x0, 0x0]), fld (iw
   ((anItem [0x240, 0x10001, 0x0]) : Item) 1) 23 16, ((List.range 8).filter fun k => (fld (iw ((anItem [0x240, 0x10001, 0x0]) : Item) 1)
   23 16 : Nat) / 2 ^ k % 2 = 1).map (segOf (leWords 32 ((dwordBytes [0x78, 0x4000000, 0x1, 0x0, 0x0, 0x0, 0x0, 0x0, 0x0, 0x0, 0x0, 0x0,
   0x0, 0x0, 0x0, 0x0, 0x0, 0x0, 0x0, 0x0, 0x0, 0x0, 0x0, 0x0, 0x0, 0x0, 0x0, 0x0, 0x0, 0x0, 0x0, 0x0]) : List Byte))), ((curSegs
   ((devReadLog (setCtx (queued manager (anItem [0x240, 0x10001, 0x0]) (withWords [0x78, 0x4000000, 0x1, 0x0, 0x0, 0x0, 0x0, 0x0, 0x0,
   0x0, 0x0, 0x0, 0x0, 0x0, 0x0, 0x0, 0x0, 0x0, 0x0, 0x0, 0x0, 0x0, 0x0, 0x0, 0x0, 0x0, 0x0, 0x0, 0x0, 0x0, 0x0, 0x0])) tenant) 0 false
   0 256 0) : State) (tenant : Context)).zipIdx).map (fun e => if (fld (iw ((anItem [0x240, 0x10001, 0x0]) : Item) 1) 23 16 : Nat) / 2 ^
   e.2 % 2 = 1 then segOf (leWords 32 ((dwordBytes [0x78, 0x4000000, 0x1, 0x0, 0x0, 0x0, 0x0, 0x0, 0x0, 0x0, 0x0, 0x0, 0x0, 0x0, 0x0,
   0x0, 0x0, 0x0, 0x0, 0x0, 0x0, 0x0, 0x0, 0x0, 0x0, 0x0, 0x0, 0x0, 0x0, 0x0, 0x0, 0x0]) : List Byte)) e.2 else e.1), (setCtx (queued
   manager (anItem [0x240, 0x10001, 0x0]) (withWords [0x78, 0x4000000, 0x1, 0x0, 0x0, 0x0, 0x0, 0x0, 0x0, 0x0, 0x0, 0x0, 0x0, 0x0, 0x0,
   0x0, 0x0, 0x0, 0x0, 0x0, 0x0, 0x0, 0x0, 0x0, 0x0, 0x0, 0x0, 0x0, 0x0, 0x0, 0x0, 0x0])) tenant), (devReadLog (setCtx (queued manager
   (anItem [0x240, 0x10001, 0x0]) (withWords [0x78, 0x4000000, 0x1, 0x0, 0x0, 0x0, 0x0, 0x0, 0x0, 0x0, 0x0, 0x0, 0x0, 0x0, 0x0, 0x0,
   0x0, 0x0, 0x0, 0x0, 0x0, 0x0, 0x0, 0x0, 0x0, 0x0, 0x0, 0x0, 0x0, 0x0, 0x0, 0x0])) tenant) 0 false 0 256 0), by decide +kernel⟩,
   ⟨theirs, (anItem [0x241, 0x1, 0x0]), manager, tenant, BitVec.ofNat 16 (fld (iw ((anItem [0x241, 0x1, 0x0]) : Item) 1) 15 0), (setCtx
   (queued manager (anItem [0x241, 0x1, 0x0])) tenant), by decide +kernel⟩,
   ⟨theirs, (.words []), (anItem [0x241, 0x10001, 0x0]), manager, tenant, BitVec.ofNat 16 (fld (iw ((anItem [0x241, 0x10001, 0x0]) :
   Item) 1) 15 0), (setCtx (queued manager (anItem [0x241, 0x10001, 0x0])) tenant), (List.replicate 32 0), (devReadLog (setCtx (queued
   manager (anItem [0x241, 0x10001, 0x0])) tenant) 0 false 0 32 0), by decide +kernel⟩,
   ⟨theirs, (.words []), (anItem [0x241, 0x10001, 0x0]), manager, tenant, BitVec.ofNat 16 (fld (iw ((anItem [0x241, 0x10001, 0x0]) :
   Item) 1) 15 0), (setCtx (queued manager (anItem [0x241, 0x10001, 0x0]) (withWords [0x1009, 0x24000000c, 0x0, 0x0])) tenant),
   (dwordBytes [0x1009, 0x24000000c, 0x0, 0x0]), (devReadLog (setCtx (queued manager (anItem [0x241, 0x10001, 0x0]) (withWords [0x1009,
   0x24000000c, 0x0, 0x0])) tenant) 0 false 0 32 0), by decide +kernel⟩,
   ⟨theirs, (.words []), (anItem [0x142, 0x0]), manager, (queued manager (anItem [0x142, 0x0])), by decide +kernel⟩,
   ⟨mine, (anItem [0x343, 0x0]), tenant, BitVec.ofNat 16 (fld (iw ((anItem [0x343, 0x0]) : Item) 1) 15 0), (queued tenant (anItem
   [0x343, 0x0])), by decide +kernel⟩,
   ⟨mine, (anItem [0x343, 0x10001]), tenant, tenant, BitVec.ofNat 16 (fld (iw ((anItem [0x343, 0x10001]) : Item) 1) 15 0), (queued
   tenant (anItem [0x343, 0x10001])), by decide +kernel⟩,
   ⟨mine, (anItem [0x343, 0x1, 0x1000, 0xfffff000]), tenant, tenant, BitVec.ofNat 16 (fld (iw ((anItem [0x343, 0x1, 0x1000, 0xfffff000])
   : Item) 1) 15 0), (queued tenant (anItem [0x343, 0x1, 0x1000, 0xfffff000])), by decide +kernel⟩,
   ⟨theirs, (anItem [0x344, 0x10001, 0x200000, 0x1000]), manager, (if bit (iw ((anItem [0x344, 0x10001, 0x200000, 0x1000]) : Item) 1) 16
   then 0x200000 else 0x1000), (queued manager (anItem [0x344, 0x10001, 0x200000, 0x1000])), by decide +kernel⟩,
   ⟨theirs, (anItem [0x344, 0x10001, 0x200000, 0x400000]), manager, (if bit (iw ((anItem [0x344, 0x10001, 0x200000, 0x400000]) : Item)
   1) 16 then 0x200000 else 0x1000), (queued manager (anItem [0x344, 0x10001, 0x200000, 0x400000])), by decide +kernel⟩,
   ⟨theirs, (anItem [0x145, 0x0]), manager, (queued manager (anItem [0x145, 0x0])), by decide +kernel⟩⟩

theorem witness_TranslationReplies :
    (∃ (tag : Nat) (v : Xlate) (c : Context) (s : State) (t : State) (wr : _), (s.xlates.find? fun v => v.tag == tag && !v.walk) = some
      v ∧ t = dropXlates s (fun u => u.tag == tag) ∧ getCtx t v.ctx = some c ∧ (v.retry && v.write && !wr) = false) ∧
    (∃ (s : State), s.xlates = []) ∧
    (∃ (itag : BitVec 5) (v : BitVec 5 × List Nat) (s : State), (s.invals.find? fun v => v.1 == itag) = some v ∧ (s.hostReads.any fun r
      => v.2.contains r.tag) = false) ∧
    (∃ (tag : Nat) (v : Xlate) (c : Context) (b : List Byte) (s : State), (s.xlates.find? fun v => v.tag == tag && v.walk) = some v ∧
      getCtx s v.ctx = some c ∧ b.length = walkEsize c.walkFmt) ∧
    (∃ (c : Context) (e : Dword), bit e (fld (c.walkFmt.getD 2 0) 5 0) = false) ∧
    (∃ (req : BitVec 16) (r : PageReq) (s : State), (s.pageReqs.find? fun r => r.id == req && !r.native) = some r) ∧
    (∃ (req : BitVec 16) (r : PageReq) (s : State), (s.pageReqs.find? fun r => r.id == req) = some r ∧ r.withdrawn = false) ∧
    (∃ (tag : BitVec 16) (r : WinReq) (s : State), (s.winReqs.find? fun r => r.tag == tag) = some r ∧ r.use ≠ .ring) ∧
    (∃ (tag : BitVec 16) (r : WinReq) (s : State), (s.winReqs.find? fun r => r.tag == tag) = some r ∧ r.use = .ring) ∧
    (∃ (tag : Nat) (r : HostRead) (s : State), (s.hostReads.find? fun r => r.tag == tag && r.sent) = some r) ∧
    (∃ (tag : Nat) (v : Xlate) (s : State), (s.hostReads.find? fun r => r.tag == tag && r.sent) = none ∧ (s.xlates.find? fun v => v.tag
      == tag) = some v) :=
  ⟨⟨3, { tag := 3, ctx := 1, va := 0x5000 }, tenant,
   { queued tenant (anItem []) with xlates := [{ tag := 3, ctx := 1, va := 0x5000 }] }, { queued tenant (anItem []) with xlates := [] },
   false, by decide +kernel⟩,
   ⟨{}, by decide +kernel⟩,
   ⟨31, (31, []), { invals := [(31, [])] }, by decide +kernel⟩,
   ⟨3, { tag := 3, ctx := 1, walk := true }, tenant, (List.replicate 4 0),
   { queued tenant (anItem []) with xlates := [{ tag := 3, ctx := 1, walk := true }] }, by decide +kernel⟩,
   ⟨tenant, 0, by decide +kernel⟩,
   ⟨9, { id := 9 }, { pageReqs := [{ id := 9 }] }, by decide +kernel⟩,
   ⟨9, { id := 9 }, { pageReqs := [{ id := 9 }] }, by decide +kernel⟩,
   ⟨0xFFFF, { tag := 0xFFFF, x := mine, window := 5 }, { winReqs := [{ tag := 0xFFFF, x := mine, window := 5 }] }, by decide +kernel⟩,
   ⟨0xFFFF, { tag := 0xFFFF, x := mine, use := .ring }, { winReqs := [{ tag := 0xFFFF, x := mine, use := .ring }] }, by decide +kernel⟩,
   ⟨3, { tag := 3, x := mine, bytes := 1, sent := true }, { hostReads := [{ tag := 3, x := mine, bytes := 1, sent := true }] }, by decide +kernel⟩,
   ⟨3, { tag := 3, ctx := 1, va := 0x5000 }, { xlates := [{ tag := 3, ctx := 1, va := 0x5000 }] }, by decide +kernel⟩⟩

theorem witness_WindowsAndHostAccess :
    (∃ (x : ItemRef) (r : Reply) (i : Item) (c : Context) (b : List Byte) (w1 : Dword) (k : Nat) (s : State) (t : State), itemReady s x
      0x46 i c = true ∧ okOf (readVa s c (some x) r (iw i 1) 16) = some (t, b) ∧ w1 = (leWords 2 b).getD 1 0 ∧ k = fld w1 28 17 ∧
      (Tbl.get {} t.windows k).valid = true) ∧
    (∃ (x : ItemRef) (r : Reply) (i : Item) (c : Context) (b : List Byte) (w0 : Dword) (w1 : Dword) (k : Nat) (o : MemObj) (s : State)
      (t : State), itemReady s x 0x46 i c = true ∧ okOf (readVa s c (some x) r (iw i 1) 16) = some (t, b) ∧ w0 = (leWords 2 b).getD 0 0
      ∧ w1 = (leWords 2 b).getD 1 0 ∧ k = fld w1 28 17 ∧ (Tbl.get {} t.windows k).valid = false ∧ closedRecently t 3 k = false ∧
      onlyBits w0 0x80FFFFFFFFFFFFFF = true ∧ onlyBits w1 0x1FFFFFFFFF = true ∧ fld w0 21 20 ≠ 3 ∧ getObj t (BitVec.ofNat 16 (fld w0 15
      0)) = some o ∧ o.closing = false ∧ (getCtx t o.owner).isSome = true ∧ (objInst t o).toNat = fld w0 31 24 ∧ ¬ (bit w0 22 = true ∧
      bit w0 23 = true)) ∧
    (∃ (x : ItemRef) (i : Item) (c : Context) (k : Nat) (s : State), itemReady s x 0x47 i c = true ∧ k = fld (iw i 1) 11 0 ∧ (Tbl.get
      {} s.windows k).valid = false) ∧
    (∃ (x : ItemRef) (i : Item) (c : Context) (k : Nat) (s : State), itemReady s x 0x47 i c = true ∧ k = fld (iw i 1) 11 0 ∧ (Tbl.get
      {} s.windows k).valid = true ∧ (s.teardowns.any fun t => t.kind == 3 && t.id == k) = false) ∧
    (∃ (x : ItemRef) (r : Reply) (i : Item) (c : Context) (b : List Byte) (w0 : Dword) (w1 : Dword) (s : State) (t : State), itemReady
      s x 0x48 i c = true ∧ okOf (readVa s c (some x) r (iw i 1) 16) = some (t, b) ∧ w0 = (leWords 2 b).getD 0 0 ∧ w1 = (leWords 2
      b).getD 1 0 ∧ onlyBits w0 0xFFFFFFFFFFFFF01F = true ∧ onlyBits w1 0xFFFFFFFFFFFFF000 = true) ∧
    (∃ (x : ItemRef) (i : Item) (c : Context) (s : State), itemReady s x 0x49 i c = true ∧ bit (iw i 1) 32 = false) ∧
    (∃ (x : ItemRef) (i : Item) (c : Context) (s : State) (o : MemObj), itemReady s x 0x49 i c = true ∧ bit (iw i 1) 32 = true ∧ getObj
      s (BitVec.ofNat 16 (fld (iw i 1) 31 16)) = some o ∧ o.closing = false ∧ (iw i 2).toNat < o.size.toNat ∧ (iw i 2).toNat % slotSize
      s = 0) ∧
    (∃ (x : ItemRef) (i : Item) (c : Context) (s : State), itemReady s x 0x49 i c = true ∧ bit (iw i 1) 32 = true ∧ getObj s
      (BitVec.ofNat 16 (fld (iw i 1) 31 16)) = none) ∧
    (∃ (x : ItemRef) (i : Item) (c : Context) (s : State) (o : MemObj), itemReady s x 0x49 i c = true ∧ bit (iw i 1) 32 = true ∧ getObj
      s (BitVec.ofNat 16 (fld (iw i 1) 31 16)) = some o ∧ (o.closing = true ∨ o.size.toNat ≤ (iw i 2).toNat ∨ (iw i 2).toNat % slotSize
      s ≠ 0)) ∧
    (∃ (x : ItemRef) (i : Item) (c : Context) (s : State), itemReady s x 0x4A i c = true ∧ s.host.cxl = false) ∧
    (∃ (x : ItemRef) (i : Item) (c : Context) (s : State), itemReady s x 0x4A i c = true ∧ s.host.cxl = true ∧ bit (iw i 1) 32 = false) ∧
    (∃ (x : ItemRef) (i : Item) (c : Context) (s : State) (o : MemObj), itemReady s x 0x4A i c = true ∧ s.host.cxl = true ∧ bit (iw i
      1) 32 = true ∧ getObj s (BitVec.ofNat 16 (fld (iw i 1) 31 16)) = some o ∧ o.closing = false) ∧
    (∃ (x : ItemRef) (i : Item) (c : Context) (s : State), itemReady s x 0x4A i c = true ∧ s.host.cxl = true ∧ bit (iw i 1) 32 = true ∧
      getObj s (BitVec.ofNat 16 (fld (iw i 1) 31 16)) = none) ∧
    (∃ (off : BitVec 39) (op : Bar4Op) (o : MemObj) (a : Nat) (s : State) (t : State) (n : Nat), apertureAt s off.toNat (bar4Bytes op)
      = some (o, a) ∧ s.cfg.mse = true ∧ s.cfg.d3hot = false ∧ meetMem s (objPart s o) o.hbm a (bar4Bytes op) = (t, true) ∧ op = .read n) ∧
    (∃ (off : BitVec 39) (op : Bar4Op) (o : MemObj) (a : Nat) (s : State) (t : State) (d : List Byte), apertureAt s off.toNat
      (bar4Bytes op) = some (o, a) ∧ s.cfg.mse = true ∧ s.cfg.d3hot = false ∧ meetMem s (objPart s o) o.hbm a (bar4Bytes op) = (t, true)
      ∧ op = .write d) ∧
    (∃ (off : BitVec 39) (op : Bar4Op) (o : MemObj) (a : Nat) (s : State) (t : State) (n : Nat) (v : Dword), apertureAt s off.toNat
      (bar4Bytes op) = some (o, a) ∧ s.cfg.mse = true ∧ s.cfg.d3hot = false ∧ meetMem s (objPart s o) o.hbm a (bar4Bytes op) = (t, true)
      ∧ op = .fetchAdd n v ∧ bar4Supported off.toNat op = true) ∧
    (∃ (off : BitVec 39) (op : Bar4Op) (o : MemObj) (a : Nat) (s : State) (t : State) (n : Nat) (v : Dword), apertureAt s off.toNat
      (bar4Bytes op) = some (o, a) ∧ s.cfg.mse = true ∧ s.cfg.d3hot = false ∧ meetMem s (objPart s o) o.hbm a (bar4Bytes op) = (t, true)
      ∧ op = .swap n v ∧ bar4Supported off.toNat op = true) ∧
    (∃ (off : BitVec 39) (op : Bar4Op) (o : MemObj) (a : Nat) (s : State) (t : State) (n : Nat) (y : BitVec 128) (v : BitVec 128),
      apertureAt s off.toNat (bar4Bytes op) = some (o, a) ∧ s.cfg.mse = true ∧ s.cfg.d3hot = false ∧ meetMem s (objPart s o) o.hbm a
      (bar4Bytes op) = (t, true) ∧ op = .cas n y v ∧ bar4Supported off.toNat op = true) ∧
    (∃ (off : BitVec 39) (op : Bar4Op) (s : State), (apertureAt s off.toNat (bar4Bytes op) = none ∨ s.cfg.mse = false ∨ s.cfg.d3hot =
      true ∨ bar4Supported off.toNat op = false)) ∧
    (∃ (dec : BitVec 2) (off : Dword) (k : Nat) (a : Nat) (o : MemObj) (part : BitVec 4) (s : State) (t : State) (n : Nat), s.host.cxl
      = true ∧ Tbl.get 0 s.hdm dec.toNat = k + 1 ∧ getObj s (BitVec.ofNat 16 k) = some o ∧ part = objPart s o ∧ a = o.base.toNat +
      off.toNat ∧ o.cuffed = false ∧ off.toNat + n ≤ o.size.toNat ∧ memRange s part o.hbm a n = true ∧ meetMem s part o.hbm a n = (t,
      true)) ∧
    (∃ (dec : BitVec 2) (off : Dword) (k : Nat) (a : Nat) (o : MemObj) (part : BitVec 4) (s : State) (t : State) (d : List Byte),
      s.host.cxl = true ∧ Tbl.get 0 s.hdm dec.toNat = k + 1 ∧ getObj s (BitVec.ofNat 16 k) = some o ∧ part = objPart s o ∧ a =
      o.base.toNat + off.toNat ∧ o.cuffed = false ∧ off.toNat + d.length ≤ o.size.toNat ∧ memRange s part o.hbm a d.length = true ∧
      meetMem s part o.hbm a d.length = (t, true) ∧ memRange t part o.hbm a d.length = true) ∧
    (∃ (s : State), s.life.ready = false) ∧
    (∃ (s : State), s.life.ready = true) ∧
    (∃ (s : State), s.life.ready = true) :=
  ⟨⟨theirs, (.words []), (anItem [0x146, 0x0]), manager, (List.replicate 16 0), (leWords 2 ((List.replicate 16 0) : List Byte)).getD 1
   0, fld ((leWords 2 ((List.replicate 16 0) : List Byte)).getD 1 0 : Dword) 28 17, (queued manager (anItem [0x146, 0x0])
   { withMem with windows := [(0, { valid := true })] }), (devReadLog (queued manager (anItem [0x146, 0x0])
   { withMem with windows := [(0, { valid := true })] }) 0 false 0 16 0), by decide +kernel⟩,
   ⟨theirs, (.words []), (anItem [0x146, 0x0]), manager, (dwordBytes [0x5002f0001, 0x1ffc0006]), (leWords 2 ((dwordBytes [0x5002f0001,
   0x1ffc0006]) : List Byte)).getD 0 0, (leWords 2 ((dwordBytes [0x5002f0001, 0x1ffc0006]) : List Byte)).getD 1 0, fld ((leWords 2
   ((dwordBytes [0x5002f0001, 0x1ffc0006]) : List Byte)).getD 1 0 : Dword) 28 17, { obj := 1, owner := 1, size := 0x4000000 }, (setCtx
   (queued manager (anItem [0x146, 0x0]) (withWords [0x5002f0001, 0x1ffc0006])) tenant), (devReadLog (setCtx (queued manager (anItem
   [0x146, 0x0]) (withWords [0x5002f0001, 0x1ffc0006])) tenant) 0 false 0 16 0), by decide +kernel⟩,
   ⟨theirs, (anItem [0x147, 0xfff]), manager, fld (iw ((anItem [0x147, 0xfff]) : Item) 1) 11 0, (queued manager (anItem [0x147,
   0xfff])), by decide +kernel⟩,
   ⟨theirs, (anItem [0x147, 0xfff]), manager, fld (iw ((anItem [0x147, 0xfff]) : Item) 1) 11 0, (queued manager (anItem [0x147, 0xfff])
   { withMem with windows := [(4095, { valid := true })] }), by decide +kernel⟩,
   ⟨theirs, (.words []), (anItem [0x148, 0x0]), manager, (dwordBytes [0x8000001f, 0x1000]), (leWords 2 ((dwordBytes [0x8000001f,
   0x1000]) : List Byte)).getD 0 0, (leWords 2 ((dwordBytes [0x8000001f, 0x1000]) : List Byte)).getD 1 0, (setCtx (queued manager
   (anItem [0x148, 0x0]) (withWords [0x8000001f, 0x1000])) tenant), (devReadLog (setCtx (queued manager (anItem [0x148, 0x0]) (withWords
   [0x8000001f, 0x1000])) tenant) 0 false 0 16 0), by decide +kernel⟩,
   ⟨theirs, (anItem [0x249, 0xff, 0x0]), manager, (queued manager (anItem [0x249, 0xff, 0x0])), by decide +kernel⟩,
   ⟨theirs, (anItem [0x249, 0x1000100ff, 0x0]), manager, (queued manager (anItem [0x249, 0x1000100ff, 0x0])),
   { obj := 1, owner := 1, size := 0x4000000 }, by decide +kernel⟩,
   ⟨theirs, (anItem [0x249, 0x1000900ff, 0x0]), manager, (queued manager (anItem [0x249, 0x1000900ff, 0x0])), by decide +kernel⟩,
   ⟨theirs, (anItem [0x249, 0x1000100ff, 0x4000000]), manager, (queued manager (anItem [0x249, 0x1000100ff, 0x4000000])),
   { obj := 1, owner := 1, size := 0x4000000 }, by decide +kernel⟩,
   ⟨theirs, (anItem [0x14a, 0x0]), manager, (queued manager (anItem [0x14a, 0x0])), by decide +kernel⟩,
   ⟨theirs, (anItem [0x14a, 0x3]), manager, (queued manager (anItem [0x14a, 0x3]) { withMem with host := { cxl := true } }), by decide +kernel⟩,
   ⟨theirs, (anItem [0x14a, 0x100010003]), manager, (queued manager (anItem [0x14a, 0x100010003])
   { withMem with host := { cxl := true } }), { obj := 1, owner := 1, size := 0x4000000 }, by decide +kernel⟩,
   ⟨theirs, (anItem [0x14a, 0x100090003]), manager, (queued manager (anItem [0x14a, 0x100090003])
   { withMem with host := { cxl := true } }), by decide +kernel⟩,
   ⟨0x7f83fffff8, .read 8, { obj := 1, owner := 1, size := 0x4000000 }, 0x3fffff8, (setCtx
   { withMem with apertures := [(255, { valid := true, obj := 1 })], cfg := { mse := true } } tenant), (setCtx
   { withMem with apertures := [(255, { valid := true, obj := 1 })], cfg := { mse := true } } tenant), 8, by decide +kernel⟩,
   ⟨0x7f80000000, .write [1], { obj := 1, owner := 1, size := 0x4000000 }, 0, (setCtx
   { withMem with apertures := [(255, { valid := true, obj := 1 })], cfg := { mse := true } } tenant), (setCtx
   { withMem with apertures := [(255, { valid := true, obj := 1 })], cfg := { mse := true } } tenant), [1], by decide +kernel⟩,
   ⟨0x7f80000000, .fetchAdd 8 1, { obj := 1, owner := 1, size := 0x4000000 }, 0, (setCtx
   { withMem with apertures := [(255, { valid := true, obj := 1 })], cfg := { mse := true } } tenant), (setCtx
   { withMem with apertures := [(255, { valid := true, obj := 1 })], cfg := { mse := true } } tenant), 8, 1, by decide +kernel⟩,
   ⟨0x7f80000000, .swap 4 1, { obj := 1, owner := 1, size := 0x4000000 }, 0, (setCtx
   { withMem with apertures := [(255, { valid := true, obj := 1 })], cfg := { mse := true } } tenant), (setCtx
   { withMem with apertures := [(255, { valid := true, obj := 1 })], cfg := { mse := true } } tenant), 4, 1, by decide +kernel⟩,
   ⟨0x7f80000000, .cas 16 1 2, { obj := 1, owner := 1, size := 0x4000000 }, 0, (setCtx
   { withMem with apertures := [(255, { valid := true, obj := 1 })], cfg := { mse := true } } tenant), (setCtx
   { withMem with apertures := [(255, { valid := true, obj := 1 })], cfg := { mse := true } } tenant), 16, 1, 2, by decide +kernel⟩,
   ⟨0, .read 1, withMem, by decide +kernel⟩,
   ⟨3, 0x3FFFFC0, 1, ({ obj := 1, owner := 1, size := 0x4000000 } : MemObj).base.toNat + (0x3FFFFC0 : Dword).toNat,
   { obj := 1, owner := 1, size := 0x4000000 }, 0, (setCtx { withMem with host := { cxl := true }, hdm := [(3, 2)] } tenant), (setCtx
   { withMem with host := { cxl := true }, hdm := [(3, 2)] } tenant), 64, by decide +kernel⟩,
   ⟨3, 0x3FFFFC0, 1, ({ obj := 1, owner := 1, size := 0x4000000 } : MemObj).base.toNat + (0x3FFFFC0 : Dword).toNat,
   { obj := 1, owner := 1, size := 0x4000000 }, 0, (setCtx { withMem with host := { cxl := true }, hdm := [(3, 2)] } tenant), (setCtx
   { withMem with host := { cxl := true }, hdm := [(3, 2)] } tenant), [1], by decide +kernel⟩,
   ⟨{}, by decide +kernel⟩,
   ⟨{ life := { ready := true } }, by decide +kernel⟩,
   ⟨{ life := { ready := true } }, by decide +kernel⟩⟩

theorem witness_GloveItems :
    (∃ (s : State) (i : Item), getGlove s (giGid i) = none) ∧
    (∃ (s : State) (i : Item) (g : Glove), getGlove s (giGid i) = some g ∧ g.frozen = true ∧ giRepair i = false) ∧
    (∃ (s : State) (i : Item) (g : Glove) (frozenOk : Bool), getGlove s (giGid i) = some g ∧ (g.frozen = false ∨ giRepair i = true ∨
      frozenOk = true)) ∧
    (∃ (x : ItemRef) (i : Item) (c : Context) (st : Nat) (s : State), errOf (preGlove s i true false) = some st ∧ itemReady s x 0x62 i
      c = true) ∧
    (∃ (x : ItemRef) (i : Item) (c : Context) (st : Nat) (s : State), errOf (preGlove s i true false) = some st ∧ itemReady s x 0x64 i
      c = true) ∧
    (∃ (x : ItemRef) (i : Item) (c : Context) (st : Nat) (s : State), errOf (preGlove s i true false) = some st ∧ itemReady s x 0x67 i
      c = true) ∧
    (∃ (x : ItemRef) (i : Item) (c : Context) (st : Nat) (s : State), errOf (preGlove s i true false) = some st ∧ itemReady s x 0x68 i
      c = true) ∧
    (∃ (x : ItemRef) (i : Item) (c : Context) (st : Nat) (s : State), errOf (preGlove s i true false) = some st ∧ itemReady s x 0x6B i
      c = true) ∧
    (∃ (x : ItemRef) (i : Item) (c : Context) (st : Nat) (s : State), errOf (preGlove s i false false) = some st ∧ itemReady s x 0x61 i
      c = true) ∧
    (∃ (x : ItemRef) (i : Item) (c : Context) (st : Nat) (s : State), errOf (preGlove s i false false) = some st ∧ itemReady s x 0x65 i
      c = true) ∧
    (∃ (x : ItemRef) (i : Item) (c : Context) (st : Nat) (s : State), errOf (preGlove s i false false) = some st ∧ itemReady s x 0x66 i
      c = true) ∧
    (∃ (x : ItemRef) (i : Item) (c : Context) (st : Nat) (s : State), errOf (preGlove s i false false) = some st ∧ itemReady s x 0x63 i
      c = true) ∧
    (∃ (x : ItemRef) (i : Item) (c : Context) (s : State), itemReady s x 0x60 i c = true ∧ (getGlove s (giGid i)).isSome = true) ∧
    (∃ (x : ItemRef) (r : Reply) (i : Item) (c : Context) (s : State), itemReady s x 0x60 i c = true ∧ getGlove s (giGid i) = none ∧
      (giList i).toNat % 8 = 0 ∧ (okOf (readVa s c (some x) r (giList i) (memberBytes i))).isSome = true) ∧
    (∃ (x : ItemRef) (r : Reply) (i : Item) (c : Context) (g : Glove) (s : State), (preGlove s i false false).toOption = some g ∧
      (giList i).toNat % 8 = 0 ∧ itemReady s x 0x61 i c = true ∧ (okOf (readVa s c (some x) r (giList i) 896)).isSome = true) ∧
    (∃ (x : ItemRef) (r : Reply) (i : Item) (c : Context) (g : Glove) (s : State), (preGlove s i false false).toOption = some g ∧
      (giList i).toNat % 8 = 0 ∧ itemReady s x 0x65 i c = true ∧ (okOf (readVa s c (some x) r (giList i) 640)).isSome = true) ∧
    (∃ (x : ItemRef) (r : Reply) (i : Item) (c : Context) (g : Glove) (s : State), (preGlove s i false false).toOption = some g ∧
      (giList i).toNat % 8 = 0 ∧ itemReady s x 0x63 i c = true ∧ (okOf (readVa s c (some x) r (giList i) (8 * giCount i))).isSome = true) ∧
    (∃ (x : ItemRef) (r : Reply) (i : Item) (c : Context) (g : Glove) (s : State), (preGlove s i true false).toOption = some g ∧
      (giList i).toNat % 8 = 0 ∧ itemReady s x 0x62 i c = true ∧ (okOf (readVa s c (some x) r (giList i) (8 * giCount i))).isSome = true) ∧
    (∃ (x : ItemRef) (r : Reply) (i : Item) (c : Context) (g : Glove) (s : State), (preGlove s i true false).toOption = some g ∧
      (giList i).toNat % 8 = 0 ∧ itemReady s x 0x64 i c = true ∧ (okOf (readVa s c (some x) r (giList i) (8 * giCount i))).isSome = true) ∧
    (∃ (x : ItemRef) (r : Reply) (i : Item) (c : Context) (g : Glove) (s : State), (preGlove s i true false).toOption = some g ∧
      (giList i).toNat % 8 = 0 ∧ itemReady s x 0x67 i c = true ∧ (okOf (readVa s c (some x) r (giList i) (memberBytes i))).isSome = true) ∧
    (∃ (x : ItemRef) (r : Reply) (i : Item) (c : Context) (g : Glove) (s : State), (preGlove s i true false).toOption = some g ∧
      (giList i).toNat % 8 = 0 ∧ itemReady s x 0x68 i c = true ∧ (okOf (readVa s c (some x) r (giList i) (memberBytes i))).isSome = true) ∧
    (∃ (s : State) (g : Glove) (ws : List Dword), firstStatus (bindStatuses s g ws [] []) = none) ∧
    (∃ (x : ItemRef) (i : Item) (c : Context) (g : Glove) (s : State), (preGlove s i false false).toOption = some g ∧ itemReady s x
      0x66 i c = true) ∧
    (∃ (x : ItemRef) (i : Item) (c : Context) (g : Glove) (s : State), (preGlove s i false true).toOption = some g ∧ itemReady s x 0x69
      i c = true) ∧
    (∃ (x : ItemRef) (i : Item) (c : Context) (g : Glove) (s : State), (preGlove s i true false).toOption = some g ∧ itemReady s x 0x6B
      i c = true) ∧
    (∃ (x : ItemRef) (i : Item) (c : Context) (g : Glove) (s : State), itemReady s x 0x6A i c = true ∧ getGlove s (giGid i) = some g ∧
      giEpoch i = 0 ∧ (giList i).toNat % 8 = 0 ∧ (writeRecord s x c (giList i) (crownRecord g) 0).faults.length ≤ s.faults.length) ∧
    (∃ (x : ItemRef) (r : Reply) (i : Item) (c : Context) (g : Glove) (s : State), itemReady s x 0x6C i c = true ∧ getGlove s (giGid i)
      = some g ∧ giEpoch i = 0 ∧ 1 ≤ giCount i ∧ giCount i ≤ 65536 ∧ iw i 6 ≠ 0 ∧ (iw i 5).toNat % 8 = 0 ∧ (giList i).toNat % 8 = 0 ∧
      (okOf (readVa s c (some x) r (iw i 5) 8)).isSome = true) :=
  ⟨⟨withMem, (anItem []), by decide +kernel⟩,
   ⟨(setGlove withMem { pair5 with frozen := true }), (anItem [0, 5]), { pair5 with frozen := true }, by decide +kernel⟩,
   ⟨(setGlove withMem pair5), (anItem [0, 5]), pair5, false, by decide +kernel⟩,
   ⟨theirs, (anItem [0x362, 0x100000005, 0x0, 0x0]), manager, 0x46, (queued manager (anItem [0x362, 0x100000005, 0x0, 0x0]) withMem),
   by decide +kernel⟩,
   ⟨theirs, (anItem [0x364, 0x100000005, 0x0, 0x0]), manager, 0x46, (queued manager (anItem [0x364, 0x100000005, 0x0, 0x0]) withMem),
   by decide +kernel⟩,
   ⟨theirs, (anItem [0x367, 0x100000005, 0x0, 0x0]), manager, 0x46, (queued manager (anItem [0x367, 0x100000005, 0x0, 0x0]) withMem),
   by decide +kernel⟩,
   ⟨theirs, (anItem [0x368, 0x100000005, 0x0, 0x0]), manager, 0x46, (queued manager (anItem [0x368, 0x100000005, 0x0, 0x0]) withMem),
   by decide +kernel⟩,
   ⟨theirs, (anItem [0x36b, 0x100000005, 0x0, 0x0]), manager, 0x46, (queued manager (anItem [0x36b, 0x100000005, 0x0, 0x0]) withMem),
   by decide +kernel⟩,
   ⟨theirs, (anItem [0x361, 0x5, 0x0, 0x0]), manager, 0x46, (queued manager (anItem [0x361, 0x5, 0x0, 0x0]) withMem), by decide +kernel⟩,
   ⟨theirs, (anItem [0x365, 0x5, 0x0, 0x0]), manager, 0x46, (queued manager (anItem [0x365, 0x5, 0x0, 0x0]) withMem), by decide +kernel⟩,
   ⟨theirs, (anItem [0x366, 0x5, 0x0, 0x0]), manager, 0x46, (queued manager (anItem [0x366, 0x5, 0x0, 0x0]) withMem), by decide +kernel⟩,
   ⟨theirs, (anItem [0x363, 0x5, 0x0, 0x0]), manager, 0x46, (queued manager (anItem [0x363, 0x5, 0x0, 0x0]) withMem), by decide +kernel⟩,
   ⟨theirs, (anItem [0x360, 0x5, 0x0, 0x0]), manager, (queued manager (anItem [0x360, 0x5, 0x0, 0x0]) (setGlove withMem pair5)), by decide +kernel⟩,
   ⟨theirs, (.words []), (anItem [0x360, 0x5, 0x0, 0x2]), manager, (queued manager (anItem [0x360, 0x5, 0x0, 0x2]) withMem), by decide +kernel⟩,
   ⟨theirs, (.words []), (anItem [0x361, 0x5, 0x0, 0x0]), manager, pair5, (queued manager (anItem [0x361, 0x5, 0x0, 0x0]) (setGlove
   withMem pair5)), by decide +kernel⟩,
   ⟨theirs, (.words []), (anItem [0x365, 0x5, 0x0, 0x0]), manager, pair5, (queued manager (anItem [0x365, 0x5, 0x0, 0x0]) (setGlove
   withMem pair5)), by decide +kernel⟩,
   ⟨theirs, (.words []), (anItem [0x363, 0x5, 0x0, 0x4]), manager, pair5, (queued manager (anItem [0x363, 0x5, 0x0, 0x4]) (setGlove
   withMem pair5)), by decide +kernel⟩,
   ⟨theirs, (.words []), (anItem [0x362, 0x100000005, 0x0, 0x4]), manager, pair5, (queued manager (anItem [0x362, 0x100000005, 0x0,
   0x4]) (setGlove withMem pair5)), by decide +kernel⟩,
   ⟨theirs, (.words []), (anItem [0x364, 0x100000005, 0x0, 0x4]), manager, pair5, (queued manager (anItem [0x364, 0x100000005, 0x0,
   0x4]) (setGlove withMem pair5)), by decide +kernel⟩,
   ⟨theirs, (.words []), (anItem [0x367, 0x100000005, 0x0, 0x1]), manager, pair5, (queued manager (anItem [0x367, 0x100000005, 0x0,
   0x1]) (setGlove withMem pair5)), by decide +kernel⟩,
   ⟨theirs, (.words []), (anItem [0x368, 0x701000005, 0x0, 0x1]), manager, pair5, (queued manager (anItem [0x368, 0x701000005, 0x0,
   0x1]) (setGlove withMem pair5)), by decide +kernel⟩,
   ⟨(setGlove withMem pair5), pair5, [0x00060003], by decide +kernel⟩,
   ⟨theirs, (anItem [0x366, 0x5, 0x0, 0x0]), manager, pair5, (queued manager (anItem [0x366, 0x5, 0x0, 0x0]) (setGlove withMem pair5)),
   by decide +kernel⟩,
   ⟨theirs, (anItem [0x369, 0x5, 0x0, 0x0]), manager, pair5, (queued manager (anItem [0x369, 0x5, 0x0, 0x0]) (setGlove withMem pair5)),
   by decide +kernel⟩,
   ⟨theirs, (anItem [0x36b, 0x100000005, 0x0, 0x0]), manager, pair5, (queued manager (anItem [0x36b, 0x100000005, 0x0, 0x0]) (setGlove
   withMem pair5)), by decide +kernel⟩,
   ⟨mine, (anItem [0x36a, 0x5, 0x0, 0x0]), tenant, pair5, (queued tenant (anItem [0x36a, 0x5, 0x0, 0x0]) (setGlove withMem pair5)),
   by decide +kernel⟩,
   ⟨theirs, (.words []), (anItem [0x66c, 0x5, 0x0, 0x10000, 0x0, 0x0, 0x5]), manager, pair5, (queued manager (anItem [0x66c, 0x5, 0x0,
   0x10000, 0x0, 0x0, 0x5]) (setGlove withMem pair5)), by decide +kernel⟩⟩

theorem witness_VcoresMove :
    (∃ (p : Packet) (q : Packet) (g : Glove) (v : BitVec 16) (pc : Nat) (cl : BitVec 5) (slot : BitVec 3) (s : State) (u : State),
      received s p 0x0D = some (u, q) ∧ msgCode q = 0x01 ∧ v = BitVec.ofNat 16 (msgField q 0 2) ∧ pc = msgField q 3 2 ∧ cl =
      BitVec.ofNat 5 (msgField q 5 1) ∧ slot = BitVec.ofNat 3 (msgField q 6 1) ∧ getGlove u q.gid = some g ∧ v.toNat < g.vcount ∧
      coreStatus u g pc (BitVec.ofNat 2 (msgField q 2 1)) cl slot = []) ∧
    (∃ (p : Packet) (q : Packet) (s : State) (u : State), received s p 0x0D = some (u, q) ∧ msgCode q = 0x01 ∧ getGlove u q.gid = none) ∧
    (∃ (p : Packet) (q : Packet) (m : Move) (s : State) (u : State), received s p 0x0D = some (u, q) ∧ msgCode q = 0x02 ∧ moveOf u q =
      some m ∧ m.stage = .prepare) ∧
    (∃ (p : Packet) (q : Packet) (m : Move) (s : State) (u : State), received s p 0x0D = some (u, q) ∧ msgCode q = 0x03 ∧ moveOf u q =
      some m) ∧
    (∃ (p : Packet) (q : Packet) (m : MoveIn) (s : State) (u : State), received s p 0x0D = some (u, q) ∧ msgCode q = 0x05 ∧
      (u.moveIns.find? fun m => m.gid == q.gid && m.vcore == BitVec.ofNat 16 (fld q.addr 55 40) && m.src == q.src) = some m) ∧
    (∃ (p : Packet) (q : Packet) (m : Move) (s : State) (u : State), received s p 0x0D = some (u, q) ∧ msgCode q = 0x06 ∧ moveOf u q =
      some m) ∧
    (∃ (p : Packet) (q : Packet) (v : BitVec 16) (m : MoveIn) (s : State) (u : State), received s p 0x0D = some (u, q) ∧ msgCode q =
      0x04 ∧ v = BitVec.ofNat 16 (msgField q 0 2) ∧ (u.moveIns.find? fun m => m.gid == q.gid && m.vcore == v && m.src == q.src) = some m) ∧
    (∃ (c : Fin 320) (s : State), (getCore s c.val).point = .refit ∧ (s.moves.any fun m => m.src == c.val && m.stage == .point &&
      m.force != 0xFFFF) = true) ∧
    (∃ (c : Fin 320) (m : MoveIn) (g : Glove) (s : State) (t : State), (s.moveIns.find? fun m => m.pid == c.val) = some m ∧ t = abortIn
      s m false ∧ getGlove t m.gid = some g) :=
  ⟨⟨(msg 1 [3, 0, 0, 0x3A, 1, 31, 7, 0]), (msg 1 [3, 0, 0, 0x3A, 1, 31, 7, 0]), pair5, BitVec.ofNat 16 (msgField ((msg 1 [3, 0, 0, 0x3A,
   1, 31, 7, 0]) : Packet) 0 2), msgField ((msg 1 [3, 0, 0, 0x3A, 1, 31, 7, 0]) : Packet) 3 2, BitVec.ofNat 5 (msgField ((msg 1 [3, 0,
   0, 0x3A, 1, 31, 7, 0]) : Packet) 5 1), BitVec.ofNat 3 (msgField ((msg 1 [3, 0, 0, 0x3A, 1, 31, 7, 0]) : Packet) 6 1),
   { onNet with fp := { computeMask := 0xFFFFFFFF, slot := [(314, 2)] }, sched := { parts := [(0, { clusters := 0xFFFFFFFF })] } },
   (after
   { onNet with fp := { computeMask := 0xFFFFFFFF, slot := [(314, 2)] }, sched := { parts := [(0, { clusters := 0xFFFFFFFF })] } } (msg
   1 [3, 0, 0, 0x3A, 1, 31, 7, 0])), by decide +kernel⟩,
   ⟨(msg 1 [3, 0, 0, 0x3A, 1, 31, 7, 0]), (msg 1 [3, 0, 0, 0x3A, 1, 31, 7, 0]),
   { withMem with node := 9, fab := { nodeValid := true } }, (after { withMem with node := 9, fab := { nodeValid := true } } (msg 1 [3,
   0, 0, 0x3A, 1, 31, 7, 0])), by decide +kernel⟩,
   ⟨(msg 2 [3, 0]), (msg 2 [3, 0]), { gid := 5, vcore := 3, kind := 0, src := 314, node := 6 },
   { onNet with moves := [{ gid := 5, vcore := 3, kind := 0, src := 314, node := 6 }] }, (after
   { onNet with moves := [{ gid := 5, vcore := 3, kind := 0, src := 314, node := 6 }] } (msg 2 [3, 0])), by decide +kernel⟩,
   ⟨(msg 3 [3, 0, 0x44]), (msg 3 [3, 0, 0x44]), { gid := 5, vcore := 3, kind := 2, src := 319, node := 6, stage := .copy },
   { onNet with moves := [{ gid := 5, vcore := 3, kind := 2, src := 319, node := 6, stage := .copy }] }, (after
   { onNet with moves := [{ gid := 5, vcore := 3, kind := 2, src := 319, node := 6, stage := .copy }] } (msg 3 [3, 0, 0x44])), by decide +kernel⟩,
   ⟨({ msg 5 (List.replicate 192 0) 3 with addr := 0x30000000000 }), ({ msg 5 (List.replicate 192 0) 3 with addr := 0x30000000000 }),
   { pid := 314, gid := 5, vcore := 3, src := 6 }, { onNet with moveIns := [{ pid := 314, gid := 5, vcore := 3, src := 6 }] }, (after
   { onNet with moveIns := [{ pid := 314, gid := 5, vcore := 3, src := 6 }] }
   ({ msg 5 (List.replicate 192 0) 3 with addr := 0x30000000000 })), by decide +kernel⟩,
   ⟨(msg 6 [3, 0, 1, 0, 0, 0] 2), (msg 6 [3, 0, 1, 0, 0, 0] 2),
   { gid := 5, vcore := 3, kind := 2, src := 319, node := 6, stage := .copy },
   { onNet with moves := [{ gid := 5, vcore := 3, kind := 2, src := 319, node := 6, stage := .copy }] }, (after
   { onNet with moves := [{ gid := 5, vcore := 3, kind := 2, src := 319, node := 6, stage := .copy }] } (msg 6 [3, 0, 1, 0, 0, 0] 2)),
   by decide +kernel⟩,
   ⟨(msg 4 [3, 0, 1]), (msg 4 [3, 0, 1]), BitVec.ofNat 16 (msgField ((msg 4 [3, 0, 1]) : Packet) 0 2),
   { pid := 314, gid := 5, vcore := 3, src := 6 }, { onNet with moveIns := [{ pid := 314, gid := 5, vcore := 3, src := 6 }] }, (after
   { onNet with moveIns := [{ pid := 314, gid := 5, vcore := 3, src := 6 }] } (msg 4 [3, 0, 1])), by decide +kernel⟩,
   ⟨314, (setCore { onNet with moves := [{ src := 314, stage := .point }] } 314 { point := .refit }), by decide +kernel⟩,
   ⟨314, { pid := 314, gid := 5, vcore := 3, src := 6 }, pair5,
   { onNet with moveIns := [{ pid := 314, gid := 5, vcore := 3, src := 6 }] }, abortIn
   ({ onNet with moveIns := [{ pid := 314, gid := 5, vcore := 3, src := 6 }] } : State) ({ pid := 314, gid := 5, vcore := 3, src := 6 }
   : MoveIn) false, by decide +kernel⟩⟩

theorem witness_CrownsAgree :
    (∃ (p : Packet) (q : Packet) (g : Glove) (b : BindUpdate) (s : State) (u : State), received s p 0x0D = some (u, q) ∧ msgCode q =
      0x07 ∧ getGlove u q.gid = some g ∧ b =
      { vcore := BitVec.ofNat 16 (msgField q 0 2), node := BitVec.ofNat 17 (msgField q 2 4), kind := BitVec.ofNat 2 (msgField q 6 1), epoch := BitVec.ofNat 32 (msgField q 7 4), src := q.src }
      ∧ updateFits g b = true) ∧
    (∃ (p : Packet) (q : Packet) (g : Glove) (b : BindUpdate) (s : State) (u : State), received s p 0x0D = some (u, q) ∧ msgCode q =
      0x07 ∧ getGlove u q.gid = some g ∧ b =
      { vcore := BitVec.ofNat 16 (msgField q 0 2), node := BitVec.ofNat 17 (msgField q 2 4), kind := BitVec.ofNat 2 (msgField q 6 1), epoch := BitVec.ofNat 32 (msgField q 7 4), src := q.src }
      ∧ updateFits g b = false ∧ g.epoch < b.epoch ∧ g.held.length < 16) ∧
    (∃ (p : Packet) (q : Packet) (g : Glove) (b : BindUpdate) (s : State) (u : State), received s p 0x0D = some (u, q) ∧ msgCode q =
      0x07 ∧ getGlove u q.gid = some g ∧ b =
      { vcore := BitVec.ofNat 16 (msgField q 0 2), node := BitVec.ofNat 17 (msgField q 2 4), kind := BitVec.ofNat 2 (msgField q 6 1), epoch := BitVec.ofNat 32 (msgField q 7 4), src := q.src }
      ∧ updateFits g b = false ∧ ¬ (g.epoch < b.epoch ∧ g.held.length < 16)) ∧
    (∃ (p : Packet) (q : Packet) (g : Glove) (k : Nat) (s : State) (u : State), received s p 0x0D = some (u, q) ∧ msgCode q = 0x08 ∧
      getGlove u q.gid = some g ∧ rankOf g q.src = some k) ∧
    (∃ (p : Packet) (q : Packet) (g : Glove) (k : Nat) (s : State) (u : State), received s p 0x0D = some (u, q) ∧ msgCode q = 0x09 ∧
      getGlove u q.gid = some g ∧ rankOf g q.src = some k) ∧
    (∃ (p : Packet) (q : Packet) (g : Glove) (s : State) (u : State), received s p 0x0D = some (u, q) ∧ msgCode q = 0x0A ∧ getGlove u
      q.gid = some g) ∧
    (∃ (gid : BitVec 24) (g : Glove) (s : State), getGlove s gid = some g) ∧
    (∃ (p : Packet) (q : Packet) (g : Glove) (s : State) (u : State), received s p 0x0D = some (u, q) ∧ msgCode q = 0x0B ∧ getGlove u
      q.gid = some g) ∧
    (∃ (p : Packet) (s : State), arrives s p = true ∧ badHeader p = true) :=
  ⟨⟨(msg 7 [3, 0, 6, 0, 0, 0, 0, 1, 0, 0, 0]), (msg 7 [3, 0, 6, 0, 0, 0, 0, 1, 0, 0, 0]), pair5,
   { vcore := BitVec.ofNat 16 (msgField ((msg 7 [3, 0, 6, 0, 0, 0, 0, 1, 0, 0, 0]) : Packet) 0 2), node := BitVec.ofNat 17 (msgField ((msg 7 [3, 0, 6, 0, 0, 0, 0, 1, 0, 0, 0]) : Packet) 2 4), kind := BitVec.ofNat 2 (msgField ((msg 7 [3, 0, 6, 0, 0, 0, 0, 1, 0, 0, 0]) : Packet) 6 1), epoch := BitVec.ofNat 32 (msgField ((msg 7 [3, 0, 6, 0, 0, 0, 0, 1, 0, 0, 0]) : Packet) 7 4), src := ((msg 7 [3, 0, 6, 0, 0, 0, 0, 1, 0, 0, 0]) : Packet).src },
   onNet, (after onNet (msg 7 [3, 0, 6, 0, 0, 0, 0, 1, 0, 0, 0])), by decide +kernel⟩,
   ⟨(msg 7 [3, 0, 6, 0, 0, 0, 0, 2, 0, 0, 0]), (msg 7 [3, 0, 6, 0, 0, 0, 0, 2, 0, 0, 0]), pair5,
   { vcore := BitVec.ofNat 16 (msgField ((msg 7 [3, 0, 6, 0, 0, 0, 0, 2, 0, 0, 0]) : Packet) 0 2), node := BitVec.ofNat 17 (msgField ((msg 7 [3, 0, 6, 0, 0, 0, 0, 2, 0, 0, 0]) : Packet) 2 4), kind := BitVec.ofNat 2 (msgField ((msg 7 [3, 0, 6, 0, 0, 0, 0, 2, 0, 0, 0]) : Packet) 6 1), epoch := BitVec.ofNat 32 (msgField ((msg 7 [3, 0, 6, 0, 0, 0, 0, 2, 0, 0, 0]) : Packet) 7 4), src := ((msg 7 [3, 0, 6, 0, 0, 0, 0, 2, 0, 0, 0]) : Packet).src },
   onNet, (after onNet (msg 7 [3, 0, 6, 0, 0, 0, 0, 2, 0, 0, 0])), by decide +kernel⟩,
   ⟨(msg 7 [3, 0, 6, 0, 0, 0, 0, 0, 0, 0, 0]), (msg 7 [3, 0, 6, 0, 0, 0, 0, 0, 0, 0, 0]), pair5,
   { vcore := BitVec.ofNat 16 (msgField ((msg 7 [3, 0, 6, 0, 0, 0, 0, 0, 0, 0, 0]) : Packet) 0 2), node := BitVec.ofNat 17 (msgField ((msg 7 [3, 0, 6, 0, 0, 0, 0, 0, 0, 0, 0]) : Packet) 2 4), kind := BitVec.ofNat 2 (msgField ((msg 7 [3, 0, 6, 0, 0, 0, 0, 0, 0, 0, 0]) : Packet) 6 1), epoch := BitVec.ofNat 32 (msgField ((msg 7 [3, 0, 6, 0, 0, 0, 0, 0, 0, 0, 0]) : Packet) 7 4), src := ((msg 7 [3, 0, 6, 0, 0, 0, 0, 0, 0, 0, 0]) : Packet).src },
   onNet, (after onNet (msg 7 [3, 0, 6, 0, 0, 0, 0, 0, 0, 0, 0])), by decide +kernel⟩,
   ⟨(msg 8 (List.replicate 56 0)), (msg 8 (List.replicate 56 0)), pair5, 1, onNet, (after onNet (msg 8 (List.replicate 56 0))), by decide +kernel⟩,
   ⟨(msg 9 (List.replicate 16 0)), (msg 9 (List.replicate 16 0)), pair5, 1, onNet, (after onNet (msg 9 (List.replicate 16 0))), by decide +kernel⟩,
   ⟨(msg 0x0A (List.replicate 52 0)), (msg 0x0A (List.replicate 52 0)), pair5, onNet, (after onNet (msg 0x0A (List.replicate 52 0))),
   by decide +kernel⟩,
   ⟨5, pair5, onNet, by decide +kernel⟩,
   ⟨(msg 0x0B (List.replicate 12 0)), (msg 0x0B (List.replicate 12 0)), pair5, onNet, (after onNet (msg 0x0B (List.replicate 12 0))),
   by decide +kernel⟩,
   ⟨{ msg 1 [] with rsvd := 1 }, onNet, by decide +kernel⟩⟩

theorem witness_LinksTrain :
    (∃ (l : Fin 64) (s : State), (getLink s l.val).st = 1) ∧
    (∃ (l : Fin 64) (s : State), (getLink s l.val).st ≠ 1 ∧ (getLink s l.val).inService = true) ∧
    (∃ (l : Fin 64) (s : State), (getLink s l.val).st = 2) ∧
    (∃ (l : Fin 64) (s : State), (getLink s l.val).st = 3) ∧
    (∃ (l : Fin 64) (b : Identity) (s : State), b.spare = false ∧ (getLink s l.val).st = 4 ∧ b.proto ≠ 1) ∧
    (∃ (l : Fin 64) (b : Identity) (s : State), b.spare = false ∧ (getLink s l.val).st = 4 ∧ b.proto = 1 ∧ mismatched (getLink s l.val)
      b = true) ∧
    (∃ (l : Fin 64) (b : Identity) (s : State), b.spare = false ∧ (getLink s l.val).st = 4 ∧ b.proto = 1 ∧ mismatched (getLink s l.val)
      b = false ∧ (getLink s l.val).hold = false) ∧
    (∃ (l : Fin 64) (b : Identity) (s : State), b.spare = false ∧ (getLink s l.val).st ≠ 4 ∧ (getLink s l.val).inService = true) ∧
    (∃ (l : Fin 64) (bits : List Nat) (lost : BitVec 4) (s : State), (getLink s l.val).st = 5 ∧ lost = qualFailing s l.val bits ∧
      popcount lost = 0) ∧
    (∃ (l : Fin 64) (bits : List Nat) (spare : Option Nat) (lost : BitVec 4) (s : State) (t : State), (getLink s l.val).st = 5 ∧ lost =
      qualFailing s l.val bits ∧ t = (if (getGroup s (l.val / 4)).spare = 0 then spareMeasured s (l.val / 4) spare else s) ∧ popcount
      lost = 1 ∧ spareUsable t (l.val / 4) = true) ∧
    (∃ (l : Fin 64) (bits : List Nat) (spare : Option Nat) (lost : BitVec 4) (s : State) (t : State), (getLink s l.val).st = 5 ∧ lost =
      qualFailing s l.val bits ∧ t = (if (getGroup s (l.val / 4)).spare = 0 then spareMeasured s (l.val / 4) spare else s) ∧ popcount
      lost = 1 ∧ spareUsable t (l.val / 4) = false) ∧
    (∃ (l : Fin 64) (bits : List Nat) (lost : BitVec 4) (s : State), (getLink s l.val).st = 5 ∧ lost = qualFailing s l.val bits ∧ 2 ≤
      popcount lost) ∧
    (∃ (l : Fin 64) (s : State), (getLink s l.val).st = 9) ∧
    (∃ (l : Fin 64) (b : Identity) (s : State), (getLink s l.val).st = 8 ∧ samePartner (getLink s l.val) b = true ∧ b.proto = 1 ∧
      mismatched (getLink s l.val) b = false) ∧
    (∃ (l : Fin 64) (s : State), (getLink s l.val).st = 8) ∧
    (∃ (l : Fin 64) (b : Identity) (s : State), (getLink s l.val).st = 8 ∧ samePartner (getLink s l.val) b = true ∧ b.proto ≠ 1) ∧
    (∃ (l : Fin 64) (b : Identity) (s : State), (getLink s l.val).st = 8 ∧ samePartner (getLink s l.val) b = true ∧ b.proto = 1 ∧
      mismatched (getLink s l.val) b = true) ∧
    (∃ (l : Fin 64) (s : State), frozenBlock s 4 = false ∧ linkRegs s l.val = true) :=
  ⟨⟨63, (setLink withMem 63 { st := 1 }), by decide +kernel⟩,
   ⟨63, (setLink withMem 63 { st := 6 }), by decide +kernel⟩,
   ⟨63, (setLink withMem 63 { st := 2 }), by decide +kernel⟩,
   ⟨63, (setLink withMem 63 { st := 3 }), by decide +kernel⟩,
   ⟨63, { proto := 2 }, (setLink withMem 63 { st := 4 }), by decide +kernel⟩,
   ⟨63, { node := 9 }, (setLink withMem 63 { st := 4, check := true, expNode := 8 }), by decide +kernel⟩,
   ⟨63, { node := 9 }, (setLink withMem 63 { st := 4, check := true, expNode := 9 }), by decide +kernel⟩,
   ⟨63, { node := 9 }, (setLink withMem 63 { st := 7 }), by decide +kernel⟩,
   ⟨63, [0, 0, 0, qualLimit], qualFailing ((setLink withMem 63 { st := 5 }) : State) (63 : Fin 64).val ([0, 0, 0, qualLimit] : List
   Nat), (setLink withMem 63 { st := 5 }), by decide +kernel⟩,
   ⟨63, [0, 0, 0, qualLimit + 1], some 0, qualFailing ((setGroup (setLink withMem 63 { st := 5 }) 15 { warm := true, whole := true }) :
   State) (63 : Fin 64).val ([0, 0, 0, qualLimit + 1] : List Nat), (setGroup (setLink withMem 63 { st := 5 }) 15
   { warm := true, whole := true }), (if (getGroup ((setGroup (setLink withMem 63 { st := 5 }) 15 { warm := true, whole := true }) :
   State) ((63 : Fin 64).val / 4)).spare = 0 then spareMeasured ((setGroup (setLink withMem 63 { st := 5 }) 15
   { warm := true, whole := true }) : State) ((63 : Fin 64).val / 4) (some 0 : Option Nat) else ((setGroup (setLink withMem 63
   { st := 5 }) 15 { warm := true, whole := true }) : State)), by decide +kernel⟩,
   ⟨63, [0, 0, 0, qualLimit + 1], some 0, qualFailing ((setGroup (setLink withMem 63 { st := 5 }) 15
   { spare := 1, warm := true, whole := true }) : State) (63 : Fin 64).val ([0, 0, 0, qualLimit + 1] : List Nat), (setGroup (setLink
   withMem 63 { st := 5 }) 15 { spare := 1, warm := true, whole := true }), (if (getGroup ((setGroup (setLink withMem 63 { st := 5 }) 15
   { spare := 1, warm := true, whole := true }) : State) ((63 : Fin 64).val / 4)).spare = 0 then spareMeasured ((setGroup (setLink
   withMem 63 { st := 5 }) 15 { spare := 1, warm := true, whole := true }) : State) ((63 : Fin 64).val / 4) (some 0 : Option Nat) else
   ((setGroup (setLink withMem 63 { st := 5 }) 15 { spare := 1, warm := true, whole := true }) : State)), by decide +kernel⟩,
   ⟨63, [0, 0, qualLimit + 1, qualLimit + 1], qualFailing ((setGroup (setLink withMem 63 { st := 5 }) 15
   { warm := true, whole := true }) : State) (63 : Fin 64).val ([0, 0, qualLimit + 1, qualLimit + 1] : List Nat), (setGroup (setLink
   withMem 63 { st := 5 }) 15 { warm := true, whole := true }), by decide +kernel⟩,
   ⟨63, (setLink withMem 63 { st := 9, fails := 3 }), by decide +kernel⟩,
   ⟨63, { node := 9 }, (setLink withMem 63 { st := 8, partner := some { node := 9 } }), by decide +kernel⟩,
   ⟨63, (setLink withMem 63 { st := 8 }), by decide +kernel⟩,
   ⟨63, { node := 9, proto := 2 }, (setLink withMem 63 { st := 8, partner := some { node := 9 } }), by decide +kernel⟩,
   ⟨63, { node := 9 }, (setLink withMem 63 { st := 8, partner := some { node := 9 }, check := true, expNode := 8 }), by decide +kernel⟩,
   ⟨63, withMem, by decide +kernel⟩⟩

theorem witness_FlitsAndLanes :
    (∃ (l : Fin 64) (f : Flit) (s : State), goodFlit s l.val f 1 = true) ∧
    (∃ (n : Nat) (f : Flit) (s : State), f.seq = (getLink s n).rxSeq) ∧
    (∃ (n : Nat) (f : Flit) (s : State), f.seq ≠ (getLink s n).rxSeq) ∧
    (∃ (l : Fin 64) (f : Flit) (s : State), goodFlit s l.val f 2 = true) ∧
    (∃ (l : Fin 64) (f : Flit) (s : State), goodFlit s l.val f 3 = true) ∧
    (∃ (l : Fin 64) (f : Flit) (s : State), goodFlit s l.val f 0 = true) ∧
    (∃ (l : Fin 64) (s : State), ((getLink s l.val).replayAt.all fun t => decide (t + 2000 ≤ s.refNs)) = true) ∧
    (∃ (l : Fin 64) (f : Flit) (s : State), (getLink s l.val).up = true ∧ badFlit f = true) ∧
    (∃ (n : Nat) (s : State), (getLink (count s 6 n 2) n).nakSent = true) ∧
    (∃ (l : Fin 64) (f : Flit) (s : State), goodLane s l.val f 1 = true) ∧
    (∃ (l : Fin 64) (f : Flit) (s : State), goodLane s l.val f 2 = true) ∧
    (∃ (l : Fin 64) (f : Flit) (p : BitVec 2) (s : State) (t : State), goodLane s l.val f 3 = true ∧ t = takeHeader s l.val f ∧
      (getLink t l.val).bringIn = some p) ∧
    (∃ (l : Fin 64) (p : BitVec 2) (s : State), (getLink s l.val).bringIn = some p) ∧
    (∃ (l : Fin 64) (f : Flit) (s : State), goodLane s l.val f 4 = true) ∧
    (∃ (l : Fin 64) (f : Flit) (s : State), goodLane s l.val f 5 = true) ∧
    (∃ (g : Fin 16) (s : State) (t : State), (getGroup s g.val).spare = 0 ∧ t = setGroup s g.val
      { getGroup s g.val with warm := false } ∧ (findElem t (.spareLane g)).testing = true) ∧
    (∃ (g : Fin 16) (e : ElemErr) (s : State) (t : State), (getGroup s g.val).spare = 0 ∧ t = setGroup s g.val
      { getGroup s g.val with warm := false } ∧ e = findElem t (.spareLane g) ∧ e.testing = false) ∧
    (∃ (l : Fin 64) (lane : Fin 5) (s : State), lane.val ≠ 4 ∧ (getLink s l.val).hold = false) ∧
    (∃ (l : Fin 64) (lane : Fin 5) (s : State), lane.val ≠ 4 ∧ (getLink s l.val).hold = true ∧ (getLink s l.val).heldFaults = []) ∧
    (∃ (lane : Fin 5), lane.val = 4) ∧
    (∃ (n : Nat) (k : BitVec 2) (s : State), (getLink s n).hold = false ∧ (getLink s n).up = true ∧ (getLink s n).lanes = 3 ∧ (getLink
      s n).dropped ≠ k) ∧
    (∃ (l : Fin 64) (s : State) (t : State), t = count s 6 l.val 1 ∧ (getLink t l.val).up = false ∧ (getLink t l.val).hold = false) ∧
    (∃ (l : Fin 64) (s : State) (t : State), t = count s 6 l.val 1 ∧ (getLink t l.val).up = true) ∧
    (∃ (lane : Fin 5), lane.val ≠ 4) ∧
    (∃ (lane : Fin 5), lane.val = 4) :=
  ⟨⟨63, (sealed { ftype := 1 }), (setLink withMem 63 { st := 6, lanes := 4 }), by decide +kernel⟩,
   ⟨63, { ftype := 1, seq := 0xFFF }, (setLink withMem 63 { st := 6, lanes := 4, rxSeq := 0xFFF }), by decide +kernel⟩,
   ⟨63, { ftype := 1, seq := 0xFFF }, (setLink withMem 63 { st := 6, lanes := 4 }), by decide +kernel⟩,
   ⟨63, (sealed { ftype := 2, ccums := [1, 1, 1, 1] }), (setLink withMem 63 { st := 6, lanes := 4 }), by decide +kernel⟩,
   ⟨63, (sealed { ftype := 3 }), (setLink withMem 63 { st := 6, lanes := 4 }), by decide +kernel⟩,
   ⟨63, (sealed {}), (setLink withMem 63 { st := 6, lanes := 4 }), by decide +kernel⟩,
   ⟨63, { (setLink withMem 63 { st := 6, lanes := 4, replayAt := some 0 }) with refNs := 2000 }, by decide +kernel⟩,
   ⟨63, { ftype := 1, crc := 1 }, (setLink withMem 63 { st := 6, lanes := 4 }), by decide +kernel⟩,
   ⟨63, (setLink withMem 63 { st := 6, lanes := 4, nakSent := true }), by decide +kernel⟩,
   ⟨63, (sealed { ftype := 4, op := 1, pair := 15 }), (setLink withMem 63 { st := 6, lanes := 4 }), by decide +kernel⟩,
   ⟨63, (sealed { ftype := 4, op := 2, pair := 15 }), (setLink withMem 63 { st := 7, lanes := 3, dropped := 3 }), by decide +kernel⟩,
   ⟨63, (sealed { ftype := 4, op := 3, pair := 15 }), 3, (setLink withMem 63 { st := 6, lanes := 4, bringIn := some 3 }), takeHeader
   ((setLink withMem 63 { st := 6, lanes := 4, bringIn := some 3 }) : State) (63 : Fin 64).val ((sealed
   { ftype := 4, op := 3, pair := 15 }) : Flit), by decide +kernel⟩,
   ⟨63, 3, (setLink withMem 63 { st := 6, lanes := 4, bringIn := some 3 }), by decide +kernel⟩,
   ⟨63, (sealed { ftype := 4, op := 4 }), (setLink withMem 63 { st := 6, lanes := 4 }), by decide +kernel⟩,
   ⟨63, (sealed { ftype := 4, op := 5 }), (setLink withMem 63 { st := 6, lanes := 4 }), by decide +kernel⟩,
   ⟨15, { withMem with err := { elems := [{ element := .spareLane 15, testing := true }] } }, setGroup
   ({ withMem with err := { elems := [{ element := .spareLane 15, testing := true }] } } : State) (15 : Fin 16).val
   { getGroup ({ withMem with err := { elems := [{ element := .spareLane 15, testing := true }] } } : State) (15 : Fin 16).val with warm := false },
   by decide +kernel⟩,
   ⟨15, findElem (setGroup (withMem : State) (15 : Fin 16).val { getGroup (withMem : State) (15 : Fin 16).val with warm := false } :
   State) (.spareLane (15 : Fin 16)), withMem, setGroup (withMem : State) (15 : Fin 16).val
   { getGroup (withMem : State) (15 : Fin 16).val with warm := false }, by decide +kernel⟩,
   ⟨63, 3, withMem, by decide +kernel⟩,
   ⟨63, 3, (setLink withMem 63 { hold := true }), by decide +kernel⟩,
   ⟨4, by decide +kernel⟩,
   ⟨63, 3, (setLink withMem 63 { st := 7, lanes := 3 }), by decide +kernel⟩,
   ⟨63, (setLink withMem 63 { st := 9 }), count ((setLink withMem 63 { st := 9 }) : State) 6 (63 : Fin 64).val 1, by decide +kernel⟩,
   ⟨63, (setLink withMem 63 { st := 6, lanes := 4, uncorr := [(3, 0)] }), count ((setLink withMem 63
   { st := 6, lanes := 4, uncorr := [(3, 0)] }) : State) 6 (63 : Fin 64).val 1, by decide +kernel⟩,
   ⟨3, by decide +kernel⟩,
   ⟨4, by decide +kernel⟩⟩

theorem witness_WindowRequestsAndAnswers :
    (∃ (s : State) (p : Packet) (w : Window), w = Tbl.get {} s.windows (fld p.addr 55 44) ∧ w.valid = false) ∧
    (∃ (s : State) (p : Packet) (w : Window), w = Tbl.get {} s.windows (fld p.addr 55 44) ∧ w.valid = true ∧ w.closing = true) ∧
    (∃ (s : State) (p : Packet) (w : Window) (o : MemObj), w = Tbl.get {} s.windows (fld p.addr 55 44) ∧ w.valid = true ∧ w.closing =
      false ∧ getObj s w.obj = some o ∧ o.cuffed = true) ∧
    (∃ (s : State) (p : Packet) (w : Window) (o : MemObj), w = Tbl.get {} s.windows (fld p.addr 55 44) ∧ w.valid = true ∧ w.closing =
      false ∧ getObj s w.obj = some o ∧ o.cuffed = false ∧ fld p.addr 63 56 ≠ w.wgen.toNat) ∧
    (∃ (s : State) (p : Packet) (w : Window) (o : MemObj), w = Tbl.get {} s.windows (fld p.addr 55 44) ∧ w.valid = true ∧ w.closing =
      false ∧ getObj s w.obj = some o ∧ o.cuffed = false ∧ fld p.addr 63 56 = w.wgen.toNat ∧ passesFilter s w p.src = false) ∧
    (∃ (s : State) (p : Packet) (acc : Acc) (w : Window) (o : MemObj), w = Tbl.get {} s.windows (fld p.addr 55 44) ∧ w.valid = true ∧
      w.closing = false ∧ getObj s w.obj = some o ∧ o.cuffed = false ∧ fld p.addr 63 56 = w.wgen.toNat ∧ passesFilter s w p.src = true ∧
      (w.keyed = true → p.keyed = true ∧ p.gid = w.gid) ∧ (p.legacy = true → w.legacyOk = true) ∧ hasRight w acc = true) ∧
    (∃ (p : Packet) (q : Packet) (k : Byte) (s : State) (u : State), received s p 0x01 = some (u, q) ∧ errOf (windowEntry u q .rd) =
      some k) ∧
    (∃ (p : Packet) (q : Packet) (k : Byte) (s : State) (u : State), received s p 0x03 = some (u, q) ∧ errOf (windowEntry u q .wr) =
      some k) ∧
    (∃ (p : Packet) (q : Packet) (k : Byte) (s : State) (u : State), received s p 0x05 = some (u, q) ∧ errOf (windowEntry u q .atomic)
      = some k ∧ fld q.ext 3 0 ≤ 3) ∧
    (∃ (p : Packet) (q : Packet) (k : Byte) (s : State) (u : State), received s p 0x07 = some (u, q) ∧ errOf (windowEntry u q .rd) =
      some k) ∧
    (∃ (p : Packet) (q : Packet) (o : MemObj) (n : Nat) (a : Nat) (s : State) (u : State) (t : State), received s p 0x01 = some (u, q)
      ∧ (windowEntry u q .rd).toOption = some o ∧ n = q.len.toNat ∧ a = o.base.toNat + windowOff q ∧ meetDomains u (memDomains u
      (objPart u o) o.hbm a (min n 4096)) = (t, true) ∧ (windowAt t q .rd n (decide (1 ≤ n ∧ n ≤ 4096))).toOption = some (o, a)) ∧
    (∃ (p : Packet) (q : Packet) (o : MemObj) (n : Nat) (a : Nat) (s : State) (u : State) (t : State), received s p 0x03 = some (u, q)
      ∧ (windowEntry u q .wr).toOption = some o ∧ n = q.len.toNat ∧ a = o.base.toNat + windowOff q ∧ meetDomains u (memDomains u
      (objPart u o) o.hbm a (min n 4096)) = (t, true) ∧ (windowAt t q .wr n (decide (1 ≤ n ∧ n ≤ 192))).toOption = some (o, a)) ∧
    (∃ (p : Packet) (q : Packet) (o : MemObj) (a : Nat) (s : State) (u : State) (t : State), received s p 0x05 = some (u, q) ∧
      (windowEntry u q .atomic).toOption = some o ∧ a = o.base.toNat + windowOff q ∧ fld q.ext 3 0 ≤ 3 ∧ meetDomains u (memDomains u
      (objPart u o) o.hbm a 8) = (t, true) ∧ (windowAt t q .atomic 8 (windowOff q % 8 == 0)).toOption = some (o, a)) ∧
    (∃ (p : Packet) (q : Packet) (o : MemObj) (rb : Nat) (nr : Nat) (offs : List Nat) (s : State) (u : State), received s p 0x07 = some
      (u, q) ∧ (windowEntry u q .rd).toOption = some o ∧ rb = fld q.ext 7 0 ∧ nr = fld q.ext 15 8 ∧ u.gov.domains = [] ∧ 4 ≤ rb ∧ rb ≤
      192 ∧ rb % 4 = 0 ∧ 1 ≤ nr ∧ nr ≤ 48 ∧ offs = (List.range nr).map (fun j => windowOff q + leNat ((q.data.drop (4 * j)).take 4) *
      rb) ∧ (∀ f ∈ offs, objRange u o f rb = true)) ∧
    (∃ (p : Packet) (q : Packet) (s : State) (u : State), received s p 0x0B = some (u, q) ∧ fenceBehind s q = false) ∧
    (∃ (p : Packet) (q : Packet) (s : State) (u : State), received s p 0x0B = some (u, q) ∧ fenceBehind s q = true) ∧
    (∃ (p : Packet) (q : Packet) (s : State) (u : State), received s p 0x0C = some (u, q)) ∧
    (∃ (p : Packet) (q : Packet) (r : WinReq) (s : State) (u : State), received s p 0x02 = some (u, q) ∧ findReq u q (fun w => w ==
      .read || w == .gather) = some r ∧ (q.status = 0 ∨ q.status = 0x10)) ∧
    (∃ (p : Packet) (q : Packet) (r : WinReq) (s : State) (u : State), received s p 0x02 = some (u, q) ∧ findReq u q (fun w => w ==
      .read || w == .gather) = some r ∧ q.status = 0x11) ∧
    (∃ (p : Packet) (q : Packet) (r : WinReq) (s : State) (u : State), received s p 0x02 = some (u, q) ∧ findReq u q (fun w => w ==
      .read || w == .gather) = some r ∧ q.status ≠ 0 ∧ q.status ≠ 0x10 ∧ q.status ≠ 0x11) ∧
    (∃ (p : Packet) (q : Packet) (r : WinReq) (s : State) (u : State), received s p 0x04 = some (u, q) ∧ findReq u q (fun w => w ==
      .write || w == .ring) = some r ∧ q.status ≠ 0) ∧
    (∃ (p : Packet) (q : Packet) (r : WinReq) (s : State) (u : State), received s p 0x04 = some (u, q) ∧ findReq u q (fun w => w ==
      .write || w == .ring) = some r ∧ q.status = 0 ∧ r.use = .ring) ∧
    (∃ (p : Packet) (q : Packet) (r : WinReq) (s : State) (u : State), received s p 0x04 = some (u, q) ∧ findReq u q (fun w => w ==
      .write || w == .ring) = some r ∧ q.status = 0 ∧ r.use ≠ .ring) ∧
    (∃ (p : Packet) (q : Packet) (r : WinReq) (s : State) (u : State), received s p 0x06 = some (u, q) ∧ findReq u q (fun w => w ==
      .atomic) = some r ∧ q.status = 0) ∧
    (∃ (p : Packet) (q : Packet) (r : WinReq) (s : State) (u : State), received s p 0x06 = some (u, q) ∧ findReq u q (fun w => w ==
      .atomic) = some r ∧ q.status = 0x10) ∧
    (∃ (p : Packet) (q : Packet) (r : WinReq) (s : State) (u : State), received s p 0x06 = some (u, q) ∧ findReq u q (fun w => w ==
      .atomic) = some r ∧ q.status = 0x11) ∧
    (∃ (p : Packet) (q : Packet) (r : WinReq) (s : State) (u : State), received s p 0x06 = some (u, q) ∧ findReq u q (fun w => w ==
      .atomic) = some r ∧ q.status ≠ 0 ∧ q.status ≠ 0x10 ∧ q.status ≠ 0x11) ∧
    (∃ (r : WinReq), r.use ≠ .ring ∧ r.legacy = false) ∧
    (∃ (r : WinReq), r.use = .ring ∧ r.legacy = false) :=
  ⟨⟨onNet, (req 1 1 0x05FFF00000000000 0 [] 0), Tbl.get {} (onNet : State).windows (fld ((req 1 1 0x05FFF00000000000 0 [] 0) :
   Packet).addr 55 44), by decide +kernel⟩,
   ⟨(onWin { whole with closing := true }), (req 1 1 0x05FFF00000000000 0 [] 0), Tbl.get {} ((onWin { whole with closing := true }) :
   State).windows (fld ((req 1 1 0x05FFF00000000000 0 [] 0) : Packet).addr 55 44), by decide +kernel⟩,
   ⟨{ onWin whole with objs := [(1, some { theObj with cuffed := true })] }, (req 1 1 0x05FFF00000000000 0 [] 0), Tbl.get {}
   ({ onWin whole with objs := [(1, some { theObj with cuffed := true })] } : State).windows (fld ((req 1 1 0x05FFF00000000000 0 [] 0) :
   Packet).addr 55 44), { theObj with cuffed := true }, by decide +kernel⟩,
   ⟨(onWin { whole with wgen := 6 }), (req 1 1 0x05FFF00000000000 0 [] 0), Tbl.get {} ((onWin { whole with wgen := 6 }) : State).windows
   (fld ((req 1 1 0x05FFF00000000000 0 [] 0) : Packet).addr 55 44), theObj, by decide +kernel⟩,
   ⟨(onWin { whole with filter := 2, node := 7 }), (req 1 1 0x05FFF00000000000 0 [] 0), Tbl.get {} ((onWin
   { whole with filter := 2, node := 7 }) : State).windows (fld ((req 1 1 0x05FFF00000000000 0 [] 0) : Packet).addr 55 44), theObj,
   by decide +kernel⟩,
   ⟨(onWin whole), (req 1 1 0x05FFF00000000000 0 [] 0), .rd, Tbl.get {} ((onWin whole) : State).windows (fld ((req 1 1
   0x05FFF00000000000 0 [] 0) : Packet).addr 55 44), theObj, by decide +kernel⟩,
   ⟨(req 1 1 0x05FFF00000000000 0 [] 0), (req 1 1 0x05FFF00000000000 0 [] 0), 1, onNet, (after onNet (req 1 1 0x05FFF00000000000 0 []
   0)), by decide +kernel⟩,
   ⟨(req 3 1 0x05FFF00000000000 0 [] 0), (req 3 1 0x05FFF00000000000 0 [] 0), 1, onNet, (after onNet (req 3 1 0x05FFF00000000000 0 []
   0)), by decide +kernel⟩,
   ⟨(req 5 1 0x05FFF00000000000 0 [] 0), (req 5 1 0x05FFF00000000000 0 [] 0), 1, onNet, (after onNet (req 5 1 0x05FFF00000000000 0 []
   0)), by decide +kernel⟩,
   ⟨(req 7 1 0x05FFF00000000000 0 [] 0), (req 7 1 0x05FFF00000000000 0 [] 0), 1, onNet, (after onNet (req 7 1 0x05FFF00000000000 0 []
   0)), by decide +kernel⟩,
   ⟨(req 1 1 0x05FFF00003FFFFF8 0 [] 8), (req 1 1 0x05FFF00003FFFFF8 0 [] 8), theObj, 8, 0x3FFFFF8, (onWin whole), (after (onWin whole)
   (req 1 1 0x05FFF00003FFFFF8 0 [] 8)), (after (onWin whole) (req 1 1 0x05FFF00003FFFFF8 0 [] 8)), by decide +kernel⟩,
   ⟨(req 3 1 0x05FFF00003FFFFF8 0 [1] 1), (req 3 1 0x05FFF00003FFFFF8 0 [1] 1), theObj, 1, 0x3FFFFF8, (onWin whole), (after (onWin
   whole) (req 3 1 0x05FFF00003FFFFF8 0 [1] 1)), (after (onWin whole) (req 3 1 0x05FFF00003FFFFF8 0 [1] 1)), by decide +kernel⟩,
   ⟨(req 5 1 0x05FFF00003FFFFF8 3 [0, 0, 0, 0, 0, 0, 0, 0, 9] 16), (req 5 1 0x05FFF00003FFFFF8 3 [0, 0, 0, 0, 0, 0, 0, 0, 9] 16),
   theObj, 0x3FFFFF8, (onWin whole), (after (onWin whole) (req 5 1 0x05FFF00003FFFFF8 3 [0, 0, 0, 0, 0, 0, 0, 0, 9] 16)), (after (onWin
   whole) (req 5 1 0x05FFF00003FFFFF8 3 [0, 0, 0, 0, 0, 0, 0, 0, 9] 16)), by decide +kernel⟩,
   ⟨(req 7 1 0x05FFF00000000000 0x0204 [1, 0, 0, 0, 5, 0, 0, 0] 8), (req 7 1 0x05FFF00000000000 0x0204 [1, 0, 0, 0, 5, 0, 0, 0] 8),
   theObj, fld ((req 7 1 0x05FFF00000000000 0x0204 [1, 0, 0, 0, 5, 0, 0, 0] 8) : Packet).ext 7 0, fld ((req 7 1 0x05FFF00000000000
   0x0204 [1, 0, 0, 0, 5, 0, 0, 0] 8) : Packet).ext 15 8, (List.range (fld ((req 7 1 0x05FFF00000000000 0x0204 [1, 0, 0, 0, 5, 0, 0, 0]
   8) : Packet).ext 15 8 : Nat)).map (fun j => windowOff ((req 7 1 0x05FFF00000000000 0x0204 [1, 0, 0, 0, 5, 0, 0, 0] 8) : Packet) +
   leNat ((((req 7 1 0x05FFF00000000000 0x0204 [1, 0, 0, 0, 5, 0, 0, 0] 8) : Packet).data.drop (4 * j)).take 4) * (fld ((req 7 1
   0x05FFF00000000000 0x0204 [1, 0, 0, 0, 5, 0, 0, 0] 8) : Packet).ext 7 0 : Nat)), (onWin whole), (after (onWin whole) (req 7 1
   0x05FFF00000000000 0x0204 [1, 0, 0, 0, 5, 0, 0, 0] 8)), by decide +kernel⟩,
   ⟨(req 0x0B 1 0x05FFF00000000000 0 [] 0), (req 0x0B 1 0x05FFF00000000000 0 [] 0), onNet, (after onNet (req 0x0B 1 0x05FFF00000000000 0
   [] 0)), by decide +kernel⟩,
   ⟨(req 0x0B 1 0x05FFF00000000000 0 [] 0), (req 0x0B 1 0x05FFF00000000000 0 [] 0), (setLink onNet 63
   { rxBuf := [{ req 1 1 0 0 [] 0 with seq := 0 }] }), (after (setLink onNet 63 { rxBuf := [{ req 1 1 0 0 [] 0 with seq := 0 }] }) (req
   0x0B 1 0x05FFF00000000000 0 [] 0)), by decide +kernel⟩,
   ⟨(req 0x0C 2 0x05FFF00000000000 0 [] 0), (req 0x0C 2 0x05FFF00000000000 0 [] 0), onNet, (after onNet (req 0x0C 2 0x05FFF00000000000 0
   [] 0)), by decide +kernel⟩,
   ⟨({ req 2 2 0 0 [] 0 with tag := 3, status := 0 }), ({ req 2 2 0 0 [] 0 with tag := 3, status := 0 }),
   { x := mine, tag := 3, node := 6, use := .read }, { onNet with winReqs := [{ x := mine, tag := 3, node := 6, use := .read }] },
   (after { onNet with winReqs := [{ x := mine, tag := 3, node := 6, use := .read }] }
   ({ req 2 2 0 0 [] 0 with tag := 3, status := 0 })), by decide +kernel⟩,
   ⟨({ req 2 2 0 0 [] 0 with tag := 3, status := 0x11 }), ({ req 2 2 0 0 [] 0 with tag := 3, status := 0x11 }),
   { x := mine, tag := 3, node := 6, use := .read }, { onNet with winReqs := [{ x := mine, tag := 3, node := 6, use := .read }] },
   (after { onNet with winReqs := [{ x := mine, tag := 3, node := 6, use := .read }] }
   ({ req 2 2 0 0 [] 0 with tag := 3, status := 0x11 })), by decide +kernel⟩,
   ⟨({ req 2 2 0 0 [] 0 with tag := 3, status := 1 }), ({ req 2 2 0 0 [] 0 with tag := 3, status := 1 }),
   { x := mine, tag := 3, node := 6, use := .read }, { onNet with winReqs := [{ x := mine, tag := 3, node := 6, use := .read }] },
   (after { onNet with winReqs := [{ x := mine, tag := 3, node := 6, use := .read }] }
   ({ req 2 2 0 0 [] 0 with tag := 3, status := 1 })), by decide +kernel⟩,
   ⟨({ req 4 2 0 0 [] 0 with tag := 3, status := 2 }), ({ req 4 2 0 0 [] 0 with tag := 3, status := 2 }),
   { x := mine, tag := 3, node := 6, use := .write }, { onNet with winReqs := [{ x := mine, tag := 3, node := 6, use := .write }] },
   (after { onNet with winReqs := [{ x := mine, tag := 3, node := 6, use := .write }] }
   ({ req 4 2 0 0 [] 0 with tag := 3, status := 2 })), by decide +kernel⟩,
   ⟨({ req 4 2 0 0 [] 0 with tag := 3, status := 0 }), ({ req 4 2 0 0 [] 0 with tag := 3, status := 0 }),
   { x := mine, tag := 3, node := 6, use := .ring }, { onNet with winReqs := [{ x := mine, tag := 3, node := 6, use := .ring }] },
   (after { onNet with winReqs := [{ x := mine, tag := 3, node := 6, use := .ring }] }
   ({ req 4 2 0 0 [] 0 with tag := 3, status := 0 })), by decide +kernel⟩,
   ⟨({ req 4 2 0 0 [] 0 with tag := 3, status := 0 }), ({ req 4 2 0 0 [] 0 with tag := 3, status := 0 }),
   { x := mine, tag := 3, node := 6, use := .write }, { onNet with winReqs := [{ x := mine, tag := 3, node := 6, use := .write }] },
   (after { onNet with winReqs := [{ x := mine, tag := 3, node := 6, use := .write }] }
   ({ req 4 2 0 0 [] 0 with tag := 3, status := 0 })), by decide +kernel⟩,
   ⟨({ req 6 2 0 0 [] 0 with tag := 3, status := 0 }), ({ req 6 2 0 0 [] 0 with tag := 3, status := 0 }),
   { x := mine, tag := 3, node := 6, use := .atomic }, { onNet with winReqs := [{ x := mine, tag := 3, node := 6, use := .atomic }] },
   (after { onNet with winReqs := [{ x := mine, tag := 3, node := 6, use := .atomic }] }
   ({ req 6 2 0 0 [] 0 with tag := 3, status := 0 })), by decide +kernel⟩,
   ⟨({ req 6 2 0 0 [] 0 with tag := 3, status := 0x10 }), ({ req 6 2 0 0 [] 0 with tag := 3, status := 0x10 }),
   { x := mine, tag := 3, node := 6, use := .atomic }, { onNet with winReqs := [{ x := mine, tag := 3, node := 6, use := .atomic }] },
   (after { onNet with winReqs := [{ x := mine, tag := 3, node := 6, use := .atomic }] }
   ({ req 6 2 0 0 [] 0 with tag := 3, status := 0x10 })), by decide +kernel⟩,
   ⟨({ req 6 2 0 0 [] 0 with tag := 3, status := 0x11 }), ({ req 6 2 0 0 [] 0 with tag := 3, status := 0x11 }),
   { x := mine, tag := 3, node := 6, use := .atomic }, { onNet with winReqs := [{ x := mine, tag := 3, node := 6, use := .atomic }] },
   (after { onNet with winReqs := [{ x := mine, tag := 3, node := 6, use := .atomic }] }
   ({ req 6 2 0 0 [] 0 with tag := 3, status := 0x11 })), by decide +kernel⟩,
   ⟨({ req 6 2 0 0 [] 0 with tag := 3, status := 3 }), ({ req 6 2 0 0 [] 0 with tag := 3, status := 3 }),
   { x := mine, tag := 3, node := 6, use := .atomic }, { onNet with winReqs := [{ x := mine, tag := 3, node := 6, use := .atomic }] },
   (after { onNet with winReqs := [{ x := mine, tag := 3, node := 6, use := .atomic }] }
   ({ req 6 2 0 0 [] 0 with tag := 3, status := 3 })), by decide +kernel⟩,
   ⟨{ x := mine, use := .write }, by decide +kernel⟩,
   ⟨{ x := mine, use := .ring }, by decide +kernel⟩⟩

theorem witness_ReductionsCombine :
    (∃ (p : Packet) (q : Packet) (s : State) (u : State), received s p 0x08 = some (u, q) ∧ leftReduce u q = false ∧ BitVec.ofNat 7
      (extTree q.ext) = 0 ∧ (rootedOf (rootDeliver u (combOf q))).isSome = true) ∧
    (∃ (p : Packet) (q : Packet) (s : State) (u : State), received s p 0x09 = some (u, q) ∧ leftReduce u q = false ∧ BitVec.ofNat 7
      (extTree q.ext) = 0 ∧ (rootedOf (rootDeliver u (combOf q))).isSome = true) ∧
    (∃ (p : Packet) (q : Packet) (t : Tree) (s : State) (u : State) (v : State), getTree u (BitVec.ofNat 7 (extTree q.ext)).toNat =
      some t ∧ leftReduce u q = false ∧ BitVec.ofNat 7 (extTree q.ext) ≠ 0 ∧ t.gid = q.gid ∧ memberOf u q.gid u.node = true ∧ combEnter
      u t (combOf q) = (v, none) ∧ received s p 0x08 = some (u, q)) ∧
    (∃ (p : Packet) (q : Packet) (t : Tree) (s : State) (u : State) (v : State), getTree u (BitVec.ofNat 7 (extTree q.ext)).toNat =
      some t ∧ leftReduce u q = false ∧ BitVec.ofNat 7 (extTree q.ext) ≠ 0 ∧ t.gid = q.gid ∧ memberOf u q.gid u.node = true ∧ combEnter
      u t (combOf q) = (v, none) ∧ received s p 0x09 = some (u, q)) ∧
    (∃ (c : Combined) (p : Nat) (k : MeshPkt) (u : State), c.pkt.ttype = 9 ∧ findBinding u c.pkt.gid (BitVec.ofNat 16 (fld c.pkt.addr
      55 40)) = some p ∧ k = rootRow c p (if c.pkt.fwd then BitVec.ofNat 8 (fld c.pkt.addr 63 56) else (getBinding u p).gen) ∧ portWaits
      u k = false ∧ steer u p k.gen = .serve ∧ slotKind p = 0 ∧ coreCuffed u p = false) ∧
    (∃ (q : Packet) (u : State), BitVec.ofNat 7 (extTree q.ext) ≠ 0 ∧ getTree u (BitVec.ofNat 7 (extTree q.ext)).toNat = none) ∧
    (∃ (q : Packet) (o : MemObj) (a : Nat) (c : Combined) (u : State), c.pkt = q ∧ q.ttype = 8 ∧ (windowAt u q .red 192 (windowOff q %
      4 == 0)).toOption = some (o, a) ∧ o.hbm = false ∧ a / 2 ^ 26 = (a + 191) / 2 ^ 26 ∧ a % 4 = 0) ∧
    (∃ (p : Packet) (q : Packet) (o : ReduceOut) (s : State) (u : State), received s p 0x0A = some (u, q) ∧ findOut u q.tag = some o ∧
      q.status ≠ 0x12 ∧ q.status ≠ 0x13) ∧
    (∃ (p : Packet) (q : Packet) (o : ReduceOut) (s : State) (u : State), received s p 0x0A = some (u, q) ∧ findOut u q.tag = some o ∧
      (q.status = 0x12 ∨ q.status = 0x13)) ∧
    (∃ (tag : BitVec 16) (o : ReduceOut) (s : State), findOut s tag = some o) ∧
    (∃ (i : Nat) (c : Combined) (s : State), s.fab.comb[i]? = some c) ∧
    (∃ (x : ItemRef) (i : Item) (c : Context) (gid : BitVec 24) (s : State), itemReady s x 0x52 i c = true ∧ gid = BitVec.ofNat 24 (fld
      (iw i 1) 31 8) ∧ memberOf s gid s.node = false) ∧
    (∃ (x : ItemRef) (i : Item) (c : Context) (n : Nat) (gid : BitVec 24) (t : Tree) (s : State), itemReady s x 0x52 i c = true ∧ n =
      fld (iw i 1) 6 0 ∧ gid = BitVec.ofNat 24 (fld (iw i 1) 31 8) ∧ t =
      { gid := gid, parent := BitVec.ofNat 17 (fld (iw i 2) 16 0), root := BitVec.ofNat 17 (fld (iw i 2) 33 17), expect := BitVec.ofNat 8 (fld (iw i 2) 41 34), hold := BitVec.ofNat 16 (fld (iw i 2) 57 42) }
      ∧ memberOf s gid s.node = true ∧ memberOf s gid t.parent = true ∧ memberOf s gid t.root = true ∧ (n = 0 ∨ t.expect = 0)) ∧
    (∃ (x : ItemRef) (i : Item) (c : Context) (n : Nat) (gid : BitVec 24) (t : Tree) (s : State), itemReady s x 0x52 i c = true ∧ n =
      fld (iw i 1) 6 0 ∧ gid = BitVec.ofNat 24 (fld (iw i 1) 31 8) ∧ t =
      { gid := gid, parent := BitVec.ofNat 17 (fld (iw i 2) 16 0), root := BitVec.ofNat 17 (fld (iw i 2) 33 17), expect := BitVec.ofNat 8 (fld (iw i 2) 41 34), hold := BitVec.ofNat 16 (fld (iw i 2) 57 42) }
      ∧ memberOf s gid s.node = true ∧ memberOf s gid t.parent = true ∧ memberOf s gid t.root = true ∧ n ≠ 0 ∧ t.expect ≠ 0 ∧ (getTree s
      n).isSome = false ∧ (findTree s gid t.root).isSome = false) ∧
    (∃ (x : ItemRef) (i : Item) (c : Context) (n : Nat) (s : State), itemReady s x 0x53 i c = true ∧ n = fld (iw i 1) 6 0 ∧ (n = 0 ∨
      getTree s n = none)) ∧
    (∃ (x : ItemRef) (i : Item) (c : Context) (n : Nat) (t : Tree) (s : State), itemReady s x 0x53 i c = true ∧ n = fld (iw i 1) 6 0 ∧
      n ≠ 0 ∧ getTree s n = some t) ∧
    (∃ (x : ItemRef) (i : Item) (c : Context) (count : Nat) (rb : Nat) (s : State), itemReady s x 0x56 i c = true ∧ count = fld (iw i
      3) 23 0 ∧ rb = fld (iw i 3) 31 24 ∧ (count = 0 ∨ rb < 4 ∨ 192 < rb ∨ rb % 4 ≠ 0)) ∧
    (∃ (x : ItemRef) (r : Reply) (i : Item) (c : Context) (count : Nat) (rb : Nat) (s : State), itemReady s x 0x56 i c = true ∧ count =
      fld (iw i 3) 23 0 ∧ rb = fld (iw i 3) 31 24 ∧ count ≠ 0 ∧ 4 ≤ rb ∧ rb ≤ 192 ∧ rb % 4 = 0 ∧ (okOf (readVa s c (some x) r (iw i 2)
      (4 * count))).isSome = true) :=
  ⟨⟨(req 8 3 0x05FFF00000000000 0 (List.replicate 192 0) 192), (req 8 3 0x05FFF00000000000 0 (List.replicate 192 0) 192), (onWin whole),
   (after (onWin whole) (req 8 3 0x05FFF00000000000 0 (List.replicate 192 0) 192)), by decide +kernel⟩,
   ⟨({ req 9 3 0x30000000000 0 (List.replicate 192 0) 192 with gid := 5 }),
   ({ req 9 3 0x30000000000 0 (List.replicate 192 0) 192 with gid := 5 }),
   { onNet with bindings := [(314, { vcore := 3, gid := 5, state := 1 })] }, (after
   { onNet with bindings := [(314, { vcore := 3, gid := 5, state := 1 })] }
   ({ req 9 3 0x30000000000 0 (List.replicate 192 0) 192 with gid := 5 })), by decide +kernel⟩,
   ⟨({ req 8 3 0 0xFE000000 (List.replicate 192 0) 192 with gid := 5 }),
   ({ req 8 3 0 0xFE000000 (List.replicate 192 0) 192 with gid := 5 }), { gid := 5, root := 6, parent := 6, expect := 2 },
   { onNet with fab := { nodeValid := true, trees := [(127, some { gid := 5, root := 6, parent := 6, expect := 2 })] } }, (after
   { onNet with fab := { nodeValid := true, trees := [(127, some { gid := 5, root := 6, parent := 6, expect := 2 })] } }
   ({ req 8 3 0 0xFE000000 (List.replicate 192 0) 192 with gid := 5 })), (combEnter (after
   { onNet with fab := { nodeValid := true, trees := [(127, some { gid := 5, root := 6, parent := 6, expect := 2 })] } }
   ({ req 8 3 0 0xFE000000 (List.replicate 192 0) 192 with gid := 5 })) { gid := 5, root := 6, parent := 6, expect := 2 } (combOf
   ({ req 8 3 0 0xFE000000 (List.replicate 192 0) 192 with gid := 5 }))).1, by decide +kernel⟩,
   ⟨({ req 9 3 0 0xFE000000 (List.replicate 192 0) 192 with gid := 5 }),
   ({ req 9 3 0 0xFE000000 (List.replicate 192 0) 192 with gid := 5 }), { gid := 5, root := 6, parent := 6, expect := 2 },
   { onNet with fab := { nodeValid := true, trees := [(127, some { gid := 5, root := 6, parent := 6, expect := 2 })] } }, (after
   { onNet with fab := { nodeValid := true, trees := [(127, some { gid := 5, root := 6, parent := 6, expect := 2 })] } }
   ({ req 9 3 0 0xFE000000 (List.replicate 192 0) 192 with gid := 5 })), (combEnter (after
   { onNet with fab := { nodeValid := true, trees := [(127, some { gid := 5, root := 6, parent := 6, expect := 2 })] } }
   ({ req 9 3 0 0xFE000000 (List.replicate 192 0) 192 with gid := 5 })) { gid := 5, root := 6, parent := 6, expect := 2 } (combOf
   ({ req 9 3 0 0xFE000000 (List.replicate 192 0) 192 with gid := 5 }))).1, by decide +kernel⟩,
   ⟨{ pkt := { req 9 3 0x30000000000 0 (List.replicate 192 0) 192 with gid := 5 } }, 314, rootRow
   ({ pkt := { req 9 3 0x30000000000 0 (List.replicate 192 0) 192 with gid := 5 } } : Combined) (314 : Nat) (if
   ({ pkt := { req 9 3 0x30000000000 0 (List.replicate 192 0) 192 with gid := 5 } } : Combined).pkt.fwd then BitVec.ofNat 8 (fld
   ({ pkt := { req 9 3 0x30000000000 0 (List.replicate 192 0) 192 with gid := 5 } } : Combined).pkt.addr 63 56) else (getBinding
   ({ onNet with bindings := [(314, { vcore := 3, gid := 5, state := 1 })] } : State) (314 : Nat)).gen),
   { onNet with bindings := [(314, { vcore := 3, gid := 5, state := 1 })] }, by decide +kernel⟩,
   ⟨(req 8 3 0 0xFE000000 [] 0), onNet, by decide +kernel⟩,
   ⟨(req 8 3 0x05FFF00000000000 0 (List.replicate 192 0) 192), theObj, 0,
   { pkt := req 8 3 0x05FFF00000000000 0 (List.replicate 192 0) 192 }, (onWin whole), by decide +kernel⟩,
   ⟨({ req 0x0A 2 0 0 [] 0 with tag := 3, status := 0 }), ({ req 0x0A 2 0 0 [] 0 with tag := 3, status := 0 }),
   { tag := 3, again := false }, { onNet with fab := { nodeValid := true, reduceOut := [{ tag := 3, again := false }] } }, (after
   { onNet with fab := { nodeValid := true, reduceOut := [{ tag := 3, again := false }] } }
   ({ req 0x0A 2 0 0 [] 0 with tag := 3, status := 0 })), by decide +kernel⟩,
   ⟨({ req 0x0A 2 0 0 [] 0 with tag := 3, status := 0x12 }), ({ req 0x0A 2 0 0 [] 0 with tag := 3, status := 0x12 }),
   { tag := 3, again := false }, { onNet with fab := { nodeValid := true, reduceOut := [{ tag := 3, again := false }] } }, (after
   { onNet with fab := { nodeValid := true, reduceOut := [{ tag := 3, again := false }] } }
   ({ req 0x0A 2 0 0 [] 0 with tag := 3, status := 0x12 })), by decide +kernel⟩,
   ⟨3, { tag := 3, again := false }, { onNet with fab := { reduceOut := [{ tag := 3, again := false }] } }, by decide +kernel⟩,
   ⟨0, { tree := 3 }, { onNet with fab := { comb := [{ tree := 3 }] } }, by decide +kernel⟩,
   ⟨theirs, (anItem [0x252, 0x67f, 0x8000c0006]), manager, BitVec.ofNat 24 (fld (iw ((anItem [0x252, 0x67f, 0x8000c0006]) : Item) 1) 31
   8), (queued manager (anItem [0x252, 0x67f, 0x8000c0006]) onNet), by decide +kernel⟩,
   ⟨theirs, (anItem [0x252, 0x500, 0x8000c0006]), manager, fld (iw ((anItem [0x252, 0x500, 0x8000c0006]) : Item) 1) 6 0, BitVec.ofNat 24
   (fld (iw ((anItem [0x252, 0x500, 0x8000c0006]) : Item) 1) 31 8),
   { gid := (BitVec.ofNat 24 (fld (iw ((anItem [0x252, 0x500, 0x8000c0006]) : Item) 1) 31 8) : BitVec 24), parent := BitVec.ofNat 17 (fld (iw ((anItem [0x252, 0x500, 0x8000c0006]) : Item) 2) 16 0), root := BitVec.ofNat 17 (fld (iw ((anItem [0x252, 0x500, 0x8000c0006]) : Item) 2) 33 17), expect := BitVec.ofNat 8 (fld (iw ((anItem [0x252, 0x500, 0x8000c0006]) : Item) 2) 41 34), hold := BitVec.ofNat 16 (fld (iw ((anItem [0x252, 0x500, 0x8000c0006]) : Item) 2) 57 42) },
   (queued manager (anItem [0x252, 0x500, 0x8000c0006]) onNet), by decide +kernel⟩,
   ⟨theirs, (anItem [0x252, 0x57f, 0x8000c0006]), manager, fld (iw ((anItem [0x252, 0x57f, 0x8000c0006]) : Item) 1) 6 0, BitVec.ofNat 24
   (fld (iw ((anItem [0x252, 0x57f, 0x8000c0006]) : Item) 1) 31 8),
   { gid := (BitVec.ofNat 24 (fld (iw ((anItem [0x252, 0x57f, 0x8000c0006]) : Item) 1) 31 8) : BitVec 24), parent := BitVec.ofNat 17 (fld (iw ((anItem [0x252, 0x57f, 0x8000c0006]) : Item) 2) 16 0), root := BitVec.ofNat 17 (fld (iw ((anItem [0x252, 0x57f, 0x8000c0006]) : Item) 2) 33 17), expect := BitVec.ofNat 8 (fld (iw ((anItem [0x252, 0x57f, 0x8000c0006]) : Item) 2) 41 34), hold := BitVec.ofNat 16 (fld (iw ((anItem [0x252, 0x57f, 0x8000c0006]) : Item) 2) 57 42) },
   (queued manager (anItem [0x252, 0x57f, 0x8000c0006]) onNet), by decide +kernel⟩,
   ⟨theirs, (anItem [0x153, 0x7f]), manager, fld (iw ((anItem [0x153, 0x7f]) : Item) 1) 6 0, (queued manager (anItem [0x153, 0x7f])
   onNet), by decide +kernel⟩,
   ⟨theirs, (anItem [0x153, 0x7f]), manager, fld (iw ((anItem [0x153, 0x7f]) : Item) 1) 6 0,
   { gid := 5, root := 6, parent := 6, expect := 2 }, (queued manager (anItem [0x153, 0x7f])
   { onNet with fab := { nodeValid := true, trees := [(127, some { gid := 5, root := 6, parent := 6, expect := 2 })] } }), by decide +kernel⟩,
   ⟨theirs, (anItem [0x356, 0x0, 0x0, 0x0]), manager, fld (iw ((anItem [0x356, 0x0, 0x0, 0x0]) : Item) 3) 23 0, fld (iw ((anItem [0x356,
   0x0, 0x0, 0x0]) : Item) 3) 31 24, (queued manager (anItem [0x356, 0x0, 0x0, 0x0]) onNet), by decide +kernel⟩,
   ⟨theirs, (.words []), (anItem [0x356, 0x0, 0x0, 0xc0000002]), manager, fld (iw ((anItem [0x356, 0x0, 0x0, 0xc0000002]) : Item) 3) 23
   0, fld (iw ((anItem [0x356, 0x0, 0x0, 0xc0000002]) : Item) 3) 31 24, (queued manager (anItem [0x356, 0x0, 0x0, 0xc0000002]) onNet),
   by decide +kernel⟩⟩

theorem witness_TransitRoutesAndTime :
    (∃ (p : Packet) (s : State), s.fab.nodeValid = true ∧ p.dst ≠ s.node ∧ (takeRx s p).fab.hopLimit.toNat < p.hops.toNat + 1) ∧
    (∃ (p : Packet) (s : State), s.fab.nodeValid = true ∧ p.dst ≠ s.node ∧ p.hops.toNat + 1 ≤ (takeRx s p).fab.hopLimit.toNat) ∧
    (∃ (p : Packet) (s : State), waitsHere s p = true) ∧
    (∃ (node : BitVec 17) (x : BitVec 17 × List Packet) (s : State), (s.fab.pauses.find? fun x => x.1 == node) = some x) ∧
    (∃ (p : Packet) (q : Packet) (s : State) (u : State), received s p 0x0E = some (u, q) ∧ fld q.ext 7 0 = 1) ∧
    (∃ (p : Packet) (q : Packet) (t0 : Dword) (s : State) (u : State), received s p 0x0E = some (u, q) ∧ fld q.ext 7 0 = 2 ∧
      u.fab.probe = some t0 ∧ u.fab.role = 2 ∧ q.src = linkNode u u.fab.parent.toNat) ∧
    (∃ (p : Packet) (q : Packet) (s : State) (u : State), received s p 0x0E = some (u, q) ∧ fld q.ext 7 0 = 3) ∧
    (∃ (p : Packet) (q : Packet) (s : State) (u : State), received s p 0x0E = some (u, q) ∧ fld q.ext 7 0 = 4 ∧ leNat (q.data.take 2) =
      4095) ∧
    (∃ (p : Packet) (q : Packet) (s : State) (u : State), received s p 0x0D = some (u, q) ∧ msgCode q = 0x0C ∧ u.fab.role = 2 ∧ q.link
      = u.fab.parent) ∧
    (∃ (now : Dword) (target : Dword), 10000 < (timeGap now target).natAbs) ∧
    (∃ (now : Dword) (target : Dword), (timeGap now target).natAbs ≤ 10000) ∧
    (∃ (s : State) (t : State), t = (if hasTime s then ((s.links.filter fun e => e.2.up && e.2.follows).map (·.1)).foldl (fun s n =>
      sendOnLink s n (timeMsg s n)) s else s) ∧ t.fab.role = 2) ∧
    (∃ (s : State) (t : State), t = (if hasTime s then ((s.links.filter fun e => e.2.up && e.2.follows).map (·.1)).foldl (fun s n =>
      sendOnLink s n (timeMsg s n)) s else s) ∧ t.fab.role ≠ 2) ∧
    (∃ (s : State), s.fab.role = 2) ∧
    (∃ (x : ItemRef) (i : Item) (c : Context) (s : State), itemReady s x 0x57 i c = true) ∧
    (∃ (x : ItemRef) (i : Item) (c : Context) (s : State), itemReady s x 0x50 i c = true) ∧
    (∃ (x : ItemRef) (i : Item) (c : Context) (first : Nat) (count : Nat) (s : State), itemReady s x 0x51 i c = true ∧ first = fld (iw
      i 1) 16 0 ∧ count = fld (iw i 1) 34 17 ∧ (count = 0 ∨ 131072 < first + count)) ∧
    (∃ (x : ItemRef) (r : Reply) (i : Item) (c : Context) (first : Nat) (count : Nat) (s : State) (b : List Byte) (t : State),
      itemReady s x 0x51 i c = true ∧ first = fld (iw i 1) 16 0 ∧ count = fld (iw i 1) 34 17 ∧ count ≠ 0 ∧ first + count ≤ 131072 ∧ okOf
      (readVa s c (some x) r (iw i 2) (8 * count)) = some (t, b) ∧ ((leWords ((8 * count + 7) / 8) b).all fun w => onlyBits w 0xFFFFFFF)
      = true) :=
  ⟨⟨{ req 1 1 0 0 [] 0 with dst := 7, hops := 32 }, onNet, by decide +kernel⟩,
   ⟨{ req 1 1 0 0 [] 0 with dst := 7, hops := 31 }, onNet, by decide +kernel⟩,
   ⟨{ req 1 1 0 0 [] 0 with dst := 7, hops := 0 }, (setLink onNet 63 { txq := [{ req 1 1 0 0 [] 0 with dst := 7, hops := 0 }] }), by decide +kernel⟩,
   ⟨6, (6, []), { onNet with fab := { nodeValid := true, pauses := [(6, [])] } }, by decide +kernel⟩,
   ⟨(req 0x0E 0 0 1 [] 0), (req 0x0E 0 0 1 [] 0), onNet, (after onNet (req 0x0E 0 0 1 [] 0)), by decide +kernel⟩,
   ⟨(req 0x0E 0 0 2 [] 0), (req 0x0E 0 0 2 [] 0), 5,
   { (setLink onNet 63 { partner := some { node := 6 } }) with fab := { nodeValid := true, probe := some 5, role := 2, parent := 63 } },
   (after
   { (setLink onNet 63 { partner := some { node := 6 } }) with fab := { nodeValid := true, probe := some 5, role := 2, parent := 63 } }
   (req 0x0E 0 0 2 [] 0)), by decide +kernel⟩,
   ⟨(req 0x0E 0 0 3 [0xFF, 0xF] 2), (req 0x0E 0 0 3 [0xFF, 0xF] 2), onNet, (after onNet (req 0x0E 0 0 3 [0xFF, 0xF] 2)), by decide +kernel⟩,
   ⟨(req 0x0E 0 0 4 [0xFF, 0xF, 5] 3), (req 0x0E 0 0 4 [0xFF, 0xF, 5] 3), onNet, (after onNet (req 0x0E 0 0 4 [0xFF, 0xF, 5] 3)), by decide +kernel⟩,
   ⟨({ msg 0x0C (List.replicate 9 0) with link := 63 }), ({ msg 0x0C (List.replicate 9 0) with link := 63 }),
   { onNet with fab := { nodeValid := true, role := 2, parent := 63 } }, (after
   { onNet with fab := { nodeValid := true, role := 2, parent := 63 } } ({ msg 0x0C (List.replicate 9 0) with link := 63 })), by decide +kernel⟩,
   ⟨0, 0x10000, by decide +kernel⟩,
   ⟨0, 10000, by decide +kernel⟩,
   ⟨{ (setLink onNet 63 { st := 6, follows := true, partner := some { node := 6 } }) with fab := { nodeValid := true, role := 2, parent := 63 } },
   (if hasTime
   ({ (setLink onNet 63 { st := 6, follows := true, partner := some { node := 6 } }) with fab := { nodeValid := true, role := 2, parent := 63 } }
   : State) then
   ((({ (setLink onNet 63 { st := 6, follows := true, partner := some { node := 6 } }) with fab := { nodeValid := true, role := 2, parent := 63 } }
   : State).links.filter fun e => e.2.up && e.2.follows).map (·.1)).foldl (fun s' n => sendOnLink s' n (timeMsg s' n))
   ({ (setLink onNet 63 { st := 6, follows := true, partner := some { node := 6 } }) with fab := { nodeValid := true, role := 2, parent := 63 } }
   : State) else
   ({ (setLink onNet 63 { st := 6, follows := true, partner := some { node := 6 } }) with fab := { nodeValid := true, role := 2, parent := 63 } }
   : State)), by decide +kernel⟩,
   ⟨{ (setLink onNet 63 { st := 6, follows := true, partner := some { node := 6 } }) with fab := { nodeValid := true, role := 1, parent := 63 } },
   (if hasTime
   ({ (setLink onNet 63 { st := 6, follows := true, partner := some { node := 6 } }) with fab := { nodeValid := true, role := 1, parent := 63 } }
   : State) then
   ((({ (setLink onNet 63 { st := 6, follows := true, partner := some { node := 6 } }) with fab := { nodeValid := true, role := 1, parent := 63 } }
   : State).links.filter fun e => e.2.up && e.2.follows).map (·.1)).foldl (fun s' n => sendOnLink s' n (timeMsg s' n))
   ({ (setLink onNet 63 { st := 6, follows := true, partner := some { node := 6 } }) with fab := { nodeValid := true, role := 1, parent := 63 } }
   : State) else
   ({ (setLink onNet 63 { st := 6, follows := true, partner := some { node := 6 } }) with fab := { nodeValid := true, role := 1, parent := 63 } }
   : State)), by decide +kernel⟩,
   ⟨{ onNet with fab := { nodeValid := true, role := 2 } }, by decide +kernel⟩,
   ⟨theirs, (anItem [0x157, 0x3]), manager, (queued manager (anItem [0x157, 0x3])), by decide +kernel⟩,
   ⟨theirs, (anItem [0x150, 0x0]), manager, (queued manager (anItem [0x150, 0x0])), by decide +kernel⟩,
   ⟨theirs, (anItem [0x251, 0x5ffff, 0x0]), manager, fld (iw ((anItem [0x251, 0x5ffff, 0x0]) : Item) 1) 16 0, fld (iw ((anItem [0x251,
   0x5ffff, 0x0]) : Item) 1) 34 17, (queued manager (anItem [0x251, 0x5ffff, 0x0])), by decide +kernel⟩,
   ⟨theirs, (.words []), (anItem [0x251, 0x3ffff, 0x0]), manager, fld (iw ((anItem [0x251, 0x3ffff, 0x0]) : Item) 1) 16 0, fld (iw
   ((anItem [0x251, 0x3ffff, 0x0]) : Item) 1) 34 17, (queued manager (anItem [0x251, 0x3ffff, 0x0])), (List.replicate 8 0), (devReadLog
   (queued manager (anItem [0x251, 0x3ffff, 0x0])) 0 false 0 8 0), by decide +kernel⟩⟩

theorem witness_KernelsAreDispatched :
    (∃ (x : ItemRef) (i : Item) (c : Context) (q : Queue) (s : State), getQueue s x.ctx x.qid = some q ∧ counterMissing s (deadlineWord
      q i) = false ∧ (c.state = .closing ∨ q.closing) = false ∧ rangeFail s c (fld (iw i 1) 15 0) (fld (iw i 1) 31 16 + 1) (fun k => k
      == vcoreKind s c (fld (iw i 1) 15 0) && entryAligned k (iw i 2)) = none ∧ itemReady s x 0x10 i c = true) ∧
    (∃ (x : ItemRef) (i : Item) (c : Context) (q : Queue) (s : State), getQueue s x.ctx x.qid = some q ∧ counterMissing s (deadlineWord
      q i) = false ∧ (c.state = .closing ∨ q.closing) = false ∧ rangeFail s c (fld (iw i 1) 15 0) (fld (iw i 1) 31 16 + 1) (fun k => k
      == vcoreKind s c (fld (iw i 1) 15 0) && entryAligned k (iw i 2)) = none ∧ itemReady s x 0x12 i c = true) ∧
    (∃ (x : ItemRef) (i : Item) (c : Context) (q : Queue) (s : State), getQueue s x.ctx x.qid = some q ∧ counterMissing s (deadlineWord
      q i) = true ∧ itemReady s x 0x12 i c = true) ∧
    (∃ (x : ItemRef) (i : Item) (c : Context) (q : Queue) (s : State), getQueue s x.ctx x.qid = some q ∧ counterMissing s (deadlineWord
      q i) = true ∧ itemReady s x 0x11 i c = true) ∧
    (∃ (x : ItemRef) (i : Item) (c : Context) (q : Queue) (st : Nat) (s : State), getQueue s x.ctx x.qid = some q ∧ counterMissing s
      (deadlineWord q i) = false ∧ (c.state = .closing ∨ q.closing) = false ∧ rangeFail s c (fld (iw i 1) 15 0) (fld (iw i 1) 31 16 + 1)
      (fun k => k == vcoreKind s c (fld (iw i 1) 15 0) && entryAligned k (iw i 2)) = some st ∧ itemReady s x 0x10 i c = true) ∧
    (∃ (x : ItemRef) (i : Item) (c : Context) (q : Queue) (st : Nat) (s : State), getQueue s x.ctx x.qid = some q ∧ counterMissing s
      (deadlineWord q i) = false ∧ (c.state = .closing ∨ q.closing) = false ∧ rangeFail s c (fld (iw i 1) 15 0) (fld (iw i 1) 31 16 + 1)
      (fun k => k == vcoreKind s c (fld (iw i 1) 15 0) && entryAligned k (iw i 2)) = some st ∧ itemReady s x 0x12 i c = true) ∧
    (∃ (x : ItemRef) (i : Item) (c : Context) (q : Queue) (s : State), itemReady s x 0x10 i c = true ∧ getQueue s x.ctx x.qid = some q
      ∧ counterMissing s (deadlineWord q i) = false ∧ q.closing = true ∧ rangeFail s c (fld (iw i 1) 15 0) (fld (iw i 1) 31 16 + 1) (fun
      k => k == vcoreKind s c (fld (iw i 1) 15 0) && entryAligned k (iw i 2)) = none) ∧
    (∃ (x : ItemRef) (i : Item) (c : Context) (q : Queue) (st : Nat) (s : State), itemReady s x 0x11 i c = true ∧ getQueue s x.ctx
      x.qid = some q ∧ counterMissing s (deadlineWord q i) = false ∧ (c.state = .closing ∨ q.closing) = false ∧ stepStage i % 32 = 0 ∧
      rangeFail s c (fld (iw i 1) 15 0) (fld (iw i 1) 31 16 + 1) (stepEntryOk i) = some st ∧ stepBad s c i = false) ∧
    (∃ (x : ItemRef) (i : Item) (c : Context) (q : Queue) (s : State), itemReady s x 0x11 i c = true ∧ getQueue s x.ctx x.qid = some q
      ∧ counterMissing s (deadlineWord q i) = false ∧ (c.state = .closing ∨ q.closing) = false ∧ stepStage i % 32 ≠ 0) ∧
    (∃ (x : ItemRef) (i : Item) (c : Context) (q : Queue) (s : State), itemReady s x 0x11 i c = true ∧ getQueue s x.ctx x.qid = some q
      ∧ counterMissing s (deadlineWord q i) = false ∧ (c.state = .closing ∨ q.closing) = false ∧ stepStage i % 32 = 0 ∧ rangeFail s c
      (fld (iw i 1) 15 0) (fld (iw i 1) 31 16 + 1) (stepEntryOk i) = none ∧ stepBad s c i = true) ∧
    (∃ (x : ItemRef) (i : Item) (c : Context) (q : Queue) (s : State), itemReady s x 0x11 i c = true ∧ getQueue s x.ctx x.qid = some q
      ∧ counterMissing s (deadlineWord q i) = false ∧ (c.state = .closing ∨ q.closing) = false ∧ stepStage i % 32 = 0 ∧ rangeFail s c
      (fld (iw i 1) 15 0) (fld (iw i 1) 31 16 + 1) (stepEntryOk i) = none ∧ stepBad s c i = false) ∧
    (∃ (x : ItemRef) (i : Item) (c : Context) (d : Context) (q : Queue) (s : State), itemReady s x 0x13 i c = true ∧ getQueue s
      (BitVec.ofNat 16 (fld (iw i 1) 15 0)) (BitVec.ofNat 4 (fld (iw i 1) 19 16)) = some q ∧ getCtx s (BitVec.ofNat 16 (fld (iw i 1) 15
      0)) = some d ∧ bit (iw i 1) 20 = false) ∧
    (∃ (x : ItemRef) (i : Item) (c : Context) (d : Context) (q : Queue) (f : List Dword) (s : State), itemReady s x 0x13 i c = true ∧
      getQueue s (BitVec.ofNat 16 (fld (iw i 1) 15 0)) (BitVec.ofNat 4 (fld (iw i 1) 19 16)) = some q ∧ getCtx s (BitVec.ofNat 16 (fld
      (iw i 1) 15 0)) = some d ∧ f = [iw i 1, iw i 2, iw i 3, iw i 4] ∧ bit (iw i 1) 20 = true ∧ (rangeFail s d (fbFirst f) (fbCount f)
      (fbEntryOk f)).isSome = true) ∧
    (∃ (x : ItemRef) (i : Item) (c : Context) (d : Context) (q : Queue) (f : List Dword) (s : State), itemReady s x 0x13 i c = true ∧
      getQueue s (BitVec.ofNat 16 (fld (iw i 1) 15 0)) (BitVec.ofNat 4 (fld (iw i 1) 19 16)) = some q ∧ getCtx s (BitVec.ofNat 16 (fld
      (iw i 1) 15 0)) = some d ∧ f = [iw i 1, iw i 2, iw i 3, iw i 4] ∧ bit (iw i 1) 20 = true ∧ (rangeFail s d (fbFirst f) (fbCount f)
      (fbEntryOk f)).isSome = false) ∧
    (∃ (c : Fin 320) (w : WaitKernel) (s : State), mayRun s c.val false = true ∧ firstOf lcBefore ((waitingAt s c.val).filter (·.lc)) =
      some w) ∧
    (∃ (c : Fin 320) (s : State) (t : State) (w : WaitKernel), mayRun s c.val false = true ∧ firstOf lcBefore ((waitingAt s
      c.val).filter (·.lc)) = none ∧ suspendedAt s c.val = none ∧ pickBe s c.val (waitingAt s c.val) = (t, some w)) ∧
    (∃ (c : Fin 320) (s : State), (suspendedAt s c.val).isSome = true ∧ firstOf lcBefore ((waitingAt s c.val).filter (·.lc)) = none) ∧
    (∃ (p : Nat) (s : State), slotKind p = 0 ∧ procOf s p = none) ∧
    (∃ (c : Fin 320) (d : Bool) (s : State), (getCore s c.val).point = .preempt ∧ (getCore s c.val).run = .atPoint d ∧ freePreSlot s
      (getBinding s c.val).part.toNat = none) ∧
    (∃ (c : Fin 320) (u : Suspended) (s : State), suspendedAt s c.val = some u ∧ mayRun s c.val false = true ∧ u.written = true ∧
      u.image.kernel = none ∧ (waitingAt s c.val).any (·.lc) = false) ∧
    (∃ (c : Fin 320) (s : State), (waitingAt s c.val).any (·.lc) = true) ∧
    (∃ (s : State) (t : State), t = (List.range 16).foldl (fun t k => irqPrivate t (32 + k) 6 true) s) ∧
    (∃ (m : Monitor) (q : Queue) (i : Item) (s : State), getQueue s m.x.ctx m.x.qid = some q ∧ getItem s m.x = some i ∧ m.predicted =
      false ∧ missPredicted s m q (m.kernels - i.run.kernels) = true) ∧
    (∃ (m : Monitor) (q : Queue) (i : Item) (s : State), getQueue s m.x.ctx m.x.qid = some q ∧ getItem s m.x = some i ∧ m.predicted =
      false ∧ missPredicted s m q (m.kernels - i.run.kernels) = false) :=
  ⟨⟨mine, (anItem [0x910, 0x3, 0x1000]), inGlove, { ctx := 1, qid := 1, items := [(anItem [0x910, 0x3, 0x1000])] }, (queued inGlove
   (anItem [0x910, 0x3, 0x1000]) glove9), by decide +kernel⟩,
   ⟨mine, (anItem [0xa12, 0x3, 0x1000]), inGlove, { ctx := 1, qid := 1, items := [(anItem [0xa12, 0x3, 0x1000])] }, (queued inGlove
   (anItem [0xa12, 0x3, 0x1000]) glove9), by decide +kernel⟩,
   ⟨mine, (anItem [0x1a12, 0x3, 0x1000, 0x0, 0x0, 0x0, 0x0, 0x0, 0x0, 0x0, 0x200000000005]), inGlove,
   { ctx := 1, qid := 1, items := [(anItem [0x1a12, 0x3, 0x1000, 0x0, 0x0, 0x0, 0x0, 0x0, 0x0, 0x0, 0x200000000005])] }, (queued inGlove
   (anItem [0x1a12, 0x3, 0x1000, 0x0, 0x0, 0x0, 0x0, 0x0, 0x0, 0x0, 0x200000000005]) glove9), by decide +kernel⟩,
   ⟨mine, (anItem [0x1811, 0x0, 0x0, 0x0, 0x0, 0x0, 0x200000000005]), inGlove,
   { ctx := 1, qid := 1, items := [(anItem [0x1811, 0x0, 0x0, 0x0, 0x0, 0x0, 0x200000000005])] }, (queued inGlove (anItem [0x1811, 0x0,
   0x0, 0x0, 0x0, 0x0, 0x200000000005]) glove9), by decide +kernel⟩,
   ⟨mine, (anItem [0x910, 0x4, 0x1000]), inGlove, { ctx := 1, qid := 1, items := [(anItem [0x910, 0x4, 0x1000])] }, 0x24, (queued
   inGlove (anItem [0x910, 0x4, 0x1000]) glove9), by decide +kernel⟩,
   ⟨mine, (anItem [0xa12, 0x4, 0x1000]), inGlove, { ctx := 1, qid := 1, items := [(anItem [0xa12, 0x4, 0x1000])] }, 0x24, (queued
   inGlove (anItem [0xa12, 0x4, 0x1000]) glove9), by decide +kernel⟩,
   ⟨mine, (anItem [0x910, 0x3, 0x1000]), inGlove, { ctx := 1, qid := 1, items := [(anItem [0x910, 0x3, 0x1000])], closing := true },
   (setQueue (queued inGlove (anItem [0x910, 0x3, 0x1000]) glove9)
   { ctx := 1, qid := 1, items := [(anItem [0x910, 0x3, 0x1000])], closing := true }), by decide +kernel⟩,
   ⟨mine, (anItem [0x811, 0x4, 0x1000, 0x0, 0x80000000000]), inGlove,
   { ctx := 1, qid := 1, items := [(anItem [0x811, 0x4, 0x1000, 0x0, 0x80000000000])] }, 0x24, (queued inGlove (anItem [0x811, 0x4,
   0x1000, 0x0, 0x80000000000]) glove9), by decide +kernel⟩,
   ⟨mine, (anItem [0x811, 0x3, 0x1000, 0x0, 0x4]), inGlove, { ctx := 1, qid := 1, items := [(anItem [0x811, 0x3, 0x1000, 0x0, 0x4])] },
   (queued inGlove (anItem [0x811, 0x3, 0x1000, 0x0, 0x4]) glove9), by decide +kernel⟩,
   ⟨mine, (anItem [0x811, 0x3, 0x1000, 0x0, 0x0, 0x0, 0x0, 0x0, 0x0]), inGlove,
   { ctx := 1, qid := 1, items := [(anItem [0x811, 0x3, 0x1000, 0x0, 0x0, 0x0, 0x0, 0x0, 0x0])] }, (queued inGlove (anItem [0x811, 0x3,
   0x1000, 0x0, 0x0, 0x0, 0x0, 0x0, 0x0]) glove9), by decide +kernel⟩,
   ⟨mine, (anItem [0x811, 0x3, 0x1000, 0x0, 0x80000000000]), inGlove,
   { ctx := 1, qid := 1, items := [(anItem [0x811, 0x3, 0x1000, 0x0, 0x80000000000])] }, (queued inGlove (anItem [0x811, 0x3, 0x1000,
   0x0, 0x80000000000]) glove9), by decide +kernel⟩,
   ⟨theirs, (anItem [0x413, 0x300010000, 0x1000, 0x1000, 0x1000]), overGlove, overGlove,
   { ctx := 0, qid := 1, items := [(anItem [0x413, 0x300010000, 0x1000, 0x1000, 0x1000])] }, (queued overGlove (anItem [0x413,
   0x300010000, 0x1000, 0x1000, 0x1000]) glove9), by decide +kernel⟩,
   ⟨theirs, (anItem [0x413, 0x400110000, 0x1000, 0x1000, 0x1000]), overGlove, overGlove,
   { ctx := 0, qid := 1, items := [(anItem [0x413, 0x400110000, 0x1000, 0x1000, 0x1000])] }, [iw ((anItem [0x413, 0x400110000, 0x1000,
   0x1000, 0x1000]) : Item) 1, iw ((anItem [0x413, 0x400110000, 0x1000, 0x1000, 0x1000]) : Item) 2, iw ((anItem [0x413, 0x400110000,
   0x1000, 0x1000, 0x1000]) : Item) 3, iw ((anItem [0x413, 0x400110000, 0x1000, 0x1000, 0x1000]) : Item) 4], (queued overGlove (anItem
   [0x413, 0x400110000, 0x1000, 0x1000, 0x1000]) glove9), by decide +kernel⟩,
   ⟨theirs, (anItem [0x413, 0x300110000, 0x1000, 0x1000, 0x1000]), overGlove, overGlove,
   { ctx := 0, qid := 1, items := [(anItem [0x413, 0x300110000, 0x1000, 0x1000, 0x1000])] }, [iw ((anItem [0x413, 0x300110000, 0x1000,
   0x1000, 0x1000]) : Item) 1, iw ((anItem [0x413, 0x300110000, 0x1000, 0x1000, 0x1000]) : Item) 2, iw ((anItem [0x413, 0x300110000,
   0x1000, 0x1000, 0x1000]) : Item) 3, iw ((anItem [0x413, 0x300110000, 0x1000, 0x1000, 0x1000]) : Item) 4], (queued overGlove (anItem
   [0x413, 0x300110000, 0x1000, 0x1000, 0x1000]) glove9), by decide +kernel⟩,
   ⟨314, { x := mine, gid := 5, vcore := 3, lc := true }, (boundCore { waiting := [{ x := mine, gid := 5, vcore := 3, lc := true }] }),
   by decide +kernel⟩,
   ⟨314, (boundCore { waiting := [{ x := mine, gid := 5, vcore := 3, lc := false }] }), (boundCore
   { waiting := [{ x := mine, gid := 5, vcore := 3, lc := false }] }), { x := mine, gid := 5, vcore := 3, lc := false }, by decide +kernel⟩,
   ⟨314, (boundCore { suspended := [{ image := { gid := 5, vcore := 3, body := .m {} }, written := true }] }), by decide +kernel⟩,
   ⟨314, withMem, by decide +kernel⟩,
   ⟨314, true, (setCore (boundCore {}) 314 { point := .preempt, run := .atPoint true }), by decide +kernel⟩,
   ⟨314, { image := { gid := 5, vcore := 3, body := .m {} }, written := true }, (boundCore
   { suspended := [{ image := { gid := 5, vcore := 3, body := .m {} }, written := true }] }), by decide +kernel⟩,
   ⟨314, (boundCore { waiting := [{ x := mine, gid := 5, vcore := 3, lc := true }] }), by decide +kernel⟩,
   ⟨withMem, (List.range 16).foldl (fun t' k => irqPrivate t' (32 + k) 6 true) (withMem : State), by decide +kernel⟩,
   ⟨{ x := mine, dl := 1, kernels := 1 }, { ctx := 1, qid := 1, items := [(anItem [0x10] { active := true, kernels := 1 })] }, (anItem
   [0x10] { active := true, kernels := 1 }), { queued tenant (anItem [0x10] { active := true, kernels := 1 }) with refNs := 250 },
   by decide +kernel⟩,
   ⟨{ x := mine, dl := 1, kernels := 1 }, { ctx := 1, qid := 1, items := [(anItem [0x10] { active := true, kernels := 1 })] }, (anItem
   [0x10] { active := true, kernels := 1 }), { queued tenant (anItem [0x10] { active := true, kernels := 1 }) with refNs := 249 },
   by decide +kernel⟩⟩

theorem witness_PartitionsAndRegulators :
    (∃ (x : ItemRef) (i : Item) (c : Context) (s : State), itemReady s x 0x14 i c = true) ∧
    (∃ (x : ItemRef) (i : Item) (c : Context) (t : Nat) (win : Nat) (s : State), itemReady s x 0x15 i c = true ∧ t = fld (iw i 1) 5 4 ∧
      win = fld (iw i 2) 19 0 ∧ (t = 3 ∨ (1 ≤ win ∧ win ≤ 99))) ∧
    (∃ (x : ItemRef) (i : Item) (c : Context) (t : Nat) (win : Nat) (s : State), itemReady s x 0x15 i c = true ∧ t = fld (iw i 1) 5 4 ∧
      win = fld (iw i 2) 19 0 ∧ ¬(t = 3 ∨ (1 ≤ win ∧ win ≤ 99))) ∧
    (∃ (x : ItemRef) (i : Item) (c : Context) (s : State), itemReady s x 0x16 i c = true) ∧
    (∃ (p : Fin 16) (t : Fin 3) (r : Regulator) (s : State), r = getReg s p.val t.val ∧ r.window = 0) ∧
    (∃ (p : Fin 16) (t : Fin 3) (r : Regulator) (s : State), r = getReg s p.val t.val ∧ r.window ≠ 0 ∧ r.misses ≤ r.missLimit.toNat) ∧
    (∃ (p : Fin 16) (t : Fin 3) (r : Regulator) (s : State), r = getReg s p.val t.val ∧ r.window ≠ 0 ∧ r.missLimit.toNat < r.misses) :=
  ⟨⟨theirs, (anItem [0x114, 0x0]), manager, (queued manager (anItem [0x114, 0x0])), by decide +kernel⟩,
   ⟨theirs, (anItem [0x215, 0xf, 0x63]), manager, fld (iw ((anItem [0x215, 0xf, 0x63]) : Item) 1) 5 4, fld (iw ((anItem [0x215, 0xf,
   0x63]) : Item) 2) 19 0, (queued manager (anItem [0x215, 0xf, 0x63])), by decide +kernel⟩,
   ⟨theirs, (anItem [0x215, 0x2f, 0x64]), manager, fld (iw ((anItem [0x215, 0x2f, 0x64]) : Item) 1) 5 4, fld (iw ((anItem [0x215, 0x2f,
   0x64]) : Item) 2) 19 0, (queued manager (anItem [0x215, 0x2f, 0x64])), by decide +kernel⟩,
   ⟨theirs, (anItem [0x116, 0x0]), manager, (queued manager (anItem [0x116, 0x0])), by decide +kernel⟩,
   ⟨15, 2, {}, withMem, by decide +kernel⟩,
   ⟨15, 2, { window := 100, misses := 1, missLimit := 1 },
   { withMem with sched := { regs := [(62, { window := 100, misses := 1, missLimit := 1 })] } }, by decide +kernel⟩,
   ⟨15, 2, { window := 100, misses := 2, missLimit := 1 },
   { withMem with sched := { regs := [(62, { window := 100, misses := 2, missLimit := 1 })] } }, by decide +kernel⟩⟩

theorem witness_GovernorLoopsAndDroop :
    (∃ (power : Nat) (cap : Nat), cap < power) ∧
    (∃ (power : Nat) (cap : Nat), power ≤ cap ∧ cap < 50 * (cap - power)) ∧
    (∃ (power : Nat) (cap : Nat), power ≤ cap ∧ 50 * (cap - power) ≤ cap) ∧
    (∃ (i : Nat) (j : Nat), (420 < i ∨ 560 < j)) ∧
    (∃ (i : Nat) (j : Nat), i ≤ 420 ∧ j ≤ 560 ∧ 399 ≤ i) ∧
    (∃ (i : Nat) (j : Nat), i ≤ 420 ∧ j ≤ 560 ∧ 532 ≤ j) ∧
    (∃ (i : Nat) (j : Nat), i < 399 ∧ j < 532) ∧
    (∃ (lim : Nat) (x : GovDie), lim ≤ x.tj) ∧
    (∃ (lim : Nat) (x : GovDie), x.tj + 3 < lim) ∧
    (∃ (lim : Nat) (x : GovDie), x.tj < lim ∧ lim ≤ x.tj + 3) ∧
    (∃ (s : State) (p : Nat), ((getGovPart s p).req = 0 ∨ tripped s p = true ∨ partRuns s p = false)) ∧
    (∃ (s : State) (p : Nat), (getGovPart s p).req ≠ 0 ∧ tripped s p = false ∧ partRuns s p = true) ∧
    (∃ (d : Nat) (s : State), (getDie s d).trip = true) ∧
    (∃ (s : State) (t : State), t = irqPrivate { s with cnt := { s.cnt with sample := s.cnt.live } } 48 6 true ∧ t.rtpDown = true) ∧
    (∃ (s : State) (t : State), t = irqPrivate { s with cnt := { s.cnt with sample := s.cnt.live } } 48 6 true ∧ t.rtpDown = false) ∧
    (∃ (p : Nat) (s : State), 50 ≤ (getGovPart s p).fRun) ∧
    (∃ (i : Nat) (e : Episode) (s : State), s.gov.episodes[i]? = some e) ∧
    (∃ (d : Fin 4) (s : State), (getDie s d.val).droop ≠ 0) ∧
    (∃ (d : Fin 4) (s : State), (getDie s d.val).droop = 0 ∧ (getDie s d.val).settle = true) ∧
    (∃ (s : State) (p : Nat), droopHolds s p = true ∧ wantTarget s p ≠ targetOf s p ∧ wantTarget s p ≠ 0) ∧
    (∃ (p : Packet) (q : Packet) (g : Glove) (s : State) (u : State), received s p 0x0D = some (u, q) ∧ msgCode q = 0x0E ∧ getGlove u
      q.gid = some g ∧ msgField q 5 1 = 0 ∧ (crownChildren g).contains q.src = true) ∧
    (∃ (p : Packet) (q : Packet) (g : Glove) (s : State) (u : State), received s p 0x0D = some (u, q) ∧ msgCode q = 0x0E ∧ getGlove u
      q.gid = some g ∧ msgField q 5 1 = 1 ∧ g.rank ≠ 0 ∧ (getGovPart u g.part.toNat).round.toNat < (BitVec.ofNat 32 (msgField q 0
      4)).toNat) ∧
    (∃ (gid : BitVec 24) (g : Glove) (s : State), getGlove s gid = some g ∧ g.rank = 0) ∧
    (∃ (gid : BitVec 24) (g : Glove) (s : State) (r : Nat), getGlove s gid = some g ∧ g.rank ≠ 0 ∧ parentRank g = some r) :=
  ⟨⟨16000, 12000, by decide +kernel⟩,
   ⟨11000, 12000, by decide +kernel⟩,
   ⟨12000, 12000, by decide +kernel⟩,
   ⟨421, 0, by decide +kernel⟩,
   ⟨399, 0, by decide +kernel⟩,
   ⟨0, 532, by decide +kernel⟩,
   ⟨398, 531, by decide +kernel⟩,
   ⟨95, { tj := 95 }, by decide +kernel⟩,
   ⟨95, { tj := 91 }, by decide +kernel⟩,
   ⟨95, { tj := 92 }, by decide +kernel⟩,
   ⟨(setGovPart withMem 15 { req := 0 }), 15, by decide +kernel⟩,
   ⟨(setGovPart { withMem with sched := { parts := [(15, { clusters := 0x80000000 })] } } 15 { req := 80 }), 15, by decide +kernel⟩,
   ⟨3, (setDie withMem 3 { trip := true }), by decide +kernel⟩,
   ⟨{ withMem with rtpDown := true }, irqPrivate
   { ({ withMem with rtpDown := true } : State) with cnt := { ({ withMem with rtpDown := true } : State).cnt with sample := ({ withMem with rtpDown := true } : State).cnt.live } }
   48 6 true, by decide +kernel⟩,
   ⟨withMem, irqPrivate { (withMem : State) with cnt := { (withMem : State).cnt with sample := (withMem : State).cnt.live } } 48 6 true,
   by decide +kernel⟩,
   ⟨15, (setGovPart withMem 15 { fRun := 50 }), by decide +kernel⟩,
   ⟨0, { reason := 3, part := 15 }, { withMem with gov := { episodes := [{ reason := 3, part := 15 }] } }, by decide +kernel⟩,
   ⟨3, (setDie withMem 3 { droop := 1 }), by decide +kernel⟩,
   ⟨3, (setDie withMem 3 { settle := true }), by decide +kernel⟩,
   ⟨(setDie (setGovPart { withMem with sched := { parts := [(15, { clusters := 0x80000000 })] } } 15 { req := 80 }) 3 { droop := 1 }),
   15, by decide +kernel⟩,
   ⟨(msg 0x0E [1, 0, 0, 0, 100, 0]), (msg 0x0E [1, 0, 0, 0, 100, 0]), pair5, onNet, (after onNet (msg 0x0E [1, 0, 0, 0, 100, 0])),
   by decide +kernel⟩,
   ⟨(msg 0x0E [1, 0, 0, 0, 100, 1]), (msg 0x0E [1, 0, 0, 0, 100, 1]), { pair5 with rank := 1 }, (setGlove onNet
   { pair5 with rank := 1 }), (after (setGlove onNet { pair5 with rank := 1 }) (msg 0x0E [1, 0, 0, 0, 100, 1])), by decide +kernel⟩,
   ⟨5, pair5, onNet, by decide +kernel⟩,
   ⟨5, { pair5 with rank := 1 }, (setGlove onNet { pair5 with rank := 1 }), 0, by decide +kernel⟩⟩

theorem witness_GovernorItemsAndDomains :
    (∃ (x : ItemRef) (i : Item) (c : Context) (pace : Nat) (s : State), itemReady s x 0x18 i c = true ∧ pace = fld (iw i 1) 15 8 ∧ ((1
      ≤ pace ∧ pace < 80) ∨ 200 < pace)) ∧
    (∃ (x : ItemRef) (i : Item) (c : Context) (pace : Nat) (s : State), itemReady s x 0x18 i c = true ∧ pace = fld (iw i 1) 15 8 ∧
      (pace = 0 ∨ (80 ≤ pace ∧ pace ≤ 200))) ∧
    (∃ (x : ItemRef) (i : Item) (c : Context) (cap : Nat) (tj : Nat) (s : State), itemReady s x 0x19 i c = true ∧ cap = fld (iw i 1) 10
      0 ∧ tj = fld (iw i 1) 23 16 ∧ (cap < 500 ∨ 1600 < cap ∨ (tj ≠ 0 ∧ (tj < 80 ∨ 100 < tj)))) ∧
    (∃ (x : ItemRef) (i : Item) (c : Context) (cap : Nat) (tj : Nat) (s : State), itemReady s x 0x19 i c = true ∧ cap = fld (iw i 1) 10
      0 ∧ tj = fld (iw i 1) 23 16 ∧ 500 ≤ cap ∧ cap ≤ 1600 ∧ tj = 0) ∧
    (∃ (x : ItemRef) (i : Item) (c : Context) (cap : Nat) (tj : Nat) (s : State), itemReady s x 0x19 i c = true ∧ cap = fld (iw i 1) 10
      0 ∧ tj = fld (iw i 1) 23 16 ∧ 500 ≤ cap ∧ cap ≤ 1600 ∧ 80 ≤ tj ∧ tj ≤ 100) ∧
    (∃ (x : ItemRef) (i : Item) (c : Context) (s : State), itemReady s x 0x1B i c = true ∧ fld (iw i 1) 39 32 = 0) ∧
    (∃ (x : ItemRef) (i : Item) (c : Context) (s : State), itemReady s x 0x1B i c = true ∧ fld (iw i 1) 39 32 ≠ 0) ∧
    (∃ (x : ItemRef) (i : Item) (c : Context) (s : State), itemReady s x 0x1C i c = true ∧ (iw i 1).toNat % 8 ≠ 0) ∧
    (∃ (x : ItemRef) (i : Item) (c : Context) (s : State), itemReady s x 0x1C i c = true ∧ (iw i 1).toNat % 8 = 0) ∧
    (∃ (x : ItemRef) (i : Item) (c : Context) (s : State), itemReady s x 0x1D i c = true ∧ (iw i 1).toNat % 8 ≠ 0) ∧
    (∃ (x : ItemRef) (i : Item) (c : Context) (s : State), itemReady s x 0x1D i c = true ∧ (iw i 1).toNat % 8 = 0) ∧
    (∃ (x : ItemRef) (i : Item) (c : Context) (w : Dword) (d : Nat) (st : Nat) (wake : BitVec 4) (s : State), itemReady s x 0x1A i c =
      true ∧ w = iw i 1 ∧ d = fld w 5 0 ∧ st = fld w 9 8 ∧ wake = BitVec.ofNat 4 (fld w 19 16) ∧ (bit wake 2 && (fld w 51 32 == 0 ||
      decide (1000000 < fld w 51 32))) = false ∧ domainAllows d st = false) ∧
    (∃ (x : ItemRef) (i : Item) (c : Context) (w : Dword) (d : Nat) (st : Nat) (wake : BitVec 4) (s : State), itemReady s x 0x1A i c =
      true ∧ w = iw i 1 ∧ d = fld w 5 0 ∧ st = fld w 9 8 ∧ wake = BitVec.ofNat 4 (fld w 19 16) ∧ (bit wake 2 && (fld w 51 32 == 0 ||
      decide (1000000 < fld w 51 32))) = false ∧ domainAllows d st = true ∧ (getDomain s d).busy = 3) ∧
    (∃ (x : ItemRef) (i : Item) (c : Context) (w : Dword) (d : Nat) (st : Nat) (wake : BitVec 4) (s : State), itemReady s x 0x1A i c =
      true ∧ w = iw i 1 ∧ d = fld w 5 0 ∧ st = fld w 9 8 ∧ wake = BitVec.ofNat 4 (fld w 19 16) ∧ (bit wake 2 && (fld w 51 32 == 0 ||
      decide (1000000 < fld w 51 32))) = false ∧ domainAllows d st = true ∧ (getDomain s d).busy ≠ 3 ∧ domainBusy s d st = true) ∧
    (∃ (x : ItemRef) (i : Item) (c : Context) (w : Dword) (d : Nat) (st : Nat) (wake : BitVec 4) (s : State), itemReady s x 0x1A i c =
      true ∧ w = iw i 1 ∧ d = fld w 5 0 ∧ st = fld w 9 8 ∧ wake = BitVec.ofNat 4 (fld w 19 16) ∧ (bit wake 2 && (fld w 51 32 == 0 ||
      decide (1000000 < fld w 51 32))) = false ∧ domainAllows d st = true ∧ (getDomain s d).busy = 0 ∧ domainBusy s d st = false ∧ st =
      0 ∧ (getDomain s d).st = 0) ∧
    (∃ (x : ItemRef) (i : Item) (c : Context) (w : Dword) (d : Nat) (st : Nat) (wake : BitVec 4) (s : State), itemReady s x 0x1A i c =
      true ∧ w = iw i 1 ∧ d = fld w 5 0 ∧ st = fld w 9 8 ∧ wake = BitVec.ofNat 4 (fld w 19 16) ∧ (bit wake 2 && (fld w 51 32 == 0 ||
      decide (1000000 < fld w 51 32))) = false ∧ domainAllows d st = true ∧ (getDomain s d).busy = 0 ∧ domainBusy s d st = false ∧ st =
      0 ∧ (getDomain s d).st ≠ 0) ∧
    (∃ (x : ItemRef) (i : Item) (c : Context) (w : Dword) (d : Nat) (st : Nat) (wake : BitVec 4) (s : State), itemReady s x 0x1A i c =
      true ∧ w = iw i 1 ∧ d = fld w 5 0 ∧ st = fld w 9 8 ∧ wake = BitVec.ofNat 4 (fld w 19 16) ∧ (bit wake 2 && (fld w 51 32 == 0 ||
      decide (1000000 < fld w 51 32))) = false ∧ domainAllows d st = true ∧ (getDomain s d).busy = 0 ∧ domainBusy s d st = false ∧ st ≠
      0 ∧ (wake &&& pendingSources s d) ≠ 0) ∧
    (∃ (x : ItemRef) (i : Item) (c : Context) (w : Dword) (d : Nat) (st : Nat) (wake : BitVec 4) (s : State), itemReady s x 0x1A i c =
      true ∧ w = iw i 1 ∧ d = fld w 5 0 ∧ st = fld w 9 8 ∧ wake = BitVec.ofNat 4 (fld w 19 16) ∧ (bit wake 2 && (fld w 51 32 == 0 ||
      decide (1000000 < fld w 51 32))) = false ∧ domainAllows d st = true ∧ (getDomain s d).busy = 0 ∧ domainBusy s d st = false ∧ st ≠
      0 ∧ (wake &&& pendingSources s d) = 0) ∧
    (∃ (d : BitVec 6) (s : State), (getDomain s d.toNat).busy = 1 ∧ domainDrained s d.toNat = false) ∧
    (∃ (d : BitVec 6) (s : State), (getDomain s d.toNat).busy = 1 ∧ domainDrained s d.toNat = true) ∧
    (∃ (d : BitVec 6) (i : ItemRef) (s : State), (getDomain s d.toNat).busy = 2 ∧ (getDomain s d.toNat).item = some i ∧ (getDomain s
      d.toNat).woke = false) ∧
    (∃ (d : BitVec 6) (i : ItemRef) (s : State), (getDomain s d.toNat).busy = 3 ∧ (getDomain s d.toNat).wave = false ∧ (getDomain s
      d.toNat).item = some i) ∧
    (∃ (d : BitVec 6) (s : State), (getDomain s d.toNat).busy = 3 ∧ (getDomain s d.toNat).wave = false ∧ (getDomain s d.toNat).item =
      none) ∧
    (∃ (d : BitVec 6) (s : State), ((getDomain s d.toNat).busy ≠ 3 ∨ (getDomain s d.toNat).wave = true)) :=
  ⟨⟨theirs, (anItem [0x118, 0x4f0f]), manager, fld (iw ((anItem [0x118, 0x4f0f]) : Item) 1) 15 8, (queued manager (anItem [0x118,
   0x4f0f])), by decide +kernel⟩,
   ⟨theirs, (anItem [0x118, 0xc80f]), manager, fld (iw ((anItem [0x118, 0xc80f]) : Item) 1) 15 8, (queued manager (anItem [0x118,
   0xc80f])), by decide +kernel⟩,
   ⟨theirs, (anItem [0x119, 0x1f3]), manager, fld (iw ((anItem [0x119, 0x1f3]) : Item) 1) 10 0, fld (iw ((anItem [0x119, 0x1f3]) : Item)
   1) 23 16, (queued manager (anItem [0x119, 0x1f3])), by decide +kernel⟩,
   ⟨theirs, (anItem [0x119, 0x640]), manager, fld (iw ((anItem [0x119, 0x640]) : Item) 1) 10 0, fld (iw ((anItem [0x119, 0x640]) : Item)
   1) 23 16, (queued manager (anItem [0x119, 0x640])), by decide +kernel⟩,
   ⟨theirs, (anItem [0x119, 0x6401f4]), manager, fld (iw ((anItem [0x119, 0x6401f4]) : Item) 1) 10 0, fld (iw ((anItem [0x119,
   0x6401f4]) : Item) 1) 23 16, (queued manager (anItem [0x119, 0x6401f4])), by decide +kernel⟩,
   ⟨theirs, (anItem [0x11b, 0x0]), manager, (queued manager (anItem [0x11b, 0x0])), by decide +kernel⟩,
   ⟨theirs, (anItem [0x11b, 0x100000000]), manager, (queued manager (anItem [0x11b, 0x100000000])), by decide +kernel⟩,
   ⟨theirs, (anItem [0x11c, 0x4]), manager, (queued manager (anItem [0x11c, 0x4])), by decide +kernel⟩,
   ⟨theirs, (anItem [0x11c, 0x8]), manager, (queued manager (anItem [0x11c, 0x8])), by decide +kernel⟩,
   ⟨theirs, (anItem [0x11d, 0x4]), manager, (queued manager (anItem [0x11d, 0x4])), by decide +kernel⟩,
   ⟨theirs, (anItem [0x11d, 0x8]), manager, (queued manager (anItem [0x11d, 0x8])), by decide +kernel⟩,
   ⟨theirs, (anItem [0x11a, 0x12c]), manager, iw ((anItem [0x11a, 0x12c]) : Item) 1, fld (iw ((anItem [0x11a, 0x12c]) : Item) 1 : Dword)
   5 0, fld (iw ((anItem [0x11a, 0x12c]) : Item) 1 : Dword) 9 8, BitVec.ofNat 4 (fld (iw ((anItem [0x11a, 0x12c]) : Item) 1 : Dword) 19
   16), (queued manager (anItem [0x11a, 0x12c]) withMem), by decide +kernel⟩,
   ⟨theirs, (anItem [0x11a, 0x11f]), manager, iw ((anItem [0x11a, 0x11f]) : Item) 1, fld (iw ((anItem [0x11a, 0x11f]) : Item) 1 : Dword)
   5 0, fld (iw ((anItem [0x11a, 0x11f]) : Item) 1 : Dword) 9 8, BitVec.ofNat 4 (fld (iw ((anItem [0x11a, 0x11f]) : Item) 1 : Dword) 19
   16), (queued manager (anItem [0x11a, 0x11f]) (setDomain withMem 31 { busy := 3 })), by decide +kernel⟩,
   ⟨theirs, (anItem [0x11a, 0x300]), manager, iw ((anItem [0x11a, 0x300]) : Item) 1, fld (iw ((anItem [0x11a, 0x300]) : Item) 1 : Dword)
   5 0, fld (iw ((anItem [0x11a, 0x300]) : Item) 1 : Dword) 9 8, BitVec.ofNat 4 (fld (iw ((anItem [0x11a, 0x300]) : Item) 1 : Dword) 19
   16), (queued manager (anItem [0x11a, 0x300]) withMem), by decide +kernel⟩,
   ⟨theirs, (anItem [0x11a, 0x1f]), manager, iw ((anItem [0x11a, 0x1f]) : Item) 1, fld (iw ((anItem [0x11a, 0x1f]) : Item) 1 : Dword) 5
   0, fld (iw ((anItem [0x11a, 0x1f]) : Item) 1 : Dword) 9 8, BitVec.ofNat 4 (fld (iw ((anItem [0x11a, 0x1f]) : Item) 1 : Dword) 19 16),
   (queued manager (anItem [0x11a, 0x1f]) withMem), by decide +kernel⟩,
   ⟨theirs, (anItem [0x11a, 0x1f]), manager, iw ((anItem [0x11a, 0x1f]) : Item) 1, fld (iw ((anItem [0x11a, 0x1f]) : Item) 1 : Dword) 5
   0, fld (iw ((anItem [0x11a, 0x1f]) : Item) 1 : Dword) 9 8, BitVec.ofNat 4 (fld (iw ((anItem [0x11a, 0x1f]) : Item) 1 : Dword) 19 16),
   (queued manager (anItem [0x11a, 0x1f]) (setDomain withMem 31 { st := 3 })), by decide +kernel⟩,
   ⟨theirs, (anItem [0x11a, 0x1021f]), manager, iw ((anItem [0x11a, 0x1021f]) : Item) 1, fld (iw ((anItem [0x11a, 0x1021f]) : Item) 1 :
   Dword) 5 0, fld (iw ((anItem [0x11a, 0x1021f]) : Item) 1 : Dword) 9 8, BitVec.ofNat 4 (fld (iw ((anItem [0x11a, 0x1021f]) : Item) 1 :
   Dword) 19 16), (queued manager (anItem [0x11a, 0x1021f]) (boundCore
   { waiting := [{ x := mine, gid := 5, vcore := 3, lc := true }] })), by decide +kernel⟩,
   ⟨theirs, (anItem [0x11a, 0xf42400004021f]), manager, iw ((anItem [0x11a, 0xf42400004021f]) : Item) 1, fld (iw ((anItem [0x11a,
   0xf42400004021f]) : Item) 1 : Dword) 5 0, fld (iw ((anItem [0x11a, 0xf42400004021f]) : Item) 1 : Dword) 9 8, BitVec.ofNat 4 (fld (iw
   ((anItem [0x11a, 0xf42400004021f]) : Item) 1 : Dword) 19 16), (queued manager (anItem [0x11a, 0xf42400004021f]) withMem), by decide +kernel⟩,
   ⟨31, (setCore (setDomain withMem 31 { busy := 1 }) 314 { xfers := [aXfer] }), by decide +kernel⟩,
   ⟨31, (setDomain withMem 31 { busy := 1 }), by decide +kernel⟩,
   ⟨31, theirs, (setDomain withMem 31 { busy := 2, item := some theirs }), by decide +kernel⟩,
   ⟨31, theirs, (setDomain withMem 31 { busy := 3, item := some theirs }), by decide +kernel⟩,
   ⟨31, (setDomain withMem 31 { busy := 3 }), by decide +kernel⟩,
   ⟨31, (setDomain withMem 31 { busy := 3, wave := true }), by decide +kernel⟩⟩

theorem witness_ErrorsAreHandled :
    (∃ (src : BitVec 16), (src = 0 ∨ 0x15 < src.toNat ∨ src = 0x12 ∨ src = 0x13)) ∧
    (∃ (src : BitVec 16), (src = 2 ∨ src = 4)) ∧
    (∃ (src : BitVec 16), (src = 1 ∨ src = 3)) ∧
    (∃ (src : BitVec 16), ¬(src = 0 ∨ 0x15 < src.toNat ∨ src = 0x12 ∨ src = 0x13) ∧ sourceSeverity src.toNat = 2) ∧
    (∃ (src : BitVec 16), ¬(src = 0 ∨ 0x15 < src.toNat ∨ src = 0x12 ∨ src = 0x13) ∧ sourceSeverity src.toNat = 3) ∧
    (∃ (src : BitVec 16), ¬(src = 0 ∨ 0x15 < src.toNat ∨ src = 0x12 ∨ src = 0x13) ∧ sourceSeverity src.toNat = 4) ∧
    (∃ (r : BitVec 2), r ≠ 2) ∧
    (∃ (n : Nat) (s : State), n < 16 ∧ bit s.fp.cpOk n = false) ∧
    (∃ (k : BitVec 2) (i : Byte), (elemOfCode (BitVec.ofNat 32 (elemCode (.crossing k i)))).isSome = true ∧ k = 0) ∧
    (∃ (k : BitVec 2) (i : Byte), (elemOfCode (BitVec.ofNat 32 (elemCode (.crossing k i)))).isSome = true ∧ k = 1) ∧
    (∃ (k : BitVec 2) (i : Byte), (elemOfCode (BitVec.ofNat 32 (elemCode (.crossing k i)))).isSome = true ∧ k ≠ 0 ∧ k ≠ 1) ∧
    (∃ (k : BitVec 2) (i : Byte), (elemOfCode (BitVec.ofNat 32 (elemCode (.crossing k i)))).isSome = false) ∧
    (∃ (e : Element) (s : State), ((findElem s e).testing = false ∨ s.rtpDown = true)) ∧
    (∃ (e : Element) (x : ElemErr) (s : State), x = findElem s e ∧ x.testing = true ∧ s.rtpDown = false ∧ (∀ k, e ≠ .cp k) ∧ x.source =
      0 ∧ x.items = []) ∧
    (∃ (s : State), s.refLost = false) ∧
    (∃ (s : State), s.refLost = true) ∧
    (∃ (s : State), s.refLost = true ∧ s.host.l0 = true) :=
  ⟨⟨0x12, by decide +kernel⟩,
   ⟨4, by decide +kernel⟩,
   ⟨3, by decide +kernel⟩,
   ⟨0x0B, by decide +kernel⟩,
   ⟨0x10, by decide +kernel⟩,
   ⟨0x11, by decide +kernel⟩,
   ⟨3, by decide +kernel⟩,
   ⟨15, withMem, by decide +kernel⟩,
   ⟨0, 0, by decide +kernel⟩,
   ⟨1, 63, by decide +kernel⟩,
   ⟨3, 0, by decide +kernel⟩,
   ⟨1, 64, by decide +kernel⟩,
   ⟨.rtp, withMem, by decide +kernel⟩,
   ⟨(.core 319), findElem ({ withMem with err := { elems := [{ element := .core 319, testing := true, transients := [0, 0, 0] }] } } :
   State) ((.core 319) : Element),
   { withMem with err := { elems := [{ element := .core 319, testing := true, transients := [0, 0, 0] }] } }, by decide +kernel⟩,
   ⟨withMem, by decide +kernel⟩,
   ⟨{ withMem with refLost := true }, by decide +kernel⟩,
   ⟨{ withMem with refLost := true, host := { l0 := true } }, by decide +kernel⟩⟩

theorem witness_ResetsWatchdogsAndErrorItems :
    (∃ (c : Fin 320) (k : Core) (r : KernelRef) (s : State), k = getCore s c.val ∧ k.kernel = some r ∧ k.run = .running ∧ k.wait =
      .none ∧ k.cuffed = false ∧ (getS s c.val).sidle = false ∧ (getMeter s (corePart s c.val)).target ≠ 0) ∧
    (∃ (c : Fin 320) (s : State), ((getMeter s (corePart s c.val)).target = 0 ∨ (getCore s c.val).wait ≠ .none)) ∧
    (∃ (c : Fin 320) (k : Core) (r : KernelRef) (s : State), k = getCore s c.val ∧ k.kernel = some r ∧ k.run = .running ∧ inWait s
      c.val = true ∧ Tbl.get 0 s.err.waitMs r.x.ctx.toNat ≠ 0) ∧
    (∃ (c : Fin 320) (k : Core) (r : KernelRef) (s : State), k = getCore s c.val ∧ k.kernel = some r ∧ k.run = .running ∧ Tbl.get 0
      s.err.waitMs r.x.ctx.toNat = 0) ∧
    (∃ (x : ItemRef) (i : Item) (s : State), getItem s x = some i ∧ i.started = true ∧ Tbl.get 0 s.err.itemMs (queueKey x.ctx x.qid) ≠
      0) ∧
    (∃ (x : ItemRef) (i : Item) (s : State), getItem s x = some i ∧ i.started = true ∧ Tbl.get 0 s.err.itemMs (queueKey x.ctx x.qid) =
      0) ∧
    (∃ (i : Nat) (r : Reset) (s : State), s.err.resets[i]? = some r ∧ r.held = false ∧ r.level = 2 ∧ recordStuck s 0x01 4 (BitVec.ofNat
      32 (elemCode r.target)) 4 = false ∧ r.item = none) ∧
    (∃ (i : Nat) (r : Reset) (s : State) (x : ItemRef), s.err.resets[i]? = some r ∧ r.held = false ∧ r.level = 2 ∧ recordStuck s 0x01 4
      (BitVec.ofNat 32 (elemCode r.target)) 4 = false ∧ r.item = some x) ∧
    (∃ (i : Nat) (r : Reset) (s : State), s.err.resets[i]? = some r ∧ r.held = false ∧ r.level = 3 ∧ r.item = none) ∧
    (∃ (i : Nat) (r : Reset) (s : State) (x : ItemRef), s.err.resets[i]? = some r ∧ r.held = false ∧ r.level = 3 ∧ r.item = some x) ∧
    (∃ (i : Nat) (r : Reset) (s : State), s.err.resets[i]? = some r ∧ r.held = false ∧ r.level = 4) ∧
    (∃ (i : Nat) (r : Reset) (s : State), s.err.resets[i]? = some r ∧ r.held = false ∧ r.level = 3) ∧
    (∃ (i : Nat) (r : Reset) (s : State), s.err.resets[i]? = some r ∧ r.held = true) ∧
    (∃ (gid : BitVec 24) (rank : BitVec 17) (g : Glove) (s : State), getGlove s gid = some g ∧ memberNode g rank.toNat ≠ 0x1FFFF ∧
      (parentRank g == some rank.toNat || (crownChildren g).contains (memberNode g rank.toNat)) = true) ∧
    (∃ (p : Packet) (q : Packet) (g : Glove) (s : State) (u : State), received s p 0x0D = some (u, q) ∧ msgCode q = 0x0F ∧ getGlove u
      q.gid = some g ∧ msgField q 4 2 = 0x13) ∧
    (∃ (p : Packet) (q : Packet) (g : Glove) (s : State) (u : State), received s p 0x0D = some (u, q) ∧ msgCode q = 0x0F ∧ getGlove u
      q.gid = some g ∧ msgField q 4 2 ≠ 0x13) ∧
    (∃ (x : ItemRef) (i : Item) (c : Context) (e : Element) (s : State), itemReady s x 0x78 i c = true ∧ elemOfCode (BitVec.ofNat 32
      (fld (iw i 1) 31 0)) = some e ∧ testable e = false) ∧
    (∃ (x : ItemRef) (i : Item) (c : Context) (e : Element) (s : State), itemReady s x 0x78 i c = true ∧ elemOfCode (BitVec.ofNat 32
      (fld (iw i 1) 31 0)) = some e ∧ testable e = true ∧ (findElem s e).testing = true) ∧
    (∃ (x : ItemRef) (i : Item) (c : Context) (e : Element) (s : State), itemReady s x 0x78 i c = true ∧ elemOfCode (BitVec.ofNat 32
      (fld (iw i 1) 31 0)) = some e ∧ testable e = true ∧ (findElem s e).testing = false) ∧
    (∃ (x : ItemRef) (i : Item) (c : Context) (e : Element) (s : State), itemReady s x 0x79 i c = true ∧ elemOfCode (BitVec.ofNat 32
      (fld (iw i 1) 31 0)) = some e ∧ inject s e (fld (iw i 2) 2 0) = none) ∧
    (∃ (x : ItemRef) (i : Item) (c : Context) (e : Element) (s : State) (t : State), itemReady s x 0x79 i c = true ∧ elemOfCode
      (BitVec.ofNat 32 (fld (iw i 1) 31 0)) = some e ∧ inject s e (fld (iw i 2) 2 0) = some t) ∧
    (∃ (x : ItemRef) (i : Item) (c : Context) (id : BitVec 16) (s : State), itemReady s x 0x7A i c = true ∧ id = BitVec.ofNat 16 (fld
      (iw i 1) 15 0) ∧ (getCtx s id).isNone = true) ∧
    (∃ (x : ItemRef) (i : Item) (c : Context) (id : BitVec 16) (qid : BitVec 4) (s : State), itemReady s x 0x7A i c = true ∧ id =
      BitVec.ofNat 16 (fld (iw i 1) 15 0) ∧ qid = BitVec.ofNat 4 (fld (iw i 1) 19 16) ∧ (getCtx s id).isNone = false ∧ (getQueue s id
      qid).isNone = false ∧ bit (iw i 1) 20 = false) ∧
    (∃ (x : ItemRef) (i : Item) (c : Context) (id : BitVec 16) (s : State), itemReady s x 0x7A i c = true ∧ id = BitVec.ofNat 16 (fld
      (iw i 1) 15 0) ∧ (getCtx s id).isNone = false ∧ bit (iw i 1) 20 = true) ∧
    (∃ (x : ItemRef) (i : Item) (c : Context) (s : State), itemReady s x 0x7B i c = true ∧ fld (iw i 1) 2 0 = 4) ∧
    (∃ (x : ItemRef) (i : Item) (c : Context) (s : State), itemReady s x 0x7B i c = true ∧ fld (iw i 1) 2 0 = 3 ∧ ¬(c.gid ≠ 0xFFFFFF ∧
      c.part.toNat = fld (iw i 1) 63 32 % 16)) ∧
    (∃ (x : ItemRef) (i : Item) (c : Context) (s : State) (e : Element), itemReady s x 0x7B i c = true ∧ fld (iw i 1) 2 0 = 2 ∧
      elemOfCode (BitVec.ofNat 32 (fld (iw i 1) 63 32)) = some e ∧ isEngine e = true) ∧
    (∃ (x : ItemRef) (i : Item) (c : Context) (s : State) (e : Element), itemReady s x 0x7B i c = true ∧ fld (iw i 1) 2 0 = 2 ∧
      elemOfCode (BitVec.ofNat 32 (fld (iw i 1) 63 32)) = some e ∧ isEngine e = false) ∧
    (∃ (x : ItemRef) (i : Item) (c : Context) (s : State), itemReady s x 0x7C i c = true ∧ fld (iw i 1) 1 0 = 0) ∧
    (∃ (x : ItemRef) (i : Item) (c : Context) (s : State), itemReady s x 0x7C i c = true ∧ fld (iw i 1) 1 0 = 1) ∧
    (∃ (x : ItemRef) (i : Item) (c : Context) (s : State), itemReady s x 0x7C i c = true ∧ fld (iw i 1) 1 0 = 2) ∧
    (∃ (x : ItemRef) (i : Item) (c : Context) (s : State), itemReady s x 0x7C i c = true ∧ fld (iw i 1) 1 0 = 3) ∧
    (∃ (x : ItemRef) (i : Item) (c : Context) (s : State), itemReady s x 0x7D i c = true ∧ (iw i 1).toNat % 8 ≠ 0) ∧
    (∃ (x : ItemRef) (i : Item) (c : Context) (s : State), itemReady s x 0x7D i c = true ∧ (iw i 1).toNat % 8 = 0) :=
  ⟨⟨319, getCore
   ({ (setMeter (setCore withMem 319 { run := .running, kernel := some { x := mine } }) 0 { target := 160 }) with slices := [] } :
   State) (319 : Fin 320).val, { x := mine },
   { (setMeter (setCore withMem 319 { run := .running, kernel := some { x := mine } }) 0 { target := 160 }) with slices := [] }, by decide +kernel⟩,
   ⟨319, withMem, by decide +kernel⟩,
   ⟨319, getCore
   ({ (setCore withMem 319 { run := .running, kernel := some { x := mine }, wait := .counter 0 0 }) with err := { waitMs := [(1, 1)] } }
   : State) (319 : Fin 320).val, { x := mine },
   { (setCore withMem 319 { run := .running, kernel := some { x := mine }, wait := .counter 0 0 }) with err := { waitMs := [(1, 1)] } },
   by decide +kernel⟩,
   ⟨319, getCore
   ({ (setCore withMem 319 { run := .running, kernel := some { x := mine }, wait := .counter 0 0 }) with err := { waitMs := [] } } :
   State) (319 : Fin 320).val, { x := mine },
   { (setCore withMem 319 { run := .running, kernel := some { x := mine }, wait := .counter 0 0 }) with err := { waitMs := [] } },
   by decide +kernel⟩,
   ⟨mine, (anItem []), { queued tenant (anItem []) with err := { itemMs := [(queueKey 1 1, 1)] } }, by decide +kernel⟩,
   ⟨mine, (anItem []), (queued tenant (anItem [])), by decide +kernel⟩,
   ⟨0, { level := 2, target := .core 319 }, { withMem with err := { resets := [{ level := 2, target := .core 319 }] } }, by decide +kernel⟩,
   ⟨0, { level := 2, target := .core 319, item := some mine },
   { withMem with err := { resets := [{ level := 2, target := .core 319, item := some mine }] } }, mine, by decide +kernel⟩,
   ⟨0, { level := 3, part := 15 }, { withMem with err := { resets := [{ level := 3, part := 15 }] } }, by decide +kernel⟩,
   ⟨0, { level := 3, part := 15, item := some mine },
   { withMem with err := { resets := [{ level := 3, part := 15, item := some mine }] } }, mine, by decide +kernel⟩,
   ⟨0, { level := 4 }, { withMem with err := { resets := [{ level := 4 }] } }, by decide +kernel⟩,
   ⟨0, { level := 3, part := 15 }, { withMem with err := { resets := [{ level := 3, part := 15 }] } }, by decide +kernel⟩,
   ⟨0, { held := true }, { withMem with err := { resets := [{ held := true }] } }, by decide +kernel⟩,
   ⟨5, 1, pair5, onNet, by decide +kernel⟩,
   ⟨(msg 0x0F [1, 0, 0, 0, 0x13, 0, 0, 0, 0, 0]), (msg 0x0F [1, 0, 0, 0, 0x13, 0, 0, 0, 0, 0]), pair5, onNet, (after onNet (msg 0x0F [1,
   0, 0, 0, 0x13, 0, 0, 0, 0, 0])), by decide +kernel⟩,
   ⟨(msg 0x0F [1, 0, 0, 0, 0x10, 0, 0, 0, 0, 0]), (msg 0x0F [1, 0, 0, 0, 0x10, 0, 0, 0, 0, 0]), pair5, onNet, (after onNet (msg 0x0F [1,
   0, 0, 0, 0x10, 0, 0, 0, 0, 0])), by decide +kernel⟩,
   ⟨theirs, (anItem [0x178, 0xd0000000]), manager, (.router 0), (queued manager (anItem [0x178, 0xd0000000]) withMem), by decide +kernel⟩,
   ⟨theirs, (anItem [0x178, 0x1000013f]), manager, (.core 319), (queued manager (anItem [0x178, 0x1000013f])
   { withMem with err := { elems := [{ element := .core 319, testing := true }] } }), by decide +kernel⟩,
   ⟨theirs, (anItem [0x178, 0x1000013f]), manager, (.core 319), (queued manager (anItem [0x178, 0x1000013f]) withMem), by decide +kernel⟩,
   ⟨theirs, (anItem [0x279, 0x407fffff, 0x2]), manager, (.sramRow 31 31 8191), (queued manager (anItem [0x279, 0x407fffff, 0x2])
   withMem), by decide +kernel⟩,
   ⟨theirs, (anItem [0x279, 0x407fffff, 0x0]), manager, (.sramRow 31 31 8191), (queued manager (anItem [0x279, 0x407fffff, 0x0])
   withMem), (memoryError (queued manager (anItem [0x279, 0x407fffff, 0x0]) withMem) 0x01 (.sramRow 31 31 8191) 0 true), by decide +kernel⟩,
   ⟨theirs, (anItem [0x27a, 0xffff, 0x100000000]), manager, BitVec.ofNat 16 (fld (iw ((anItem [0x27a, 0xffff, 0x100000000]) : Item) 1)
   15 0), (queued manager (anItem [0x27a, 0xffff, 0x100000000]) withMem), by decide +kernel⟩,
   ⟨theirs, (anItem [0x27a, 0x10000, 0x100000000]), manager, BitVec.ofNat 16 (fld (iw ((anItem [0x27a, 0x10000, 0x100000000]) : Item) 1)
   15 0), BitVec.ofNat 4 (fld (iw ((anItem [0x27a, 0x10000, 0x100000000]) : Item) 1) 19 16), (queued manager (anItem [0x27a, 0x10000,
   0x100000000]) withMem), by decide +kernel⟩,
   ⟨theirs, (anItem [0x27a, 0x100000, 0x100000000]), manager, BitVec.ofNat 16 (fld (iw ((anItem [0x27a, 0x100000, 0x100000000]) : Item)
   1) 15 0), (queued manager (anItem [0x27a, 0x100000, 0x100000000]) withMem), by decide +kernel⟩,
   ⟨theirs, (anItem [0x17b, 0x4]), manager, (queued manager (anItem [0x17b, 0x4]) withMem), by decide +kernel⟩,
   ⟨theirs, (anItem [0x17b, 0xf00000003]), manager, (queued manager (anItem [0x17b, 0xf00000003]) withMem), by decide +kernel⟩,
   ⟨theirs, (anItem [0x17b, 0x1000013f00000002]), manager, (queued manager (anItem [0x17b, 0x1000013f00000002]) withMem), (.core 319),
   by decide +kernel⟩,
   ⟨theirs, (anItem [0x17b, 0xd000000000000002]), manager, (queued manager (anItem [0x17b, 0xd000000000000002]) withMem), (.router 0),
   by decide +kernel⟩,
   ⟨theirs, (anItem [0x17c, 0x0]), manager, (queued manager (anItem [0x17c, 0x0]) withMem), by decide +kernel⟩,
   ⟨theirs, (anItem [0x17c, 0x101]), manager, (queued manager (anItem [0x17c, 0x101]) withMem), by decide +kernel⟩,
   ⟨theirs, (anItem [0x17c, 0x102]), manager, (queued manager (anItem [0x17c, 0x102]) withMem), by decide +kernel⟩,
   ⟨theirs, (anItem [0x17c, 0x103]), manager, (queued manager (anItem [0x17c, 0x103]) withMem), by decide +kernel⟩,
   ⟨theirs, (anItem [0x17d, 0x4]), manager, (queued manager (anItem [0x17d, 0x4]) withMem), by decide +kernel⟩,
   ⟨theirs, (anItem [0x17d, 0x8]), manager, (queued manager (anItem [0x17d, 0x8]) withMem), by decide +kernel⟩⟩

theorem witness_KeysAreLoadedAndCleared :
    (∃ (x : ItemRef) (i : Item) (c : Context) (s : State), itemReady s x 0x58 i c = true ∧ fld (iw i 3) 15 0 ≠ 224) ∧
    (∃ (x : ItemRef) (i : Item) (c : Context) (slot : Nat) (s : State), itemReady s x 0x58 i c = true ∧ slot = fld (iw i 1) 5 0 ∧ fld
      (iw i 3) 15 0 = 224 ∧ (wkey s slot).isSome = true) ∧
    (∃ (x : ItemRef) (i : Item) (c : Context) (slot : Nat) (s : State), itemReady s x 0x58 i c = true ∧ slot = fld (iw i 1) 5 0 ∧ fld
      (iw i 3) 15 0 = 224 ∧ (wkey s slot).isSome = false) ∧
    (∃ (s : State), domainRuns s 45 = true) ∧
    (∃ (x : ItemRef) (i : Item) (c : Context) (s : State), itemReady s x 0x59 i c = true ∧ (s.trust.wkeys.any fun e => bit (iw i 1) 8
      || e.1 == fld (iw i 1) 5 0) = false) ∧
    (∃ (x : ItemRef) (i : Item) (c : Context) (s : State), itemReady s x 0x59 i c = true ∧ (s.trust.wkeys.any fun e => bit (iw i 1) 8
      || e.1 == fld (iw i 1) 5 0) = true ∧ domainRuns s 45 = true) ∧
    (∃ (n : Fin 64) (k : WeightKey) (s : State), wkey s n.val = some k ∧ k.clearing = true ∧ (k.users.all fun x => (getItem s
      x).isNone) = true) ∧
    (∃ (n : Fin 64) (k : WeightKey) (s : State), wkey s n.val = some k ∧ k.clearing = false) ∧
    (∃ (x : ItemRef) (i : Item) (c : Context) (gid : BitVec 24) (s : State), itemReady s x 0x54 i c = true ∧ gid = BitVec.ofNat 24 (fld
      (iw i 1) 23 0) ∧ (getGlove s gid).isNone = true) ∧
    (∃ (x : ItemRef) (i : Item) (c : Context) (gid : BitVec 24) (s : State), itemReady s x 0x54 i c = true ∧ gid = BitVec.ofNat 24 (fld
      (iw i 1) 23 0) ∧ (getGlove s gid).isNone = false ∧ bit (iw i 1) 25 = true ∧ iw i 2 = 0 ∧ ((jobSlot s gid).key (bit (iw i 1)
      24)).isNone = true) ∧
    (∃ (x : ItemRef) (i : Item) (c : Context) (gid : BitVec 24) (s : State), itemReady s x 0x54 i c = true ∧ gid = BitVec.ofNat 24 (fld
      (iw i 1) 23 0) ∧ (getGlove s gid).isNone = false ∧ bit (iw i 1) 25 = true ∧ iw i 2 = 0 ∧ ((jobSlot s gid).key (bit (iw i 1)
      24)).isNone = false) ∧
    (∃ (x : ItemRef) (i : Item) (c : Context) (gid : BitVec 24) (s : State), itemReady s x 0x54 i c = true ∧ gid = BitVec.ofNat 24 (fld
      (iw i 1) 23 0) ∧ (getGlove s gid).isNone = false ∧ bit (iw i 1) 25 = false ∧ fld (iw i 3) 15 0 = 224) ∧
    (∃ (x : ItemRef) (i : Item) (c : Context) (gid : BitVec 24) (s : State), itemReady s x 0x55 i c = true ∧ gid = BitVec.ofNat 24 (fld
      (iw i 1) 23 0) ∧ (getGlove s gid).isNone = true) ∧
    (∃ (x : ItemRef) (i : Item) (c : Context) (gid : BitVec 24) (s : State), itemReady s x 0x55 i c = true ∧ gid = BitVec.ofNat 24 (fld
      (iw i 1) 23 0) ∧ (getGlove s gid).isNone = false ∧ bit (iw i 1) 25 = true) ∧
    (∃ (x : ItemRef) (i : Item) (c : Context) (gid : BitVec 24) (s : State), itemReady s x 0x55 i c = true ∧ gid = BitVec.ofNat 24 (fld
      (iw i 1) 23 0) ∧ (getGlove s gid).isNone = false ∧ bit (iw i 1) 25 = false ∧ bit (iw i 1) 24 = (jobSlot s gid).active ∧ ((jobSlot
      s gid).key (!bit (iw i 1) 24)).isNone = true) :=
  ⟨⟨theirs, (anItem [0x358, 0x3f, 0x0, 0xdf]), manager, (queued manager (anItem [0x358, 0x3f, 0x0, 0xdf])), by decide +kernel⟩,
   ⟨theirs, (anItem [0x358, 0x3f, 0x0, 0xe0]), manager, fld (iw ((anItem [0x358, 0x3f, 0x0, 0xe0]) : Item) 1) 5 0, (queued manager
   (anItem [0x358, 0x3f, 0x0, 0xe0]) { withMem with trust := { wkeys := [(63, some {})] } }), by decide +kernel⟩,
   ⟨theirs, (anItem [0x358, 0x3f, 0x0, 0xe0]), manager, fld (iw ((anItem [0x358, 0x3f, 0x0, 0xe0]) : Item) 1) 5 0, (queued manager
   (anItem [0x358, 0x3f, 0x0, 0xe0])), by decide +kernel⟩,
   ⟨withMem, by decide +kernel⟩,
   ⟨theirs, (anItem [0x159, 0x3f]), manager, (queued manager (anItem [0x159, 0x3f])
   { withMem with trust := { wkeys := [(62, some {})] } }), by decide +kernel⟩,
   ⟨theirs, (anItem [0x159, 0x3f]), manager, (queued manager (anItem [0x159, 0x3f])
   { withMem with trust := { wkeys := [(63, some {})] } }), by decide +kernel⟩,
   ⟨63, { clearing := true, users := [mine] },
   { withMem with trust := { wkeys := [(63, some { clearing := true, users := [mine] })] } }, by decide +kernel⟩,
   ⟨63, {}, { withMem with trust := { wkeys := [(63, some {})] } }, by decide +kernel⟩,
   ⟨theirs, (anItem [0x354, 0x5, 0x0, 0xe0]), manager, BitVec.ofNat 24 (fld (iw ((anItem [0x354, 0x5, 0x0, 0xe0]) : Item) 1) 23 0),
   (queued manager (anItem [0x354, 0x5, 0x0, 0xe0])), by decide +kernel⟩,
   ⟨theirs, (anItem [0x354, 0x3000005, 0x0, 0x0]), manager, BitVec.ofNat 24 (fld (iw ((anItem [0x354, 0x3000005, 0x0, 0x0]) : Item) 1)
   23 0), (queued manager (anItem [0x354, 0x3000005, 0x0, 0x0]) onNet), by decide +kernel⟩,
   ⟨theirs, (anItem [0x354, 0x3000005, 0x0, 0x0]), manager, BitVec.ofNat 24 (fld (iw ((anItem [0x354, 0x3000005, 0x0, 0x0]) : Item) 1)
   23 0), (queued manager (anItem [0x354, 0x3000005, 0x0, 0x0])
   { onNet with fab := { nodeValid := true, keys := [{ gid := 5, key1 := some 1 }] } }), by decide +kernel⟩,
   ⟨theirs, (anItem [0x354, 0x1000005, 0x0, 0xe0]), manager, BitVec.ofNat 24 (fld (iw ((anItem [0x354, 0x1000005, 0x0, 0xe0]) : Item) 1)
   23 0), (queued manager (anItem [0x354, 0x1000005, 0x0, 0xe0]) onNet), by decide +kernel⟩,
   ⟨theirs, (anItem [0x155, 0x5]), manager, BitVec.ofNat 24 (fld (iw ((anItem [0x155, 0x5]) : Item) 1) 23 0), (queued manager (anItem
   [0x155, 0x5])), by decide +kernel⟩,
   ⟨theirs, (anItem [0x155, 0x2000005]), manager, BitVec.ofNat 24 (fld (iw ((anItem [0x155, 0x2000005]) : Item) 1) 23 0), (queued
   manager (anItem [0x155, 0x2000005]) onNet), by decide +kernel⟩,
   ⟨theirs, (anItem [0x155, 0x1000005]), manager, BitVec.ofNat 24 (fld (iw ((anItem [0x155, 0x1000005]) : Item) 1) 23 0), (queued
   manager (anItem [0x155, 0x1000005])
   { onNet with fab := { nodeValid := true, keys := [{ gid := 5, key1 := some 1, active := true }] } }), by decide +kernel⟩⟩

theorem witness_MeasurementsAndSessions :
    (∃ (x : ItemRef) (i : Item) (c : Context) (s : State), itemReady s x 0x5A i c = true ∧ (iw i 1).toNat % 8 ≠ 0) ∧
    (∃ (x : ItemRef) (i : Item) (c : Context) (s : State), itemReady s x 0x5A i c = true ∧ (iw i 1).toNat % 8 = 0) ∧
    (∃ (x : ItemRef) (i : Item) (c : Context) (s : State), itemReady s x 0x5B i c = true) ∧
    (∃ (s : State) (t : State), t = (if s.life.powered then irqPrivate s 48 5 true else s) ∧ rtpServes t = false) ∧
    (∃ (s : State) (t : State), t = (if s.life.powered then irqPrivate s 48 5 true else s) ∧ rtpServes t = true) ∧
    (∃ (s : State) (t : State), t = (if s.life.powered then irqPrivate s 48 5 true else s) ∧ rtpServes t = true) ∧
    (∃ (tr : Transport) (s : State), (spdmConn s tr).stage = 3 ∧ s.trust.sessions.length < 4) ∧
    (∃ (tr : Transport) (s : State), (spdmConn s tr).stage = 3 ∧ 4 ≤ s.trust.sessions.length) ∧
    (∃ (tr : Transport) (msg : List Byte) (k : SpdmSession) (s : State), sessionOf s tr msg = some k ∧ k.up = false) ∧
    (∃ (tr : Transport) (msg : List Byte) (k : SpdmSession) (s : State), sessionOf s tr msg = some k ∧ k.up = true) ∧
    (∃ (op : Byte) (eid : Byte) (s : State), rtpServes s = true ∧ (op = 0 ∨ op = 1) ∧ 8 ≤ eid.toNat ∧ eid ≠ 0xFF) ∧
    (∃ (msg : List Byte) (s : State), rtpServes s = true ∧ msg.getD 1 0 ≠ 1) ∧
    (∃ (tr : Transport) (msg : List Byte) (s : State), sessionOf s tr msg = none) ∧
    (∃ (tr : Transport) (s : State), (spdmConn s tr).stage ≠ 3) :=
  ⟨⟨theirs, (anItem [0x15a, 0x4]), manager, (queued manager (anItem [0x15a, 0x4])), by decide +kernel⟩,
   ⟨theirs, (anItem [0x15a, 0x8]), manager, (queued manager (anItem [0x15a, 0x8])), by decide +kernel⟩,
   ⟨theirs, (anItem [0x25b, 0x0, 0x0]), manager, (queued manager (anItem [0x25b, 0x0, 0x0])), by decide +kernel⟩,
   ⟨withMem, (if (withMem : State).life.powered then irqPrivate (withMem : State) 48 5 true else (withMem : State)), by decide +kernel⟩,
   ⟨{ withMem with life := { powered := true }, trust := { meas := [0] } }, (if
   ({ withMem with life := { powered := true }, trust := { meas := [0] } } : State).life.powered then irqPrivate
   ({ withMem with life := { powered := true }, trust := { meas := [0] } } : State) 48 5 true else
   ({ withMem with life := { powered := true }, trust := { meas := [0] } } : State)), by decide +kernel⟩,
   ⟨{ withMem with life := { powered := true }, trust := { meas := [0] } }, (if
   ({ withMem with life := { powered := true }, trust := { meas := [0] } } : State).life.powered then irqPrivate
   ({ withMem with life := { powered := true }, trust := { meas := [0] } } : State) 48 5 true else
   ({ withMem with life := { powered := true }, trust := { meas := [0] } } : State)), by decide +kernel⟩,
   ⟨.mctp,
   { withMem with life := { powered := true }, trust := { meas := [0], mctp := { stage := 3 }, sessions := [{ id := 7, tr := .mctp }, { id := 7, tr := .mctp }, { id := 7, tr := .mctp }] } },
   by decide +kernel⟩,
   ⟨.mctp,
   { withMem with life := { powered := true }, trust := { meas := [0], mctp := { stage := 3 }, sessions := [{ id := 7, tr := .mctp }, { id := 7, tr := .mctp }, { id := 7, tr := .mctp }, { id := 7, tr := .mctp }] } },
   by decide +kernel⟩,
   ⟨.mctp, [7, 0, 0, 0], { id := 7, tr := .mctp },
   { withMem with life := { powered := true }, trust := { meas := [0], sessions := [{ id := 7, tr := .mctp }] } }, by decide +kernel⟩,
   ⟨.mctp, [7, 0, 0, 0], { id := 7, tr := .mctp, up := true },
   { withMem with life := { powered := true }, trust := { meas := [0], sessions := [{ id := 7, tr := .mctp, up := true }] } }, by decide +kernel⟩,
   ⟨1, 8, { withMem with life := { powered := true }, trust := { meas := [0] } }, by decide +kernel⟩,
   ⟨[0, 2], { withMem with life := { powered := true }, trust := { meas := [0] } }, by decide +kernel⟩,
   ⟨.mctp, [7, 0, 0, 0], { withMem with life := { powered := true }, trust := { meas := [0] } }, by decide +kernel⟩,
   ⟨.mctp, { withMem with life := { powered := true }, trust := { meas := [0] } }, by decide +kernel⟩⟩

theorem witness_InterruptsAreDelivered :
    (∃ (q : Fin 49) (s : State) (k : Nat), accepts s q.val = true ∧ (bestOf (candidates s q.val)).isNone = false ∧ q.val < 32 ∧ Tbl.get
      0 s.procCore q.val = k + 1 ∧ clusterTicks s (pidCluster k) = true ∧ loadsOut s k = false) ∧
    (∃ (q : Fin 49) (s : State), accepts s q.val = true ∧ (bestOf (candidates s q.val)).isNone = false ∧ 32 ≤ q.val ∧ q.val < 48 ∧
      pairStopped s (q.val - 32) = false) ∧
    (∃ (q : Fin 49) (s : State), accepts s q.val = true ∧ (bestOf (candidates s q.val)).isNone = false ∧ q.val = 48 ∧ s.rtpDown = false) ∧
    (∃ (q : Fin 49) (s : State), accepts s q.val = false) ∧
    (∃ (q : Fin 49) (n : BitVec 16) (s : State) (t : State), accepts s q.val = true ∧ claimAt s q.val = (n, t)) ∧
    (∃ (d : Word) (s : State), frozenBlock s 3 = false ∧ fld d 10 0 < 4 ∧ fld d 16 11 < 49) ∧
    (∃ (d : Word) (s : State), frozenBlock s 3 = false ∧ 576 ≤ fld d 10 0 ∧ fld d 10 0 ≤ 1087) ∧
    (∃ (d : Word) (s : State), frozenBlock s 3 = false ∧ 4 ≤ fld d 10 0 ∧ fld d 10 0 < 576) ∧
    (∃ (d : Word) (s : State), frozenBlock s 3 = false ∧ 1087 < fld d 10 0) ∧
    (∃ (x : ItemRef) (i : Item) (c : Context) (n : Nat) (s : State), itemReady s x 0x74 i c = true ∧ n = fld (iw i 1) 9 0 ∧ ((284 ≤ n ∧
      n < 512) ∨ 48 < fld (iw i 1) 29 24 ∨ (n < 512 ∧ bit (iw i 1) 32 ≠ levelWired n))) ∧
    (∃ (x : ItemRef) (i : Item) (c : Context) (n : Nat) (s : State), itemReady s x 0x74 i c = true ∧ n = fld (iw i 1) 9 0 ∧ 512 ≤ n ∧
      fld (iw i 1) 29 24 ≤ 48) ∧
    (∃ (x : ItemRef) (i : Item) (c : Context) (n : Nat) (s : State), itemReady s x 0x74 i c = true ∧ n = fld (iw i 1) 9 0 ∧ n < 284 ∧
      fld (iw i 1) 29 24 ≤ 48 ∧ bit (iw i 1) 32 = levelWired n) ∧
    (∃ (v : BitVec 11) (s : State) (t : State), t =
      { s with cfg := { s.cfg with msix := Tbl.set 0 s.cfg.msix (4 * v.toNat + 3) (msixDword s (4 * v.toNat + 3) ||| 1) } } ∧ Tbl.get
      false t.cfg.pba v.toNat = false) ∧
    (∃ (v : BitVec 11) (s : State) (t : State), t =
      { s with cfg := { s.cfg with msix := Tbl.set 0 s.cfg.msix (4 * v.toNat + 3) (msixDword s (4 * v.toNat + 3) ||| 1) } } ∧
      t.host.lost = true) ∧
    (∃ (v : BitVec 11) (s : State) (t : State), t =
      { s with cfg := { s.cfg with msix := Tbl.set 0 s.cfg.msix (4 * v.toNat + 3) (msixDword s (4 * v.toNat + 3) ||| 1) } } ∧ Tbl.get
      false t.cfg.pba v.toNat = true ∧ t.host.lost = false) :=
  ⟨⟨31, { withMem with procCore := [(31, 320)], irqs := [(511, { prio := 15, target := 31, pend := true })] }, 319, by decide +kernel⟩,
   ⟨47, { withMem with procCore := [(31, 320)], irqs := [(511, { prio := 15, target := 47, pend := true })], fp := { cpOk := 0x8000 } },
   by decide +kernel⟩,
   ⟨48, { withMem with procCore := [(31, 320)], irqs := [(511, { prio := 15, target := 48, pend := true })], fp := { rtpOk := true } },
   by decide +kernel⟩,
   ⟨31, withMem, by decide +kernel⟩,
   ⟨31, (claimAt ({ withMem with procCore := [(31, 320)], irqs := [(511, { prio := 15, target := 31, pend := true })] }) 31).1,
   { withMem with procCore := [(31, 320)], irqs := [(511, { prio := 15, target := 31, pend := true })] }, (claimAt
   ({ withMem with procCore := [(31, 320)], irqs := [(511, { prio := 15, target := 31, pend := true })] }) 31).2, by decide +kernel⟩,
   ⟨0x18003, withMem, by decide +kernel⟩,
   ⟨0x43F, withMem, by decide +kernel⟩,
   ⟨0x23F, withMem, by decide +kernel⟩,
   ⟨0x440, withMem, by decide +kernel⟩,
   ⟨theirs, (anItem [0x174, 0x11c]), manager, fld (iw ((anItem [0x174, 0x11c]) : Item) 1) 9 0, (queued manager (anItem [0x174, 0x11c])),
   by decide +kernel⟩,
   ⟨theirs, (anItem [0x174, 0x30000200]), manager, fld (iw ((anItem [0x174, 0x30000200]) : Item) 1) 9 0, (queued manager (anItem [0x174,
   0x30000200])), by decide +kernel⟩,
   ⟨theirs, (anItem [0x174, 0x130000119]), manager, fld (iw ((anItem [0x174, 0x130000119]) : Item) 1) 9 0, (queued manager (anItem
   [0x174, 0x130000119])), by decide +kernel⟩,
   ⟨2047, withMem,
   { (withMem : State) with cfg := { (withMem : State).cfg with msix := Tbl.set 0 (withMem : State).cfg.msix (4 * (2047 : BitVec 11).toNat + 3) (msixDword (withMem : State) (4 * (2047 : BitVec 11).toNat + 3) ||| 1) } },
   by decide +kernel⟩,
   ⟨2047, { withMem with host := { lost := true } },
   { ({ withMem with host := { lost := true } } : State) with cfg := { ({ withMem with host := { lost := true } } : State).cfg with msix := Tbl.set 0 ({ withMem with host := { lost := true } } : State).cfg.msix (4 * (2047 : BitVec 11).toNat + 3) (msixDword ({ withMem with host := { lost := true } } : State) (4 * (2047 : BitVec 11).toNat + 3) ||| 1) } },
   by decide +kernel⟩,
   ⟨2047, { withMem with cfg := { pba := [(2047, true)] } },
   { ({ withMem with cfg := { pba := [(2047, true)] } } : State) with cfg := { ({ withMem with cfg := { pba := [(2047, true)] } } : State).cfg with msix := Tbl.set 0 ({ withMem with cfg := { pba := [(2047, true)] } } : State).cfg.msix (4 * (2047 : BitVec 11).toNat + 3) (msixDword ({ withMem with cfg := { pba := [(2047, true)] } } : State) (4 * (2047 : BitVec 11).toNat + 3) ||| 1) } },
   by decide +kernel⟩⟩

theorem witness_CountersAndTheLog :
    (∃ (x : ItemRef) (i : Item) (c : Context) (s : State), itemReady s x 0x72 i c = true ∧ (fld (iw i 1) 12 0 = 0 ∨ 4096 < fld (iw i 1)
      12 0)) ∧
    (∃ (x : ItemRef) (i : Item) (c : Context) (s : State), itemReady s x 0x72 i c = true ∧ 1 ≤ fld (iw i 1) 12 0 ∧ fld (iw i 1) 12 0 ≤
      4096) ∧
    (∃ (x : ItemRef) (i : Item) (c : Context) (e : Word) (s : State), itemReady s x 0x70 i c = true ∧ e = BitVec.ofNat 32 (fld (iw i 1)
      31 0) ∧ e.toNat ≤ s.cnt.epoch.toNat) ∧
    (∃ (x : ItemRef) (i : Item) (c : Context) (e : Word) (s : State), itemReady s x 0x70 i c = true ∧ e = BitVec.ofNat 32 (fld (iw i 1)
      31 0) ∧ s.cnt.epoch.toNat < e.toNat ∧ bit (iw i 1) 32 = true) ∧
    (∃ (x : ItemRef) (i : Item) (c : Context) (e : Word) (s : State), itemReady s x 0x70 i c = true ∧ e = BitVec.ofNat 32 (fld (iw i 1)
      31 0) ∧ s.cnt.epoch.toNat < e.toNat ∧ bit (iw i 1) 32 = false) ∧
    (∃ (p : Packet) (q : Packet) (e : Word) (s : State) (u : State), received s p 0x0D = some (u, q) ∧ msgCode q = 0x0D ∧ e =
      BitVec.ofNat 32 (msgField q 0 4) ∧ e.toNat ≤ u.cnt.epoch.toNat) ∧
    (∃ (p : Packet) (q : Packet) (e : Word) (s : State) (u : State), received s p 0x0D = some (u, q) ∧ msgCode q = 0x0D ∧ e =
      BitVec.ofNat 32 (msgField q 0 4) ∧ u.cnt.epoch.toNat < e.toNat) ∧
    (∃ (n : Nat) (e : Word) (s : State), ((s.cnt.markers.find? fun m => m.1 == e) = none ∨ unitCount ≤ n ∨ e.toNat ≤ unitLast s n)) ∧
    (∃ (n : Nat) (e : Word) (m : Word × BitVec 17) (s : State) (t : State), (s.cnt.markers.find? fun m => m.1 == e) = some m ∧ n <
      unitCount ∧ unitLast s n < e.toNat ∧ e.toNat % 2 = 0 ∧ t =
      { s with cnt := { s.cnt with shadow0 := latchTable s n s.cnt.shadow0, bound0 := latchBinding s n s.cnt.bound0, bank0 := Tbl.set 0 s.cnt.bank0 n e } }
      ∧ ((List.range unitCount).all fun v => decide (e.toNat ≤ unitLast t v)) = false) ∧
    (∃ (x : ItemRef) (i : Item) (c : Context) (e : Word) (s : State), itemReady s x 0x71 i c = true ∧ e = BitVec.ofNat 32 (fld (iw i 1)
      31 0) ∧ ((s.cnt.markers.any fun m => m.1 == e) = false ∨ ((List.range unitCount).all fun u => decide (e.toNat ≤ unitLast s u)) =
      true)) ∧
    (∃ (x : ItemRef) (i : Item) (c : Context) (e : Word) (s : State), itemReady s x 0x71 i c = true ∧ e = BitVec.ofNat 32 (fld (iw i 1)
      31 0) ∧ (s.cnt.markers.any fun m => m.1 == e) = true ∧ ((List.range unitCount).any fun u => decide (unitLast s u < e.toNat)) =
      true) ∧
    (∃ (r : LogRec) (l : List LogRec) (s : State), s.rtpDown = false ∧ s.log.held = [] ∧ s.log.waiting = r :: l ∧ s.log.store.length <
      8192) ∧
    (∃ (r : LogRec) (l : List LogRec) (s : State), s.rtpDown = true ∧ s.log.held.length < 512 ∧ s.log.waiting = r :: l) ∧
    (∃ (k : Nat) (s : State), 8192 ≤ s.log.store.length ∧ findIdx? (fun q => !q.retained) s.log.store 0 = some k) ∧
    (∃ (x : ItemRef) (i : Item) (c : Context) (s : State), itemReady s x 0x73 i c = true ∧ (10 < fld (iw i 1) 3 0 ∨ (iw i 2).toNat %
      4096 ≠ 0)) ∧
    (∃ (x : ItemRef) (i : Item) (c : Context) (s : State), itemReady s x 0x73 i c = true ∧ fld (iw i 1) 3 0 ≤ 10 ∧ (iw i 2).toNat %
      4096 = 0) ∧
    (∃ (c : Context) (r : LogRec) (l : List LogRec) (ridx : Dword) (a : Dword) (s : State) (t : State) (u : State), getCtx s 0 = some c
      ∧ s.log.store = r :: l ∧ s.rtpDown = false ∧ s.log.base ≠ 0 ∧ c.faulted = false ∧ c.state = .running ∧ (s.posts.any fun p => p.1
      == 0) = false ∧ ringRidx s c s.log.base = (t, ridx) ∧ ringFull t.log.widx (2 ^ (6 + s.log.ringLog.toNat)) ridx = false ∧ a =
      t.log.base + BitVec.ofNat 64 (0x40 + 64 * (t.log.widx % 2 ^ (6 + s.log.ringLog.toNat))) ∧ doneOf (tryWrite t c a r.bytes) = some u) ∧
    (∃ (s : State), s.log.store = []) :=
  ⟨⟨theirs, (anItem [0x272, 0x1001, 0x0]), manager, (queued manager (anItem [0x272, 0x1001, 0x0])), by decide +kernel⟩,
   ⟨theirs, (anItem [0x272, 0x1000, 0x0]), manager, (queued manager (anItem [0x272, 0x1000, 0x0])), by decide +kernel⟩,
   ⟨theirs, (anItem [0x170, 0x3]), manager, BitVec.ofNat 32 (fld (iw ((anItem [0x170, 0x3]) : Item) 1) 31 0), (queued manager (anItem
   [0x170, 0x3]) { onNet with cnt := { epoch := 3 } }), by decide +kernel⟩,
   ⟨theirs, (anItem [0x170, 0x100000004]), manager, BitVec.ofNat 32 (fld (iw ((anItem [0x170, 0x100000004]) : Item) 1) 31 0), (queued
   manager (anItem [0x170, 0x100000004]) { onNet with cnt := { epoch := 3 } }), by decide +kernel⟩,
   ⟨theirs, (anItem [0x170, 0x4]), manager, BitVec.ofNat 32 (fld (iw ((anItem [0x170, 0x4]) : Item) 1) 31 0), (queued manager (anItem
   [0x170, 0x4]) { onNet with cnt := { epoch := 3 } }), by decide +kernel⟩,
   ⟨(msg 0x0D [3, 0, 0, 0, 6, 0, 0, 0]), (msg 0x0D [3, 0, 0, 0, 6, 0, 0, 0]), BitVec.ofNat 32 (msgField ((msg 0x0D [3, 0, 0, 0, 6, 0, 0,
   0]) : Packet) 0 4), { onNet with cnt := { epoch := 3 } }, (after { onNet with cnt := { epoch := 3 } } (msg 0x0D [3, 0, 0, 0, 6, 0, 0,
   0])), by decide +kernel⟩,
   ⟨(msg 0x0D [4, 0, 0, 0, 6, 0, 0, 0]), (msg 0x0D [4, 0, 0, 0, 6, 0, 0, 0]), BitVec.ofNat 32 (msgField ((msg 0x0D [4, 0, 0, 0, 6, 0, 0,
   0]) : Packet) 0 4), { onNet with cnt := { epoch := 3 } }, (after { onNet with cnt := { epoch := 3 } } (msg 0x0D [4, 0, 0, 0, 6, 0, 0,
   0])), by decide +kernel⟩,
   ⟨457, 3, withMem, by decide +kernel⟩,
   ⟨457, 4, (4, 6), { withMem with cnt := { markers := [(4, 6)] } },
   { ({ withMem with cnt := { markers := [(4, 6)] } } : State) with cnt := { ({ withMem with cnt := { markers := [(4, 6)] } } : State).cnt with shadow0 := latchTable ({ withMem with cnt := { markers := [(4, 6)] } } : State) (457 : Nat) ({ withMem with cnt := { markers := [(4, 6)] } } : State).cnt.shadow0, bound0 := latchBinding ({ withMem with cnt := { markers := [(4, 6)] } } : State) (457 : Nat) ({ withMem with cnt := { markers := [(4, 6)] } } : State).cnt.bound0, bank0 := Tbl.set 0 ({ withMem with cnt := { markers := [(4, 6)] } } : State).cnt.bank0 (457 : Nat) (4 : Word) } },
   by decide +kernel⟩,
   ⟨theirs, (anItem [0x271, 0x4, 0x0]), manager, BitVec.ofNat 32 (fld (iw ((anItem [0x271, 0x4, 0x0]) : Item) 1) 31 0), (queued manager
   (anItem [0x271, 0x4, 0x0])), by decide +kernel⟩,
   ⟨theirs, (anItem [0x271, 0x4, 0x0]), manager, BitVec.ofNat 32 (fld (iw ((anItem [0x271, 0x4, 0x0]) : Item) 1) 31 0), (queued manager
   (anItem [0x271, 0x4, 0x0]) { withMem with cnt := { markers := [(4, 6)] } }), by decide +kernel⟩,
   ⟨{ retained := true }, [], { withMem with log := { waiting := [{ retained := true }] } }, by decide +kernel⟩,
   ⟨{ retained := true }, [], { withMem with rtpDown := true, log := { waiting := [{ retained := true }] } }, by decide +kernel⟩,
   ⟨1, { withMem with log := { store := { retained := true } :: List.replicate 8191 {} } }, by decide +kernel⟩,
   ⟨theirs, (anItem [0x273, 0xb, 0x0]), manager, (queued manager (anItem [0x273, 0xb, 0x0])), by decide +kernel⟩,
   ⟨theirs, (anItem [0x273, 0xa, 0x1000]), manager, (queued manager (anItem [0x273, 0xa, 0x1000])), by decide +kernel⟩,
   ⟨manager, {}, [], 0, ((ringRidx ({ (setCtx withMem manager) with log := { base := 0x1000, store := [{}] } }) manager 0x1000).1 :
   State).log.base + BitVec.ofNat 64 (0x40 + 64 * (((ringRidx
   ({ (setCtx withMem manager) with log := { base := 0x1000, store := [{}] } }) manager 0x1000).1 : State).log.widx % 2 ^ (6 +
   ({ (setCtx withMem manager) with log := { base := 0x1000, store := [{}] } } : State).log.ringLog.toNat))),
   { (setCtx withMem manager) with log := { base := 0x1000, store := [{}] } }, (ringRidx
   ({ (setCtx withMem manager) with log := { base := 0x1000, store := [{}] } }) manager 0x1000).1, (devWrite (ringRidx
   ({ (setCtx withMem manager) with log := { base := 0x1000, store := [{}] } }) manager 0x1000).1 0 false 0x1040 ({} : LogRec).bytes
   false 0), by decide +kernel⟩,
   ⟨withMem, by decide +kernel⟩⟩

theorem witness_RegistersAndTheTray :
    (∃ (s : State), frozenBlock s 0 = false) ∧
    (∃ (s : State), frozenBlock s 0 = true) ∧
    (∃ (v : View) (a : BitVec 24) (g : Reg) (s : State), a = (viewPair s v).addr ∧ g = regAt (fld a 18 16) (a.setWidth 16) ∧ regRuns s
      g = true ∧ ownPair g = false ∧ (hostMay g = true ∨ v = .manager)) ∧
    (∃ (v : View) (a : BitVec 24) (g : Reg) (s : State), a = (viewPair s v).addr ∧ g = regAt (fld a 18 16) (a.setWidth 16) ∧ regRuns s
      g = true ∧ ownPair g = false ∧ v = .host ∧ hostMay g = false) ∧
    (∃ (v : View) (a : BitVec 24) (g : Reg) (s : State), a = (viewPair s v).addr ∧ g = regAt (fld a 18 16) (a.setWidth 16) ∧ regRuns s
      g = false) ∧
    (∃ (d : Word), bit d 15 = true) ∧
    (∃ (d : Word), bit d 15 = false) ∧
    (∃ (block : BitVec 3) (off : BitVec 16) (g : Reg), g = regAt block.toNat off ∧ hasParity g = false) ∧
    (∃ (block : BitVec 3) (off : BitVec 16) (g : Reg) (s : State), g = regAt block.toNat off ∧ hasParity g = true ∧ regRuns s g = true) ∧
    (∃ (off : BitVec 24) (g : Reg), g = regAt (windowBlock off) (off.setWidth 16) ∧ g ≠ .hiu 5 ∧ g ≠ .hiu 6) ∧
    (∃ (g : Reg), hostMay g = false) ∧
    (∃ (v : View) (block : Nat) (g : Reg) (s : State), (hostMay g = true ∨ v = .manager) ∧ g ≠ .hiu 8 ∧ frozenBlock s block = true) ∧
    (∃ (v : View) (block : Nat) (g : Reg) (s : State), (hostMay g = true ∨ v = .manager) ∧ g ≠ .hiu 8 ∧ frozenBlock s block = false ∧
      regRuns s g = true) ∧
    (∃ (s : State), s.life.powered = false) ∧
    (∃ (s : State), s.life.ready = true) ∧
    (∃ (s : State), s.fp.index.toNat = 71) ∧
    (∃ (s : State), s.fp.index.toNat ≠ 71) ∧
    (∃ (d : Word) (s : State), s.life.powered = true ∧ bit d 0 = true ∧ bit d 1 = false) ∧
    (∃ (d : Word) (s : State), s.life.powered = true ∧ bit d 0 = false ∧ bit d 1 = true) ∧
    (∃ (s : State), s.life.powered = false) ∧
    (∃ (s : State), s.life.powered = false) ∧
    (∃ (q : Nat) (s : State), (bit s.regs.cableOut q = true ∨ s.life.powered = false ∨ (getDomain s (40 + q)).st = 3)) :=
  ⟨⟨withMem, by decide +kernel⟩,
   ⟨{ withMem with regs := { frozen := 1 } }, by decide +kernel⟩,
   ⟨.manager, (viewPair ({ withMem with regs := { mgrPair := { addr := 0x31460 } } } : State) (.manager : View)).addr, regAt (fld
   ((viewPair ({ withMem with regs := { mgrPair := { addr := 0x31460 } } } : State) (.manager : View)).addr : BitVec 24) 18 16)
   (((viewPair ({ withMem with regs := { mgrPair := { addr := 0x31460 } } } : State) (.manager : View)).addr : BitVec 24).setWidth 16),
   { withMem with regs := { mgrPair := { addr := 0x31460 } } }, by decide +kernel⟩,
   ⟨.host, (viewPair ({ withMem with regs := { hostPair := { addr := 0x31460 } } } : State) (.host : View)).addr, regAt (fld ((viewPair
   ({ withMem with regs := { hostPair := { addr := 0x31460 } } } : State) (.host : View)).addr : BitVec 24) 18 16) (((viewPair
   ({ withMem with regs := { hostPair := { addr := 0x31460 } } } : State) (.host : View)).addr : BitVec 24).setWidth 16),
   { withMem with regs := { hostPair := { addr := 0x31460 } } }, by decide +kernel⟩,
   ⟨.manager, (viewPair ({ (setDomain withMem 43 { st := 3 }) with regs := { mgrPair := { addr := 0x41FC0 } } } : State) (.manager :
   View)).addr, regAt (fld ((viewPair ({ (setDomain withMem 43 { st := 3 }) with regs := { mgrPair := { addr := 0x41FC0 } } } : State)
   (.manager : View)).addr : BitVec 24) 18 16) (((viewPair
   ({ (setDomain withMem 43 { st := 3 }) with regs := { mgrPair := { addr := 0x41FC0 } } } : State) (.manager : View)).addr : BitVec
   24).setWidth 16), { (setDomain withMem 43 { st := 3 }) with regs := { mgrPair := { addr := 0x41FC0 } } }, by decide +kernel⟩,
   ⟨0x8003, by decide +kernel⟩,
   ⟨3, by decide +kernel⟩,
   ⟨0, 0, regAt (0 : BitVec 3).toNat (0 : BitVec 16), by decide +kernel⟩,
   ⟨3, 0x1460, regAt (3 : BitVec 3).toNat (0x1460 : BitVec 16), withMem, by decide +kernel⟩,
   ⟨0x31460, regAt (windowBlock (0x31460 : BitVec 24)) ((0x31460 : BitVec 24).setWidth 16), by decide +kernel⟩,
   ⟨(.eicSrc 280), by decide +kernel⟩,
   ⟨.manager, 3, (.eicSrc 280), { withMem with regs := { frozen := 8 } }, by decide +kernel⟩,
   ⟨.manager, 3, (.eicSrc 280), withMem, by decide +kernel⟩,
   ⟨withMem, by decide +kernel⟩,
   ⟨{ withMem with life := { ready := true } }, by decide +kernel⟩,
   ⟨{ withMem with fp := { index := 71 } }, by decide +kernel⟩,
   ⟨{ withMem with fp := { index := 70 } }, by decide +kernel⟩,
   ⟨1, { withMem with life := { powered := true } }, by decide +kernel⟩,
   ⟨2, { withMem with life := { powered := true } }, by decide +kernel⟩,
   ⟨withMem, by decide +kernel⟩,
   ⟨withMem, by decide +kernel⟩,
   ⟨3, withMem, by decide +kernel⟩⟩

theorem witness_PowerAndManagement :
    (∃ (s : State), s.life.powered = true) ∧
    (∃ (s : State), s.life.powered = false) ∧
    (∃ (a : FlashBank) (b : FlashBank) (floor : Nat), bankBoots a floor = false ∧ bankBoots b floor = false) ∧
    (∃ (a : FlashBank) (b : FlashBank) (floor : Nat), bankBoots a floor = true ∧ b.svn ≤ a.svn) ∧
    (∃ (a : FlashBank) (b : FlashBank) (floor : Nat), bankBoots b floor = true ∧ a.svn < b.svn) ∧
    (∃ (a : FlashBank) (b : FlashBank) (floor : Nat), bankBoots a floor = true ∧ bankBoots b floor = false) ∧
    (∃ (e : BootEnv), e.rtpFails = true) ∧
    (∃ (e : BootEnv) (s : State), e.rtpFails = false ∧ s.fp.cpOk = 0) ∧
    (∃ (e : BootEnv) (s : State), e.rtpFails = false ∧ s.fp.cpOk ≠ 0 ∧ e.testsFailed.any isLoopback = true) ∧
    (∃ (e : BootEnv) (s : State), e.rtpFails = false ∧ s.fp.cpOk ≠ 0 ∧ e.testsFailed.any isLoopback = false ∧ s.fp.computeMask = 0) ∧
    (∃ (e : BootEnv) (s : State), e.rtpFails = false ∧ s.fp.cpOk ≠ 0 ∧ e.testsFailed.any isLoopback = false ∧ s.fp.computeMask ≠ 0) ∧
    (∃ (c : FpChange) (l : List FpChange) (s : State), s.fp.pending = c :: l ∧ s.rtpDown = false) ∧
    (∃ (c : FpChange) (l : List FpChange) (s : State), s.fp.pending = c :: l ∧ s.rtpDown = true) ∧
    (∃ (s : State), s.fp.pending = []) ∧
    (∃ (s : State), s.life.powered = true) ∧
    (∃ (s : State), frozenBlock s 0 = true) ∧
    (∃ (d : Word) (s : State), frozenBlock s 0 = false ∧ bit d 31 = true) ∧
    (∃ (d : Word) (s : State), frozenBlock s 0 = false ∧ bit d 31 = false) ∧
    (∃ (s : State), mgrOk s = false) ∧
    (∃ (s : State), s.life.powered = true ∧ s.life.rmReq = false) ∧
    (∃ (s : State), s.life.rmReq = true) ∧
    (∃ (s : State), frozenBlock s 1 = false ∧ s.life.ready = true ∧ s.life.preparing = false ∧ s.rtpDown = true) ∧
    (∃ (s : State), frozenBlock s 1 = false ∧ s.life.ready = true ∧ s.life.preparing = false ∧ s.rtpDown = false ∧ refuseBits s ≠ 0) ∧
    (∃ (s : State), frozenBlock s 1 = false ∧ s.life.ready = true ∧ s.life.preparing = false ∧ s.rtpDown = false ∧ refuseBits s = 0) ∧
    (∃ (s : State), frozenBlock s 1 = false ∧ s.life.removeReady = true) ∧
    (∃ (s : State), frozenBlock s 1 = false ∧ s.life.removeReady = false) ∧
    (∃ (s : State), s.life.powered = true ∧ s.rtpDown = false ∧ s.life.phase ≠ 0xE ∧ s.life.phase ≠ 0) ∧
    (∃ (s : State), s.rtpDown = false) ∧
    (∃ (s : State), s.rtpDown = true) ∧
    (∃ (bist : BitVec 2) (s : State), s.rtpDown = true ∧ bist ≠ 3 ∧ s.life.ready = true) ∧
    (∃ (bist : BitVec 2) (s : State), s.rtpDown = true ∧ bist ≠ 3 ∧ s.life.ready = false) ∧
    (∃ (s : State), s.life.prepareWait = false ∧ (s.err.resets.any fun r => r.held) = false ∧ (findElem s .rtp).testing = false) :=
  ⟨⟨{ withMem with life := { powered := true } }, by decide +kernel⟩,
   ⟨withMem, by decide +kernel⟩,
   ⟨{ verifies := true, svn := 4 }, { verifies := false, svn := 5 }, 5, by decide +kernel⟩,
   ⟨{ verifies := true, svn := 5 }, { verifies := true, svn := 5 }, 5, by decide +kernel⟩,
   ⟨{ verifies := true, svn := 5 }, { verifies := true, svn := 6 }, 5, by decide +kernel⟩,
   ⟨{ verifies := true, svn := 5 }, { verifies := false, svn := 6 }, 5, by decide +kernel⟩,
   ⟨{ rtpFails := true }, by decide +kernel⟩,
   ⟨{}, withMem, by decide +kernel⟩,
   ⟨{ testsFailed := [.router 31] }, { withMem with fp := { cpOk := 1, computeMask := 1 } }, by decide +kernel⟩,
   ⟨{}, { withMem with fp := { cpOk := 1 } }, by decide +kernel⟩,
   ⟨{ testsFailed := [.core 319] }, { withMem with fp := { cpOk := 1, computeMask := 1 } }, by decide +kernel⟩,
   ⟨.coreFailing 319, [], { withMem with fp := { pending := [(.coreFailing 319)] } }, by decide +kernel⟩,
   ⟨.coreFailing 319, [], { withMem with rtpDown := true, fp := { pending := [(.coreFailing 319)] } }, by decide +kernel⟩,
   ⟨withMem, by decide +kernel⟩,
   ⟨{ withMem with life := { powered := true } }, by decide +kernel⟩,
   ⟨{ withMem with regs := { frozen := 1 } }, by decide +kernel⟩,
   ⟨0x80000000, withMem, by decide +kernel⟩,
   ⟨0, withMem, by decide +kernel⟩,
   ⟨withMem, by decide +kernel⟩,
   ⟨{ withMem with life := { powered := true } }, by decide +kernel⟩,
   ⟨{ withMem with life := { rmReq := true } }, by decide +kernel⟩,
   ⟨{ withMem with life := { ready := true }, rtpDown := true }, by decide +kernel⟩,
   ⟨{ withMem with life := { ready := true } }, by decide +kernel⟩,
   ⟨{ withMem with life := { ready := true, rmReq := true } }, by decide +kernel⟩,
   ⟨{ withMem with life := { removeReady := true } }, by decide +kernel⟩,
   ⟨withMem, by decide +kernel⟩,
   ⟨{ withMem with life := { powered := true, phase := 0xA } }, by decide +kernel⟩,
   ⟨withMem, by decide +kernel⟩,
   ⟨{ withMem with rtpDown := true }, by decide +kernel⟩,
   ⟨0, { withMem with life := { ready := true }, rtpDown := true }, by decide +kernel⟩,
   ⟨0, { withMem with rtpDown := true }, by decide +kernel⟩,
   ⟨{ withMem with rtpDown := true }, by decide +kernel⟩⟩

theorem witness_MInstructionsChangeOneRegister :
    (∃ (c : Fin 160) (w : Dword) (s : State), Rest s = true ∧ mIssue s c w 0x00 0 = true) ∧
    (∃ (c : Fin 160) (w : Dword) (s : State), Rest s = true ∧ mIssue s c w 0x08 0x00F00000FFFFFFFF = true) ∧
    (∃ (c : Fin 160) (w : Dword) (s : State), Rest s = true ∧ mIssue s c w 0x09 0x00FF0000FFFFFFFF = true) ∧
    (∃ (c : Fin 160) (w : Dword) (s : State), Rest s = true ∧ mIssue s c w 0x0A 0x00FFF00000000000 = true) ∧
    (∃ (c : Fin 160) (w : Dword) (s : State), Rest s = true ∧ mIssue s c w 0x0B 0x00FFF00000000000 = true) ∧
    (∃ (c : Fin 160) (w : Dword) (s : State), Rest s = true ∧ mIssue s c w 0x0C 0x00FF00000000003F = true) ∧
    (∃ (c : Fin 160) (w : Dword) (s : State), Rest s = true ∧ mIssue s c w 0x1A 0x00F0000000000307 = true ∧ bit w 8 = false ∧ bit w 9 =
      false) ∧
    (∃ (c : Fin 160) (w : Dword) (s : State), Rest s = true ∧ mIssue s c w 0x1A 0x00F0000000000307 = true ∧ bit w 8 = false ∧ bit w 9 =
      true) ∧
    (∃ (c : Fin 160) (w : Dword) (s : State) (taken : Bool), Rest s = true ∧ mIssue s c w 0x10 0x00FF0E00000FFFFF = true ∧ condHolds
      (fld w 43 41) (rdG (getM s (mPid c)) (fA w)) (rdG (getM s (mPid c)) (fB w)) = some taken) ∧
    (∃ (c : Fin 160) (w : Dword) (s : State), Rest s = true ∧ mIssue s c w 0x11 0x00F00000000FFFFF = true) :=
  ⟨⟨159, 0x0000000000000000, (atRest (mAt {})), by decide +kernel⟩,
   ⟨159, 0x08F00000FFFFFFFF, (atRest (mAt {})), by decide +kernel⟩,
   ⟨159, 0x09FF000080000000, (atRest (mAt {})), by decide +kernel⟩,
   ⟨159, 0x0AFFF00000000000, (atRest (mAt {})), by decide +kernel⟩,
   ⟨159, 0x0BF0100000000000, (atRest (mAt {})), by decide +kernel⟩,
   ⟨159, 0x0CFF00000000003F, (atRest (mAt {})), by decide +kernel⟩,
   ⟨159, 0x1AF0000000000007, (atRest (mAt {})), by decide +kernel⟩,
   ⟨159, 0x1AF0000000000207, (atRest (mAt {})), by decide +kernel⟩,
   ⟨159, 0x10120A00000FFFFF, (atRest (mAt {})), true, by decide +kernel⟩,
   ⟨159, 0x11F0000000080000, (atRest (mAt {})), by decide +kernel⟩⟩

theorem witness_VScalarsChangeOneRegister :
    (∃ (c : Fin 96) (w : Dword) (s : State), Rest s = true ∧ vIssue s c w 0x00 0 [] = true) ∧
    (∃ (c : Fin 96) (w : Dword) (s : State), Rest s = true ∧ vIssue s c w 0x08 (mkDa ||| 0xFFFFFFFF) [128 + vD w] = true) ∧
    (∃ (c : Fin 96) (w : Dword) (s : State), Rest s = true ∧ vIssue s c w 0x09 (mkDa ||| mkAa ||| 0xFFFFFFFF) [128 + vD w, 128 + vA w]
      = true) ∧
    (∃ (c : Fin 96) (w : Dword) (s : State), Rest s = true ∧ vIssue s c w 0x0A (mkDa ||| mkAa ||| mkBa) [128 + vD w, 128 + vA w, 128 +
      vB w] = true) ∧
    (∃ (c : Fin 96) (w : Dword) (s : State), Rest s = true ∧ vIssue s c w 0x0B (mkDa ||| mkAa ||| mkBa) [128 + vD w, 128 + vA w, 128 +
      vB w] = true) ∧
    (∃ (c : Fin 96) (w : Dword) (s : State), Rest s = true ∧ vIssue s c w 0x0C (mkDa ||| mkAa ||| mkBa) [128 + vD w, 128 + vA w, 128 +
      vB w] = true) ∧
    (∃ (c : Fin 96) (w : Dword) (s : State), Rest s = true ∧ vIssue s c w 0x0D (mkDa ||| mkAa ||| 0x3F) [128 + vD w, 128 + vA w] = true) ∧
    (∃ (c : Fin 96) (w : Dword) (s : State), Rest s = true ∧ vIssue s c w 0x17 (mkDa ||| mkAk) [128 + vD w, 64 + vA w] = true) ∧
    (∃ (c : Fin 96) (w : Dword) (s : State), Rest s = true ∧ vIssue s c w 0x1D (mkDa ||| mkAv ||| 0x1FF) [128 + vD w, vA w] = true) ∧
    (∃ (c : Fin 96) (w : Dword) (s : State), Rest s = true ∧ vIssue s c w 0x1F (mkDk ||| mkAa) [64 + vD w, 128 + vA w] = true) ∧
    (∃ (c : Fin 96) (w : Dword) (s : State) (taken : Bool), Rest s = true ∧ vIssue s c w 0x10 (mkAa ||| mkBa ||| 0xEFFFFF) [128 + vA w,
      128 + vB w] = true ∧ condHolds (fld w 23 21) (rdA (getV s (vPid c)) (vA w)) (rdA (getV s (vPid c)) (vB w)) = some taken) ∧
    (∃ (c : Fin 96) (w : Dword) (s : State), Rest s = true ∧ vIssue s c w 0x11 (mkDa ||| 0xFFFFF) [128 + vD w] = true) :=
  ⟨⟨95, 0x0000000000000000, (atRest (vAt {})), by decide +kernel⟩,
   ⟨95, 0x083C0000FFFFFFFF, (atRest (vAt {})), by decide +kernel⟩,
   ⟨95, 0x093CF00080000000, (atRest (vAt {})), by decide +kernel⟩,
   ⟨95, 0x0A3CF3C000000000, (atRest (vAt {})), by decide +kernel⟩,
   ⟨95, 0x0B3C004000000000, (atRest (vAt {})), by decide +kernel⟩,
   ⟨95, 0x0C08310000000000, (atRest (vAt {})), by decide +kernel⟩,
   ⟨95, 0x0D0420000000003F, (atRest (vAt {})), by decide +kernel⟩,
   ⟨95, 0x173C700000000000, (atRest (vAt {})), by decide +kernel⟩,
   ⟨95, 0x1D3FF000000001FF, (atRest (vAt {})), by decide +kernel⟩,
   ⟨95, 0x1F1CF00000000000, (atRest (vAt {})), by decide +kernel⟩,
   ⟨95, 0x1000108000A8FFFF, (atRest (vAt {})), true, by decide +kernel⟩,
   ⟨95, 0x113C000000080000, (atRest (vAt {})), by decide +kernel⟩⟩

theorem witness_SInstructionsChangeOneRegister :
    (∃ (c : Fin 64) (w : Word) (s : State) (v : Dword), Rest s = true ∧ sIssue s c w 0x00 mkR [sRD w, sRA w, sRB w] = true ∧ aluOp (sFN
      w) (rdX (getS s (sPid c)) (sRA w)) (rdX (getS s (sPid c)) (sRB w)) = some v) ∧
    (∃ (c : Fin 64) (w : Word) (s : State), Rest s = true ∧ sIssue s c w 0x01 mkI [sRD w, sRA w] = true) ∧
    (∃ (c : Fin 64) (w : Word) (s : State), Rest s = true ∧ sIssue s c w 0x02 mkI [sRD w, sRA w] = true) ∧
    (∃ (c : Fin 64) (w : Word) (s : State), Rest s = true ∧ sIssue s c w 0x03 mkI [sRD w, sRA w] = true) ∧
    (∃ (c : Fin 64) (w : Word) (s : State), Rest s = true ∧ sIssue s c w 0x04 mkI [sRD w, sRA w] = true) ∧
    (∃ (c : Fin 64) (w : Word) (s : State), Rest s = true ∧ sIssue s c w 0x05 (mkRD ||| mkRA ||| mkImm6) [sRD w, sRA w] = true) ∧
    (∃ (c : Fin 64) (w : Word) (s : State), Rest s = true ∧ sIssue s c w 0x06 (mkRD ||| mkRA ||| mkImm6) [sRD w, sRA w] = true) ∧
    (∃ (c : Fin 64) (w : Word) (s : State), Rest s = true ∧ sIssue s c w 0x07 (mkRD ||| mkRA ||| mkImm6) [sRD w, sRA w] = true) ∧
    (∃ (c : Fin 64) (w : Word) (s : State), Rest s = true ∧ sIssue s c w 0x08 mkI [sRD w, sRA w] = true) ∧
    (∃ (c : Fin 64) (w : Word) (s : State), Rest s = true ∧ sIssue s c w 0x09 0x03FFFFFF [sRD w] = true) ∧
    (∃ (c : Fin 64) (w : Word) (s : State), Rest s = true ∧ sIssue s c w 0x20 mkI [sRD w, sRA w] = true) ∧
    (∃ (c : Fin 64) (w : Word) (s : State), Rest s = true ∧ sIssue s c w 0x21 mkI [sRD w, sRA w] = true) ∧
    (∃ (c : Fin 64) (w : Word) (s : State), Rest s = true ∧ sIssue s c w 0x28 0x03FFFFFF [sRD w] = true) ∧
    (∃ (c : Fin 64) (w : Word) (s : State), Rest s = true ∧ sIssue s c w 0x29 mkI [sRD w, sRA w] = true) ∧
    (∃ (c : Fin 64) (w : Word) (s : State) (o : Nat), Rest s = true ∧ sIssue s c w 0x10 mkI [sRD w, sRA w] = true ∧ sAccess s c w 1
      .read (.lm o) = true) ∧
    (∃ (c : Fin 64) (w : Word) (s : State) (o : Nat), Rest s = true ∧ sIssue s c w 0x1B mkI [sRD w, sRA w] = true ∧ sAccess s c w 8
      .write (.lm o) = true) :=
  ⟨⟨63, 0x0007FFFF, (atRest (sAt {})), 0, by decide +kernel⟩,
   ⟨63, 0x07FFFFDF, (atRest (sAt {})), by decide +kernel⟩,
   ⟨63, 0x0BFFFFDF, (atRest (sAt {})), by decide +kernel⟩,
   ⟨63, 0x0FFFFFDF, (atRest (sAt {})), by decide +kernel⟩,
   ⟨63, 0x13FFFFDF, (atRest (sAt {})), by decide +kernel⟩,
   ⟨63, 0x1400FFDF, (atRest (sAt {})), by decide +kernel⟩,
   ⟨63, 0x1800FFDF, (atRest (sAt {})), by decide +kernel⟩,
   ⟨63, 0x1C00FFDF, (atRest (sAt {})), by decide +kernel⟩,
   ⟨63, 0x220003DF, (atRest (sAt {})), by decide +kernel⟩,
   ⟨63, 0x27FFFFFF, (atRest (sAt {})), by decide +kernel⟩,
   ⟨63, 0x820003DF, (atRest (sAt {})), by decide +kernel⟩,
   ⟨63, 0x860003DF, (atRest (sAt {})), by decide +kernel⟩,
   ⟨63, 0xA3FFFFFF, (atRest (sAt {})), by decide +kernel⟩,
   ⟨63, 0xA7FFFFE0, (atRest (sAt {})), by decide +kernel⟩,
   ⟨63, 0x400003DF, (atRest (sAt { pl := true, x := [(30, 0x10003FFFF)] } { pc := 0x100030000 })), 0x3FFFF, by decide +kernel⟩,
   ⟨63, 0x6C0003DF, (atRest (sAt { pl := true, x := [(30, 0x10003FFF8)] } { pc := 0x100030000 })), 0x3FFF8, by decide +kernel⟩⟩

theorem witness_MemoryStaysCanonical :
    (∃ (s : State), Rest s = true ∧ Memory.wf s.mem = true) ∧
    (∃ (s : State), Rest s = true ∧ Memory.wf s.mem = true) :=
  ⟨⟨(atRest withMem), by decide +kernel⟩,
   ⟨(atRest withMem), by decide +kernel⟩⟩

theorem witness_HostWritesOnlyCount :
    (∃ (s : State) (off : BitVec 24), Rest s = true ∧ hostMay (regAt (windowBlock off) (off.setWidth 16)) = false) ∧
    (∃ (s : State), Rest s = true) ∧
    (∃ (s : State), Rest s = true) :=
  ⟨⟨(atRest withMem), 0x31460, by decide +kernel⟩,
   ⟨(atRest withMem), by decide +kernel⟩,
   ⟨(atRest withMem), by decide +kernel⟩⟩

theorem witness_LedgerSumsIgnoreOrder :
    (∃ (t : Adds), (t.codes.all fun x => x != satCode) = true ∧ (t.codes.map fun x => x.toInt.natAbs).sum ≤ 2 ^ 95 - 1) ∧
    (∃ (t : Adds) (u : Adds), t.codes.Perm u.codes ∧ (t.codes.map fun x => x.toInt.natAbs).sum ≤ 2 ^ 95 - 1) ∧
    (∃ (t : Adds), satCode ∈ t.codes) :=
  ⟨⟨(.two (.one 1) (.one 0x7FFFFFFFFFFFFFFFFFFFFFFE)), by decide +kernel⟩,
   ⟨(.two (.one 1) (.two (.one 2) (.one (-3)))), (.two (.two (.one (-3)) (.one 1)) (.one 2)), by decide +kernel⟩,
   ⟨(.two (.one 1) (.one satCode)), by decide +kernel⟩⟩

theorem witness_MetersKeepTheirPace :
    ∃ (k : Nat) (p : Nat) (s : State) (j : Nat), Rest s = true ∧ p < 16 ∧ (getMeter s p).target = (getMeter s p).written ∧ (getMeter s
      p).acc < 10 ∧ (getMeter s p).bubbleAcc < 64 ∧ bubbleF s p = 0 ∧ j < k :=
  ⟨4, 15, (atRest (setMeter withMem 15 { target := 125, written := 125, acc := 5 })), 3, by decide +kernel⟩

theorem witness_SliceAddressesNameDistinctBytes :
    ∃ (map : Tbl Dword) (a : Nat) (b : Nat) (k : Nat), sliceDecode map a = some k ∧ sliceDecode map b = some k ∧ a / 2 ^ 26 = b / 2 ^
      26 :=
  ⟨[(31, 0x80000000FFFFFFFF)], 0x7FFFFFFF, 0x7FFFFFFF, (sliceDecode [(31, 0x80000000FFFFFFFF)] 0x7FFFFFFF).get!, by decide +kernel⟩

theorem witness_RetainedRecordsStay :
    ∃ (s : State), Rest s = true ∧ s.log.store.length ≤ 8192 :=
  ⟨(atRest { withMem with log := { store := [{ retained := true }], waiting := [{ retained := true }] } }), by decide +kernel⟩

theorem witness_DataFlitsEnterInOrder :
    ∃ (l : Fin 64) (fs : List Flit) (s : State), Rest s = true ∧ (getLink s l.val).up = true ∧ (∀ f ∈ fs, badFlit f = false ∧ f.ftype
      = 1) :=
  ⟨63, [sealed { ftype := 1 }, sealed { ftype := 1, seq := 1 }], (atRest (setLink withMem 63 { st := 6, lanes := 4 })), by decide +kernel⟩

theorem witness_ClaimsTakeTheHighestPriority :
    (∃ (q : Fin 49) (s : State), Rest s = true ∧ Tbl.wf {} s.irqs = true ∧ accepts s q.val = true ∧ candidates s q.val ≠ []) ∧
    (∃ (q : Fin 49) (s : State), Rest s = true ∧ (accepts s q.val = false ∨ candidates s q.val = [])) :=
  ⟨⟨31, (atRest { withMem with procCore := [(31, 320)], irqs := [(511, { prio := 15, target := 31, pend := true })] }), by decide +kernel⟩,
   ⟨31, (atRest withMem), by decide +kernel⟩⟩

/-- A store of the last byte of a region, by core 314, at rest. -/
def aStore : Xfer := { bytes := 1, map := [(0, 0x80000000FFFFFFFF)], kind := .store 0x3FFFFFF [1] }
def storing : State := atRest (mAt {} { xfers := [aStore] })

theorem witness_StoresChangeOnlyTheirBytes :
    ∃ (c : Fin 320) (i : Nat) (x : Xfer) (s : State), (Rest s = true ∧ (getCore s c.val).xfers[i]? = some x ∧ plainXfer x.kind = true ∧
      meetDomains s (xferDomains x) = (s, true) ∧ (xferWrites x).foldl (fun s r => snoopLines s x.part false r.1 r.2) s = s ∧
      snoopWait s x = false) ∧ quietJob s c.val = true :=
  ⟨314, 0, aStore, storing, by decide +kernel, by decide +kernel⟩

theorem witness_MemoryStaysCanonical_transfer :
    ∃ (c : Fin 320) (i : Nat) (x : Xfer) (s : State), (Rest s = true ∧ Memory.wf s.mem = true ∧ (getCore s c.val).xfers[i]? = some x ∧
      plainXfer x.kind = true ∧ meetDomains s (xferDomains x) = (s, true) ∧
      (xferWrites x).foldl (fun s r => snoopLines s x.part false r.1 r.2) s = s ∧ snoopWait s x = false) ∧ quietJob s c.val = true :=
  ⟨314, 0, aStore, storing, by decide +kernel, by decide +kernel⟩

theorem witness_StoresAreReadBack :
    ∃ (c : Fin 320) (i a : Nat) (d : List Byte) (x : Xfer) (s : State), (Rest s = true ∧ (getCore s c.val).xfers[i]? = some x ∧
      x.kind = .store a d ∧ slotKind c.val ≠ 1 ∧ meetDomains s (xferDomains x) = (s, true) ∧ snoopLines s x.part false a d.length = s ∧
      snoopWait s x = false ∧ a % 2 ^ 26 + d.length ≤ 2 ^ 26 ∧ sliceRange x.map a d.length = true ∧
      ∀ p ∈ slicePieces x.map a d.length, Tbl.get false s.mem.bankLost (sramBank p.1) = false) ∧ quietJob s c.val = true :=
  ⟨314, 0, 0x3FFFFFF, [1], aStore, storing, by decide +kernel, by decide +kernel⟩

theorem witness_AStepRunsTheFrontCommand :
    (∃ (c : Instr) (rest : List Instr) (s : State), s.pending = c :: rest) ∧ (∃ s : State, s.pending = []) :=
  ⟨⟨.rmReq, [.deadlineMonitorTick], { withMem with pending := [.rmReq, .deadlineMonitorTick] }, rfl⟩, ⟨withMem, rfl⟩⟩

/-- A step that runs a command, and one on an empty queue. -/
theorem witness_EveryStepLeavesAllFollowed :
    (∃ s t : State, Followed s = true ∧ step s = .next t) ∧ (∃ s t : State, s.pending = [] ∧ Followed s = true ∧ step s = .next t) :=
  ⟨⟨{ atRest withMem with pending := [.rmReq] }, _, by decide +kernel, rfl⟩, ⟨atRest withMem, atRest withMem, rfl, by decide +kernel, rfl⟩⟩

end Sys2Proof.Tests
end

section
/-!
PROOFS. The pace meters over the edges of the reference (R32 to R34, R37): O54 and O11.
-/
namespace Sys2Proof.Machine

/-! ### The commands of the reference -/

theorem exec_referenceEdge (s : State) :
    exec .referenceEdge s = .next (settle (metersEdge { s with refNs := s.refNs + 10, time := s.time + 10 })) := rfl

theorem exec_referenceLost {s : State} (h : s.refLost = false) :
    exec .referenceLost s = .next (settle (setRefLost s true)) := by
  change execReferenceLost s = _
  rw [execReferenceLost, h, if_neg Bool.false_ne_true]

theorem exec_referenceRestored {s : State} (h : s.refLost = true) :
    exec .referenceRestored s = .next (settle (metersEdge { setRefLost s false with
      meters := (s.meters.map fun e => (e.1, { e.2 with acc := 0 })).filter fun e => e.2 ≠ {}
      refNs := s.refNs + 10, time := s.time + 10 })) := by
  change execReferenceRestored s = _
  rw [execReferenceRestored, h, Bool.not_true, if_neg Bool.false_ne_true]

/-! ### One meter at one edge -/

theorem meterEdge_acc_lt (m : PaceMeter) (f : Nat) : (meterEdge m f).1.acc < 10 := Nat.mod_lt _ (by decide)

/-- R32, R34: what TARGET adds to ACC stays in it or leaves, as a tick or as a bubble. -/
theorem meterEdge_conserves {m : PaceMeter} {f : Nat} (hf : f ≤ 64) (hb : m.bubbleAcc < 64) :
    (meterEdge m f).1.acc + 10 * ((meterEdge m f).2.1 + (meterEdge m f).2.2) =
      (if m.target = 0 ∧ m.written ≠ 0 then 0 else m.acc) + m.written.toNat := by
  simp only [meterEdge]
  generalize (if m.target = 0 ∧ m.written ≠ 0 then 0 else m.acc) + m.written.toNat = acc
  have bubbles_le : (m.bubbleAcc + acc / 10 * f) / 64 ≤ acc / 10 := by
    have : acc / 10 * f ≤ acc / 10 * 64 := Nat.mul_le_mul_left _ hf
    omega
  omega

/-- R32: a meter under a constant TARGET without bubbles releases every multiple of 10 in ACC as a tick. -/
theorem meterEdge_steady {m : PaceMeter} (ht : m.target = m.written) (hb : m.bubbleAcc < 64) :
    meterEdge m 0 = ({ m with acc := (m.acc + m.written.toNat) % 10 }, (m.acc + m.written.toNat) / 10, 0) := by
  have keeps_acc : ¬(m.target = 0 ∧ m.written ≠ 0) := fun ⟨h0, h1⟩ => h1 (ht ▸ h0)
  simp only [meterEdge, if_neg keeps_acc, Nat.mul_zero, Nat.add_zero, Nat.mod_eq_of_lt hb, Nat.div_eq_of_lt hb, Nat.sub_zero]
  rw [ht]

/-! ### Reads of counters and meters -/

theorem counterId_inj {k i j c d : Nat} (hc : c < 2 ^ 8) (hd : d < 2 ^ 8) (h : counterId k i c = counterId k j d) :
    i = j ∧ c = d := by
  unfold counterId at h
  omega

@[simp] theorem getMeter_countN (s : State) (k i c n p : Nat) : getMeter (countN s k i c n) p = getMeter s p := rfl

@[simp] theorem counterValue_setMeter (s : State) (p : Nat) (m : PaceMeter) (id : Nat) :
    counterValue (setMeter s p m) id = counterValue s id := rfl

@[simp] theorem counterValue_countN_self (s : State) (k i c n : Nat) :
    counterValue (countN s k i c n) (counterId k i c) = counterValue s (counterId k i c) + BitVec.ofNat 64 n :=
  Tbl.get_set_self ..

theorem counterValue_countN_ne (s : State) {k i c id : Nat} (n : Nat) (h : counterId k i c ≠ id) :
    counterValue (countN s k i c n) id = counterValue s id :=
  Tbl.get_set_ne _ _ _ h

/-- The bubble count is a matter of the partitions and of the governor. -/
theorem bubbleF_congr {s t : State} (hs : t.sched = s.sched) (hg : t.gov = s.gov) (p : Nat) : bubbleF t p = bubbleF s p := by
  have parts : partOnDie t p = partOnDie s p := by funext d; simp only [partOnDie, getPart, hs]
  have dies : getDie t = getDie s := by funext d; simp only [getDie, hg]
  rw [bubbleF, parts, dies, hg, bubbleF]

/-! ### What an edge does to what is seen of one meter -/

/-- What the module shows of a meter: its state, its bubble count F, and its counters 0 (ticks) and 2 (bubbles). -/
structure MeterView where
  meter : PaceMeter
  f : Nat
  ticks : Dword
  bubbles : Dword

def meterView (s : State) (p : Nat) : MeterView :=
  ⟨getMeter s p, bubbleF s p, counterValue s (counterId 4 p 0), counterValue s (counterId 4 p 2)⟩

/-- An edge as the view sees it. -/
def MeterView.edge (v : MeterView) : MeterView :=
  { meter := (meterEdge v.meter v.f).1
    f := v.f
    ticks := v.ticks + BitVec.ofNat 64 (meterEdge v.meter v.f).2.1
    bubbles := v.bubbles + BitVec.ofNat 64 (meterEdge v.meter v.f).2.2 }

/-- The part of `metersEdge` that is meter `p`'s own. -/
def stepMeter (s : State) (p : Nat) : State :=
  countN (countN (setMeter s p (meterEdge (getMeter s p) (bubbleF s p)).1) 4 p 0 (meterEdge (getMeter s p) (bubbleF s p)).2.1)
    4 p 2 (meterEdge (getMeter s p) (bubbleF s p)).2.2

theorem metersEdge_eq_foldl (s : State) : metersEdge s = (List.range 16).foldl stepMeter s := rfl

theorem stepMeter_restView (s : State) (p : Nat) : restView (stepMeter s p) = restView s := rfl

@[simp] theorem stepMeter_bubbleF (s : State) (q p : Nat) : bubbleF (stepMeter s q) p = bubbleF s p := bubbleF_congr rfl rfl p

theorem meterView_stepMeter_self (s : State) (p : Nat) : meterView (stepMeter s p) p = (meterView s p).edge := by
  have other : ∀ {c d : Nat}, c < 2 ^ 8 → d < 2 ^ 8 → c ≠ d → counterId 4 p c ≠ counterId 4 p d :=
    fun hc hd hne h => hne (counterId_inj hc hd h).2
  simp only [meterView, MeterView.edge, stepMeter_bubbleF, MeterView.mk.injEq, true_and]
  refine ⟨by simp [stepMeter], ?ticks, ?bubbles⟩
  case ticks =>
    rw [stepMeter, counterValue_countN_ne _ _ (other (by decide) (by decide) (by decide)), counterValue_countN_self,
      counterValue_setMeter]
  case bubbles =>
    rw [stepMeter, counterValue_countN_self, counterValue_countN_ne _ _ (other (by decide) (by decide) (by decide)),
      counterValue_setMeter]

theorem meterView_stepMeter_ne (s : State) {q p : Nat} (hqp : q ≠ p) : meterView (stepMeter s q) p = meterView s p := by
  have other : ∀ {c d : Nat}, c < 2 ^ 8 → d < 2 ^ 8 → counterId 4 q c ≠ counterId 4 p d :=
    fun hc hd h => hqp (counterId_inj hc hd h).1
  have counters : ∀ {d : Nat}, d < 2 ^ 8 → counterValue (stepMeter s q) (counterId 4 p d) = counterValue s (counterId 4 p d) :=
    fun hd => by
      rw [stepMeter, counterValue_countN_ne _ _ (other (by decide) hd), counterValue_countN_ne _ _ (other (by decide) hd),
        counterValue_setMeter]
  have meter : getMeter (stepMeter s q) p = getMeter s p := getMeter_setMeter_ne s hqp _
  simp only [meterView, stepMeter_bubbleF, meter, counters (show 0 < 2 ^ 8 by decide), counters (show 2 < 2 ^ 8 by decide)]

theorem meterView_foldl_of_not_mem {p : Nat} {l : List Nat} (hp : p ∉ l) (s : State) :
    meterView (l.foldl stepMeter s) p = meterView s p :=
  List.foldlRecOn (motive := fun t => meterView t p = meterView s p) l stepMeter rfl fun t ht _ hq =>
    (meterView_stepMeter_ne t (ne_of_mem_of_not_mem hq hp)).trans ht

theorem meterView_foldl_of_mem {p : Nat} {l : List Nat} (hl : l.Nodup) (hp : p ∈ l) (s : State) :
    meterView (l.foldl stepMeter s) p = (meterView s p).edge := by
  induction l generalizing s with
  | nil => cases hp
  | cons q l ih =>
    obtain ⟨hq, hl⟩ := List.nodup_cons.mp hl
    rw [List.foldl_cons]
    rcases List.mem_cons.mp hp with rfl | hp
    · rw [meterView_foldl_of_not_mem hq, meterView_stepMeter_self]
    · rw [ih hl hp, meterView_stepMeter_ne s (ne_of_mem_of_not_mem hp hq).symm]

theorem meterView_metersEdge (s : State) {p : Nat} (hp : p < 16) : meterView (metersEdge s) p = (meterView s p).edge := by
  rw [metersEdge_eq_foldl, meterView_foldl_of_mem List.nodup_range (List.mem_range.mpr hp)]

theorem metersEdge_restView (s : State) : restView (metersEdge s) = restView s := by
  rw [metersEdge_eq_foldl]
  exact List.foldlRecOn (motive := fun t => restView t = restView s) _ stepMeter rfl fun t ht q _ =>
    (stepMeter_restView t q).trans ht

/-! ### Any number of edges -/

theorem edges_restView (k : Nat) (s : State) : restView (edges k s) = restView s := by
  induction k with
  | zero => rfl
  | succ k ih => exact (metersEdge_restView _).trans ih

theorem meterView_edges_succ (k : Nat) (s : State) {p : Nat} (hp : p < 16) :
    meterView (edges (k + 1) s) p = (meterView (edges k s) p).edge :=
  meterView_metersEdge _ hp

/-- At a module at rest the edges run one after another. -/
theorem exec_referenceEdge_edges (k : Nat) {s : State} (h : Rest s = true) :
    exec .referenceEdge (edges k s) = .next (edges (k + 1) s) := by
  have at_rest : settle (edges (k + 1) s) = edges (k + 1) s := settle_view h (edges_restView (k + 1) s)
  rw [exec_referenceEdge]
  exact congrArg _ at_rest

/-- A meter under a constant TARGET and without bubbles (R33). -/
structure MeterView.Steady (v : MeterView) : Prop where
  target : v.meter.target = v.meter.written
  acc : v.meter.acc < 10
  bubbleAcc : v.meter.bubbleAcc < 64
  f : v.f = 0

/-- A steady meter `k` edges on: of ACC and `k` times TARGET the remainder below 10 stays, and the tens have left as ticks. -/
def MeterView.paced (v : MeterView) (k : Nat) : MeterView :=
  { v with
    meter := { v.meter with acc := (v.meter.acc + k * v.meter.written.toNat) % 10 }
    ticks := v.ticks + BitVec.ofNat 64 ((v.meter.acc + k * v.meter.written.toNat) / 10) }

theorem MeterView.paced_zero {v : MeterView} (h : v.Steady) : v.paced 0 = v := by
  simp [paced, Nat.mod_eq_of_lt h.acc, Nat.div_eq_of_lt h.acc]

theorem MeterView.paced_edge {v : MeterView} (h : v.Steady) (k : Nat) : (v.paced k).edge = v.paced (k + 1) := by
  have edge_eq := meterEdge_steady (m := (v.paced k).meter) h.target h.bubbleAcc
  have no_bubbles : (v.paced k).f = 0 := h.f
  have acc_eq : ((v.meter.acc + k * v.meter.written.toNat) % 10 + v.meter.written.toNat) % 10 =
      (v.meter.acc + (k + 1) * v.meter.written.toNat) % 10 := by
    rw [Nat.succ_mul]; omega
  have ticks_eq : (v.meter.acc + k * v.meter.written.toNat) / 10 +
      ((v.meter.acc + k * v.meter.written.toNat) % 10 + v.meter.written.toNat) / 10 =
      (v.meter.acc + (k + 1) * v.meter.written.toNat) / 10 := by
    rw [Nat.succ_mul]; omega
  rw [edge, no_bubbles, edge_eq]
  simp only [paced, acc_eq, ← ticks_eq, BitVec.ofNat_add, BitVec.add_assoc, BitVec.add_zero, h.f]

theorem meterView_edges {s : State} {p : Nat} (hp : p < 16) (h : (meterView s p).Steady) (k : Nat) :
    meterView (edges k s) p = (meterView s p).paced k := by
  induction k with
  | zero => exact (MeterView.paced_zero h).symm
  | succ k ih => rw [meterView_edges_succ k s hp, ih, MeterView.paced_edge h]

/-! ### The statements -/

/-- Settles O54: the view of the meter after `k` edges is known in closed form, and the ACC it starts with, below 10, is worth at most one
tick. -/
theorem metersKeepTheirPace : Obligations.MetersKeepTheirPace := by
  intro k p s hrest hp htarget hacc hbubble hf
  have paced := meterView_edges (s := s) hp ⟨htarget, hacc, hbubble, hf⟩ k
  refine ⟨fun j _ => exec_referenceEdge_edges j hrest, ((getMeter s p).acc + k * (getMeter s p).written.toNat) / 10, by omega, ?_, ?_⟩
  · exact congrArg MeterView.ticks paced
  · exact congrArg MeterView.bubbles paced

/-- Settles O11: the commands as they are executed, and the conservation of what TARGET adds. -/
theorem metersAndTheReference : Obligations.MetersAndTheReference :=
  ⟨exec_referenceEdge, metersEdge_eq_foldl,
    fun m f => ⟨rfl, meterEdge_acc_lt m f, fun hf hb => meterEdge_conserves hf hb⟩,
    fun _ h => exec_referenceLost h, fun _ h => exec_referenceRestored h⟩

end Sys2Proof.Machine
end

section
/-!
PROOFS. The exact accumulation of the ledger (R50, R53, R65): O53.
-/
namespace Sys2Proof.Machine

/-! ### The number range (R50) and one addition (R53) -/

/-- R50: the numbers of the ledger are the codes of magnitude at most 2^47 − 2^−48; the one code left is SAT. -/
theorem ne_satCode_iff (x : Ledger) : x ≠ satCode ↔ x.toInt.natAbs ≤ 2 ^ 95 - 1 := by
  have sat_toInt : satCode.toInt = -2 ^ 95 := by decide
  have lower := x.le_toInt
  have upper := x.toInt_lt
  rw [Ne, ← BitVec.toInt_inj, sat_toInt]
  omega

@[simp] theorem ledgerAdd_satCode_left (y : Ledger) : ledgerAdd satCode y = satCode := if_pos (.inl rfl)

@[simp] theorem ledgerAdd_satCode_right (x : Ledger) : ledgerAdd x satCode = satCode := if_pos (.inr rfl)

/-- R53: two numbers whose exact sum lies in the range add without rounding. -/
theorem ledgerAdd_toInt {x y : Ledger} (hx : x ≠ satCode) (hy : y ≠ satCode)
    (hxy : (x.toInt + y.toInt).natAbs ≤ 2 ^ 95 - 1) : (ledgerAdd x y).toInt = x.toInt + y.toInt := by
  have in_range : -(2 ^ 95) < x.toInt + y.toInt ∧ x.toInt + y.toInt < 2 ^ 95 := by omega
  have not_sat : ¬(x = satCode ∨ y = satCode) := not_or.mpr ⟨hx, hy⟩
  simp only [ledgerAdd, if_neg not_sat, if_pos in_range]
  exact BitVec.toInt_ofInt_eq_self (by decide) (Int.le_of_lt in_range.1) in_range.2

/-! ### Sums of codes, as lists -/

/-- The exact sum of codes, in units of 2^−48. -/
def exactSum (l : List Ledger) : Int := (l.map BitVec.toInt).sum

/-- The sum of the magnitudes that R65 bounds, in units of 2^−48. -/
def magnitude (l : List Ledger) : Nat := (l.map fun x => x.toInt.natAbs).sum

theorem exactSum_cons (x : Ledger) (l : List Ledger) : exactSum (x :: l) = x.toInt + exactSum l := rfl

theorem magnitude_cons (x : Ledger) (l : List Ledger) : magnitude (x :: l) = x.toInt.natAbs + magnitude l := rfl

theorem exactSum_append (l m : List Ledger) : exactSum (l ++ m) = exactSum l + exactSum m := by
  simp only [exactSum, List.map_append, List.sum_append_int]

theorem magnitude_append (l m : List Ledger) : magnitude (l ++ m) = magnitude l + magnitude m := by
  simp only [magnitude, List.map_append, List.sum_append_nat]

theorem natAbs_exactSum_le_magnitude (l : List Ledger) : (exactSum l).natAbs ≤ magnitude l := by
  induction l with
  | nil => exact Nat.le_refl 0
  | cons x l ih =>
    rw [exactSum_cons, magnitude_cons]
    exact Nat.le_trans (Int.natAbs_add_le _ _) (Nat.add_le_add_left ih _)

theorem exactSum_perm {l m : List Ledger} (h : l.Perm m) : exactSum l = exactSum m :=
  (h.map BitVec.toInt).foldr_eq' (fun x _ y _ z => Int.add_left_comm y x z) 0

theorem magnitude_perm {l m : List Ledger} (h : l.Perm m) : magnitude l = magnitude m := (h.map _).sum_nat

/-! ### Any order and grouping -/

/-- R65: every subtree keeps within the bound, so that each addition of the tree is one of two numbers in range. -/
theorem Adds.sum_toInt (t : Adds) (bound : magnitude t.codes ≤ 2 ^ 95 - 1) : t.sum.toInt = exactSum t.codes := by
  induction t with
  | one x => exact (Int.add_zero x.toInt).symm
  | two a b iha ihb =>
    rw [codes, magnitude_append] at bound
    have abs_a := natAbs_exactSum_le_magnitude a.codes
    have abs_b := natAbs_exactSum_le_magnitude b.codes
    have sum_a : a.sum.toInt = exactSum a.codes := iha (by omega)
    have sum_b : b.sum.toInt = exactSum b.codes := ihb (by omega)
    rw [sum, codes, exactSum_append, ← sum_a, ← sum_b]
    exact ledgerAdd_toInt ((ne_satCode_iff _).mpr (by omega)) ((ne_satCode_iff _).mpr (by omega)) (by omega)

theorem Adds.sum_ne_satCode (t : Adds) (bound : magnitude t.codes ≤ 2 ^ 95 - 1) : t.sum ≠ satCode := by
  rw [ne_satCode_iff, t.sum_toInt bound]
  exact Nat.le_trans (natAbs_exactSum_le_magnitude t.codes) bound

theorem Adds.sum_eq_of_perm {t u : Adds} (h : t.codes.Perm u.codes) (bound : magnitude t.codes ≤ 2 ^ 95 - 1) :
    t.sum = u.sum :=
  BitVec.eq_of_toInt_eq <| calc
    t.sum.toInt = exactSum t.codes := t.sum_toInt bound
    _ = exactSum u.codes := exactSum_perm h
    _ = u.sum.toInt := (u.sum_toInt (magnitude_perm h ▸ bound)).symm

/-- R53: SAT passes every addition on the way to the root. -/
theorem Adds.sum_eq_satCode {t : Adds} (h : satCode ∈ t.codes) : t.sum = satCode := by
  induction t with
  | one x => exact (List.mem_singleton.mp h).symm
  | two a b iha ihb =>
    rw [sum]
    obtain ha | hb := List.mem_append.mp h
    · rw [iha ha, ledgerAdd_satCode_left]
    · rw [ihb hb, ledgerAdd_satCode_right]

/-! ### The statement -/

/-- Settles O53: within the bound of R65 a tree of additions has the exact sum of its leaves by induction on the tree, and that sum does
not see their order; a SAT leaf spreads up to the root. The bound alone keeps SAT, of magnitude 2^47, out of the leaves. The counts of Table 3.8 are
arithmetic. -/
theorem ledgerSumsIgnoreOrder : Obligations.LedgerSumsIgnoreOrder :=
  ⟨fun t _ bound => ⟨t.sum_ne_satCode bound, t.sum_toInt bound⟩,
    fun _ _ perm bound => Adds.sum_eq_of_perm perm bound,
    fun _ sat => Adds.sum_eq_satCode sat,
    by decide⟩

end Sys2Proof.Machine
end

section
/-!
PROOFS. The M-core's register results, branches, fences, waits and points (R76, R77, R83, R85, R90): O1.
-/
namespace Sys2Proof.Machine

variable {s t : State} {c : Fin 160} {w : Dword} {opc : Nat} {mask : Dword} {cause : Byte}
  {body : State → Nat → MCore → MEffect}

/-! ### A command whose instruction issues: the state it answers, from what the instruction's body does -/

theorem next_issueM_go (h : mIssue s c w opc mask = true) (hb : body s (mPid c) (getM s (mPid c)) = .go t) :
    (.next (settle (issueM s c w opc mask body)) : Outcome) = .next (settle t) := by
  rw [issueM_ready body h, hb]

theorem next_issueM_wait (h : mIssue s c w opc mask = true) (hb : body s (mPid c) (getM s (mPid c)) = .wait) :
    (.next (settle (issueM s c w opc mask body)) : Outcome) = .next (settle s) := by
  rw [issueM_ready body h, hb]

theorem next_issueM_exc (h : mIssue s c w opc mask = true) (hb : body s (mPid c) (getM s (mPid c)) = .exc cause) :
    (.next (settle (issueM s c w opc mask body)) : Outcome) = .next (settle (coreException s (mPid c) cause)) := by
  rw [issueM_ready body h, hb]

/-! ### The fence of MFENCE, MSIG and MHALT (R83, R85) -/

theorem mFence_of_clear {p : Nat} {m : MCore} (k : State → MEffect) (hf : fenced s p = true) (hr : m.refused = false) :
    mFence s p m k = k s := by
  simp [mFence, hf, hr]

theorem mFence_of_outstanding {p : Nat} {m : MCore} (k : State → MEffect) (hf : fenced s p = false) :
    mFence s p m k = .wait := by
  simp [mFence, hf]

theorem mFence_of_refused {p : Nat} {m : MCore} (k : State → MEffect) (hf : fenced s p = true) (hr : m.refused = true) :
    mFence s p m k = .exc 0x09 := by
  simp [mFence, hf, hr]

/-! ### Register results and flags (R77, R83) -/

theorem goReg_eq_mPut (s : State) (c : Fin 160) (m : MCore) (r : Nat) (v : Dword) :
    goReg s (mPid c) m r v = .go (mPut s c (wrG m r v)) := rfl

theorem exec_mnop (h : mIssue s c w 0x00 0 = true) : exec (.mnop c w) s = .next (settle (mStep s c)) :=
  next_issueM_go h rfl

theorem exec_mli (h : mIssue s c w 0x08 0x00F00000FFFFFFFF = true) : exec (.mli c w) s =
    .next (settle (mPut s c (wrG (getM s (mPid c)) (fA w) (BitVec.ofInt 64 (sfld w 31 0))))) :=
  next_issueM_go h (goReg_eq_mPut ..)

theorem exec_maddi (h : mIssue s c w 0x09 0x00FF0000FFFFFFFF = true) : exec (.maddi c w) s =
    .next (settle (mPut s c (wrG (getM s (mPid c)) (fA w)
      (rdG (getM s (mPid c)) (fB w) + BitVec.ofInt 64 (sfld w 31 0))))) :=
  next_issueM_go h (goReg_eq_mPut ..)

theorem exec_madd (h : mIssue s c w 0x0A 0x00FFF00000000000 = true) : exec (.madd c w) s =
    .next (settle (mPut s c (wrG (getM s (mPid c)) (fA w)
      (rdG (getM s (mPid c)) (fB w) + rdG (getM s (mPid c)) (fC w))))) :=
  next_issueM_go h (goReg_eq_mPut ..)

theorem exec_msub (h : mIssue s c w 0x0B 0x00FFF00000000000 = true) : exec (.msub c w) s =
    .next (settle (mPut s c (wrG (getM s (mPid c)) (fA w)
      (rdG (getM s (mPid c)) (fB w) - rdG (getM s (mPid c)) (fC w))))) :=
  next_issueM_go h (goReg_eq_mPut ..)

theorem exec_mshli (h : mIssue s c w 0x0C 0x00FF00000000003F = true) : exec (.mshli c w) s =
    .next (settle (mPut s c (wrG (getM s (mPid c)) (fA w) (rdG (getM s (mPid c)) (fB w) <<< fld w 5 0)))) :=
  next_issueM_go h (goReg_eq_mPut ..)

/-- The core copy of the flags, cleared in the same step if CLR. -/
theorem exec_mflags_core (h : mIssue s c w 0x1A 0x00F0000000000307 = true) (ht : bit w 8 = false) :
    exec (.mflags c w) s = .next (settle (mPut s c
      (wrG (if bit w 9 then { getM s (mPid c) with flags := 0 } else getM s (mPid c)) (fA w)
        ((getM s (mPid c)).flags.setWidth 64)))) :=
  next_issueM_go h (by simp [ht, goReg_eq_mPut])

/-- A tile's copy, once no wave is under way to the tile. -/
theorem exec_mflags_tile (h : mIssue s c w 0x1A 0x00F0000000000307 = true) (ht : bit w 8 = true) (hclr : bit w 9 = false)
    (hw : waveOnTile (getM s (mPid c)) (fld w 2 0) = false) :
    exec (.mflags c w) s = .next (settle (mPut s c (wrG (getM s (mPid c)) (fA w)
      ((getTile (getM s (mPid c)) (fld w 2 0)).flags.setWidth 64)))) :=
  next_issueM_go h (by simp [ht, hclr, hw, goReg_eq_mPut])

/-! ### Branches and loops (R76, R77) -/

theorem exec_mbr {taken : Bool} (h : mIssue s c w 0x10 0x00FF0E00000FFFFF = true)
    (hc : condHolds (fld w 43 41) (rdG (getM s (mPid c)) (fA w)) (rdG (getM s (mPid c)) (fB w)) = some taken) :
    exec (.mbr c w) s = .next (settle (jump s (mPid c) taken
      (branchTo (getCore s (mPid c)).pc w) ((getCore s (mPid c)).pc + 8))) :=
  next_issueM_go h (by rw [hc]; rfl)

theorem exec_mloop (h : mIssue s c w 0x11 0x00F00000000FFFFF = true) :
    exec (.mloop c w) s = .next (settle (jump
      (setM s (mPid c) (wrG (getM s (mPid c)) (fA w) (rdG (getM s (mPid c)) (fA w) - 1))) (mPid c)
      (decide (rdG (getM s (mPid c)) (fA w) - 1 ≠ 0))
      (branchTo (getCore s (mPid c)).pc w) ((getCore s (mPid c)).pc + 8))) :=
  next_issueM_go h (by simp only [jump, decide_eq_true_eq])

/-! ### Fences, signals, waits and the end of a kernel (R83, R85) -/

theorem exec_mfence (h : mIssue s c w 0x03 0 = true) (hf : fenced s (mPid c) = true)
    (hr : (getM s (mPid c)).refused = false) : exec (.mfence c w) s = .next (settle (mStep s c)) :=
  next_issueM_go h (mFence_of_clear _ hf hr)

theorem exec_mfence_outstanding (h : mIssue s c w 0x03 0 = true) (hf : fenced s (mPid c) = false) :
    exec (.mfence c w) s = .next (settle s) :=
  next_issueM_wait h (mFence_of_outstanding _ hf)

theorem exec_mfence_refused (h : mIssue s c w 0x03 0 = true) (hf : fenced s (mPid c) = true)
    (hr : (getM s (mPid c)).refused = true) :
    exec (.mfence c w) s = .next (settle (coreException s (mPid c) 0x09)) :=
  next_issueM_exc h (mFence_of_refused _ hf hr)

theorem exec_msig (h : mIssue s c w 0x18 0x1F = true) (hf : fenced s (mPid c) = true)
    (hr : (getM s (mPid c)).refused = false) :
    exec (.msig c w) s = .next (settle (sendSignal (mStep s c) (mPid c) (fld w 4 0))) :=
  next_issueM_go h (mFence_of_clear _ hf hr)

theorem exec_mhalt (h : mIssue s c w 0x01 1 = true) (hf : fenced s (mPid c) = true)
    (hr : (getM s (mPid c)).refused = false) (hw : (getM s (mPid c)).waves = []) :
    exec (.mhalt c w) s = .next (settle (kernelEnd (mStep s c) (mPid c) (bit w 0))) :=
  next_issueM_go h (by rw [mFence_of_clear _ hf hr, hw]; rfl)

section Waits

variable (h : mIssue s c w 0x19 0x00F000000000011F = true)
include h

theorem exec_mwait_counter_reached (ht : bit w 8 = false)
    (hd : waitDone (coreCounter s (mPid c) (fld w 4 0)) ((rdG (getM s (mPid c)) (fA w)).setWidth 16) = true) :
    exec (.mwait c w) s = .next (settle (mStep s c)) :=
  next_issueM_go h ((if_neg (ne_true_of_eq_false ht)).trans (if_pos hd))

theorem exec_mwait_counter_behind (ht : bit w 8 = false)
    (hd : waitDone (coreCounter s (mPid c) (fld w 4 0)) ((rdG (getM s (mPid c)) (fA w)).setWidth 16) = false) :
    exec (.mwait c w) s = .next (settle (setCore s (mPid c) { getCore s (mPid c) with
      wait := .counter (BitVec.ofNat 5 (fld w 4 0)) ((rdG (getM s (mPid c)) (fA w)).setWidth 16) })) :=
  next_issueM_go h ((if_neg (ne_true_of_eq_false ht)).trans (if_neg (ne_true_of_eq_false hd)))

theorem exec_mwait_tile (ht : bit w 8 = true) (hz : fld w 4 3 = 0) :
    exec (.mwait c w) s = .next (settle (
      if waitDone (tileCount (getM s (mPid c)) (fld w 2 0)) ((rdG (getM s (mPid c)) (fA w)).setWidth 16) then mStep s c
      else setCore s (mPid c) { getCore s (mPid c) with
        wait := .tile (BitVec.ofNat 3 (fld w 2 0)) ((rdG (getM s (mPid c)) (fA w)).setWidth 16) })) :=
  next_issueM_go h (by
    rw [if_pos ht, if_neg (not_not_intro hz)]
    exact (apply_ite MEffect.go _ _ _).symm)

end Waits

/-! ### Declared points (R90) -/

theorem exec_msafe_no_point (h : mIssue s c w 0x02 0xFFF = true) (hp : (getCore s (mPid c)).point = .none) :
    exec (.msafe c w) s = .next (settle (mStep s c)) :=
  next_issueM_go h (if_pos hp)

theorem exec_msafe_point (h : mIssue s c w 0x02 0xFFF = true) (hp : (getCore s (mPid c)).point ≠ .none)
    (hf : fenced s (mPid c) = true) (hw : (getM s (mPid c)).waves = []) :
    exec (.msafe c w) s = .next (settle (takePoint
      (updCore (mStep s c) (mPid c) fun k => { k with live := BitVec.ofNat 12 (fld w 11 0) }) (mPid c) true)) :=
  next_issueM_go h (by rw [if_neg hp, hf, hw]; rfl)

/-! ### The statement -/

/-- Settles O1: each instruction that issues has the effect of its body, which the conditions of its clause choose. -/
theorem mRegistersBranchesAndFences : Obligations.MRegistersBranchesAndFences :=
  ⟨fun _ _ _ => ⟨exec_mnop, exec_mli, exec_maddi, exec_madd, exec_msub, exec_mshli, exec_mflags_core, exec_mflags_tile⟩,
    fun _ _ _ => ⟨fun _ => exec_mbr, exec_mloop⟩,
    fun _ _ _ => ⟨exec_mfence, exec_mfence_outstanding, exec_mfence_refused, exec_msig, exec_mwait_counter_reached,
      exec_mwait_counter_behind, exec_mwait_tile, exec_mhalt, exec_msafe_no_point, exec_msafe_point⟩⟩

end Sys2Proof.Machine
end

section
/-!
PROOFS. The V-core's scalar and mask results, branches, fences, waits and points (R76, R83, R102, R103, R121, R125): O5.
-/
namespace Sys2Proof.Machine

variable {s t : State} {c : Fin 96} {w : Dword} {opc : Nat} {mask : Dword} {regs : List Nat}
  {body : State → Nat → VCore → VEffect}

/-! ### A command whose instruction issues: the state it answers, from what the instruction's body does -/

theorem next_issueV_go (h : vIssue s c w opc mask regs = true) (hb : body s (vPid c) (getV s (vPid c)) = .go t) :
    (.next (settle (issueV s c w opc mask regs body)) : Outcome) = .next (settle t) := by
  rw [issueV_ready body h, hb]

theorem next_issueV_wait (h : vIssue s c w opc mask regs = true) (hb : body s (vPid c) (getV s (vPid c)) = .wait) :
    (.next (settle (issueV s c w opc mask regs body)) : Outcome) = .next (settle s) := by
  rw [issueV_ready body h, hb]

/-! ### Scalar results and flags (R102) -/

theorem goScalar_eq_vPut (s : State) (c : Fin 96) (v : VCore) (r : Nat) (x : Dword) :
    goScalar s (vPid c) v r x = .go (vPut s c (wrA v r x)) := rfl

theorem exec_vnop (h : vIssue s c w 0x00 0 [] = true) : exec (.vnop c w) s = .next (settle (vStep s c)) :=
  next_issueV_go h rfl

theorem exec_vli (h : vIssue s c w 0x08 (mkDa ||| 0xFFFFFFFF) [128 + vD w] = true) : exec (.vli c w) s =
    .next (settle (vPut s c (wrA (getV s (vPid c)) (vD w) (BitVec.ofInt 64 (sfld w 31 0))))) :=
  next_issueV_go h (goScalar_eq_vPut ..)

theorem exec_vaddi (h : vIssue s c w 0x09 (mkDa ||| mkAa ||| 0xFFFFFFFF) [128 + vD w, 128 + vA w] = true) :
    exec (.vaddi c w) s = .next (settle (vPut s c (wrA (getV s (vPid c)) (vD w)
      (rdA (getV s (vPid c)) (vA w) + BitVec.ofInt 64 (sfld w 31 0))))) :=
  next_issueV_go h (goScalar_eq_vPut ..)

theorem exec_vadds (h : vIssue s c w 0x0A (mkDa ||| mkAa ||| mkBa) [128 + vD w, 128 + vA w, 128 + vB w] = true) :
    exec (.vadds c w) s = .next (settle (vPut s c (wrA (getV s (vPid c)) (vD w)
      (rdA (getV s (vPid c)) (vA w) + rdA (getV s (vPid c)) (vB w))))) :=
  next_issueV_go h (goScalar_eq_vPut ..)

theorem exec_vsubs (h : vIssue s c w 0x0B (mkDa ||| mkAa ||| mkBa) [128 + vD w, 128 + vA w, 128 + vB w] = true) :
    exec (.vsubs c w) s = .next (settle (vPut s c (wrA (getV s (vPid c)) (vD w)
      (rdA (getV s (vPid c)) (vA w) - rdA (getV s (vPid c)) (vB w))))) :=
  next_issueV_go h (goScalar_eq_vPut ..)

theorem exec_vmuls (h : vIssue s c w 0x0C (mkDa ||| mkAa ||| mkBa) [128 + vD w, 128 + vA w, 128 + vB w] = true) :
    exec (.vmuls c w) s = .next (settle (vPut s c (wrA (getV s (vPid c)) (vD w)
      (rdA (getV s (vPid c)) (vA w) * rdA (getV s (vPid c)) (vB w))))) :=
  next_issueV_go h (goScalar_eq_vPut ..)

theorem exec_vshli (h : vIssue s c w 0x0D (mkDa ||| mkAa ||| 0x3F) [128 + vD w, 128 + vA w] = true) :
    exec (.vshli c w) s = .next (settle (vPut s c (wrA (getV s (vPid c)) (vD w)
      (rdA (getV s (vPid c)) (vA w) <<< fld w 5 0)))) :=
  next_issueV_go h (goScalar_eq_vPut ..)

/-- The core copy of the flags, cleared in the same step if CLR. -/
theorem exec_vflags (h : vIssue s c w 0x1A (mkDa ||| 0x200) [128 + vD w] = true) :
    exec (.vflags c w) s = .next (settle (vPut s c
      (wrA (if bit w 9 then { getV s (vPid c) with flags := 0 } else getV s (vPid c)) (vD w)
        ((getV s (vPid c)).flags.setWidth 64)))) :=
  next_issueV_go h (goScalar_eq_vPut ..)

/-! ### Masks and moves (R103) -/

theorem exec_kcnt (h : vIssue s c w 0x17 (mkDa ||| mkAk) [128 + vD w, 64 + vA w] = true) :
    exec (.kcnt c w) s = .next (settle (vPut s c (wrA (getV s (vPid c)) (vD w)
      (BitVec.ofNat 64 (popcount (rdK (getV s (vPid c)) (vA w))))))) :=
  next_issueV_go h (goScalar_eq_vPut ..)

theorem exec_vext (h : vIssue s c w 0x1D (mkDa ||| mkAv ||| 0x1FF) [128 + vD w, vA w] = true) :
    exec (.vext c w) s = .next (settle (vPut s c (wrA (getV s (vPid c)) (vD w)
      ((rdV (getV s (vPid c)) (vA w) (fld w 8 0)).setWidth 64)))) :=
  next_issueV_go h (goScalar_eq_vPut ..)

/-- The mask that KOP computes, for the values 0 to 4 of its OP field. -/
def kopMask (op : Nat) (a b : BitVec 512) : BitVec 512 :=
  if op = 0 then a &&& b
  else if op = 1 then a ||| b
  else if op = 2 then a ^^^ b
  else if op = 3 then a &&& ~~~b
  else ~~~a

theorem exec_kop (h : vIssue s c w 0x1E (mkDk ||| mkAk ||| mkBk ||| 7) [64 + vD w, 64 + vA w, 64 + vB w] = true)
    (hop : fld w 2 0 ≤ 4) :
    exec (.kop c w) s = .next (settle (vPut s c (wrK (getV s (vPid c)) (vD w)
      (kopMask (fld w 2 0) (rdK (getV s (vPid c)) (vA w)) (rdK (getV s (vPid c)) (vB w)))))) :=
  next_issueV_go h (by
    generalize fld w 2 0 = op at hop
    exact match op, hop with
      | 0, _ | 1, _ | 2, _ | 3, _ | 4, _ => rfl)

theorem exec_kset (h : vIssue s c w 0x1F (mkDk ||| mkAa) [64 + vD w, 128 + vA w] = true) :
    exec (.kset c w) s = .next (settle (vPut s c (wrK (getV s (vPid c)) (vD w)
      (BitVec.ofNat 512 (2 ^ min (rdA (getV s (vPid c)) (vA w)).toNat 512 - 1))))) :=
  next_issueV_go h rfl

/-! ### Branches and loops (R76, R102) -/

theorem exec_vbr {taken : Bool} (h : vIssue s c w 0x10 (mkAa ||| mkBa ||| 0xEFFFFF) [128 + vA w, 128 + vB w] = true)
    (hc : condHolds (fld w 23 21) (rdA (getV s (vPid c)) (vA w)) (rdA (getV s (vPid c)) (vB w)) = some taken) :
    exec (.vbr c w) s = .next (settle (jump s (vPid c) taken
      (branchTo (getCore s (vPid c)).pc w) ((getCore s (vPid c)).pc + 8))) :=
  next_issueV_go h (by rw [hc]; rfl)

theorem exec_vloop (h : vIssue s c w 0x11 (mkDa ||| 0xFFFFF) [128 + vD w] = true) :
    exec (.vloop c w) s = .next (settle (jump
      (setV s (vPid c) (wrA (getV s (vPid c)) (vD w) (rdA (getV s (vPid c)) (vD w) - 1))) (vPid c)
      (decide (rdA (getV s (vPid c)) (vD w) - 1 ≠ 0))
      (branchTo (getCore s (vPid c)).pc w) ((getCore s (vPid c)).pc + 8))) :=
  next_issueV_go h (by simp only [jump, decide_eq_true_eq])

/-! ### Fences, signals, waits and the end of a kernel (R83, R102, R121) -/

theorem exec_vfence (h : vIssue s c w 0x03 0 [] = true) :
    exec (.vfence c w) s = .next (settle (if fenced s (vPid c) then vStep s c else s)) := by
  cases hf : fenced s (vPid c) with
  | true => exact next_issueV_go h (if_pos hf)
  | false => exact next_issueV_wait h (if_neg (ne_true_of_eq_false hf))

theorem exec_vsig (h : vIssue s c w 0x18 0x1F [] = true) (hf : fenced s (vPid c) = true) :
    exec (.vsig c w) s = .next (settle (sendSignal (vStep s c) (vPid c) (fld w 4 0))) :=
  next_issueV_go h (if_pos hf)

/-- The core goes on if the counter has reached the value, and waits for it otherwise. -/
theorem exec_vwait (h : vIssue s c w 0x19 (mkAa ||| 0x1F) [128 + vA w] = true) :
    exec (.vwait c w) s = .next (settle (
      if waitDone (coreCounter s (vPid c) (fld w 4 0)) ((rdA (getV s (vPid c)) (vA w)).setWidth 16) then vStep s c
      else setCore s (vPid c) { getCore s (vPid c) with
        wait := .counter (BitVec.ofNat 5 (fld w 4 0)) ((rdA (getV s (vPid c)) (vA w)).setWidth 16) })) :=
  next_issueV_go h (apply_ite VEffect.go _ _ _).symm

theorem exec_vhalt (h : vIssue s c w 0x01 1 [] = true) (hf : fenced s (vPid c) = true)
    (hr : (getV s (vPid c)).results = []) :
    exec (.vhalt c w) s = .next (settle (kernelEnd (vStep s c) (vPid c) (bit w 0))) :=
  next_issueV_go h (by rw [hf, hr]; rfl)

/-! ### Declared points (R125) -/

theorem exec_vsafe_no_point (h : vIssue s c w 0x02 0xFFF [] = true) (hp : (getCore s (vPid c)).point = .none) :
    exec (.vsafe c w) s = .next (settle (vStep s c)) :=
  next_issueV_go h (if_pos hp)

theorem exec_vsafe_point (h : vIssue s c w 0x02 0xFFF [] = true) (hp : (getCore s (vPid c)).point ≠ .none)
    (hf : fenced s (vPid c) = true) (hr : (getV s (vPid c)).results = []) :
    exec (.vsafe c w) s = .next (settle (takePoint
      (updCore (vStep s c) (vPid c) fun k => { k with live := BitVec.ofNat 12 (fld w 11 0) }) (vPid c) true)) :=
  next_issueV_go h (by rw [if_neg hp, hf, hr]; rfl)

/-! ### The statement -/

/-- Settles O5: each instruction that issues has the effect of its body, which the conditions of its clause choose. -/
theorem vScalarsAndControl : Obligations.VScalarsAndControl :=
  ⟨fun _ _ _ => ⟨exec_vnop, exec_vli, exec_vaddi, exec_vadds, exec_vsubs, exec_vmuls, exec_vshli, exec_kcnt, exec_vflags,
      exec_vext, exec_kop, exec_kset⟩,
    fun _ _ _ => ⟨fun _ => exec_vbr, exec_vloop, exec_vfence, exec_vsig, exec_vwait, exec_vhalt, exec_vsafe_no_point,
      exec_vsafe_point⟩⟩

end Sys2Proof.Machine
end

section
/-!
PROOFS. What every command answers and what every step leaves (R188, R206, R373, R377): O49, O50, O51, O60.
-/
namespace Sys2Proof.Machine

/-! ### What a command answers -/

/-- Every command ends in `settle`, but the five that take main power away (R378, R415), which leave a module off as it is. -/
theorem exec_settles_or_powersOff (c : Instr) (s : State) :
    (∃ t, exec c s = .next (settle t)) ∨ exec c s = .next (if s.life.powered then powerOff s else s) := by
  cases c
  case pwrEnFall | powerLoss | inputOvervoltage | inputOvercurrent | surpriseRemoval => exact .inr rfl
  case floorplanCommit =>
    rw [exec, execFloorplanCommit]
    split
    · exact .inl ⟨_, rfl⟩
    · split <;> exact .inl ⟨_, rfl⟩
  case waveSumsReachTile =>
    simp only [exec, execWaveSumsReachTile]
    split <;> exact .inl ⟨_, rfl⟩
  case resultInRegister =>
    simp only [exec, execResultInRegister]
    split <;> exact .inl ⟨_, rfl⟩
  case transferComplete =>
    rw [exec, execTransferComplete]
    dsimp only
    split
    · exact .inl ⟨_, rfl⟩
    · generalize (if s.gov.domains = [] then (s, true) else meetDomains s _) = m
      split
      · exact .inl ⟨_, rfl⟩
      · split <;> exact .inl ⟨_, rfl⟩
  all_goals exact .inl ⟨_, rfl⟩

theorem exec_answers (c : Instr) (s : State) : ∃ t, exec c s = .next t :=
  (exec_settles_or_powersOff c s).elim (fun ⟨_, h⟩ => ⟨_, h⟩) fun h => ⟨_, h⟩

theorem step_cons {c : Instr} {rest : List Instr} {s : State} (h : s.pending = c :: rest) :
    step s = exec c { s with pending := rest } := by rw [step, h]

theorem step_nil {s : State} (h : s.pending = []) : step s = .next s := by rw [step, h]

theorem step_answers (s : State) : ∃ t, step s = .next t := by
  cases h : s.pending with
  | nil => exact ⟨s, step_nil h⟩
  | cons c rest => exact (step_cons h).symm ▸ exec_answers c _

/-! ### What `Followed` reads -/

/-- What `Followed` reads of a state. -/
structure FollowView where
  faults : List FaultReq
  ctxs : Tbl (Option Context)
  objs : Tbl (Option MemObj)
  host : HostLink
  life : Life
  links : Tbl Link
  hostReads : List HostRead
  posts : List (BitVec 16 × Post)

def followView (s : State) : FollowView :=
  ⟨s.faults, s.ctxs, s.objs, s.host, s.life, s.links, s.hostReads, s.posts⟩

theorem startZero_followView (s : State) (p : Nat) (x : Part) : followView (startZero s p x) = followView s :=
  List.foldlRecOn (motive := fun t => followView t = followView s) _ _ rfl fun _ ht _ _ => ht

theorem refreshPart_followView (s : State) (p : Nat) : followView (refreshPart s p) = followView s := by
  simp only [refreshPart]
  split <;> exact startZero_followView ..

theorem refreshParts_followView (s : State) : followView (refreshParts s) = followView s :=
  List.foldlRecOn (motive := fun t => followView t = followView s) _ _ rfl fun t ht p _ => (refreshPart_followView t p).trans ht

/-! ### `settle` carries out what follows -/

/-- FABRIC_SETTLED is due: powered and not settled, every enabled link in service or failed (R373). -/
def settledDue (s : State) : Bool :=
  s.life.powered && !s.life.settled && (List.range 64).all fun n => !(getLink s n).enable || (getLink s n).up || (getLink s n).st == 9

/-- RM_OK is due: PREPARE accepted, FAULT_REQ# not low, and nothing of the host outstanding (R377, R427). -/
def removeDue (s : State) : Bool :=
  s.life.preparing && !s.life.removeReady && !s.life.faultReq && s.hostReads.isEmpty && s.posts.isEmpty

theorem followed_iff (s : State) : Followed s = true ↔
    s.faults = [] ∧ raBody s = s.host.raLast ∧ settledDue s = false ∧ removeDue s = false := by
  simp only [Followed, settledDue, removeDue, Bool.and_eq_true, List.isEmpty_iff, beq_iff_eq, Bool.not_eq_true', and_assoc]

theorem latchSettled_not_due (s : State) : settledDue (latchSettled s) = false := by
  unfold latchSettled
  split
  next h => cases hp : s.life.powered <;> simp_all [settledDue]
  next h =>
    split
    · simp [settledDue]
    next hl => rw [settledDue, Bool.eq_false_iff.mpr hl, Bool.and_false]

theorem latchRemove_not_due (s : State) : removeDue (latchRemove s) = false := by
  unfold latchRemove
  split
  · simp [removeDue, emit]
  next h => exact Bool.eq_false_iff.mpr h

theorem latchRemove_keeps_settled (s : State) : settledDue (latchRemove s) = settledDue s := by
  unfold latchRemove
  split <;> rfl

theorem latchSettled_faults (s : State) : (latchSettled s).faults = s.faults := by
  unfold latchSettled
  split
  · rfl
  · split <;> rfl

theorem latchRemove_faults (s : State) : (latchRemove s).faults = s.faults := by
  unfold latchRemove
  split <;> rfl

theorem refreshRa_current (s : State) : raBody (refreshRa s) = (refreshRa s).host.raLast := by
  simp only [refreshRa]
  split
  next h => exact h
  · rfl

theorem refreshRa_keeps (s : State) : (refreshRa s).faults = s.faults ∧ settledDue (refreshRa s) = settledDue s ∧
    removeDue (refreshRa s) = removeDue s := by
  simp only [refreshRa]
  split <;> exact ⟨rfl, rfl, rfl⟩

/-- The causes and the two latches of a state are those of a state with the same view. -/
theorem due_congr {s t : State} (h : followView t = followView s) :
    t.faults = s.faults ∧ settledDue t = settledDue s ∧ removeDue t = removeDue s := by
  simp only [followView, FollowView.mk.injEq] at h
  obtain ⟨hf, -, -, -, hlife, hlinks, hreads, hposts⟩ := h
  refine ⟨hf, ?_, ?_⟩
  · simp only [settledDue, getLink, hlife, hlinks]
  · simp only [removeDue, hlife, hreads, hposts]

/-- The last four operations of `settle` leave nothing due, whatever came before. -/
theorem followed_refresh (s : State) : Followed (refreshRa (refreshParts (latchRemove (latchSettled (clearFaults s))))) = true := by
  obtain ⟨parts_faults, parts_settled, parts_remove⟩ := due_congr (refreshParts_followView (latchRemove (latchSettled (clearFaults s))))
  obtain ⟨ra_faults, ra_settled, ra_remove⟩ := refreshRa_keeps (refreshParts (latchRemove (latchSettled (clearFaults s))))
  rw [followed_iff]
  refine ⟨?_, refreshRa_current _, ?_, ?_⟩
  · rw [ra_faults, parts_faults, latchRemove_faults, latchSettled_faults]; rfl
  · rw [ra_settled, parts_settled, latchRemove_keeps_settled, latchSettled_not_due]
  · rw [ra_remove, parts_remove, latchRemove_not_due]

theorem followed_settle (s : State) : Followed (settle s) = true := by
  unfold settle
  exact followed_refresh _

theorem followed_powerOff (s : State) : Followed (powerOff s) = true := by
  have off : (powerOff s).life.powered = false := rfl
  have no_prepare : (powerOff s).life.preparing = false := rfl
  refine (followed_iff _).mpr ⟨rfl, (by decide : raBody State.reset = State.reset.host.raLast), ?_, ?_⟩
  · simp only [settledDue, off, Bool.false_and]
  · simp only [removeDue, no_prepare, Bool.false_and]

/-- `Followed` does not read the queue. -/
theorem followed_pending (s : State) (l : List Instr) : Followed { s with pending := l } = Followed s := rfl

/-! ### The statements -/

/-- Settles O49. -/
theorem aStepRunsTheFrontCommand : Obligations.AStepRunsTheFrontCommand :=
  ⟨fun _ _ _ => step_cons, fun _ => step_nil⟩

/-- Settles O60: the meaning of every command is written as a next state, which the split over the commands shows. -/
theorem everyCommandAnswersANextState : Obligations.EveryCommandAnswersANextState :=
  ⟨exec_answers, step_answers⟩

/-- Settles O50: a command ends in `settle`, which carries out what follows; the loss of main power leaves the module at reset, and where
nothing happens the invariant stays. -/
theorem everyStepLeavesAllFollowed : Obligations.EveryStepLeavesAllFollowed := by
  intro s t followed hstep
  cases hq : s.pending with
  | nil =>
    obtain rfl : s = t := Host.Outcome.next.inj ((step_nil hq).symm.trans hstep)
    exact followed
  | cons c rest =>
    rw [step_cons hq] at hstep
    rcases exec_settles_or_powersOff c { s with pending := rest } with ⟨u, hu⟩ | hu
    · obtain rfl : settle u = t := Host.Outcome.next.inj (hu.symm.trans hstep)
      exact followed_settle u
    · obtain rfl := Host.Outcome.next.inj (hu.symm.trans hstep)
      split
      · exact followed_powerOff _
      · exact followed

/-- Settles O51: the reset state is a literal. -/
theorem resetIsAtRest : Obligations.ResetIsAtRest :=
  ⟨rfl, rfl, rfl, rfl, rfl, rfl, rfl, fun _ => rfl, fun p r => by
    show rdG (Tbl.get {} [] p) r = 0
    simp [rdG, Tbl.get]⟩

end Sys2Proof.Machine
end

section
/-!
PROOFS. The S-core's register results, loads, stores, branches, control instructions and control registers (R113 to R121, R389): O8, O9, O10.
-/
namespace Sys2Proof.Machine

variable {s : State} {c : Fin 64} {w : Word} {opc : Nat} {mask : Word} {regs : List Nat} {n : Nat} {k : SPlace}
  {body : State → Nat → SCore → SEffect}

/-! ### A command whose instruction issues: the state it answers, from what the instruction's body does -/

theorem next_issueS_go {t : State} (h : sIssue s c w opc mask regs = true) (hb : body s (sPid c) (getS s (sPid c)) = .go t) :
    (.next (settle (issueS s c w opc mask regs body)) : Outcome) = .next (settle t) := by
  rw [issueS_ready body h, hb]

theorem next_issueS_wait (h : sIssue s c w opc mask regs = true) (hb : body s (sPid c) (getS s (sPid c)) = .wait) :
    (.next (settle (issueS s c w opc mask regs body)) : Outcome) = .next (settle s) := by
  rw [issueS_ready body h, hb]

theorem next_issueS_exc {code : Byte} {a : Dword} (h : sIssue s c w opc mask regs = true) (hl : loadsOut s (sPid c) = false)
    (hb : body s (sPid c) (getS s (sPid c)) = .exc code a) :
    (.next (settle (issueS s c w opc mask regs body)) : Outcome) = .next (settle (sException s (sPid c) code a)) := by
  rw [issueS_ready body h, hb]
  simp only [hl, Bool.false_eq_true, if_false]

/-! ### Register results (Table 5.9) -/

theorem goX_eq_sPut (s : State) (c : Fin 64) (x : SCore) (r : Nat) (v : Dword) :
    goX s (sPid c) x r v = .go (sPut s c (wrX x r v)) := rfl

theorem exec_alu {v : Dword} (h : sIssue s c w 0x00 mkR [sRD w, sRA w, sRB w] = true)
    (hv : aluOp (sFN w) (rdX (getS s (sPid c)) (sRA w)) (rdX (getS s (sPid c)) (sRB w)) = some v) :
    exec (.alu c w) s = .next (settle (sPut s c (wrX (getS s (sPid c)) (sRD w) v))) :=
  next_issueS_go h (by rw [hv]; exact goX_eq_sPut ..)

theorem exec_addi (h : sIssue s c w 0x01 mkI [sRD w, sRA w] = true) : exec (.addi c w) s =
    .next (settle (sPut s c (wrX (getS s (sPid c)) (sRD w) (rdX (getS s (sPid c)) (sRA w) + sImm w)))) :=
  next_issueS_go h (goX_eq_sPut ..)

theorem exec_andi (h : sIssue s c w 0x02 mkI [sRD w, sRA w] = true) : exec (.andi c w) s =
    .next (settle (sPut s c (wrX (getS s (sPid c)) (sRD w) (rdX (getS s (sPid c)) (sRA w) &&& sImmU w)))) :=
  next_issueS_go h (goX_eq_sPut ..)

theorem exec_ori (h : sIssue s c w 0x03 mkI [sRD w, sRA w] = true) : exec (.ori c w) s =
    .next (settle (sPut s c (wrX (getS s (sPid c)) (sRD w) (rdX (getS s (sPid c)) (sRA w) ||| sImmU w)))) :=
  next_issueS_go h (goX_eq_sPut ..)

theorem exec_xori (h : sIssue s c w 0x04 mkI [sRD w, sRA w] = true) : exec (.xori c w) s =
    .next (settle (sPut s c (wrX (getS s (sPid c)) (sRD w) (rdX (getS s (sPid c)) (sRA w) ^^^ sImmU w)))) :=
  next_issueS_go h (goX_eq_sPut ..)

theorem exec_shli (h : sIssue s c w 0x05 (mkRD ||| mkRA ||| mkImm6) [sRD w, sRA w] = true) : exec (.shli c w) s =
    .next (settle (sPut s c (wrX (getS s (sPid c)) (sRD w) (rdX (getS s (sPid c)) (sRA w) <<< fld w 15 10)))) :=
  next_issueS_go h (goX_eq_sPut ..)

theorem exec_shri (h : sIssue s c w 0x06 (mkRD ||| mkRA ||| mkImm6) [sRD w, sRA w] = true) : exec (.shri c w) s =
    .next (settle (sPut s c (wrX (getS s (sPid c)) (sRD w) (rdX (getS s (sPid c)) (sRA w) >>> fld w 15 10)))) :=
  next_issueS_go h (goX_eq_sPut ..)

theorem exec_sari (h : sIssue s c w 0x07 (mkRD ||| mkRA ||| mkImm6) [sRD w, sRA w] = true) : exec (.sari c w) s =
    .next (settle (sPut s c (wrX (getS s (sPid c)) (sRD w) ((rdX (getS s (sPid c)) (sRA w)).sshiftRight (fld w 15 10))))) :=
  next_issueS_go h (goX_eq_sPut ..)

theorem exec_slti (h : sIssue s c w 0x08 mkI [sRD w, sRA w] = true) : exec (.slti c w) s =
    .next (settle (sPut s c (wrX (getS s (sPid c)) (sRD w) (if (rdX (getS s (sPid c)) (sRA w)).slt (sImm w) then 1 else 0)))) :=
  next_issueS_go h (goX_eq_sPut ..)

theorem exec_lui (h : sIssue s c w 0x09 0x03FFFFFF [sRD w] = true) : exec (.lui c w) s =
    .next (settle (sPut s c (wrX (getS s (sPid c)) (sRD w) (BitVec.ofInt 64 (sfld w 25 5 * 65536))))) :=
  next_issueS_go h (goX_eq_sPut ..)

theorem exec_srdc (h : sIssue s c w 0x33 (mkImm5 ||| mkRD) [sRD w] = true) : exec (.srdc c w) s =
    .next (settle (sPut s c (wrX (getS s (sPid c)) (sRD w) ((coreCounter s (sPid c) (fld w 14 10)).setWidth 64)))) :=
  next_issueS_go h (goX_eq_sPut ..)

/-! ### Loads, stores and AMOs (R115, R117, R119) -/

/-- Nothing outstanding, nothing to wait for (R72). -/
theorem no_wait_of_no_xfers {x : Core} (hx : x.xfers = []) (a : Nat) (write : Bool) (hn : n ≤ 65536) :
    (sliceHazard x a n write || decide (65536 < outstanding x + n)) = false := by
  simp [sliceHazard, outstanding, hx, hn]

theorem sLoad_of_access {signed : Bool} (h : sAccess s c w n .read k = true) (hn : n ≤ 65536) :
    sLoad n signed w s (sPid c) (getS s (sPid c)) = .go (loaded s c w n signed k) := by
  simp only [sAccess, sAddr, Bool.and_eq_true, beq_iff_eq] at h
  obtain ⟨⟨⟨aligned, place⟩, no_xfers⟩, ok⟩ := h
  simp only [sLoad, place, if_neg (not_not_intro aligned)]
  cases k with
  | lm o =>
    have clean : poisoned (getS s (sPid c)).lmPoison 8 o n = false := by simpa using ok
    simp only [clean, Bool.false_eq_true, if_false]
    rfl
  | slice a =>
    obtain ⟨range, clean⟩ : sliceRange (coreMap s (sPid c)) a n = true ∧ (sliceRead s (coreMap s (sPid c)) a n).2 = false := by
      simpa using ok
    simp only [range, clean, no_wait_of_no_xfers no_xfers a false hn, Bool.not_true, Bool.false_eq_true, if_false]
    rfl
  | denied => cases ok

theorem sStore_of_access (h : sAccess s c w n .write k = true) (hn : n ≤ 65536) :
    sStore n w s (sPid c) (getS s (sPid c)) = .go (stored s c w n k) := by
  simp only [sAccess, sAddr, Bool.and_eq_true, beq_iff_eq] at h
  obtain ⟨⟨⟨aligned, place⟩, no_xfers⟩, ok⟩ := h
  simp only [sStore, place, if_neg (not_not_intro aligned)]
  cases k with
  | lm o => rfl
  | slice a =>
    have range : sliceRange (coreMap s (sPid c)) a n = true := by simpa using ok
    simp only [range, no_wait_of_no_xfers no_xfers a true hn, Bool.not_true, Bool.false_eq_true, if_false]
    rfl
  | denied => cases ok

theorem next_load {signed : Bool} (hn : n ≤ 65536) (h : sIssue s c w opc mask regs = true) (ha : sAccess s c w n .read k = true) :
    (.next (settle (issueS s c w opc mask regs (sLoad n signed w))) : Outcome) = .next (settle (loaded s c w n signed k)) :=
  next_issueS_go h (sLoad_of_access ha hn)

theorem next_store (hn : n ≤ 65536) (h : sIssue s c w opc mask regs = true) (ha : sAccess s c w n .write k = true) :
    (.next (settle (issueS s c w opc mask regs (sStore n w))) : Outcome) = .next (settle (stored s c w n k)) :=
  next_issueS_go h (sStore_of_access ha hn)

section amo
variable {o a : Nat} (h : sIssue s c w 0x1C mkR [sRD w, sRA w, sRB w] = true) (hf : sFN w ≤ 5) (ha : (rdX (getS s (sPid c)) (sRA w)).toNat % 8 = 0)
include h hf ha

theorem exec_amo_lm (hp : sPlace (getS s (sPid c)).pl .write (rdX (getS s (sPid c)) (sRA w)).toNat 8 = .lm o)
    (hc : poisoned (getS s (sPid c)).lmPoison 8 o 8 = false) :
    exec (.amo c w) s = .next (settle (sPut s c (wrX { getS s (sPid c) with
      lm := memWrite (getS s (sPid c)).lm o (leBytes 8 (amoOp (sFN w) (BitVec.ofNat 64 (leNat (memRead (getS s (sPid c)).lm o 8)))
        (rdX (getS s (sPid c)) (sRB w)) (rdX (getS s (sPid c)) (sRD w))).toNat) }
      (sRD w) (BitVec.ofNat 64 (leNat (memRead (getS s (sPid c)).lm o 8)))))) :=
  next_issueS_go h (by
    simp only [sAmo, hp, hc, if_neg (Nat.not_lt.mpr hf), if_neg (not_not_intro ha), Bool.false_eq_true, if_false]
    rfl)

theorem exec_amo_slice (hp : sPlace (getS s (sPid c)).pl .write (rdX (getS s (sPid c)) (sRA w)).toNat 8 = .slice a)
    (hr : sliceRange (coreMap s (sPid c)) a 8 = true) (hx : (getCore s (sPid c)).xfers = [])
    (hc : (sliceRead s (coreMap s (sPid c)) a 8).2 = false) :
    exec (.amo c w) s = .next (settle (sNext (addXfer s (sPid c) 8 [] (.amo (BitVec.ofNat 11 (sFN w)) (BitVec.ofNat 5 (sRD w)) a
      (rdX (getS s (sPid c)) (sRB w)) (rdX (getS s (sPid c)) (sRD w)))) (sPid c))) :=
  next_issueS_go h (by
    simp only [sAmo, hp, hr, hc, no_wait_of_no_xfers hx a true (show 8 ≤ 65536 by decide), if_neg (Nat.not_lt.mpr hf),
      if_neg (not_not_intro ha), Bool.not_true, Bool.false_eq_true, if_false])
end amo

/-! ### Branches and jumps (Table 5.9) -/

theorem next_branch {f : Dword → Dword → Bool} (h : sIssue s c w opc mask regs = true) :
    (.next (settle (issueS s c w opc mask regs (sBranch f w))) : Outcome) = .next (settle (jump s (sPid c)
      (f (rdX (getS s (sPid c)) (fld w 4 0)) (rdX (getS s (sPid c)) (fld w 9 5)))
      ((getCore s (sPid c)).pc + BitVec.ofInt 64 (4 * sfld w 25 10)) ((getCore s (sPid c)).pc + 4))) :=
  next_issueS_go h rfl

theorem exec_jal (h : sIssue s c w 0x28 0x03FFFFFF [sRD w] = true) : exec (.jal c w) s = .next (settle (retire
    (setS s (sPid c) (wrX (getS s (sPid c)) (sRD w) ((getCore s (sPid c)).pc + 4))) (sPid c)
    ((getCore s (sPid c)).pc + BitVec.ofInt 64 (4 * sfld w 25 5)))) :=
  next_issueS_go h rfl

theorem exec_jalr (h : sIssue s c w 0x29 mkI [sRD w, sRA w] = true) : exec (.jalr c w) s = .next (settle (retire
    (setS s (sPid c) (wrX (getS s (sPid c)) (sRD w) ((getCore s (sPid c)).pc + 4))) (sPid c) (sAddr s c w &&& ~~~3))) :=
  next_issueS_go h rfl

/-! ### Fences, signals, waits, the end of a kernel and declared points (R118 to R121, R125) -/

theorem exec_sfence (h : sIssue s c w 0x30 0 [] = true) :
    exec (.sfence c w) s = .next (settle (if fenced s (sPid c) then sStep s c else s)) := by
  cases hf : fenced s (sPid c) with
  | true => exact next_issueS_go h (if_pos hf)
  | false => exact next_issueS_wait h (if_neg (ne_true_of_eq_false hf))

theorem exec_ssig (h : sIssue s c w 0x31 mkImm5 [] = true) (hf : fenced s (sPid c) = true) :
    exec (.ssig c w) s = .next (settle (sendSignal (sStep s c) (sPid c) (fld w 14 10))) :=
  next_issueS_go h (if_pos hf)

/-- The core goes on if the counter has reached the value, and waits for it otherwise. -/
theorem exec_swait (h : sIssue s c w 0x32 (mkImm5 ||| mkRA) [sRA w] = true) : exec (.swait c w) s = .next (settle (
    if waitDone (coreCounter s (sPid c) (fld w 14 10)) ((rdX (getS s (sPid c)) (sRA w)).setWidth 16) then sStep s c
    else setCore s (sPid c) { getCore s (sPid c) with
      wait := .counter (BitVec.ofNat 5 (fld w 14 10)) ((rdX (getS s (sPid c)) (sRA w)).setWidth 16) })) :=
  next_issueS_go h (apply_ite SEffect.go _ _ _).symm

theorem exec_ssafe_no_point (h : sIssue s c w 0x34 mkImm3 [] = true)
    (hp : (getCore s (sPid c)).point = .none ∨ (getS s (sPid c)).pl = true) :
    exec (.ssafe c w) s = .next (settle (sStep s c)) :=
  next_issueS_go h (if_pos hp)

theorem exec_ssafe_point (h : sIssue s c w 0x34 mkImm3 [] = true) (hp : (getCore s (sPid c)).point ≠ .none)
    (hl : (getS s (sPid c)).pl = false) (hf : fenced s (sPid c) = true) :
    exec (.ssafe c w) s = .next (settle (takePoint
      (updCore (sStep s c) (sPid c) fun k => { k with live := BitVec.ofNat 12 (fld w 12 10) }) (sPid c) true)) :=
  next_issueS_go h (by rw [if_neg (not_or.mpr ⟨hp, ne_true_of_eq_false hl⟩), hf]; rfl)

theorem exec_shalt (h : sIssue s c w 0x35 0 [] = true) (hl : (getS s (sPid c)).pl = false) (hf : fenced s (sPid c) = true) :
    exec (.shalt c w) s = .next (settle (kernelEnd (sStep s c) (sPid c) false)) :=
  next_issueS_go h (by rw [hl, hf]; rfl)

/-! ### The return from a trap, and SIDLE (R118, R389) -/

theorem exec_tret_no_proc (h : sIssue s c w 0x3D 0 [] = true) (hl : (getS s (sPid c)).pl = true)
    (hf : frameOk (getS s (sPid c)).tsp = true) (hx : loadsOut s (sPid c) = false) (hp : procOf s (sPid c) = none) :
    exec (.tret c w) s = .next (settle (restoreFrame (count s 1 (sPid c) 0) (sPid c))) :=
  next_issueS_go h (by simp only [hl, hf, hx, hp, Bool.not_true, Bool.false_eq_true, if_false])

/-- The claim in the frame is completed, and the next interrupt is entered in its place where the frame's status lets it in (R389). -/
theorem exec_tret_proc {q : Nat} {u : State} (h : sIssue s c w 0x3D 0 [] = true) (hl : (getS s (sPid c)).pl = true)
    (hf : frameOk (getS s (sPid c)).tsp = true) (hx : loadsOut s (sPid c) = false) (hp : procOf s (sPid c) = some q)
    (hu : u = completeFrame (count s 1 (sPid c) 0) q (frameRead (getS s (sPid c)) (getS s (sPid c)).tsp 1)) :
    exec (.tret c w) s = .next (settle (
      if chains u (sPid c) q (frameRead (getS s (sPid c)) (getS s (sPid c)).tsp 1) then
        claimEntry (updCore u (sPid c) fun k => { k with pc := (getS s (sPid c)).tvec + 0x40 }) (sPid c) q
      else restoreFrame u (sPid c))) :=
  next_issueS_go h (by
    subst hu
    simp only [hl, hf, hx, hp, Bool.not_true, Bool.false_eq_true, if_false]
    exact (apply_ite SEffect.go _ _ _).symm)

theorem exec_tret_at_u (h : sIssue s c w 0x3D 0 [] = true) (hl : (getS s (sPid c)).pl = false) (hx : loadsOut s (sPid c) = false) :
    exec (.tret c w) s = .next (settle (sException s (sPid c) 0x0B 0)) :=
  next_issueS_exc h hx (by rw [hl]; rfl)

theorem exec_sidle (h : sIssue s c w 0x3E 0 [] = true) (hl : (getS s (sPid c)).pl = true) :
    exec (.sidle c w) s = .next (settle (updS (sStep s c) (sPid c) fun x => { x with sidle := true })) :=
  next_issueS_go h (by rw [hl]; rfl)

/-! ### Control registers (Table 5.10) -/

theorem exec_csrr (h : sIssue s c w 0x38 (mkImm12 ||| mkRD) [sRD w] = true)
    (hc : csrCheck (getS s (sPid c)) (fld w 21 10) false = none) : exec (.csrr c w) s =
    .next (settle (sPut s c (wrX (getS s (sPid c)) (sRD w) (csrRead s (sPid c) (getS s (sPid c)) (fld w 21 10))))) :=
  next_issueS_go h (by rw [hc]; rfl)

theorem next_csrModify {f : Dword → Dword → Dword} (h : sIssue s c w opc mask regs = true)
    (hc : csrCheck (getS s (sPid c)) (fld w 21 10) true = none) :
    (.next (settle (issueS s c w opc mask regs (csrModify f w))) : Outcome) =
    .next (settle (sPut s c (csrWrite (getS s (sPid c)) (fld w 21 10)
      (f (csrRead s (sPid c) (getS s (sPid c)) (fld w 21 10)) (rdX (getS s (sPid c)) (sRA w)))))) :=
  next_issueS_go h (by rw [csrModify, hc]; rfl)

/-- At U the privilege check comes first, so that a write of TVEC is PRIVILEGE (R119). -/
theorem exec_csrw_at_u (h : sIssue s c w 0x39 (mkImm12 ||| mkRA) [sRA w] = true) (hl : (getS s (sPid c)).pl = false)
    (hn : fld w 21 10 = 0x001) (hx : loadsOut s (sPid c) = false) :
    exec (.csrw c w) s = .next (settle (sException s (sPid c) 0x0B 0)) :=
  next_issueS_exc h hx (by
    have privilege : csrCheck (getS s (sPid c)) 0x001 true = some 0x0B := by simp [csrCheck, csrRow, hl]
    simp only [csrModify, hn, privilege])

/-! ### The statements -/

/-- Settles O8: each instruction that issues has the effect of its body. -/
theorem sRegisterResults : Obligations.SRegisterResults :=
  fun _ _ _ => ⟨fun _ => exec_alu, exec_addi, exec_andi, exec_ori, exec_xori, exec_shli, exec_shri, exec_sari, exec_slti, exec_lui, exec_srdc⟩

/-- Settles O9: an access that passes its checks with nothing outstanding has the effect that its place says. -/
theorem sLoadsAndStores : Obligations.SLoadsAndStores :=
  ⟨fun _ _ _ _ => ⟨next_load (by decide), next_load (by decide), next_load (by decide), next_load (by decide), next_load (by decide),
      next_load (by decide), next_load (by decide)⟩,
    fun _ _ _ _ => ⟨next_store (by decide), next_store (by decide), next_store (by decide), next_store (by decide),
      fun _ => exec_amo_lm, fun _ => exec_amo_slice⟩⟩

/-- Settles O10: each instruction that issues has the effect of its body, which the conditions of its clause choose. -/
theorem sBranchesAndControl : Obligations.SBranchesAndControl :=
  ⟨fun _ _ _ => ⟨next_branch, next_branch, next_branch, next_branch, next_branch, next_branch, exec_jal, exec_jalr⟩,
    fun _ _ _ => ⟨exec_sfence, exec_ssig, exec_swait, exec_ssafe_no_point, exec_ssafe_point, exec_shalt, exec_tret_no_proc,
      fun _ _ => exec_tret_proc, exec_tret_at_u, exec_sidle⟩,
    fun _ _ _ => ⟨exec_csrr, next_csrModify, next_csrModify, next_csrModify, exec_csrw_at_u⟩⟩

end Sys2Proof.Machine
end

section
/-!
PROOFS. The frames of the cores' register instructions, branches and local stores (R77, R83, R102, R103, R117): O44, O45, O46.
-/
namespace Sys2Proof.Machine

variable {s t : State} {i : Instr} {n : Nat}

/-- At a module at rest a command answers what it did, where `Rest` does not see what it did. -/
theorem answers_at_rest (h : Rest s = true) (he : exec i s = .next (settle t)) (hv : restView t = restView s) :
    exec i s = .next t :=
  he.trans (congrArg _ (settle_view h hv))

/-! ### M-cores -/

section
variable {c : Fin 160} {w : Dword}

theorem mStep_frame (h : Rest s = true) (he : exec i s = .next (settle (mStep s c))) :
    ∃ t, exec i s = .next t ∧ MKeeps s t c 0 :=
  ⟨_, answers_at_rest h he rfl, mStep_keeps s c _ 0⟩

theorem wrG_frame {m : MCore} {v next : Dword} (hm : m = getM s (mPid c)) (h : Rest s = true)
    (he : exec i s = .next (settle (retire (setM s (mPid c) (wrG m n v)) (mPid c) next))) :
    ∃ t, exec i s = .next t ∧ MKeeps s t c n := by
  subst hm
  exact ⟨_, answers_at_rest h he rfl, mPut_keeps s c _ _ n (wrG_form _ n v) (rdG_wrG_ne _ n v)⟩

/-- MFLAGS with CLR (R83). -/
theorem mflags_clr_frame (h : Rest s = true) (hi : mIssue s c w 0x1A 0x00F0000000000307 = true) (ht : bit w 8 = false)
    (hclr : bit w 9 = true) : ∃ t, exec (.mflags c w) s = .next t ∧ OnlyCore s t (mPid c) ∧
      getM t (mPid c) = { getM s (mPid c) with g := (getM t (mPid c)).g, flags := 0 } ∧
      ∀ k, k ≠ fA w → rdG (getM t (mPid c)) k = rdG (getM s (mPid c)) k := by
  have he := exec_mflags_core hi ht
  rw [hclr, if_pos rfl] at he
  refine ⟨_, answers_at_rest h he rfl,
    retire_onlyCore s _ _ _ rfl (fun q hq => getM_setM_ne s (Ne.symm hq) _) (fun _ _ => rfl) (fun _ _ => rfl), ?_, ?_⟩
  · rw [mPut, getM_retire, getM_setM]
    exact wrG_form ..
  · intro k hk
    rw [mPut, getM_retire, getM_setM, rdG_wrG_ne _ _ _ k hk]
    rfl

theorem mflags_keep_frame (h : Rest s = true) (hi : mIssue s c w 0x1A 0x00F0000000000307 = true) (ht : bit w 8 = false)
    (hclr : bit w 9 = false) : ∃ t, exec (.mflags c w) s = .next t ∧ MKeeps s t c (fA w) :=
  wrG_frame (if_neg (ne_true_of_eq_false hclr)) h (exec_mflags_core hi ht)

end

/-! ### V-cores -/

section
variable {c : Fin 96} {w : Dword}

theorem vStep_frame (h : Rest s = true) (he : exec i s = .next (settle (vStep s c))) :
    ∃ t, exec i s = .next t ∧ VKeeps s t c 0 :=
  ⟨_, answers_at_rest h he rfl, vStep_keeps s c _ 0⟩

theorem wrA_frame {v next : Dword} (h : Rest s = true)
    (he : exec i s = .next (settle (retire (setV s (vPid c) (wrA (getV s (vPid c)) n v)) (vPid c) next))) :
    ∃ t, exec i s = .next t ∧ VKeeps s t c n :=
  ⟨_, answers_at_rest h he rfl, vPut_keeps s c _ _ n (wrA_form _ n v) (rdA_wrA_ne _ n v)⟩

theorem wrK_frame {v : BitVec 512} (h : Rest s = true)
    (he : exec i s = .next (settle (vPut s c (wrK (getV s (vPid c)) n v)))) :
    ∃ t, exec i s = .next t ∧ OnlyCore s t (vPid c) ∧ getV t (vPid c) = { getV s (vPid c) with k := (getV t (vPid c)).k } ∧
      ∀ k, k ≠ n → rdK (getV t (vPid c)) k = rdK (getV s (vPid c)) k := by
  refine ⟨_, answers_at_rest h he rfl,
    retire_onlyCore s _ _ _ rfl (fun _ _ => rfl) (fun q hq => getV_setV_ne s (Ne.symm hq) _) (fun _ _ => rfl), ?_, ?_⟩
  · rw [vPut, getV_retire, getV_setV]
    exact wrK_form ..
  · intro k hk
    rw [vPut, getV_retire, getV_setV, rdK_wrK_ne _ _ _ k hk]

end

/-! ### S-cores -/

section
variable {c : Fin 64} {w : Word}

theorem sBranch_frame {taken : Bool} {a b : Dword} (h : Rest s = true) (he : exec i s = .next (settle (jump s (sPid c) taken a b))) :
    ∃ t, exec i s = .next t ∧ SKeeps s t c 0 :=
  ⟨_, answers_at_rest h he rfl, sStep_keeps s c _ 0⟩

theorem wrX_frame {v next : Dword} (h : Rest s = true)
    (he : exec i s = .next (settle (retire (setS s (sPid c) (wrX (getS s (sPid c)) n v)) (sPid c) next))) :
    ∃ t, exec i s = .next t ∧ SKeeps s t c n :=
  ⟨_, answers_at_rest h he rfl, sPut_keeps s c _ _ n (wrX_form _ n v) (rdX_wrX_ne _ n v)⟩

theorem loaded_lm {signed : Bool} {o : Nat} : loaded s c w n signed (.lm o) =
    sPut s c (wrX (getS s (sPid c)) (sRD w) (extendLoad n (leNat (memRead (getS s (sPid c)).lm o n)) signed)) := rfl

theorem exec_ldb_lm {o : Nat} (hi : sIssue s c w 0x10 mkI [sRD w, sRA w] = true) (ha : sAccess s c w 1 .read (.lm o) = true) :
    exec (.ldb c w) s = .next (settle (sPut s c (wrX (getS s (sPid c)) (sRD w)
      (extendLoad 1 (leNat (memRead (getS s (sPid c)).lm o 1)) false)))) := by
  rw [← loaded_lm]
  exact next_load (by decide) hi ha

theorem length_leBytes (n v : Nat) : (leBytes n v).length = n := by
  induction n generalizing v with
  | zero => rfl
  | succ n ih => simp [leBytes, ih]

/-- A store to local memory: the core's other registers and every byte beside it stay (R115). -/
theorem stored_lm_frame {o : Nat} (h : Rest s = true) (he : exec i s = .next (settle (stored s c w n (.lm o)))) :
    ∃ t, exec i s = .next t ∧ OnlyCore s t (sPid c) ∧
      getS t (sPid c) = { getS s (sPid c) with lm := (getS t (sPid c)).lm, lmPoison := (getS t (sPid c)).lmPoison } ∧
      ∀ a, (a < o ∨ o + n ≤ a) → Tbl.get 0 (getS t (sPid c)).lm a = Tbl.get 0 (getS s (sPid c)).lm a := by
  refine ⟨_, answers_at_rest h he rfl,
    retire_onlyCore s _ _ _ rfl (fun _ _ => rfl) (fun _ _ => rfl) (fun q hq => getS_setS_ne s (Ne.symm hq) _), ?_, ?_⟩
  · simp only [stored, sPut, getS_retire, getS_setS]
  · intro a ha
    simp only [stored, sPut, getS_retire, getS_setS]
    exact memWrite_get_out _ _ _ (by rwa [length_leBytes])

end

/-! ### The statements -/

/-- Settles O44: what each instruction answers is a register write and a retirement, or the retirement alone. -/
theorem mInstructionsChangeOneRegister : Obligations.MInstructionsChangeOneRegister := fun _ _ _ h =>
  ⟨fun hi => mStep_frame h (exec_mnop hi), fun hi => wrG_frame rfl h (exec_mli hi), fun hi => wrG_frame rfl h (exec_maddi hi),
    fun hi => wrG_frame rfl h (exec_madd hi), fun hi => wrG_frame rfl h (exec_msub hi), fun hi => wrG_frame rfl h (exec_mshli hi),
    mflags_keep_frame h, mflags_clr_frame h,
    fun _ hi hc => ⟨_, answers_at_rest h (exec_mbr hi hc) rfl, mStep_keeps _ _ _ 0⟩, fun hi => wrG_frame rfl h (exec_mloop hi)⟩

/-- Settles O45, as O44; KSET writes a mask register instead. -/
theorem vScalarsChangeOneRegister : Obligations.VScalarsChangeOneRegister := fun _ _ _ h =>
  ⟨fun hi => vStep_frame h (exec_vnop hi), fun hi => wrA_frame h (exec_vli hi), fun hi => wrA_frame h (exec_vaddi hi),
    fun hi => wrA_frame h (exec_vadds hi), fun hi => wrA_frame h (exec_vsubs hi), fun hi => wrA_frame h (exec_vmuls hi),
    fun hi => wrA_frame h (exec_vshli hi), fun hi => wrA_frame h (exec_kcnt hi), fun hi => wrA_frame h (exec_vext hi),
    fun hi => wrK_frame h (exec_kset hi), fun _ hi hc => ⟨_, answers_at_rest h (exec_vbr hi hc) rfl, vStep_keeps _ _ _ 0⟩,
    fun hi => wrA_frame h (exec_vloop hi)⟩

/-- Settles O46, as O44; a store writes the bytes of local memory instead. -/
theorem sInstructionsChangeOneRegister : Obligations.SInstructionsChangeOneRegister := fun _ _ _ h =>
  ⟨fun _ hi hv => wrX_frame h (exec_alu hi hv), fun hi => wrX_frame h (exec_addi hi), fun hi => wrX_frame h (exec_andi hi),
    fun hi => wrX_frame h (exec_ori hi), fun hi => wrX_frame h (exec_xori hi), fun hi => wrX_frame h (exec_shli hi),
    fun hi => wrX_frame h (exec_shri hi), fun hi => wrX_frame h (exec_sari hi), fun hi => wrX_frame h (exec_slti hi),
    fun hi => wrX_frame h (exec_lui hi), fun hi => sBranch_frame h (next_branch hi), fun hi => sBranch_frame h (next_branch hi),
    fun hi => wrX_frame h (exec_jal hi), fun hi => wrX_frame h (exec_jalr hi),
    fun _ hi ha => wrX_frame h (exec_ldb_lm hi ha), fun _ hi ha => stored_lm_frame h (next_store (by decide) hi ha)⟩

end Sys2Proof.Machine
end

section
/-!
PROOFS. The M-core's planes, tiles, copies, waves, streams and conversions (R72, R78 to R82, R84 to R86, R89, R145): O2, O3, O4.
-/
namespace Sys2Proof.Machine

variable {s u : State} {c : Fin 160} {w : Dword} {p n : Nat}

/-! ### Planes and tiles (R79) -/

theorem exec_mclr (h : mIssue s c w 0x29 0x0000071000000000 = true) (hw : waveOnTile (getM s (mPid c)) (fld w 42 40) = false) :
    exec (.mclr c w) s = .next (settle (mPut s c (setTile (getM s (mPid c)) (fld w 42 40)
      { fp32 := bit w 36, contribs := (getTile (getM s (mPid c)) (fld w 42 40)).contribs }))) :=
  next_issueM_go h (if_neg (ne_true_of_eq_false hw))

theorem exec_mtrx_open (h : mIssue s c w 0x2A 0x0000071000000000 = true) (ho : bit w 36 = true) :
    exec (.mtrx c w) s = .next (settle (mPut s c (setTile (getM s (mPid c)) (fld w 42 40)
      { getTile (getM s (mPid c)) (fld w 42 40) with isOpen := true, contribs := 0 }))) :=
  next_issueM_go h (by rw [ho]; rfl)

theorem exec_mtrx_close (h : mIssue s c w 0x2A 0x0000071000000000 = true) (ho : bit w 36 = false) :
    exec (.mtrx c w) s = .next (settle (mPut s c (setTile (getM s (mPid c)) (fld w 42 40)
      { getTile (getM s (mPid c)) (fld w 42 40) with isOpen := false }))) :=
  next_issueM_go h (by rw [ho]; rfl)

theorem exec_mplane {k ns gp gps : Nat} (h : mIssue s c w 0x28 0x00FF010FC0000000 = true) (hform : fmtForm (fld w 35 32) (bit w 31) = true)
    (hk256 : bit w 30 = true → 4 ≤ fld w 35 32 ∧ fld w 35 32 ≤ 6) (hk : k = (if bit w 30 then 256 else 128))
    (hn : n = npOf (fld w 35 32) * k * fmtBits (fld w 35 32) / 8) (hns : ns = (if bit w 31 then npOf (fld w 35 32) * (k / 32) else 0))
    (hgp : gp = (rdG (getM s (mPid c)) (fA w)).toNat) (hgps : gps = (rdG (getM s (mPid c)) (fB w)).toNat)
    (halign : gp % 32 = 0) (halign' : bit w 31 = true → gps % 4 = 0) (hbank : obOneBank gp n = true)
    (hbank' : bit w 31 = true → obOneBank gps ns = true) (hwave : waveOnPlane (getM s (mPid c)) (bit w 40) = false)
    (hfree : localHazard (getCore s (mPid c)) gp n = false) (hfree' : localHazard (getCore s (mPid c)) gps ns = false)
    (hclean : obPoisoned (getM s (mPid c)) gp n = false) (hclean' : bit w 31 = true → obPoisoned (getM s (mPid c)) gps ns = false) :
    exec (.mplane c w) s = .next (settle (mPut s c (setPlane (getM s (mPid c)) (bit w 40)
      { loaded := true, fmt := BitVec.ofNat 4 (fld w 35 32), sc := bit w 31, k256 := bit w 30,
        data := memOf (obRead (getM s (mPid c)) gp n), scales := memOf (obRead (getM s (mPid c)) gps ns) }))) := by
  refine next_issueM_go h ?_
  dsimp only
  rw [← hk, ← hn, ← hns, ← hgp, ← hgps]
  have form_ok : (!fmtForm (fld w 35 32) (bit w 31) || (bit w 30 && !decide (4 ≤ fld w 35 32 ∧ fld w 35 32 ≤ 6))) = false := by
    simpa [hform] using hk256
  have aligned : ¬(gp % 32 ≠ 0 ∨ (bit w 31 = true ∧ gps % 4 ≠ 0)) := by
    rintro (bad | ⟨scaled, bad⟩)
    · exact bad halign
    · exact bad (halign' scaled)
  have banks_ok : (!obOneBank gp n || (bit w 31 && !obOneBank gps ns)) = false := by simpa [hbank] using hbank'
  have clean : (obPoisoned (getM s (mPid c)) gp n || (bit w 31 && obPoisoned (getM s (mPid c)) gps ns)) = false := by
    simpa [hclean] using hclean'
  simp only [form_ok, if_neg aligned, banks_ok, hwave, hfree, hfree', clean, Bool.or_self, Bool.false_eq_true, if_false]
  rfl

/-! ### Copies start (R78, R84) -/

/-- The checks of MLD and MST (R84). -/
structure CopyOk (s : State) (c : Fin 160) (w : Dword) : Prop where
  len : rowLen w ≠ 0
  slice_aligned : (rdG (getM s (mPid c)) (fA w)).toNat % 32 = 0
  buffer_aligned : (rdG (getM s (mPid c)) (fB w)).toNat % 32 = 0
  stride_aligned : (rdG (getM s (mPid c)) (fC w)).toNat % 32 = 0
  buffer_range : (rdG (getM s (mPid c)) (fB w)).toNat + rowsOf w * rowLen w ≤ 2 ^ 20
  slice_range : ∀ i, i < rowsOf w → sliceRange (coreMap s (mPid c))
    (rowAddr (rdG (getM s (mPid c)) (fA w)) (rdG (getM s (mPid c)) (fC w)) i) (rowLen w) = true
  no_xfers : (getCore s (mPid c)).xfers = []

/-- A core whose copy takes the issue stage. -/
def copyBegun (s : State) (c : Fin 160) (w : Dword) : State :=
  setM s (mPid c) { getM s (mPid c) with job := .copy w 0 0, jobMap := coreMap s (mPid c) }

theorem no_localHazard {x : Core} (hx : x.xfers = []) (a n : Nat) : localHazard x a n = false := by
  rw [localHazard, hx, List.any_nil]

theorem no_sliceHazard {x : Core} (hx : x.xfers = []) (a n : Nat) (write : Bool) : sliceHazard x a n write = false := by
  rw [sliceHazard, hx, List.any_nil]

theorem copyStart_go (ok : CopyOk s c w) (load : Bool) :
    copyStart s (mPid c) (getM s (mPid c)) w load = .go (pumpM pumpFuel (copyBegun s c w) (mPid c)) := by
  obtain ⟨len, slice_aligned, buffer_aligned, stride_aligned, buffer_range, slice_range, no_xfers⟩ := ok
  have rows_ok : ((List.range (rowsOf w)).map fun i => rowAddr (rdG (getM s (mPid c)) (fA w)) (rdG (getM s (mPid c)) (fC w)) i).all
      (fun a => sliceRange (coreMap s (mPid c)) a (rowLen w)) = true := by
    simpa [List.all_eq_true] using slice_range
  simp only [copyStart, if_neg len, slice_aligned, buffer_aligned, stride_aligned, if_neg (Nat.not_lt.mpr buffer_range), rows_ok,
    no_localHazard no_xfers, no_sliceHazard no_xfers, List.any_eq_false.mpr fun _ _ => Bool.false_ne_true, ne_eq, not_true_eq_false, or_self,
    Bool.not_true, Bool.or_self, Bool.false_eq_true, if_false]
  rfl

theorem exec_mld (h : mIssue s c w 0x20 0x00FFF0FF00000FFF = true) (ok : CopyOk s c w) :
    exec (.mld c w) s = .next (settle (pumpM pumpFuel (copyBegun s c w) (mPid c))) :=
  next_issueM_go h (copyStart_go ok true)

theorem exec_mst (h : mIssue s c w 0x21 0x00FFF0FF00000FFF = true) (ok : CopyOk s c w) :
    exec (.mst c w) s = .next (settle (pumpM pumpFuel (copyBegun s c w) (mPid c))) :=
  next_issueM_go h (copyStart_go ok false)

/-! ### An MLD row by row (R72, R78) -/

/-- The transfer of row `i` of an MLD. -/
def mldXfer (s : State) (c : Fin 160) (w : Dword) (i : Nat) : Xfer :=
  ⟨rowLen w, (getBinding s (mPid c)).part, coreMap s (mPid c), [],
    .load (rowAddr (rdG (getM s (mPid c)) (fA w)) (rdG (getM s (mPid c)) (fC w)) i)
      ((rdG (getM s (mPid c)) (fB w)).toNat + i * rowLen w)⟩

/-- `u` is `s` after the MLD has issued its first `r` rows. -/
structure MldIssued (s : State) (c : Fin 160) (w : Dword) (r : Nat) (u : State) : Prop where
  job : getM u (mPid c) = { getM s (mPid c) with job := .copy w r 0, jobMap := coreMap s (mPid c) }
  core : getCore u (mPid c) = { getCore s (mPid c) with xfers := (List.range r).map (mldXfer s c w) }
  binding : getBinding u (mPid c) = getBinding s (mPid c)
  mem : u.mem = s.mem
  view : restView u = restView s

theorem copyBegun_issued (hx : (getCore s (mPid c)).xfers = []) : MldIssued s c w 0 (copyBegun s c w) where
  job := getM_setM ..
  core := by
    have same : getCore (copyBegun s c w) (mPid c) = getCore s (mPid c) := rfl
    rw [same, List.range_zero, List.map_nil, ← hx]
  binding := rfl
  mem := rfl
  view := rfl

theorem outstanding_mldXfers (s : State) (c : Fin 160) (w : Dword) (r : Nat) (k : Core) :
    outstanding { k with xfers := (List.range r).map (mldXfer s c w) } = r * rowLen w := by
  have const : (Xfer.bytes ∘ mldXfer s c w) = fun _ => rowLen w := rfl
  rw [outstanding, List.map_map, const, List.map_const', List.length_range, List.sum_replicate_nat]

variable {r fuel : Nat}

/-- The core goes on while its instruction does. -/
theorem MldIssued.goes_on (h : MldIssued s c w r u) (hi : canIssue s (mPid c) = true) (b : Bool) :
    ((getCore u (mPid c)).run != .running || ((getCore u (mPid c)).forced && (getCore u (mPid c)).point != .none && b)) = false := by
  simp only [canIssue, Bool.and_eq_true, Bool.not_eq_true', beq_iff_eq] at hi
  obtain ⟨running, not_forced⟩ := hi
  rw [h.core]
  simp only [running, not_forced, Bool.false_and, bne_self_eq_false, Bool.or_self]

theorem MldIssued.step (h : MldIssued s c w r u) (hi : canIssue s (mPid c) = true) (hopc : fld w 63 56 = 0x20) (hlen : rowLen w ≠ 0)
    (hfit : rowsOf w * rowLen w ≤ 65536) (hr : r < rowsOf w) :
    ∃ v, MldIssued s c w (r + 1) v ∧ pumpM (fuel + 1) u (mPid c) = pumpM fuel v (mPid c) := by
  have used : outstanding (getCore u (mPid c)) = r * rowLen w := by rw [h.core, outstanding_mldXfers]
  have room : min (65536 - outstanding (getCore u (mPid c))) (rowLen w - 0) = rowLen w := by
    have : (r + 1) * rowLen w ≤ rowsOf w * rowLen w := Nat.mul_le_mul_right _ hr
    rw [Nat.succ_mul] at this
    rw [used]
    omega
  have job : (getM u (mPid c)).job = .copy w r 0 := by rw [h.job]
  refine ⟨updM (copyIssue u (mPid c) w r 0 (rowLen w)) (mPid c) fun m => { m with job := .copy w (r + 1) 0 }, ?_, ?_⟩
  · have issue : copyIssue u (mPid c) w r 0 (rowLen w) = updCore u (mPid c) fun k => { k with xfers := k.xfers ++ [mldXfer s c w r] } := by
      simp only [copyIssue, if_pos hopc, addXferAt, h.binding, h.job, Nat.add_zero]
      rfl
    rw [issue]
    refine ⟨?_, ?_, h.binding, h.mem, h.view⟩
    · have same : getM (updCore u (mPid c) fun k => { k with xfers := k.xfers ++ [mldXfer s c w r] }) (mPid c) = getM u (mPid c) := rfl
      rw [updM, getM_setM, same, h.job]
    · have set : getCore (updM (updCore u (mPid c) fun k => { k with xfers := k.xfers ++ [mldXfer s c w r] }) (mPid c)
          fun m => { m with job := .copy w (r + 1) 0 }) (mPid c) =
          { getCore u (mPid c) with xfers := (getCore u (mPid c)).xfers ++ [mldXfer s c w r] } := getCore_setCore ..
      rw [set, h.core, List.range_succ, List.map_append, List.map_singleton]
  · rw [pumpM]
    simp only [h.goes_on hi, job, if_neg (Nat.not_le.mpr hr), room, if_neg hlen, Nat.zero_add, if_true, Bool.false_eq_true, if_false]

theorem MldIssued.finish (h : MldIssued s c w (rowsOf w) u) (hi : canIssue s (mPid c) = true) :
    pumpM (fuel + 1) u (mPid c) = retire (setM u (mPid c) { getM u (mPid c) with job := .none }) (mPid c) ((getCore u (mPid c)).pc + 8) := by
  have job : (getM u (mPid c)).job = .copy w (rowsOf w) 0 := by rw [h.job]
  rw [pumpM]
  simp only [h.goes_on hi, job, if_pos (Nat.le_refl _), ge_iff_le, Bool.false_eq_true, if_false]

theorem MldIssued.pump (hi : canIssue s (mPid c) = true) (hopc : fld w 63 56 = 0x20) (hlen : rowLen w ≠ 0)
    (hfit : rowsOf w * rowLen w ≤ 65536) (h : MldIssued s c w r u) (hr : r ≤ rowsOf w) (hfuel : rowsOf w - r < fuel) :
    ∃ v, MldIssued s c w (rowsOf w) v ∧ pumpM fuel u (mPid c) =
      retire (setM v (mPid c) { getM v (mPid c) with job := .none }) (mPid c) ((getCore v (mPid c)).pc + 8) := by
  induction fuel generalizing r u with
  | zero => omega
  | succ fuel ih =>
    rcases Nat.lt_or_eq_of_le hr with lt | rfl
    · obtain ⟨v, hv, step⟩ := h.step (fuel := fuel) hi hopc hlen hfit lt
      obtain ⟨v', hv', rest⟩ := ih hv lt (by omega)
      exact ⟨v', hv', step.trans rest⟩
    · exact ⟨u, h, h.finish hi⟩

theorem fld_lt {k : Nat} (x : BitVec k) (hi lo : Nat) : fld x hi lo < 2 ^ (hi - lo + 1) := Nat.mod_lt _ (Nat.two_pow_pos _)

/-- The fuel lasts for every row (R78). -/
theorem rowsOf_lt_pumpFuel (w : Dword) : rowsOf w < pumpFuel := by
  have := fld_lt w 39 32
  unfold rowsOf pumpFuel
  split <;> omega

/-- What an MLD leaves whose rows all fit: it has issued them and retired. -/
theorem exec_mld_at_rest (hrest : Rest s = true) (h : mIssue s c w 0x20 0x00FFF0FF00000FFF = true) (ok : CopyOk s c w)
    (hfit : rowsOf w * rowLen w ≤ 65536) : ∃ v, MldIssued s c w (rowsOf w) v ∧ exec (.mld c w) s =
      .next (retire (setM v (mPid c) { getM v (mPid c) with job := .none }) (mPid c) ((getCore v (mPid c)).pc + 8)) := by
  have issues := h
  simp only [mIssue, Bool.and_eq_true, beq_iff_eq] at issues
  obtain ⟨⟨⟨⟨hopc, -⟩, hi⟩, -⟩, -⟩ := issues
  obtain ⟨v, hv, pumped⟩ := (copyBegun_issued ok.no_xfers).pump (fuel := pumpFuel) hi hopc ok.len hfit (Nat.zero_le _)
    (Nat.lt_of_le_of_lt (Nat.sub_le ..) (rowsOf_lt_pumpFuel w))
  exact ⟨v, hv, answers_at_rest hrest ((exec_mld h ok).trans (by rw [pumped])) hv.view⟩

/-! ### Waves, streams and conversions start (R80 to R82, R84) -/

theorem exec_mwave (h : mIssue s c w 0x30 0x00FF078FFFFFFFFF = true) (hform : fmtForm (fld w 35 32) (bit w 31) = true)
    (hn : fld w 21 14 ≠ 0) (hrows : fld w 28 22 + fld w 21 14 ≤ 128) (hcol : fld w 35 32 ≠ 7 → fld w 30 29 = 0)
    (hloaded : (planeOf (getM s (mPid c)) (bit w 39)).loaded = true)
    (hpair : ∃ k, pairing (fld w 35 32) (planeOf (getM s (mPid c)) (bit w 39)).fmt.toNat = some k ∧
      (planeOf (getM s (mPid c)) (bit w 39)).k256 = decide (k = 2))
    (hfp32 : (getTile (getM s (mPid c)) (fld w 42 40)).fp32 = decide (fld w 35 32 = 7))
    (halign : (rdG (getM s (mPid c)) (fA w)).toNat % 32 = 0)
    (halign' : bit w 31 = true → (rdG (getM s (mPid c)) (fB w)).toNat % 4 = 0)
    (hbank : ∀ i, i < fld w 21 14 → ∀ r ∈ mwaveRanges (getM s (mPid c)) w i, obOneBank r.1 r.2 = true) :
    exec (.mwave c w) s = .next (settle (setM s (mPid c) { getM s (mPid c) with job := .wave w 0 })) := by
  refine next_issueM_go h ?_
  obtain ⟨k, pair, k256⟩ := hpair
  have form_ok : (!fmtForm (fld w 35 32) (bit w 31) || decide (fld w 21 14 = 0 ∨ 128 < fld w 28 22 + fld w 21 14) ||
      decide (fld w 35 32 ≠ 7 ∧ fld w 30 29 ≠ 0)) = false := by
    simpa [hform, hn] using ⟨hrows, hcol⟩
  have pair_ok : ((pairing (fld w 35 32) (planeOf (getM s (mPid c)) (bit w 39)).fmt.toNat).isNone ||
      (planeOf (getM s (mPid c)) (bit w 39)).k256 !=
        (pairing (fld w 35 32) (planeOf (getM s (mPid c)) (bit w 39)).fmt.toNat == some 2)) = false := by
    by_cases hk : k = 2 <;> simp [pair, k256, hk]
  have fp32_ok : ((getTile (getM s (mPid c)) (fld w 42 40)).fp32 != (fld w 35 32 == 7)) = false := by
    rw [hfp32, bne_eq_false_iff_eq]
    rfl
  have aligned : ¬((rdG (getM s (mPid c)) (fA w)).toNat % 32 ≠ 0 ∨
      (bit w 31 = true ∧ (rdG (getM s (mPid c)) (fB w)).toNat % 4 ≠ 0)) := by
    rintro (bad | ⟨scaled, bad⟩)
    · exact bad halign
    · exact bad (halign' scaled)
  have banks_ok : ((List.range (fld w 21 14)).all fun i => (mwaveRanges (getM s (mPid c)) w i).all fun r => obOneBank r.1 r.2) = true :=
    List.all_eq_true.mpr fun i hi => List.all_eq_true.mpr (hbank i (List.mem_range.mp hi))
  simp only [form_ok, pair_ok, fp32_ok, hloaded, if_neg aligned, banks_ok, Bool.true_and, Bool.not_true, Bool.false_eq_true,
    if_false]

theorem exec_mstream {a : StreamArgs} (h : mIssue s c w 0x31 0x00FFF7EFFC00FFFF = true) (ha : a = streamArgs (getM s (mPid c)) w)
    (hformW : fmtForm a.fmtW a.scW = true) (hformX : fmtForm a.fmtX a.scX = true) (hn : a.n ≠ 0) (hks : a.ks ≠ 0)
    (hlast : a.cg0 + (a.n - 1) / a.ks ≤ 63) (hres : fld (rdG (getM s (mPid c)) (fC w)) 31 22 = 0)
    (hpair : ∃ k, pairing a.fmtX a.fmtW = some k ∧ k ≠ 3)
    (hfp32 : ∀ i, i ≤ (a.n - 1) / a.ks → (getTile (getM s (mPid c)) ((a.t + (a.cg0 + i) / 8) % 8)).fp32 = false)
    (halignW : a.gw % 32 = 0) (halignX : a.gx % 32 = 0)
    (hbank : ∀ b, b < a.b → obOneBank (a.gx + b * a.xstr * 32) (min a.ks a.n * (a.k * fmtBits a.fmtX / 8)) = true ∧
      (a.scX = true → obOneBank (a.ascale * 16 + b * (a.ks * (a.k / 32))) (min a.ks a.n * (a.k / 32)) = true))
    (hrange : sliceRange (coreMap s (mPid c)) a.gw (a.n * blockBytes a.k a.fmtW a.scW) = true) :
    exec (.mstream c w) s = .next (settle (pumpM pumpFuel
      (setM s (mPid c) { getM s (mPid c) with job := .stream w 0, jobMap := coreMap s (mPid c), stream := [] }) (mPid c))) := by
  refine next_issueM_go h ?_
  dsimp only
  obtain ⟨k, pair, k_ne⟩ := hpair
  rw [← ha, Nat.max_eq_right (Nat.one_le_iff_ne_zero.mpr hks), Nat.add_sub_cancel_left]
  have form_ok : (!fmtForm a.fmtW a.scW || !fmtForm a.fmtX a.scX || decide (a.n = 0 ∨ a.ks = 0 ∨ 63 < a.cg0 + (a.n - 1) / a.ks) ||
      decide (fld (rdG (getM s (mPid c)) (fC w)) 31 22 ≠ 0)) = false := by
    simp [hformW, hformX, hn, hks, hlast, hres]
  have pair_ok : ((pairing a.fmtX a.fmtW).isNone || pairing a.fmtX a.fmtW == some 3) = false := by simp [pair, k_ne]
  have fp32_ok : ((List.range ((a.n - 1) / a.ks + 1)).any fun i => (getTile (getM s (mPid c)) ((a.t + (a.cg0 + i) / 8) % 8)).fp32) = false :=
    List.any_eq_false.mpr fun i hi => ne_true_of_eq_false (hfp32 i (Nat.lt_succ_iff.mp (List.mem_range.mp hi)))
  have aligned : ¬(a.gw % 32 ≠ 0 ∨ a.gx % 32 ≠ 0) := not_or.mpr ⟨not_not_intro halignW, not_not_intro halignX⟩
  have banks_ok : ((List.range a.b).all fun b => obOneBank (a.gx + b * a.xstr * 32) (min a.ks a.n * (a.k * fmtBits a.fmtX / 8)) &&
      (!a.scX || obOneBank (a.ascale * 16 + b * (a.ks * (a.k / 32))) (min a.ks a.n * (a.k / 32)))) = true := by
    refine List.all_eq_true.mpr fun b hb => ?_
    obtain ⟨vec, scales⟩ := hbank b (List.mem_range.mp hb)
    cases hs : a.scX <;> simp_all
  simp only [form_ok, pair_ok, fp32_ok, if_neg aligned, banks_ok, hrange, Bool.not_true, Bool.false_eq_true, if_false]

/-- The checks of MCONV (R82, R84) for a tile, a target, a destination, `n` rows from `first` and the scale field. -/
structure ConvOk (s : State) (c : Fin 160) (w : Dword) : Prop where
  target : fld w 38 36 ≠ 7
  count : fld w 18 11 ≠ 0
  rows : fld w 25 19 + fld w 18 11 ≤ 128
  shift : fld w 35 29 ≠ 0 → (getTile (getM s (mPid c)) (fld w 42 40)).fp32 = false ∧ fld w 38 36 ≠ 6
  ledger : (getTile (getM s (mPid c)) (fld w 42 40)).fp32 = false → 2 ≤ fld w 28 27 → fld w 38 36 = 6
  fp32 : (getTile (getM s (mPid c)) (fld w 42 40)).fp32 = true → fld w 28 27 ≤ 1 ∧ fld w 38 36 ≤ 1
  tile_rows : fld w 28 27 = 3 → fld (rdG (getM s (mPid c)) (fA w)) 25 19 + fld w 18 11 ≤ 128
  aligned : fld w 28 27 ≠ 3 → (rdG (getM s (mPid c)) (fA w)).toNat % 32 = 0 ∧ (rdG (getM s (mPid c)) (fB w)).toNat % 32 = 0
  buffer : fld w 28 27 = 0 → ∀ i, i < fld w 18 11 →
    rowAddr (rdG (getM s (mPid c)) (fA w)) (rdG (getM s (mPid c)) (fB w)) i + convRowBytes (fld w 38 36) ≤ 2 ^ 20
  slice : fld w 28 27 = 1 ∨ fld w 28 27 = 2 → ∀ i, i < fld w 18 11 →
    sliceRange (coreMap s (mPid c)) (rowAddr (rdG (getM s (mPid c)) (fA w)) (rdG (getM s (mPid c)) (fB w)) i) (convRowBytes (fld w 38 36)) = true
  region : fld w 28 27 = 2 → ∀ i, i < fld w 18 11 →
    rowAddr (rdG (getM s (mPid c)) (fA w)) (rdG (getM s (mPid c)) (fB w)) i / 2 ^ 26 = (rdG (getM s (mPid c)) (fA w)).toNat / 2 ^ 26 ∧
    (rowAddr (rdG (getM s (mPid c)) (fA w)) (rdG (getM s (mPid c)) (fB w)) i + convRowBytes (fld w 38 36) - 1) / 2 ^ 26 =
      (rdG (getM s (mPid c)) (fA w)).toNat / 2 ^ 26
  no_wave : waveOnTile (getM s (mPid c)) (fld w 42 40) = false
  no_xfers : (getCore s (mPid c)).xfers = []

/-- A property of every row is one of the list of rows. -/
theorem all_rows {f : Nat → Nat} {q : Nat → Bool} (h : ∀ i, i < n → q (f i) = true) : ((List.range n).map f).all q = true := by
  simpa [List.all_eq_true] using h

theorem exec_mconv (h : mIssue s c w 0x38 0x00FF077FFFFFF800 = true) (ok : ConvOk s c w) :
    exec (.mconv c w) s = .next (settle (pumpM pumpFuel
      (setM s (mPid c) { getM s (mPid c) with job := .conv w 0, jobMap := coreMap s (mPid c) }) (mPid c))) := by
  refine next_issueM_go h ?_
  obtain ⟨target, count, rows, shift, ledger, fp32, tile_rows, aligned, buffer, slice, region, no_wave, no_xfers⟩ := ok
  have form_ok : ¬(fld w 38 36 = 7 ∨ fld w 18 11 = 0 ∨ 128 < fld w 18 11 ∨ 128 < fld w 25 19 + fld w 18 11) := by omega
  have shift_ok : ¬(fld w 35 29 ≠ 0 ∧ ((getTile (getM s (mPid c)) (fld w 42 40)).fp32 = true ∨ fld w 38 36 = 6)) := by
    rintro ⟨shifted, bad | bad⟩
    · exact absurd (shift shifted).1 (ne_false_of_eq_true bad)
    · exact (shift shifted).2 bad
  have ledger_ok : (!(getTile (getM s (mPid c)) (fld w 42 40)).fp32 && decide (2 ≤ fld w 28 27 ∧ fld w 38 36 ≠ 6)) = false := by
    simpa using ledger
  have tile_ok : ¬(fld w 28 27 = 3 ∧ 128 < fld (rdG (getM s (mPid c)) (fA w)) 25 19 + fld w 18 11) :=
    fun ⟨to_tile, beyond⟩ => absurd (tile_rows to_tile) (Nat.not_le.mpr beyond)
  have fp32_ok : ((getTile (getM s (mPid c)) (fld w 42 40)).fp32 && decide (2 ≤ fld w 28 27 ∨ 1 < fld w 38 36)) = false := by
    cases hf : (getTile (getM s (mPid c)) (fld w 42 40)).fp32 with
    | false => rfl
    | true => have := fp32 hf; simp; omega
  have aligned_ok : ¬(fld w 28 27 ≠ 3 ∧ ((rdG (getM s (mPid c)) (fA w)).toNat % 32 ≠ 0 ∨ (rdG (getM s (mPid c)) (fB w)).toNat % 32 ≠ 0)) := by
    rintro ⟨to_memory, bad | bad⟩
    · exact bad (aligned to_memory).1
    · exact bad (aligned to_memory).2
  have buffer_ok : ¬(fld w 28 27 = 0 ∧ (!((List.range (fld w 18 11)).map fun i =>
      rowAddr (rdG (getM s (mPid c)) (fA w)) (rdG (getM s (mPid c)) (fB w)) i).all
      fun a => decide (a + convRowBytes (fld w 38 36) ≤ 2 ^ 20)) = true) := by
    rintro ⟨to_buffer, bad⟩
    rw [all_rows fun i hi => decide_eq_true (buffer to_buffer i hi)] at bad
    cases bad
  have slice_ok : ¬((fld w 28 27 = 1 ∨ fld w 28 27 = 2) ∧ (!((List.range (fld w 18 11)).map fun i =>
      rowAddr (rdG (getM s (mPid c)) (fA w)) (rdG (getM s (mPid c)) (fB w)) i).all
      fun a => sliceRange (coreMap s (mPid c)) a (convRowBytes (fld w 38 36))) = true) := by
    rintro ⟨to_slice, bad⟩
    rw [all_rows (slice to_slice)] at bad
    cases bad
  have region_ok : ¬(fld w 28 27 = 2 ∧ (!((List.range (fld w 18 11)).map fun i =>
      rowAddr (rdG (getM s (mPid c)) (fA w)) (rdG (getM s (mPid c)) (fB w)) i).all
      fun a => a / 2 ^ 26 == (rdG (getM s (mPid c)) (fA w)).toNat / 2 ^ 26 &&
        (a + convRowBytes (fld w 38 36) - 1) / 2 ^ 26 == (rdG (getM s (mPid c)) (fA w)).toNat / 2 ^ 26) = true) := by
    rintro ⟨to_sums, bad⟩
    rw [all_rows fun i hi => by simpa using region to_sums i hi] at bad
    cases bad
  simp only [if_neg form_ok, if_neg shift_ok, ledger_ok, if_neg tile_ok, fp32_ok, if_neg aligned_ok, if_neg buffer_ok, if_neg slice_ok,
    if_neg region_ok, no_wave, no_localHazard no_xfers, no_sliceHazard no_xfers, List.any_eq_false.mpr fun _ _ => Bool.false_ne_true,
    and_false, Bool.false_eq_true, if_false]

/-! ### Waves are admitted and reach their tile; partial rows (R35, R80, R86, R89, R145) -/

/-- An MWAVE moves on with its admissions only (R86). -/
theorem pumpM_wave {i fuel : Nat} (hj : (getM s p).job = .wave w i) : pumpM fuel s p = s := by
  cases fuel with
  | zero => rfl
  | succ fuel =>
    rw [pumpM]
    simp only [hj, ite_self]

theorem exec_waveAdmit {i : Nat} (hready : mReady s (mPid c) = true) (hcred : (getCore s (mPid c)).credits ≠ 0)
    (hj : (getM s (mPid c)).job = .wave w i) (hstream : (getM s (mPid c)).stream = []) (hlast : i + 1 ≠ fld w 21 14)
    (hclean : ∀ r ∈ mwaveRanges (getM s (mPid c)) w i, obPoisoned (getM s (mPid c)) r.1 r.2 = false) :
    exec (.waveAdmit c) s = .next (settle (count (updCore
      (setM s (mPid c) { getM s (mPid c) with
        job := .wave w (i + 1), waves := (getM s (mPid c)).waves ++ [mwaveWave (getM s (mPid c)) w i] })
      (mPid c) fun k => { k with credits := k.credits - 1 }) 1 (mPid c) 1)) := by
  have clean : ((mwaveRanges (getM s (mPid c)) w i).any fun r => obPoisoned (getM s (mPid c)) r.1 r.2) = false :=
    List.any_eq_false.mpr fun r hr => ne_true_of_eq_false (hclean r hr)
  have not_last : (i + 1 == fld w 21 14) = false := beq_eq_false_iff_ne.mpr hlast
  have keeps_stream : (getM s (mPid c)).stream.drop 1 = (getM s (mPid c)).stream := by rw [hstream, List.drop_nil]
  show Host.Outcome.next (settle (admitWave s (mPid c))) = _
  rw [admitWave]
  simp only [pumpM_wave hj, hready, hcred, hj, clean, not_last, keeps_stream, Bool.not_true, decide_false, Bool.or_self, Bool.false_eq_true,
    if_false]
  congr 2
  exact pumpM_wave (w := w) (i := i + 1) (congrArg MCore.job (getM_setM s (mPid c) _))

theorem exec_waveAdmit_no_credit {i : Nat} (hj : (getM s (mPid c)).job = .wave w i) (hcred : (getCore s (mPid c)).credits = 0) :
    exec (.waveAdmit c) s = .next (settle s) := by
  show Host.Outcome.next (settle (admitWave s (mPid c))) = _
  rw [admitWave]
  simp only [pumpM_wave hj, hcred, decide_true, Bool.or_true, if_true]

theorem exec_waveSumsReachTile {x : Wave} {l : List Wave} (hw : (getM s (mPid c)).waves = x :: l) :
    exec (.waveSumsReachTile c) s = .next (settle (pumpM pumpFuel
      (setM s (mPid c) { waveSums (getM s (mPid c)) x with waves := l }) (mPid c))) := by
  simp only [exec, execWaveSumsReachTile, hw]

theorem exec_tileReceiveRow {tile : Fin 8} {row : Fin 128} {seg : Fin 8} {contrib : Byte} {ps : List Ledger} {m : MCore}
    (h : tileReceive (getM s (mPid c)) tile.val row.val seg.val contrib.toNat (ps.take 16) = some m) :
    exec (.tileReceiveRow c tile row seg contrib ps false) s = .next (settle (wakeTile (setM s (mPid c) m) (mPid c))) := by
  simp only [exec, execTileReceiveRow, tileArrive, h, Bool.false_eq_true, if_false]

theorem exec_tileReceiveRow_refused {tile : Fin 8} {row : Fin 128} {seg : Fin 8} {contrib : Byte} {ps : List Ledger}
    (h : (getTile (getM s (mPid c)) tile.val).isOpen = false) :
    exec (.tileReceiveRow c tile row seg contrib ps false) s = .next (settle s) := by
  have refused : tileReceive (getM s (mPid c)) tile.val row.val seg.val contrib.toNat (ps.take 16) = none := by
    simp [tileReceive, h]
  simp only [exec, execTileReceiveRow, tileArrive, refused, Bool.false_eq_true, if_false]

/-! ### The statements -/

/-- Settles O2: each instruction that issues and passes its checks has the effect of its body. -/
theorem mTilesAndCopies : Obligations.MTilesAndCopies :=
  ⟨fun _ _ _ => ⟨exec_mclr, exec_mtrx_open, exec_mtrx_close, fun _ _ _ _ _ => exec_mplane⟩,
    fun _ _ _ len fa fb fc buffer slice no_xfers =>
      ⟨fun h => exec_mld h ⟨len, fa, fb, fc, buffer, slice, no_xfers⟩, fun h => exec_mst h ⟨len, fa, fb, fc, buffer, slice, no_xfers⟩⟩⟩

/-- Settles O3, by induction on the rows that are left: the room always holds the next row whole, and the fuel lasts for 256 of them. -/
theorem mldIssuesEveryRow : Obligations.MldIssuesEveryRow := by
  intro c w s hrest h len hfit fa fb fc buffer slice no_xfers
  obtain ⟨v, hv, answer⟩ := exec_mld_at_rest hrest h ⟨len, fa, fb, fc, buffer, slice, no_xfers⟩ hfit
  refine ⟨_, answer, ?_, ?_, ?_, hv.mem⟩
  · have same : getCore (setM v (mPid c) { getM v (mPid c) with job := .none }) (mPid c) = getCore v (mPid c) := rfl
    rw [getCore_retire, same, hv.core]
    rfl
  · rw [retire_pc, hv.core]
  · rw [getM_retire, getM_setM]

/-- Settles O4: the instructions pass their checks in order; an admission and an arrival have the effect that the case says. -/
theorem mWavesAndTheirEvents : Obligations.MWavesAndTheirEvents :=
  ⟨fun _ _ _ => ⟨exec_mwave, fun _ => exec_mstream,
      fun h target count rows shift ledger fp32 tile_rows aligned buffer slice region no_wave no_xfers => exec_mconv h
        ⟨target, count, rows, shift, ledger, fp32, tile_rows, aligned, buffer, slice, region, no_wave, no_xfers⟩⟩,
    fun _ _ => ⟨fun _ _ => exec_waveAdmit, fun _ _ => exec_waveAdmit_no_credit, fun _ _ => exec_waveSumsReachTile,
      fun _ _ _ _ _ _ => exec_tileReceiveRow, fun _ _ _ _ _ => exec_tileReceiveRow_refused⟩⟩

end Sys2Proof.Machine
end

section
/-!
PROOFS. The V-core's lane instructions, beats and results, and its loads, stores, gathers and scatters (R97 to R112): O6, O7.
-/
namespace Sys2Proof.Machine

variable {s : State} {c : Fin 96} {w : Dword} {opc : Nat} {mask : Dword} {regs : List Nat}

/-! ### Lane instructions (R97, R107 to R111) -/

/-- A lane instruction is handed to the beat admission. -/
theorem next_beats (h : vIssue s c w opc mask regs = true) :
    (.next (settle (issueV s c w opc mask regs fun s p v => goBeats s p v w (laneBeats w))) : Outcome) =
    .next (settle (beats s c w)) :=
  next_issueV_go h rfl

/-- A lane instruction of which a form is illegal, where its own form is not. -/
theorem next_beats_of_form {illegal : Prop} [Decidable illegal] (h : vIssue s c w opc mask regs = true) (legal : ¬illegal) :
    (.next (settle (issueV s c w opc mask regs fun s p v => if illegal then .exc 0x03 else goBeats s p v w (laneBeats w))) : Outcome) =
    .next (settle (beats s c w)) :=
  next_issueV_go h (if_neg legal)

/-! ### Beats and results (R97, R112) -/

theorem exec_beatAdmit_last {b : VBeat} (hb : (getV s (vPid c)).beat = some b) (hready : vReady s (vPid c) = true)
    (hfirst : b.begun = false) (hlast : b.left ≤ 1) (hcred : (getCore s (vPid c)).credits ≠ 0) :
    exec (.beatAdmit c) s = .next (settle (retire (setV
      (count (updCore s (vPid c) fun k => { k with credits := k.credits - 1 }) 1 (vPid c) 1) (vPid c)
      { getV s (vPid c) with beat := none, results := (getV s (vPid c)).results ++ [laneResult (getV s (vPid c)) b.w] })
      (vPid c) ((getCore s (vPid c)).pc + 8))) := by
  show Host.Outcome.next (settle (admitBeat s (vPid c))) = _
  rw [admitBeat]
  simp only [hb, hready, hfirst, hcred, if_pos hlast, Bool.false_and, Bool.not_true, decide_false, Bool.or_self, Bool.false_eq_true,
    if_false]

theorem exec_beatAdmit_none (hb : (getV s (vPid c)).beat = none) : exec (.beatAdmit c) s = .next (settle s) := by
  show Host.Outcome.next (settle (admitBeat s (vPid c))) = _
  rw [admitBeat]
  simp only [hb]

theorem exec_resultInRegister {i : Nat} {r : VResult} (hr : (getV s (vPid c)).results[i]? = some r) :
    exec (.resultInRegister c i) s = .next (settle (setV s (vPid c)
      (applyResult { getV s (vPid c) with results := (getV s (vPid c)).results.eraseIdx i } r))) := by
  simp only [exec, execResultInRegister, hr]

/-! ### Loads and stores with nothing outstanding (R72, R98, R104, R106) -/

theorem not_gatherOut {k : Core} (hx : k.xfers = []) : gatherOut k = false := by rw [gatherOut, hx, List.any_nil]

theorem fenced_of_no_xfers {p : Nat} (hx : (getCore s p).xfers = []) : fenced s p = true := by rw [fenced, hx, List.isEmpty_nil]

theorem roomFor_of_no_xfers {p n : Nat} (hx : (getCore s p).xfers = []) (hn : n ≤ 65536) : roomFor s p n = true := by
  simp [roomFor, outstanding, hx, hn]

theorem fmtBits_le (f : Nat) : fmtBits f ≤ 32 := by
  unfold fmtBits
  split <;> decide

/-- The codes and scales of a vector fit in the room (R72). -/
theorem vector_bytes_le (w : Dword) : 64 * fmtBits (fld w 27 24) + (if bit w 23 then 16 else 0) ≤ 65536 := by
  have := fmtBits_le (fld w 27 24)
  split <;> omega

theorem vNext_setV (s : State) (c : Fin 96) (v : VCore) : vNext (setV s (vPid c) v) (vPid c) = vPut s c v := rfl

/-- Alignment of codes, and of scales where the instruction has them. -/
theorem not_misaligned {x y : Nat} {scaled : Bool} (hx : x % 32 = 0) (hy : scaled = true → y % 16 = 0) :
    ¬(x % 32 ≠ 0 ∨ (scaled = true ∧ y % 16 ≠ 0)) := by
  rintro (bad | ⟨hs, bad⟩)
  · exact bad hx
  · exact bad (hy hs)

section
variable {a b : Nat} {m : BitVec 512} (hx : (getCore s (vPid c)).xfers = []) (hm : m = rdK (getV s (vPid c)) (vM w))
include hx hm

theorem exec_vld (h : vIssue s c w 0x20 (mkDv ||| mkAa ||| mkBa ||| mkM ||| 0x0FC00000)
      [vD w, 128 + vA w, 128 + vB w, 64 + vM w] = true)
    (ha : a = (rdA (getV s (vPid c)) (vA w)).toNat) (hb : b = (rdA (getV s (vPid c)) (vB w)).toNat)
    (hform : vFmtForm (fld w 27 24) (bit w 23) = true) (halign : a % 32 = 0) (halign' : bit w 23 = true → b % 16 = 0)
    (hrange : vLanesInRange (coreMap s (vPid c)) w a b m = true)
    (hclean : (vLoadAll s (coreMap s (vPid c)) (getV s (vPid c)) w a b m).2.2 = false) :
    exec (.vld c w) s = .next (settle (
      if bit w 22 then vNext (addXfer s (vPid c) (64 * fmtBits (fld w 27 24) + if bit w 23 then 16 else 0) [] (.vload w a b m)) (vPid c)
      else vPut s c (wrLanes { getV s (vPid c) with
        flags := (getV s (vPid c)).flags ||| (vLoadAll s (coreMap s (vPid c)) (getV s (vPid c)) w a b m).2.1 }
        (vLoadAll s (coreMap s (vPid c)) (getV s (vPid c)) w a b m).1))) := by
  refine next_issueV_go h ?_
  dsimp only
  rw [← ha, ← hb, ← hm]
  simp only [hform, if_neg (not_misaligned halign halign'), hrange, hclean, not_gatherOut hx, no_sliceHazard hx,
    roomFor_of_no_xfers hx (vector_bytes_le w), Bool.not_true, Bool.or_self, Bool.false_eq_true, if_false]
  exact (apply_ite VEffect.go _ _ _).symm

theorem exec_vst (h : vIssue s c w 0x21 (mkAa ||| mkBa ||| mkCv ||| mkM ||| 0x0FC00000)
      [128 + vA w, 128 + vB w, vC w, 64 + vM w] = true)
    (ha : a = (rdA (getV s (vPid c)) (vA w)).toNat) (hb : b = (rdA (getV s (vPid c)) (vB w)).toNat)
    (hform : vFmtForm (fld w 27 24) (bit w 23) = true)
    (hmask : bit w 23 = true ∨ fmtBits (fld w 27 24) = 4 ∨ fmtBits (fld w 27 24) = 6 → vM w = 0)
    (halign : a % 32 = 0) (halign' : bit w 23 = true → b % 16 = 0)
    (hrange : vLanesInRange (coreMap s (vPid c)) w a b m = true) :
    exec (.vst c w) s = .next (settle (
      if bit w 22 then vNext (addXfer (setV s (vPid c)
        { getV s (vPid c) with flags := (getV s (vPid c)).flags ||| (vStorePieces (getV s (vPid c)) w a b m).2 }) (vPid c)
        (64 * fmtBits (fld w 27 24) + if bit w 23 then 16 else 0) [] (.scatterBytes (vStorePieces (getV s (vPid c)) w a b m).1)) (vPid c)
      else vPut s c (lmWritePieces
        { getV s (vPid c) with flags := (getV s (vPid c)).flags ||| (vStorePieces (getV s (vPid c)) w a b m).2 }
        (vStorePieces (getV s (vPid c)) w a b m).1))) := by
  refine next_issueV_go h ?_
  dsimp only
  rw [← ha, ← hb, ← hm]
  have form_ok : (!vFmtForm (fld w 27 24) (bit w 23) ||
      ((bit w 23 || fmtBits (fld w 27 24) == 4 || fmtBits (fld w 27 24) == 6) && vM w != 0)) = false := by
    simpa [hform, or_assoc] using hmask
  simp only [form_ok, if_neg (not_misaligned halign halign'), hrange, not_gatherOut hx, no_sliceHazard hx,
    roomFor_of_no_xfers hx (vector_bytes_le w), Bool.not_true, Bool.or_self, Bool.false_eq_true, if_false]
  exact (apply_ite VEffect.go _ _ _).symm

/-! ### Gathers and scatters (R98, R105) -/

theorem exec_vgath (h : vIssue s c w 0x24 (mkDv ||| mkAv ||| mkBa ||| mkM ||| 0x00400000)
      [vD w, vA w, 128 + vB w, 64 + vM w] = true)
    (halign : (rdA (getV s (vPid c)) (vB w)).toNat % 4 = 0)
    (hlanes : ∀ e ∈ laneAddrs (getV s (vPid c)) w m, vInRange (coreMap s (vPid c)) (bit w 22) e.2 4 = true ∧
      (vRead s (coreMap s (vPid c)) (getV s (vPid c)) (bit w 22) e.2 4).2 = false) :
    exec (.vgath c w) s = .next (settle (
      if bit w 22 then vNext (addXfer s (vPid c) (4 * (laneAddrs (getV s (vPid c)) w m).length) []
        (.gather (BitVec.ofNat 6 (vD w)) (laneAddrs (getV s (vPid c)) w m))) (vPid c)
      else vPut s c (wrLanes (getV s (vPid c)) ((laneAddrs (getV s (vPid c)) w m).map
        fun e => (512 * vD w + e.1, BitVec.ofNat 32 (leNat (memRead (getV s (vPid c)).lm e.2 4))))))) := by
  refine next_issueV_go h ?_
  dsimp only
  rw [← hm]
  generalize laneAddrs (getV s (vPid c)) w m = l at hlanes
  have in_range : (l.all fun e => vInRange (coreMap s (vPid c)) (bit w 22) e.2 4) = true :=
    List.all_eq_true.mpr fun e he => (hlanes e he).1
  simp only [halign, in_range, fenced_of_no_xfers hx, ne_eq, not_true_eq_false, Bool.not_true, Bool.false_eq_true, if_false]
  cases hs : bit w 22 with
  | true =>
    have clean : (l.any fun e => (sliceRead s (coreMap s (vPid c)) e.2 4).2) = false :=
      List.any_eq_false.mpr fun e he => ne_true_of_eq_false (by simpa [vRead, hs] using (hlanes e he).2)
    simp only [clean, Bool.and_false, Bool.false_eq_true, if_false, if_true]
  | false =>
    have clean : (l.any fun e => poisoned (getV s (vPid c)).lmPoison 8 e.2 4) = false :=
      List.any_eq_false.mpr fun e he => ne_true_of_eq_false (by simpa [vRead, hs] using (hlanes e he).2)
    simp only [clean, Bool.false_and, Bool.false_eq_true, if_false]
    rfl

theorem exec_vscat (h : vIssue s c w 0x25 (mkAv ||| mkBa ||| mkCv ||| mkM ||| 0x00700000)
      [vA w, 128 + vB w, vC w, 64 + vM w] = true)
    (halign : (rdA (getV s (vPid c)) (vB w)).toNat % 4 = 0)
    (hlanes : ∀ e ∈ laneAddrs (getV s (vPid c)) w m, vInRange (coreMap s (vPid c)) (bit w 22) e.2 4 = true ∧
      (bit w 22 = false → poisoned (getV s (vPid c)).lmPoison 8 e.2 4 = false)) :
    exec (.vscat c w) s = .next (settle (
      if bit w 22 then vNext (addXfer s (vPid c) (4 * (laneAddrs (getV s (vPid c)) w m).length) [] (.scatter (BitVec.ofNat 2 (fld w 21 20))
        ((laneAddrs (getV s (vPid c)) w m).map fun e => (e.2, rdV (getV s (vPid c)) (vC w) e.1)))) (vPid c)
      else vPut s c (scatterLm (getV s (vPid c)) (fld w 21 20)
        ((laneAddrs (getV s (vPid c)) w m).map fun e => (e.2, rdV (getV s (vPid c)) (vC w) e.1))))) := by
  refine next_issueV_go h ?_
  dsimp only
  rw [← hm]
  generalize laneAddrs (getV s (vPid c)) w m = l at hlanes
  have in_range : (l.all fun e => vInRange (coreMap s (vPid c)) (bit w 22) e.2 4) = true :=
    List.all_eq_true.mpr fun e he => (hlanes e he).1
  simp only [halign, in_range, fenced_of_no_xfers hx, ne_eq, not_true_eq_false, Bool.not_true, Bool.false_eq_true, if_false]
  cases hs : bit w 22 with
  | true => rfl
  | false =>
    have clean : (l.any fun e => poisoned (getV s (vPid c)).lmPoison 8 e.2 4) = false :=
      List.any_eq_false.mpr fun e he => ne_true_of_eq_false ((hlanes e he).2 hs)
    simp only [clean, Bool.false_eq_true, and_false, if_false]
    rfl

/-! ### Ledger vectors (R106, R143) -/

theorem exec_vldl (h : vIssue s c w 0x26 (mkDv ||| mkAa ||| mkM ||| 0x00400000)
      [vD w, vD w + 1, vD w + 2, 128 + vA w, 64 + vM w] = true)
    (ha : a = (rdA (getV s (vPid c)) (vA w)).toNat) (hd : vD w ≤ 61) (halign : a % 32 = 0)
    (hlanes : ∀ i ∈ lanesOf m, vInRange (coreMap s (vPid c)) (bit w 22) (a + 12 * i) 12 = true ∧
      (vRead s (coreMap s (vPid c)) (getV s (vPid c)) (bit w 22) (a + 12 * i) 12).2 = false) :
    exec (.vldl c w) s = .next (settle (
      if bit w 22 then vNext (addXfer s (vPid c) 6144 [] (.ledgerLoad (BitVec.ofNat 6 (vD w)) a m)) (vPid c)
      else vPut s c (wrLanes (getV s (vPid c)) ((lanesOf m).flatMap fun i =>
        wrLs (vD w) i (partialOf (memRead (getV s (vPid c)).lm (a + 12 * i) 12)))))) := by
  refine next_issueV_go h ?_
  dsimp only
  rw [← ha, ← hm]
  have in_range : ((lanesOf m).all fun i => vInRange (coreMap s (vPid c)) (bit w 22) (a + 12 * i) 12) = true :=
    List.all_eq_true.mpr fun i hi => (hlanes i hi).1
  simp only [if_neg (Nat.not_lt.mpr hd), halign, in_range, not_gatherOut hx, no_sliceHazard hx,
    roomFor_of_no_xfers hx (show 6144 ≤ 65536 by decide), ne_eq, not_true_eq_false, Bool.not_true, Bool.or_self, Bool.false_eq_true, if_false]
  cases hs : bit w 22 with
  | true =>
    have clean : ((lanesOf m).any fun i => (sliceRead s (coreMap s (vPid c)) (a + 12 * i) 12).2) = false :=
      List.any_eq_false.mpr fun i hi => ne_true_of_eq_false (by simpa [vRead, hs] using (hlanes i hi).2)
    simp only [clean, Bool.false_eq_true, if_false, if_true]
  | false =>
    have clean : ((lanesOf m).any fun i => poisoned (getV s (vPid c)).lmPoison 8 (a + 12 * i) 12) = false :=
      List.any_eq_false.mpr fun i hi => ne_true_of_eq_false (by simpa [vRead, hs] using (hlanes i hi).2)
    simp only [clean, Bool.false_eq_true, if_false]
    rfl

theorem exec_vstl (h : vIssue s c w 0x27 (mkAa ||| mkCv ||| mkM ||| 0x00600000)
      [vC w, vC w + 1, vC w + 2, 128 + vA w, 64 + vM w] = true)
    (ha : a = (rdA (getV s (vPid c)) (vA w)).toNat) (hc : vC w ≤ 61) (halign : a % 32 = 0)
    (hred : bit w 21 = true → bit w 22 = true ∧
      (ledgerSpan a m).1 / 2 ^ 26 = ((ledgerSpan a m).1 + (ledgerSpan a m).2 - 1) / 2 ^ 26)
    (hlanes : ∀ i ∈ lanesOf m, vInRange (coreMap s (vPid c)) (bit w 22) (a + 12 * i) 12 = true) :
    exec (.vstl c w) s = .next (settle (
      if bit w 21 then vNext (addXfer s (vPid c) 6144 [] (.reduce a
        ((lanesOf m).map fun i => (a + 12 * i, rdL (getV s (vPid c)) (vC w) i)))) (vPid c)
      else if bit w 22 then vNext (addXfer s (vPid c) 6144 [] (.scatterBytes (mergePieces
        ((lanesOf m).map fun i => (a + 12 * i, partialBytes (rdL (getV s (vPid c)) (vC w) i)))))) (vPid c)
      else vPut s c (lmWritePieces (getV s (vPid c)) (mergePieces
        ((lanesOf m).map fun i => (a + 12 * i, partialBytes (rdL (getV s (vPid c)) (vC w) i))))))) := by
  refine next_issueV_go h ?_
  dsimp only
  rw [← ha, ← hm, List.map_map]
  have form_ok : ¬(61 < vC w ∨ (bit w 21 = true ∧ (!bit w 22) = true)) := by
    rintro (bad | ⟨red, bad⟩)
    · omega
    · simp [(hred red).1] at bad
  have in_range : (((lanesOf m).map fun i => (a + 12 * i, rdL (getV s (vPid c)) (vC w) i)).all
      fun e => vInRange (coreMap s (vPid c)) (bit w 22) e.1 12) = true := by
    simpa [List.all_eq_true] using hlanes
  have one_region : (bit w 21 && decide (0 < (ledgerSpan a m).2) &&
      decide ((ledgerSpan a m).1 / 2 ^ 26 ≠ ((ledgerSpan a m).1 + (ledgerSpan a m).2 - 1) / 2 ^ 26)) = false := by
    cases hr : bit w 21 with
    | false => rfl
    | true => simpa using fun _ => (hred hr).2
  simp only [if_neg form_ok, halign, in_range, one_region, not_gatherOut hx, no_sliceHazard hx,
    roomFor_of_no_xfers hx (show 6144 ≤ 65536 by decide), ne_eq, not_true_eq_false, Bool.not_true, Bool.or_self, Bool.false_eq_true, if_false]
  cases hr : bit w 21 with
  | true => simp only [(hred hr).1, if_true]
  | false =>
    simp only [Function.comp_def, vNext_setV, apply_ite VEffect.go, Bool.false_eq_true, if_false]
end

/-! ### The statements -/

/-- Settles O6: a lane instruction of legal form is handed over; the last beat's result is computed and lands later. -/
theorem vLaneInstructionsRun : Obligations.VLaneInstructionsRun :=
  ⟨fun _ _ _ => ⟨next_beats, fun h hf => next_beats_of_form h (Nat.not_lt.mpr hf), next_beats,
      fun h hf => next_beats_of_form h (Nat.not_lt.mpr hf), fun h hf => next_beats_of_form h (Nat.not_lt.mpr hf), next_beats,
      fun h hf => next_beats_of_form h (Nat.not_lt.mpr hf), fun h hf => next_beats_of_form h (Nat.not_lt.mpr hf),
      fun h hf => next_beats_of_form h (Nat.not_lt.mpr hf), next_beats, next_beats,
      fun h hd ha ha' => next_beats_of_form h (by omega), fun h hd ha hb => next_beats_of_form h (by omega),
      fun h ha => next_beats_of_form h (Nat.not_lt.mpr ha), fun h hd => next_beats_of_form h (Nat.not_lt.mpr hd),
      fun h hd ha => next_beats_of_form h (by omega)⟩,
    fun _ _ => ⟨fun _ => exec_beatAdmit_last, exec_beatAdmit_none, fun _ _ => exec_resultInRegister⟩⟩

/-- Settles O7: an access that passes its checks with nothing outstanding has the effect that its space says. -/
theorem vMemory : Obligations.VMemory := fun _ _ _ _ _ _ hx hm =>
  ⟨exec_vld hx hm, exec_vst hx hm, exec_vgath hx hm, exec_vscat hx hm, exec_vldl hx hm, exec_vstl hx hm⟩

end Sys2Proof.Machine
end

section
/-!
PROOFS. The addresses of slice SRAM (R137): O55.
-/
namespace Sys2Proof.Machine

/-! ### The k-th set bit of a mask -/

theorem nthSetAux_spec {n m k : Nat} (i : Nat) (hk : k < popcountAux n m) :
    ∃ j, j < n ∧ m / 2 ^ j % 2 = 1 ∧ nthSetAux n m k i = i + j := by
  induction n generalizing m k i with
  | zero => cases hk
  | succ n ih =>
    rw [popcountAux] at hk
    by_cases hm : m % 2 = 1
    · cases k with
      | zero => exact ⟨0, Nat.succ_pos n, by simpa using hm, by simp [nthSetAux, hm]⟩
      | succ k =>
        obtain ⟨j, hj, hbit, heq⟩ := ih (m := m / 2) (k := k) (i + 1) (by omega)
        refine ⟨j + 1, by omega, ?_, ?_⟩
        · rwa [Nat.pow_succ', ← Nat.div_div_eq_div_mul]
        · simp only [nthSetAux, hm, if_true, Nat.succ_ne_zero, if_false, Nat.add_sub_cancel, heq]
          omega
    · obtain ⟨j, hj, hbit, heq⟩ := ih (m := m / 2) (k := k) (i + 1) (by omega)
      refine ⟨j + 1, by omega, ?_, ?_⟩
      · rwa [Nat.pow_succ', ← Nat.div_div_eq_div_mul]
      · simp only [nthSetAux, hm, if_false, heq]
        omega

theorem nthSetAux_inj {n m k k' i : Nat} (hk : k < popcountAux n m) (hk' : k' < popcountAux n m)
    (h : nthSetAux n m k i = nthSetAux n m k' i) : k = k' := by
  induction n generalizing m k k' i with
  | zero => cases hk
  | succ n ih =>
    rw [popcountAux] at hk hk'
    by_cases hm : m % 2 = 1
    · simp only [nthSetAux, hm, if_true] at h
      cases k <;> cases k'
      case zero.zero => rfl
      case zero.succ k' =>
        obtain ⟨j, -, -, heq⟩ := nthSetAux_spec (n := n) (m := m / 2) (k := k') (i + 1) (by omega)
        simp only [Nat.succ_ne_zero, if_true, if_false, Nat.add_sub_cancel, heq] at h
        omega
      case succ.zero k =>
        obtain ⟨j, -, -, heq⟩ := nthSetAux_spec (n := n) (m := m / 2) (k := k) (i + 1) (by omega)
        simp only [Nat.succ_ne_zero, if_true, if_false, Nat.add_sub_cancel, heq] at h
        omega
      case succ.succ k k' =>
        simp only [Nat.succ_ne_zero, if_false, Nat.add_sub_cancel] at h
        exact congrArg Nat.succ (ih (by omega) (by omega) h)
    · simp only [nthSetAux, hm, if_false] at h
      exact ih (by omega) (by omega) h

theorem bit_eq_decide {n : Nat} (w : BitVec n) (i : Nat) : bit w i = decide (w.toNat / 2 ^ i % 2 = 1) := by
  rw [bit, BitVec.getLsbD, Nat.testBit_eq_decide_div_mod_eq]

/-- The k-th set bit of a mask is one of its bits. -/
theorem nthSet_spec {n : Nat} (m : BitVec n) {k : Nat} (hk : k < popcount m) : nthSet m k < n ∧ bit m (nthSet m k) = true := by
  obtain ⟨j, hj, hbit, heq⟩ := nthSetAux_spec 0 hk
  rw [nthSet, heq, Nat.zero_add, bit_eq_decide]
  exact ⟨hj, decide_eq_true hbit⟩

theorem nthSet_inj {n : Nat} (m : BitVec n) {k k' : Nat} (hk : k < popcount m) (hk' : k' < popcount m) (h : nthSet m k = nthSet m k') :
    k = k' :=
  nthSetAux_inj hk hk' h

/-! ### The decoded address -/

/-- The bank mask of a region entry. -/
def regionBanks (e : Dword) : Word := BitVec.ofNat 32 (fld e 31 0)

/-- A bit of the mask is the bit of the entry. -/
theorem bit_regionBanks (e : Dword) {i : Nat} (hi : i < 32) : bit (regionBanks e) i = bit e i := by
  have shift : e.toNat % 2 ^ 32 / 2 ^ i % 2 = e.toNat / 2 ^ i % 2 := by
    have split : 2 ^ 32 = 2 ^ i * 2 ^ (32 - i) := by rw [← Nat.pow_add]; congr 1; omega
    have even : 2 ∣ 2 ^ (32 - i) := Nat.pow_dvd_pow 2 (by omega : 1 ≤ 32 - i)
    rw [split, Nat.mod_mul_right_div_self, Nat.mod_mod_of_dvd _ even]
  have mask : (regionBanks e).toNat = e.toNat % 2 ^ 32 := by
    simp [regionBanks, fld]
  rw [bit_eq_decide, bit_eq_decide, mask, shift]

/-- What a slice address that decodes is made of: the line of the region goes over the banks of the entry in turn. -/
theorem sliceDecode_eq_some {map : Tbl Dword} {a k : Nat} (h : sliceDecode map a = some k) :
    ∃ e banks line row, e = Tbl.get 0 map (a / 2 ^ 26) ∧ banks = popcount (regionBanks e) ∧ a < 2 ^ 31 ∧ bit e 63 = true ∧
      line = a % 2 ^ 26 / 256 ∧ 0 < banks ∧ row = line / banks ∧ row < 8192 ∧
      k = ((fld e 36 32 * 32 + nthSet (regionBanks e) (line % banks)) * 8192 + row) * 256 + a % 256 := by
  unfold sliceDecode at h
  split at h
  · cases h
  next in_space =>
    dsimp only at h
    split at h
    · cases h
    next decodes =>
      simp only [Bool.or_eq_true, Bool.not_eq_true', decide_eq_true_eq, not_or, Bool.not_eq_false, Nat.not_le] at decodes
      obtain ⟨valid, below⟩ := decodes
      have banks_pos : 0 < popcount (regionBanks (Tbl.get 0 map (a / 2 ^ 26))) := by
        refine Nat.pos_of_ne_zero fun none => ?_
        rw [regionBanks] at none
        omega
      refine ⟨_, _, _, _, rfl, rfl, Nat.not_le.mp in_space, valid, rfl, banks_pos, rfl, ?_, ?_⟩
      · rw [Nat.div_lt_iff_lt_mul banks_pos, Nat.div_lt_iff_lt_mul (by decide)]
        rw [Nat.mul_comm 8192, Nat.mul_assoc]
        exact below
      · have low : a % 2 ^ 26 % 256 = a % 256 := by omega
        rw [← low, ← Option.some.inj h]
        simp only [regionBanks]

/-- Two addresses of one region at one byte are one address: the byte tells bank, row and place in the line, and these tell the line. -/
theorem sliceDecode_inj {map : Tbl Dword} {a b k : Nat} (ha : sliceDecode map a = some k) (hb : sliceDecode map b = some k)
    (region : a / 2 ^ 26 = b / 2 ^ 26) : a = b := by
  obtain ⟨e, banks, line, row, he, hbanks, -, -, hline, pos, hrow, row_lt, hk⟩ := sliceDecode_eq_some ha
  obtain ⟨e', banks', line', row', he', hbanks', -, -, hline', pos', hrow', row_lt', hk'⟩ := sliceDecode_eq_some hb
  obtain rfl : e = e' := by rw [he, he', region]
  obtain rfl : banks = banks' := by rw [hbanks, hbanks']
  have turn_lt : line % banks < popcount (regionBanks e) := hbanks ▸ Nat.mod_lt _ pos
  have turn_lt' : line' % banks < popcount (regionBanks e) := hbanks ▸ Nat.mod_lt _ pos
  have bank_lt := (nthSet_spec _ turn_lt).1
  have bank_lt' := (nthSet_spec _ turn_lt').1
  have same_bank : nthSet (regionBanks e) (line % banks) = nthSet (regionBanks e) (line' % banks) := by omega
  have same_turn : line % banks = line' % banks := nthSet_inj _ turn_lt turn_lt' same_bank
  have same_row : line / banks = line' / banks := by omega
  have same_line : line = line' := by rw [← Nat.div_add_mod line banks, ← Nat.div_add_mod line' banks, same_row, same_turn]
  omega

/-- Settles O55: an address that decodes is made of the cluster and a bank of its entry, a row of the bank and the place in the line. -/
theorem sliceAddressesNameDistinctBytes : Obligations.SliceAddressesNameDistinctBytes := by
  refine ⟨fun _ _ _ _ => sliceDecode_inj, fun map a k h => ?_⟩
  obtain ⟨e, banks, line, row, he, hbanks, in_space, valid, hline, pos, hrow, row_lt, hk⟩ := sliceDecode_eq_some h
  obtain ⟨bank_lt, bank_named⟩ := nthSet_spec (regionBanks e) (k := line % banks) (hbanks ▸ Nat.mod_lt _ pos)
  have cluster_lt : fld e 36 32 < 32 := Nat.mod_lt _ (by decide)
  have bank : sramBank k = fld e 36 32 * 32 + nthSet (regionBanks e) (line % banks) := by
    unfold sramBank
    omega
  rw [← he, bank]
  refine ⟨in_space, valid, by omega, ?_, by omega, by omega⟩
  rw [show (fld e 36 32 * 32 + nthSet (regionBanks e) (line % banks)) % 32 = nthSet (regionBanks e) (line % banks) by omega,
    ← bit_regionBanks e bank_lt]
  exact bank_named

end Sys2Proof.Machine
end

section
/-!
PROOFS. What completed transfers and the upkeep of memory change (R72, R131, R134, R138, R152): O47, O48.
-/
namespace Sys2Proof.Machine

variable {s t u : State} {p : Nat} {x : Xfer} {P : Nat → Prop}

/-! ### Steps that leave memory, and steps that write slice SRAM -/

/-- Nothing that `Rest` reads has changed, nor a domain, nor memory but for the note of which losses are logged. -/
structure CalmStep (s u : State) : Prop where
  view : restView u = restView s
  gov : u.gov = s.gov
  mem : u.mem = { s.mem with lostSeen := u.mem.lostSeen }

theorem CalmStep.refl (s : State) : CalmStep s s := ⟨rfl, rfl, rfl⟩

theorem CalmStep.trans (h : CalmStep s t) (h' : CalmStep t u) : CalmStep s u :=
  ⟨h'.view.trans h.view, h'.gov.trans h.gov, by rw [h'.mem, h.mem]⟩

theorem CalmStep.foldl {α : Type} {f : State → α → State} (h : ∀ u a, CalmStep u (f u a)) (l : List α) (s : State) :
    CalmStep s (l.foldl f s) :=
  List.foldlRecOn (motive := CalmStep s) l f (CalmStep.refl s) fun _ hu a _ => hu.trans (h _ a)

/-- As `CalmStep`, but for the bytes of slice SRAM that `P` holds, their poison and their tags. -/
structure SramStep (P : Nat → Prop) (s u : State) : Prop where
  view : restView u = restView s
  gov : u.gov = s.gov
  hbm : u.mem.hbm = s.mem.hbm
  bytes : ∀ k, ¬P k → Tbl.get 0 u.mem.sram k = Tbl.get 0 s.mem.sram k
  wf : Memory.wf s.mem = true → Memory.wf u.mem = true

theorem CalmStep.sram (h : CalmStep s u) : SramStep P s u where
  view := h.view
  gov := h.gov
  hbm := by rw [h.mem]
  bytes _ _ := by rw [h.mem]
  wf w := by rw [h.mem]; exact w

theorem SramStep.refl (s : State) : SramStep P s s := (CalmStep.refl s).sram

theorem SramStep.trans (h : SramStep P s t) (h' : SramStep P t u) : SramStep P s u :=
  ⟨h'.view.trans h.view, h'.gov.trans h.gov, h'.hbm.trans h.hbm, fun k hk => (h'.bytes k hk).trans (h.bytes k hk), fun w => h'.wf (h.wf w)⟩

theorem SramStep.foldl {α : Type} {f : State → α → State} {l : List α} (h : ∀ u, ∀ a ∈ l, SramStep P u (f u a)) (s : State) :
    SramStep P s (l.foldl f s) :=
  List.foldlRecOn (motive := SramStep P s) l f (SramStep.refl s) fun _ hu a ha => hu.trans (h _ a ha)

/-! ### Accounting (R135, Table 17.4) -/

theorem logLost_calm (s : State) (src key : Nat) (part : BitVec 4) (write : Bool) (unit bank frame ctx : Nat) :
    CalmStep s (logLost s src key part write unit bank frame ctx) := by
  unfold logLost
  split
  · exact CalmStep.refl s
  · exact ⟨rfl, rfl, rfl⟩

theorem sliceLog_calm (s : State) (map : Tbl Dword) (part : BitVec 4) (a n : Nat) (write : Bool) (ctx : Nat) :
    CalmStep s (sliceLog s map part a n write ctx) := by
  refine CalmStep.foldl (fun u q => ?_) _ s
  dsimp only
  split
  · exact logLost_calm ..
  · exact CalmStep.refl u

theorem sliceLost_calm (s : State) (map : Tbl Dword) (part : BitVec 4) (a n : Nat) (write : Bool) (ctx : Nat) :
    CalmStep s (sliceLost s map part a n write ctx) := by
  refine CalmStep.trans (CalmStep.foldl (fun u q => ?_) _ s) (sliceLog_calm ..)
  exact ⟨rfl, rfl, rfl⟩

theorem kernelPoison_calm (s : State) (p : Nat) : CalmStep s (kernelPoison s p) := by
  unfold kernelPoison
  split
  · exact CalmStep.refl s
  · unfold updRun
    split
    · exact CalmStep.refl s
    next i _ =>
      unfold setItem
      split <;> exact ⟨rfl, rfl, rfl⟩


/-! ### Writes of slice SRAM -/

/-- The bytes of a slice range under a map. -/
def sliceHolds (map : Tbl Dword) (a n k : Nat) : Prop := ∃ q ∈ slicePieces map a n, q.1 ≤ k ∧ k < q.1 + q.2

theorem sliceCarry_sram {map : Tbl Dword} {a : Nat} {d : List Byte} (hP : ∀ k, sliceHolds map a d.length k → P k) (s : State) (f : List Bool) :
    SramStep P s (sliceCarry s map a d f) where
  view := rfl
  gov := rfl
  hbm := (sramWritePieces_out ..).1
  bytes k hk := (sramWritePieces_out ..).2 k fun q hq hin => hk (hP k ⟨q, hq, hin⟩)
  wf w := sliceCarry_wf w ..

theorem sliceWrite_sram {map : Tbl Dword} {a n : Nat} {d : List Byte} (hd : d.length = n) (hP : ∀ k, sliceHolds map a n k → P k) (s : State)
    (b : Bool) : SramStep P s (sliceWrite s map a d b) :=
  sliceCarry_sram (hd ▸ hP) s _

theorem sliceReduceAll_sram {map : Tbl Dword} {a : Nat} {l : List Ledger} (hl : l.length = 16)
    (hP : ∀ j, j < 16 → ∀ k, sliceHolds map (a + 12 * j) 12 k → P k) (s : State) (bad : Nat → Bool) :
    SramStep P s (sliceReduceAll s map a bad l) := by
  refine SramStep.foldl (fun u e he => ?_) s
  have place : e.2 < 16 := by
    have := (List.mem_zipIdx he).2.1
    omega
  exact sliceWrite_sram (length_leBytes 12 _) (hP e.2 place) u _

/-! ### Reduce packets on their way (R143, R144) -/

theorem carry_calm (l : List Nat) (s : State) (h : HeldPkt) : CalmStep s (carry l s h).1 := by
  induction l generalizing s h with
  | nil => exact CalmStep.refl s
  | cons r l ih =>
    rw [carry]
    refine CalmStep.trans ?_ (ih _ _)
    exact ⟨rfl, rfl, rfl⟩

/-- The bytes that the packets of a reduce may change: 16 partials from each place that `xferWrites` names. -/
def xferTouches (x : Xfer) (k : Nat) : Prop := ∃ r ∈ xferWrites x, sliceHolds x.map r.1 r.2 k

theorem reduceSend_sram {a : Nat} {l : List (Nat × Ledger)} (hx : x.kind = .reduce a l) (s : State) :
    SramStep (xferTouches x) s (reduceSend s p x a l) := by
  refine SramStep.foldl (fun u g hg => ?_) s
  refine SramStep.trans (CalmStep.trans (carry_calm ..) (sliceLost_calm ..)).sram (sliceReduceAll_sram ?_ (fun j hj k hk => ?_) _ _)
  · rw [pktPartials, List.length_map, List.length_range]
  · have named : (g + 12 * j, 12) ∈ xferWrites x := by
      rw [xferWrites, hx]
      exact List.mem_flatMap.mpr ⟨g, hg, List.mem_map.mpr ⟨j, List.mem_range.mpr hj, rfl⟩⟩
    exact ⟨_, named, hk⟩

/-! ### What a completed transfer does, by the kind of core -/

theorem updM_calm (s : State) (p : Nat) (f : MCore → MCore) : CalmStep s (updM s p f) := ⟨rfl, rfl, rfl⟩
theorem updV_calm (s : State) (p : Nat) (f : VCore → VCore) : CalmStep s (updV s p f) := ⟨rfl, rfl, rfl⟩
theorem updCore_calm (s : State) (p : Nat) (f : Core → Core) : CalmStep s (updCore s p f) := ⟨rfl, rfl, rfl⟩

/-- A store writes the range that it names. -/
theorem xferTouches_store {a : Nat} {d : List Byte} (hx : x.kind = .store a d) (k : Nat) (h : sliceHolds x.map a d.length k) :
    xferTouches x k := by
  refine ⟨(a, d.length), ?_, h⟩
  rw [xferWrites, hx]
  exact List.mem_singleton_self _

theorem store_calm (s : State) (p : Nat) (x : Xfer) (a n : Nat) :
    CalmStep s (sliceLost (if x.poison.any id then kernelPoison s p else s) x.map x.part a n true
      (coreCtx (if x.poison.any id then kernelPoison s p else s) p)) := by
  refine CalmStep.trans ?_ (sliceLost_calm ..)
  split
  · exact kernelPoison_calm s p
  · exact CalmStep.refl s

theorem xferEffect_sram (hx : plainXfer x.kind = true) (s : State) (refused : Bool) :
    SramStep (xferTouches x) s (xferEffect s p x refused) := by
  cases hk : x.kind with
  | load a o =>
    simp only [xferEffect, hk]
    exact ((sliceLost_calm ..).trans (updM_calm ..)).sram
  | obStore o d =>
    simp only [xferEffect, hk]
    exact (updM_calm ..).sram
  | store a d =>
    simp only [xferEffect, hk]
    exact (store_calm ..).sram.trans (sliceCarry_sram (xferTouches_store hk) _ _)
  | reduce a l =>
    simp only [xferEffect, hk]
    exact reduceSend_sram hk s
  | scatter op l | scatterBytes l =>
    simp only [xferEffect, hk]
    exact SramStep.refl s
  | tileRow _ _ _ _ _ _ | vload _ _ _ _ | gather _ _ | ledgerLoad _ _ _ | sload _ _ _ _ | amo _ _ _ _ _ =>
    rw [hk] at hx
    cases hx

theorem scatterSlice_sram {map : Tbl Dword} {l : List (Nat × Word)} (hP : ∀ e ∈ l, ∀ k, sliceHolds map e.1 4 k → P k) (s : State) (op : Nat) :
    SramStep P s (scatterSlice s map op l).1 :=
  List.foldlRecOn (motive := fun acc : State × Flags => SramStep P s acc.1) l _ (SramStep.refl s) fun _ hacc e he =>
    hacc.trans (sliceWrite_sram (length_leBytes 4 _) (hP e he) _ _)

theorem xferEffectV_sram (hx : plainXfer x.kind = true) (s : State) : SramStep (xferTouches x) s (xferEffectV s p x) := by
  have lost (l : List (Nat × Nat)) : SramStep (xferTouches x) s
      (l.foldl (fun s e => sliceLost s x.map x.part e.1 e.2 true (coreCtx s p)) s) :=
    SramStep.foldl (fun u e _ => (sliceLost_calm ..).sram) s
  cases hk : x.kind with
  | scatter op l =>
    simp only [xferEffectV, hk]
    refine SramStep.trans ?_ (updV_calm ..).sram
    refine (lost _).trans (scatterSlice_sram (fun e he k hin => ⟨(e.1, 4), ?_, hin⟩) _ _)
    rw [xferWrites, hk]
    exact List.mem_map.mpr ⟨e, he, rfl⟩
  | scatterBytes l =>
    simp only [xferEffectV, hk]
    refine SramStep.trans (lost _) (SramStep.foldl (fun u e he => sliceWrite_sram rfl (fun k hin => ⟨(e.1, e.2.length), ?_, hin⟩) _ _) _)
    rw [xferWrites, hk]
    exact List.mem_map.mpr ⟨e, he, rfl⟩
  | reduce a l =>
    simp only [xferEffectV, hk]
    exact reduceSend_sram hk s
  | load _ _ | obStore _ _ | store _ _ =>
    simp only [xferEffectV, hk]
    exact SramStep.refl s
  | tileRow _ _ _ _ _ _ | vload _ _ _ _ | gather _ _ | ledgerLoad _ _ _ | sload _ _ _ _ | amo _ _ _ _ _ =>
    rw [hk] at hx
    cases hx

theorem xferEffectS_sram (hx : plainXfer x.kind = true) (s : State) : SramStep (xferTouches x) s (xferEffectS s p x) := by
  cases hk : x.kind with
  | store a d =>
    simp only [xferEffectS, hk]
    exact (sliceLost_calm ..).sram.trans (sliceWrite_sram rfl (xferTouches_store hk) _ _)
  | load _ _ | obStore _ _ | scatter _ _ | scatterBytes _ | reduce _ _ =>
    simp only [xferEffectS, hk]
    exact SramStep.refl s
  | tileRow _ _ _ _ _ _ | vload _ _ _ _ | gather _ _ | ledgerLoad _ _ _ | sload _ _ _ _ | amo _ _ _ _ _ =>
    rw [hk] at hx
    cases hx

/-! ### The instruction that keeps the issue stage goes on (R72, R82) -/

theorem logLost_mcores (s : State) (src key : Nat) (part : BitVec 4) (write : Bool) (unit bank frame ctx : Nat) :
    (logLost s src key part write unit bank frame ctx).mcores = s.mcores := by
  unfold logLost
  split <;> rfl

theorem sliceLost_mcores (s : State) (map : Tbl Dword) (part : BitVec 4) (a n : Nat) (write : Bool) (ctx : Nat) :
    (sliceLost s map part a n write ctx).mcores = s.mcores := by
  have counted : ((slicePieces map a n).foldl
      (fun s p => countN s 9 (sramBank p.1 / 32) (if write then 1 else 0) (unitsOf 32 p.1 p.2).length) s).mcores = s.mcores :=
    List.foldlRecOn (motive := fun u : State => u.mcores = s.mcores) _ _ rfl fun _ hu _ _ => hu
  refine List.foldlRecOn (motive := fun u : State => u.mcores = s.mcores) _ _ counted fun u hu q _ => ?_
  dsimp only
  split
  · exact (logLost_mcores ..).trans hu
  · exact hu

theorem kernelPoison_mcores (s : State) (p : Nat) : (kernelPoison s p).mcores = s.mcores := by
  unfold kernelPoison updRun setItem
  split
  · rfl
  · split
    · rfl
    · split <;> rfl

theorem carry_mcores (l : List Nat) (s : State) (h : HeldPkt) : (carry l s h).1.mcores = s.mcores := by
  induction l generalizing s h with
  | nil => rfl
  | cons r l ih => rw [carry, ih]; rfl

theorem reduceSend_mcores (s : State) (p : Nat) (x : Xfer) (a : Nat) (l : List (Nat × Ledger)) :
    (reduceSend s p x a l).mcores = s.mcores := by
  refine List.foldlRecOn (motive := fun u : State => u.mcores = s.mcores) _ _ rfl fun u hu g _ => ?_
  refine List.foldlRecOn (motive := fun v : State => v.mcores = s.mcores) _ _ ?_ fun _ hv _ _ => hv
  rw [sliceLost_mcores, carry_mcores, hu]

/-- A completed transfer leaves the instruction that keeps the issue stage. -/
theorem xferEffect_job (hx : plainXfer x.kind = true) (s : State) (p : Nat) (refused : Bool) :
    (getM (xferEffect s p x refused) p).job = (getM s p).job := by
  cases hk : x.kind with
  | load a o =>
    simp only [xferEffect, hk, updM, getM_setM, obCarry]
    rw [getM, sliceLost_mcores, getM]
  | obStore o d => simp only [xferEffect, hk, updM, getM_setM, obWrite, obCarry]
  | store a d =>
    simp only [xferEffect, hk, sliceCarry]
    rw [getM, sliceLost_mcores, getM]
    split
    · rw [kernelPoison_mcores]
    · rfl
  | reduce a l =>
    simp only [xferEffect, hk]
    rw [getM, reduceSend_mcores, getM]
  | scatter op l | scatterBytes l => simp only [xferEffect, hk]
  | tileRow _ _ _ _ _ _ | vload _ _ _ _ | gather _ _ | ledgerLoad _ _ _ | sload _ _ _ _ | amo _ _ _ _ _ =>
    rw [hk] at hx
    cases hx

theorem quietJob_congr (hj : (getM u p).job = (getM s p).job) (hg : u.gov = s.gov) : quietJob u p = quietJob s p := by
  rw [quietJob, quietJob, hj, hg]

theorem quietJob_of_copy {w : Dword} {row off : Nat} (hj : (getM s p).job = .copy w row off) : quietJob s p = true := by
  rw [quietJob, hj]

theorem fillStream_calm (fuel : Nat) {s : State} (hd : s.gov.domains = []) (p : Nat) : CalmStep s (fillStream fuel s p) := by
  induction fuel generalizing s with
  | zero => exact CalmStep.refl s
  | succ fuel ih =>
    rw [fillStream]
    dsimp only
    split
    next w i _ =>
      split
      · exact CalmStep.refl s
      · simp only [meetDomains, if_pos hd, Bool.not_true, Bool.false_eq_true, if_false]
        have lost := sliceLost_calm s (getM s p).jobMap (getBinding s p).part
          ((streamArgs (getM s p) w).gw + (i + (getM s p).stream.length) *
            blockBytes (streamArgs (getM s p) w).k (streamArgs (getM s p) w).fmtW (streamArgs (getM s p) w).scW)
          (blockBytes (streamArgs (getM s p) w).k (streamArgs (getM s p) w).fmtW (streamArgs (getM s p) w).scW) false (coreCtx s p)
        refine lost.trans ((updM_calm ..).trans (ih ?_))
        exact (congrArg Gov.domains lost.gov).trans hd
    · exact CalmStep.refl s

theorem copyIssue_calm (s : State) (p : Nat) (w : Dword) (row off n : Nat) : CalmStep s (copyIssue s p w row off n) := by
  simp only [copyIssue]
  split <;> exact ⟨rfl, rfl, rfl⟩

/-- A row of an MCONV that stays with its own core and its slice. -/
theorem convIssue_calm {w : Dword} (hw : fld w 28 27 ≠ 3) (s : State) (p r : Nat) : CalmStep s (convIssue s p w r) := by
  have dest : fld w 28 27 = 0 ∨ fld w 28 27 = 1 ∨ fld w 28 27 = 2 := by
    have := fld_lt w 28 27
    omega
  rcases dest with h | h | h <;> simp only [convIssue, h] <;> exact ⟨rfl, rfl, rfl⟩

/-- A core whose instruction keeps its issue stage and is quiet issues transfers and retires. -/
theorem pumpM_calm (fuel : Nat) {s : State} (hq : quietJob s p = true) : CalmStep s (pumpM fuel s p) := by
  induction fuel generalizing s with
  | zero => exact CalmStep.refl s
  | succ fuel ih =>
    rw [pumpM]
    dsimp only
    split
    · exact CalmStep.refl s
    · split
      next w i hj =>
        rw [quietJob, hj] at hq
        exact fillStream_calm 8 (beq_iff_eq.mp hq) p
      next w row off hj =>
        split
        · exact ⟨rfl, rfl, rfl⟩
        · split
          · exact CalmStep.refl s
          · refine (copyIssue_calm ..).trans ((updM_calm ..).trans (ih ?_))
            rw [updM]
            split
            · exact quietJob_of_copy (by rw [getM_setM])
            · exact quietJob_of_copy (by rw [getM_setM])
      next w row hj =>
        split
        · exact ⟨rfl, rfl, rfl⟩
        · split
          · exact CalmStep.refl s
          · rw [quietJob, hj] at hq
            refine (convIssue_calm (bne_iff_ne.mp hq) s p row).trans ((updM_calm ..).trans (ih ?_))
            rw [quietJob, updM, getM_setM]
            exact hq
      · exact CalmStep.refl s

/-- What a plain transfer changes that completes. -/
theorem xferEffectOf_sram (hx : plainXfer x.kind = true) (hq : quietJob s p = true) (refused : Bool) :
    SramStep (xferTouches x) s (xferEffectOf s p x refused) := by
  unfold xferEffectOf
  split
  · have effect := xferEffect_sram (p := p) hx s refused
    have quiet : quietJob (xferEffect s p x refused) p = true :=
      (quietJob_congr (xferEffect_job hx s p refused) effect.gov).trans hq
    exact effect.trans (pumpM_calm _ quiet).sram
  · exact xferEffectV_sram hx s
  · exact xferEffectS_sram hx s

/-! ### The command -/

variable {c : Fin 320} {i : Nat} {refused : Bool}

/-- Nothing keeps the transfer from completing: its domains run, the host holds none of its lines, and no answer is awaited. -/
theorem exec_transferComplete (hx : (getCore s c.val).xfers[i]? = some x) (hm : meetDomains s (xferDomains x) = (s, true))
    (hl : (xferWrites x).foldl (fun s r => snoopLines s x.part false r.1 r.2) s = s) (hs : snoopWait s x = false)
    (hf : fabricWait s c.val x = false) :
    exec (.transferComplete c i refused) s = .next (settle (xferEffectOf
      (updCore s c.val fun k => { k with xfers := k.xfers.eraseIdx i }) c.val x refused)) := by
  have met : (if s.gov.domains = [] then (s, true) else meetDomains s (xferDomains x)) = (s, true) := by rw [hm, ite_self]
  simp only [exec, execTransferComplete, hx, met, hl, hs, hf, Bool.not_true, Bool.or_self, Bool.false_eq_true, if_false]

theorem not_fabricWait (hx : plainXfer x.kind = true) : fabricWait s p x = false := by
  cases hk : x.kind with
  | tileRow _ _ _ _ _ _ =>
    rw [hk] at hx
    cases hx
  | load _ _ | obStore _ _ | store _ _ | reduce _ _ | scatter _ _ | scatterBytes _ | vload _ _ _ _ | gather _ _ | ledgerLoad _ _ _
  | sload _ _ _ _ | amo _ _ _ _ _ => simp only [fabricWait, hk]

theorem transferComplete_sram (hrest : Rest s = true) (hx : (getCore s c.val).xfers[i]? = some x) (hk : plainXfer x.kind = true)
    (hm : meetDomains s (xferDomains x) = (s, true))
    (hl : (xferWrites x).foldl (fun s r => snoopLines s x.part false r.1 r.2) s = s) (hs : snoopWait s x = false)
    (hq : quietJob s c.val = true) :
    ∃ t, exec (.transferComplete c i refused) s = .next t ∧ SramStep (xferTouches x) s t := by
  have begun := updCore_calm s c.val fun k => { k with xfers := k.xfers.eraseIdx i }
  have effect := begun.sram.trans (xferEffectOf_sram (refused := refused) hk (s := updCore s c.val fun k => { k with xfers := k.xfers.eraseIdx i })
    (p := c.val) hq)
  exact ⟨_, answers_at_rest hrest (exec_transferComplete hx hm hl hs (not_fabricWait hk)) effect.view, effect⟩

/-! ### Upkeep (R134, R138, R152) -/

theorem exec_bankZeroDone_wf (hrest : Rest s = true) (hwf : Memory.wf s.mem = true) (cl bank : Fin 32) :
    ∃ t, exec (.bankZeroDone cl bank) s = .next t ∧ Memory.wf t.mem = true ∧
      Tbl.get false t.mem.bankZero (32 * cl.val + bank.val) = false := by
  have no_parts : s.sched.parts = [] := by
    simp only [Rest, Bool.and_eq_true, List.isEmpty_iff] at hrest
    exact hrest.1.1.1.2
  cases hz : Tbl.get false s.mem.bankZero (32 * cl.val + bank.val) with
  | false =>
    refine ⟨s, ?_, hwf, hz⟩
    simp only [exec, execBankZeroDone, hz, Bool.not_false, if_true, settle_rest hrest]
  | true =>
    refine ⟨{ s with mem := zeroBank s.mem (32 * cl.val + bank.val) }, ?_, zeroBank_wf hwf _, ?_⟩
    · have same : { s.sched with parts := s.sched.parts.map fun e =>
          (e.1, { e.2 with awaitBanks := Tbl.upd 0 e.2.awaitBanks cl.val fun w => setBit w bank.val false }) } = s.sched := by
        rw [no_parts, List.map_nil, ← no_parts]
      simp only [exec, execBankZeroDone, hz, same, Bool.not_true, Bool.false_eq_true, if_false]
      exact congrArg _ (settle_view hrest rfl)
    · exact Tbl.get_set_self false s.mem.bankZero _ false

/-- Memory with the bank on its spare (R134). -/
def spareTaken (m : Memory) (cl bank spare : Nat) : Memory :=
  { m with
    bankMap := Tbl.set 0 m.bankMap (32 * cl + bank) (spare + 1), bankCopy := Tbl.set 0 m.bankCopy (32 * cl + bank) 0
    bankBad := Tbl.set false (Tbl.set false m.bankBad (34 * cl + physBank m cl bank) true) (34 * cl + spare) true }

theorem exec_spareBankCopyDone {cl bank : Fin 32} {spare : Nat} (hc : Tbl.get 0 s.mem.bankCopy (32 * cl.val + bank.val) = spare + 1) :
    exec (.spareBankCopyDone cl bank) s =
      .next (settle (queueChange { s with mem := spareTaken s.mem cl.val bank.val spare } (.spareBank cl bank))) := by
  simp only [exec, execSpareBankCopyDone, hc, spareTaken]

theorem exec_spareBankCopyDone_wf (hrest : Rest s = true) (hwf : Memory.wf s.mem = true) (cl bank : Fin 32) :
    ∃ t, exec (.spareBankCopyDone cl bank) s = .next t ∧ Memory.wf t.mem = true ∧
      Tbl.get 0 t.mem.bankCopy (32 * cl.val + bank.val) = 0 := by
  cases hc : Tbl.get 0 s.mem.bankCopy (32 * cl.val + bank.val) with
  | zero =>
    refine ⟨s, ?_, hwf, hc⟩
    simp only [exec, execSpareBankCopyDone, hc, settle_rest hrest]
  | succ spare =>
    refine ⟨_, answers_at_rest hrest (exec_spareBankCopyDone hc) rfl, ?_, Tbl.get_set_self 0 s.mem.bankCopy _ 0⟩
    show Memory.wf (spareTaken s.mem cl.val bank.val spare) = true
    rw [wf_iff, spareTaken]
    obtain ⟨sram, poison, prot, bankMap, bankCopy, bankBad, rest⟩ := (wf_iff _).mp hwf
    have badWf := Tbl.wf_set (Tbl.wf_set bankBad (34 * cl.val + physBank s.mem cl.val bank.val) true) (34 * cl.val + spare) true
    exact ⟨sram, poison, prot, Tbl.wf_set bankMap (32 * cl.val + bank.val) (spare + 1),
      Tbl.wf_set bankCopy (32 * cl.val + bank.val) 0, badWf, rest⟩

/-- Memory with frame `f` copied from `old` to its reserve frame `r` (R152). -/
def frameMoved (m : Memory) (ch f old r : Nat) : Memory :=
  { copyFrame m old (frameKey ch r) with
    frameMap := Tbl.set 0 (copyFrame m old (frameKey ch r)).frameMap f (r + 1)
    frameCopy := Tbl.set 0 (copyFrame m old (frameKey ch r)).frameCopy f 0 }

/-- Where the bytes of a frame lie before its retirement (R152). -/
def frameNow (m : Memory) (ch f : Nat) : Nat :=
  match Tbl.get 0 m.frameMap f with
  | 0 => f
  | k + 1 => frameKey ch k

theorem exec_frameRetirementSwitch {ch : Fin 128} {frame : BitVec 20} {f r : Nat} (hf : frameKey ch.val frame.toNat = f)
    (hc : Tbl.get 0 s.mem.frameCopy f = r + 1) :
    exec (.frameRetirementSwitch ch frame) s =
      .next (settle (queueChange { s with mem := frameMoved s.mem ch.val f (frameNow s.mem ch.val f) r } (.hbmPage ch frame))) := by
  subst hf
  simp only [exec, execFrameRetirementSwitch, hc, frameMoved]
  rfl

theorem frameMoved_wf {m : Memory} (hwf : Memory.wf m = true) (ch f old r : Nat) : Memory.wf (frameMoved m ch f old r) = true := by
  have copied := copyFrame_wf hwf old (frameKey ch r)
  rw [wf_iff, frameMoved]
  obtain ⟨sram, poison, prot, bankMap, bankCopy, bankBad, bankLost, bankZero, hbm, hbmPoison, frameMap, frameCopy, dead⟩ := (wf_iff _).mp copied
  exact ⟨sram, poison, prot, bankMap, bankCopy, bankBad, bankLost, bankZero, hbm, hbmPoison, Tbl.wf_set frameMap f (r + 1),
    Tbl.wf_set frameCopy f 0, dead⟩

theorem exec_frameRetirementSwitch_wf (hrest : Rest s = true) (hwf : Memory.wf s.mem = true) (ch : Fin 128) (frame : BitVec 20) :
    ∃ t, exec (.frameRetirementSwitch ch frame) s = .next t ∧ Memory.wf t.mem = true ∧
      Tbl.get 0 t.mem.frameCopy (frameKey ch.val frame.toNat) = 0 := by
  cases hc : Tbl.get 0 s.mem.frameCopy (frameKey ch.val frame.toNat) with
  | zero =>
    refine ⟨s, ?_, hwf, hc⟩
    simp only [exec, execFrameRetirementSwitch, hc, settle_rest hrest]
  | succ r =>
    refine ⟨_, answers_at_rest hrest (exec_frameRetirementSwitch rfl hc) rfl, ?_, Tbl.get_set_self 0 s.mem.frameCopy _ 0⟩
    exact frameMoved_wf hwf ..

/-! ### The statements -/

/-- Settles O47: every write of a plain transfer is a write of a range that `xferWrites` names, and what the core does next issues transfers
only. -/
theorem storesChangeOnlyTheirBytes : Obligations.StoresChangeOnlyTheirBytes := by
  intro c i x refused s hrest hx hk hm hl hs hq
  obtain ⟨t, answer, step⟩ := transferComplete_sram (refused := refused) hrest hx hk hm hl hs hq
  exact ⟨t, answer, step.hbm, fun k hk => step.bytes k fun ⟨r, hr, q, hq, hin⟩ => hk r hr q hq hin⟩

/-- Settles O48: each write of a table keeps its canonical form. -/
theorem memoryStaysCanonical : Obligations.MemoryStaysCanonical := by
  refine fun s hrest hwf => ⟨fun c i x refused hx hk hm hl hs hq => ?_, exec_bankZeroDone_wf hrest hwf, exec_spareBankCopyDone_wf hrest hwf,
    exec_frameRetirementSwitch_wf hrest hwf⟩
  obtain ⟨t, answer, step⟩ := transferComplete_sram (refused := refused) hrest hx hk hm hl hs hq
  exact ⟨t, answer, step.wf hwf⟩

end Sys2Proof.Machine
end

section
/-!
PROOFS. A store of slice SRAM is read back (R72, R137): O56.
-/
namespace Sys2Proof.Machine

variable {s t : State} {p : Nat} {x : Xfer} {map : Tbl Dword} {a n : Nat} {d : List Byte}

/-- A filter that keeps every element is a map. -/
theorem filterMap_of_some {α β : Type} {f : α → Option β} {g : α → β} {l : List α} (h : ∀ x ∈ l, f x = some (g x)) :
    l.filterMap f = l.map g := by
  induction l with
  | nil => rfl
  | cons y l ih =>
    rw [List.filterMap_cons_some (h y (List.mem_cons_self ..)), ih fun x hx => h x (List.mem_cons_of_mem y hx), List.map_cons]

/-! ### Pieces of memory that do not meet -/

/-- Two pieces of memory have no byte in common. -/
def Apart (p q : Nat × Nat) : Prop := p.1 + p.2 ≤ q.1 ∨ q.1 + q.2 ≤ p.1

theorem sramWritePiece_bankLost (m : Memory) (k : Nat) (d : List Byte) (f : List Bool) (prot : Bool) :
    (sramWritePiece m k d f prot).bankLost = m.bankLost := by
  unfold sramWritePiece
  split <;> rfl

/-- A piece that is written, and whose bytes stay, reads as what was written. -/
theorem memRead_sramWritePiece {m : Memory} {k : Nat} (hlost : Tbl.get false m.bankLost (sramBank k) = false) (hd : d.length = n)
    (f : List Bool) (prot : Bool) : memRead (sramWritePiece m k d f prot).sram k n = d := by
  subst hd
  have written : (sramWritePiece m k d f prot).sram = memWrite m.sram k d := by
    simp only [sramWritePiece, hlost, Bool.false_eq_true, if_false]
  refine List.ext_getElem (by rw [memRead, List.length_map, List.length_range]) fun i hi hi' => ?_
  simp only [memRead, List.getElem_map, List.getElem_range, written]
  exact memWrite_get_in _ _ _ hi'

/-- Pieces that lie apart and together hold as many bytes as are written read as these bytes. -/
theorem read_sramWritePieces {m : Memory} {ps : List (Nat × Nat)} (hapart : ps.Pairwise Apart)
    (hlost : ∀ p ∈ ps, Tbl.get false m.bankLost (sramBank p.1) = false) (hlen : (ps.map Prod.snd).sum = d.length) (f : List Bool)
    (prot : Bool) : (ps.flatMap fun p => memRead (sramWritePieces m prot ps d f).sram p.1 p.2) = d := by
  induction ps generalizing m d f with
  | nil => exact (List.length_eq_zero_iff.mp hlen.symm).symm
  | cons p ps ih =>
    obtain ⟨k, n⟩ := p
    simp only [List.map_cons, List.sum_cons] at hlen
    obtain ⟨apart, rest_apart⟩ := List.pairwise_cons.mp hapart
    have head : memRead (sramWritePieces m prot ((k, n) :: ps) d f).sram k n = d.take n := by
      rw [← memRead_sramWritePiece (hlost (k, n) (List.mem_cons_self ..)) (List.length_take_of_le (by omega)) (f.take n) prot]
      refine List.map_congr_left fun i hi => ?_
      refine (sramWritePieces_out (sramWritePiece m k (d.take n) (f.take n) prot) prot ps (d.drop n) (f.drop n)).2 _ fun q hq hin => ?_
      have place := List.mem_range.mp hi
      have := apart q hq
      simp only [Apart] at this
      omega
    rw [List.flatMap_cons, head, sramWritePieces, ih rest_apart (fun q hq => ?_) (by rw [List.length_drop]; omega), List.take_append_drop]
    rw [sramWritePiece_bankLost]
    exact hlost q (List.mem_cons_of_mem _ hq)

/-! ### The pieces of a slice range within one region -/

/-- Within a region an address below one that decodes decodes. -/
theorem sliceDecode_isSome_of_le {b : Nat} (hb : (sliceDecode map b).isSome = true) (hle : a ≤ b) (region : a / 2 ^ 26 = b / 2 ^ 26) :
    (sliceDecode map a).isSome = true := by
  obtain ⟨k, hk⟩ := Option.isSome_iff_exists.mp hb
  obtain ⟨e, banks, line, row, he, hbanks, in_space, valid, hline, pos, hrow, row_lt, -⟩ := sliceDecode_eq_some hk
  have below : b % 2 ^ 26 < popcount (regionBanks e) * 0x200000 := by
    rw [hrow, hline, Nat.div_lt_iff_lt_mul pos, Nat.div_lt_iff_lt_mul (by decide), Nat.mul_comm 8192, Nat.mul_assoc, hbanks] at row_lt
    exact row_lt
  rw [sliceDecode, if_neg (by omega), region, ← he]
  have valid_below : (!bit e 63 || decide (popcount (BitVec.ofNat 32 (fld e 31 0)) * 0x200000 ≤ a % 2 ^ 26)) = false := by
    rw [valid, Bool.not_true, Bool.false_or, decide_eq_false_iff_not]
    rw [regionBanks] at below
    omega
  simp only [valid_below, Bool.false_eq_true, if_false, Option.isSome_some]

/-- Addresses of one region whose bytes share a 256-byte line share one themselves. -/
theorem sliceDecode_line_inj {b k k' : Nat} (ha : sliceDecode map a = some k) (hb : sliceDecode map b = some k')
    (region : a / 2 ^ 26 = b / 2 ^ 26) (same : k / 256 = k' / 256) : a / 256 = b / 256 := by
  obtain ⟨e, banks, line, row, he, hbanks, -, -, hline, pos, hrow, row_lt, hk⟩ := sliceDecode_eq_some ha
  obtain ⟨e', banks', line', row', he', hbanks', -, -, hline', -, hrow', row_lt', hk'⟩ := sliceDecode_eq_some hb
  obtain rfl : e = e' := by rw [he, he', region]
  obtain rfl : banks = banks' := by rw [hbanks, hbanks']
  have turn_lt : line % banks < popcount (regionBanks e) := hbanks ▸ Nat.mod_lt _ pos
  have turn_lt' : line' % banks < popcount (regionBanks e) := hbanks ▸ Nat.mod_lt _ pos
  have bank_lt := (nthSet_spec _ turn_lt).1
  have bank_lt' := (nthSet_spec _ turn_lt').1
  have same_bank : nthSet (regionBanks e) (line % banks) = nthSet (regionBanks e) (line' % banks) := by omega
  have same_turn : line % banks = line' % banks := nthSet_inj _ turn_lt turn_lt' same_bank
  have same_row : line / banks = line' / banks := by omega
  have same_line : line = line' := by rw [← Nat.div_add_mod line banks, ← Nat.div_add_mod line' banks, same_row, same_turn]
  omega

theorem sliceDecode_mod {k : Nat} (h : sliceDecode map a = some k) : k % 256 = a % 256 := by
  obtain ⟨e, banks, line, row, -, -, -, -, -, -, -, -, hk⟩ := sliceDecode_eq_some h
  omega

theorem mem_unitsOf {u l : Nat} (h : l ∈ unitsOf u a n) : 0 < n ∧ a / u ≤ l ∧ l ≤ (a + n - 1) / u := by
  unfold unitsOf at h
  split at h
  · cases h
  next some =>
    obtain ⟨i, hi, rfl⟩ := List.mem_map.mp h
    have := List.mem_range.mp hi
    have := Nat.div_le_div_right (c := u) (show a ≤ a + n - 1 by omega)
    omega

/-- The last byte of a range within one region decodes if the range is in the quota. -/
theorem last_decodes (hregion : a % 2 ^ 26 + n ≤ 2 ^ 26) (hn : 0 < n) (hr : sliceRange map a n = true) :
    (sliceDecode map (a + n - 1)).isSome = true := by
  have one : a / 2 ^ 26 ∈ unitsOf (2 ^ 26) a n := by
    rw [unitsOf, if_neg (by omega)]
    exact List.mem_map.mpr ⟨0, List.mem_range.mpr (by omega), Nat.zero_add _⟩
  rw [sliceRange, Bool.or_eq_true, List.all_eq_true] at hr
  have decodes := hr.resolve_left (by simp only [beq_iff_eq]; omega) _ one
  rwa [show min (a + n - 1) (a / 2 ^ 26 * 2 ^ 26 + (2 ^ 26 - 1)) = a + n - 1 by omega] at decodes

/-- The bytes of a range in line `l`. -/
def lineBytes (a n l : Nat) : Nat := min (a + n) (256 * l + 256) - max a (256 * l)

theorem sum_lineBytes (a n m : Nat) :
    (((List.range m).map (· + a / 256)).map (lineBytes a n)).sum = min (a + n) (256 * (a / 256 + m)) - a := by
  induction m with
  | zero =>
    simp only [List.range_zero, List.map_nil, List.sum_nil]
    omega
  | succ m ih =>
    simp only [List.range_succ, List.map_append, List.sum_append, ih, List.map_cons, List.map_nil, List.sum_cons, List.sum_nil, lineBytes]
    omega

variable (hregion : a % 2 ^ 26 + n ≤ 2 ^ 26) (hr : sliceRange map a n = true)
include hregion

/-- Where line `l` of a range begins, in the region of the range. -/
theorem line_region {l : Nat} (h : l ∈ unitsOf 256 a n) : max a (256 * l) ≤ a + n - 1 ∧ max a (256 * l) / 2 ^ 26 = a / 2 ^ 26 := by
  obtain ⟨some, low, high⟩ := mem_unitsOf h
  omega

theorem slicePieces_apart : (slicePieces map a n).Pairwise Apart := by
  have lines : (unitsOf 256 a n).Pairwise (· < ·) := by
    unfold unitsOf
    split
    · exact List.Pairwise.nil
    · exact List.pairwise_map.mpr (List.pairwise_lt_range.imp fun h => Nat.add_lt_add_right h _)
  refine List.Pairwise.filterMap _ (fun l l' ⟨hl, hl', lt⟩ q hq q' hq' => ?_) (List.Pairwise.and_mem.mp lines)
  obtain ⟨k, hk, rfl⟩ := Option.map_eq_some_iff.mp hq
  obtain ⟨k', hk', rfl⟩ := Option.map_eq_some_iff.mp hq'
  obtain ⟨-, region⟩ := line_region hregion hl
  obtain ⟨-, region'⟩ := line_region hregion hl'
  have low := (mem_unitsOf hl).2.1
  have other : k / 256 ≠ k' / 256 := fun same => by
    have := sliceDecode_line_inj hk hk' (region.trans region'.symm) same
    omega
  have := sliceDecode_mod hk
  have := sliceDecode_mod hk'
  simp only [Apart]
  omega

include hr

theorem slicePieces_length : ((slicePieces map a n).map Prod.snd).sum = n := by
  rcases Nat.eq_zero_or_pos n with rfl | some
  · rfl
  · have decodes : ∀ l ∈ unitsOf 256 a n, ((sliceDecode map (max a (256 * l))).map fun k =>
        (k, min (a + n) (256 * l + 256) - max a (256 * l))).map Prod.snd = Option.some (lineBytes a n l) := fun l hl => by
      obtain ⟨le, region⟩ := line_region hregion hl
      obtain ⟨k, hk⟩ := Option.isSome_iff_exists.mp
        (sliceDecode_isSome_of_le (last_decodes hregion some hr) le (by omega))
      rw [hk]
      rfl
    have lengths : (slicePieces map a n).map Prod.snd = (unitsOf 256 a n).map (lineBytes a n) := by
      rw [slicePieces, List.map_filterMap, filterMap_of_some decodes]
    rw [lengths, unitsOf, if_neg (by omega), sum_lineBytes]
    omega

omit hregion hr

/-! ### The store -/

theorem sliceRead_sliceCarry (hregion : a % 2 ^ 26 + d.length ≤ 2 ^ 26) (hr : sliceRange map a d.length = true)
    (hlost : ∀ p ∈ slicePieces map a d.length, Tbl.get false s.mem.bankLost (sramBank p.1) = false) (f : List Bool) :
    (sliceRead (sliceCarry s map a d f) map a d.length).1 = d :=
  read_sramWritePieces (slicePieces_apart hregion) hlost (slicePieces_length hregion hr) f false

theorem CalmStep.read (h : CalmStep s t) (map : Tbl Dword) (a n : Nat) : (sliceRead t map a n).1 = (sliceRead s map a n).1 := by
  have sram : t.mem.sram = s.mem.sram := by rw [h.mem]
  simp only [sliceRead, sram]

theorem CalmStep.bankLost (h : CalmStep s t) : t.mem.bankLost = s.mem.bankLost := by rw [h.mem]

theorem xferEffectOf_store (hx : x.kind = .store a d) (hkind : slotKind p ≠ 1) (hq : quietJob s p = true)
    (hregion : a % 2 ^ 26 + d.length ≤ 2 ^ 26) (hr : sliceRange x.map a d.length = true)
    (hlost : ∀ p ∈ slicePieces x.map a d.length, Tbl.get false s.mem.bankLost (sramBank p.1) = false) (refused : Bool) :
    (sliceRead (xferEffectOf s p x refused) x.map a d.length).1 = d := by
  have plain : plainXfer x.kind = true := by rw [hx]; rfl
  unfold xferEffectOf
  split
  · have quiet : quietJob (xferEffect s p x refused) p = true :=
      (quietJob_congr (xferEffect_job plain s p refused) (xferEffect_sram plain s refused).gov).trans hq
    rw [(pumpM_calm _ quiet).read]
    simp only [xferEffect, hx]
    refine sliceRead_sliceCarry hregion hr (fun q hq => ?_) _
    rw [(store_calm s p x a d.length).bankLost]
    exact hlost q hq
  next v => exact absurd v hkind
  · simp only [xferEffectS, hx]
    refine sliceRead_sliceCarry hregion hr (fun q hq => ?_) _
    rw [(sliceLost_calm ..).bankLost]
    exact hlost q hq

/-- Settles O56: the pieces of a range within one region lie apart and hold all its bytes, so that each piece keeps what was written. -/
theorem storesAreReadBack : Obligations.StoresAreReadBack := by
  intro c i a d x refused s hrest hx hkind hslot hm hl hs hq hregion hr hlost
  have plain : plainXfer x.kind = true := by rw [hkind]; rfl
  have writes : xferWrites x = [(a, d.length)] := by rw [xferWrites, hkind]
  have noSnoop : (xferWrites x).foldl (fun s r => snoopLines s x.part false r.1 r.2) s = s := by rw [writes]; exact hl
  have begun := updCore_calm s c.val fun k => { k with xfers := k.xfers.eraseIdx i }
  have effect := xferEffectOf_sram (s := updCore s c.val fun k => { k with xfers := k.xfers.eraseIdx i }) (p := c.val) (refused := refused) plain hq
  exact ⟨_, answers_at_rest hrest (exec_transferComplete hx hm noSnoop hs (not_fabricWait plain)) (effect.view.trans begun.view),
    xferEffectOf_store (s := updCore s c.val fun k => { k with xfers := k.xfers.eraseIdx i }) hkind hslot hq hregion hr hlost refused⟩

end Sys2Proof.Machine
end

section
/-!
PROOFS. Host writes that only count (R402): O52.
-/
namespace Sys2Proof.Machine

theorem ignoreHostWrite_regs (s : State) :
    ignoreHostWrite s = { s with regs := { s.regs with hostWrIgn := (ignoreHostWrite s).regs.hostWrIgn } } := by
  unfold ignoreHostWrite
  split <;> rfl

theorem settle_ignoreHostWrite {s : State} (hrest : Rest s = true) : settle (ignoreHostWrite s) = ignoreHostWrite s :=
  settle_view hrest (by rw [ignoreHostWrite_regs]; rfl)

/-- A register that the host may not write is none of HIU_IND_DATA's, and its write is ignored. -/
theorem registerWrite_host {s : State} {off : BitVec 24} {d : Word}
    (h : hostMay (regAt (windowBlock off) (off.setWidth 16)) = false) : registerWrite s (.bar0 .host off) d true = ignoreHostWrite s := by
  simp only [registerWrite, Bool.not_true, Bool.false_eq_true, if_false]
  split
  next data => rw [data] at h; cases h
  next dataHold => rw [dataHold] at h; cases h
  next => simp only [writeReg, h, Bool.not_false, and_self, if_true]

/-- Settles O52: each such write is `ignoreHostWrite`, which leaves a module at rest at rest. -/
theorem hostWritesOnlyCount : Obligations.HostWritesOnlyCount := by
  intro s hrest
  have ignored : (.next (settle (ignoreHostWrite s)) : Outcome) = .next (ignoreHostWrite s) := congrArg _ (settle_ignoreHostWrite hrest)
  refine ⟨fun off d h => ?_, fun d => ⟨ignored, ignored, ignored⟩, fun l on => ⟨ignored, ignored⟩, ignored, ignored, ignoreHostWrite_regs s⟩
  rw [exec, execRegisterWrite, registerWrite_host h, ignored]

end Sys2Proof.Machine
end

section
/-!
PROOFS. DATA flits enter the receive buffer in order (R248, R250): O58.
-/
namespace Sys2Proof.Machine

variable {s t u : State} {n : Nat} {f : Flit}

/-- What `Rest` reads and what a link has received stay. -/
structure Receives (n : Nat) (s t : State) : Prop where
  view : restView t = restView s
  up : (getLink t n).up = (getLink s n).up
  rxBuf : (getLink t n).rxBuf = (getLink s n).rxBuf
  rxSeq : (getLink t n).rxSeq = (getLink s n).rxSeq

theorem Receives.refl (n : Nat) (s : State) : Receives n s s := ⟨rfl, rfl, rfl, rfl⟩

theorem Receives.trans (h : Receives n s t) (h' : Receives n t u) : Receives n s u :=
  ⟨h'.view.trans h.view, h'.up.trans h.up, h'.rxBuf.trans h.rxBuf, h'.rxSeq.trans h.rxSeq⟩

theorem setLink_receives {l : Link} (up : l.up = (getLink s n).up) (buf : l.rxBuf = (getLink s n).rxBuf) (seq : l.rxSeq = (getLink s n).rxSeq) :
    Receives n s (setLink s n l) :=
  ⟨rfl, by rw [getLink_setLink, up], by rw [getLink_setLink, buf], by rw [getLink_setLink, seq]⟩

theorem emit_receives (s : State) (n : Nat) (o : Out) : Receives n s (emit s o) := ⟨rfl, rfl, rfl, rfl⟩

theorem count_receives (s : State) (n kind index cnt : Nat) : Receives n s (count s kind index cnt) := ⟨rfl, rfl, rfl, rfl⟩

theorem emitFlit_receives (s : State) (n : Nat) (f : Flit) : Receives n s (emitFlit s n f) := by
  unfold emitFlit
  split
  · exact Receives.refl n s
  · refine (emit_receives s n (.flit (BitVec.ofNat 6 n) (wireFlit f))).trans ?_
    dsimp only
    split
    · exact setLink_receives rfl rfl rfl
    · simp only [countSlot]
      split
      · refine Receives.trans ?_ (emit_receives ..)
        exact setLink_receives rfl rfl rfl
      · exact setLink_receives rfl rfl rfl

theorem egress_receives (s : State) (n : Nat) (p : Packet) : Receives n s (egress s p).1 := by
  unfold egress
  split <;> exact ⟨rfl, rfl, rfl, rfl⟩

theorem egress_links (s : State) (p : Packet) : (egress s p).1.links = s.links := by
  unfold egress
  split <;> rfl

theorem pumpLink_receives (fuel : Nat) (s : State) (n : Nat) : Receives n s (pumpLink fuel s n) := by
  induction fuel generalizing s with
  | zero => exact Receives.refl n s
  | succ fuel ih =>
    rw [pumpLink]
    dsimp only
    split
    · exact Receives.refl n s
    · split
      · exact Receives.refl n s
      next i arb _ =>
        have same : getLink (egress s ((getLink s n).txq.getD i {})).1 n = getLink s n := by
          rw [getLink, egress_links, getLink]
        refine (egress_receives s n _).trans (Receives.trans (setLink_receives ?_ ?_ ?_) ((count_receives ..).trans
          ((emitFlit_receives ..).trans (ih _))))
        · rw [same]; rfl
        · rw [same]
        · rw [same]

theorem sendLink_receives (s : State) (n : Nat) : Receives n s (sendLink s n) := pumpLink_receives ..

theorem takeHeader_receives (s : State) (n : Nat) (f : Flit) : Receives n s (takeHeader s n f) := by
  unfold takeHeader
  dsimp only
  split <;> exact setLink_receives rfl rfl rfl

/-- The packet of a DATA flit as it stands in the receive buffer of link `n`. -/
def rxPacket (n : Nat) (f : Flit) : Packet := { f.pkt with vc := f.vc, link := BitVec.ofNat 6 n, prio := none, maybe := false }

/-- A DATA flit with another sequence number than the next changes nothing of what the link has received. -/
theorem takeData_other (h : f.seq ≠ (getLink s n).rxSeq) : Receives n s (takeData s n f) := by
  simp only [takeData, if_neg h]
  split
  · exact emitFlit_receives ..
  · exact Receives.refl n s

theorem takeData_next (h : f.seq = (getLink s n).rxSeq) :
    restView (takeData s n f) = restView s ∧ (getLink (takeData s n f) n).up = (getLink s n).up ∧
      (getLink (takeData s n f) n).rxBuf = (getLink s n).rxBuf ++ [rxPacket n f] ∧
      (getLink (takeData s n f) n).rxSeq = (getLink s n).rxSeq + 1 := by
  simp only [takeData, if_pos h]
  have counted (l : Link) : getLink (count (setLink s n l) 6 n 5) n = l := getLink_setLink s n l
  rw [counted]
  exact ⟨rfl, rfl, rfl, rfl⟩

/-- A good DATA flit at a link that is up: its header is taken, then its packet, and the link sends what it can. -/
theorem exec_dataFlit_up {l : Fin 64} (hup : (getLink s l.val).up = true) (hgood : badFlit f = false) (hdata : f.ftype = 1) :
    execDataFlit l f s = .next (settle (sendLink (takeData (takeHeader s l.val f) l.val f) l.val)) := by
  simp only [execDataFlit, onFlit, hup, hgood, hdata, Bool.not_true, Bool.false_eq_true, if_false, ne_eq, not_true]

/-- What one flit does: either it enters the buffer as the next one or the link has received what it had. -/
theorem exec_dataFlit_received (hrest : Rest s = true) {l : Fin 64} (hup : (getLink s l.val).up = true) (hgood : badFlit f = false)
    (hdata : f.ftype = 1) : ∃ t, execDataFlit l f s = .next t ∧ Rest t = true ∧ (getLink t l.val).up = true ∧
      ((f.seq = (getLink s l.val).rxSeq ∧ (getLink t l.val).rxBuf = (getLink s l.val).rxBuf ++ [rxPacket l.val f] ∧
        (getLink t l.val).rxSeq = (getLink s l.val).rxSeq + 1) ∨
       ((getLink t l.val).rxBuf = (getLink s l.val).rxBuf ∧ (getLink t l.val).rxSeq = (getLink s l.val).rxSeq)) := by
  have header := takeHeader_receives s l.val f
  have sends := sendLink_receives (takeData (takeHeader s l.val f) l.val f) l.val
  rw [exec_dataFlit_up hup hgood hdata]
  by_cases hseq : f.seq = (getLink (takeHeader s l.val f) l.val).rxSeq
  · obtain ⟨view, up, buf, seq⟩ := takeData_next hseq
    have same := (sends.view.trans view).trans header.view
    exact ⟨_, congrArg _ (settle_view hrest same), (rest_congr same).trans hrest, ((sends.up.trans up).trans header.up).trans hup,
      .inl ⟨hseq.trans header.rxSeq, by rw [sends.rxBuf, buf, header.rxBuf], by rw [sends.rxSeq, seq, header.rxSeq]⟩⟩
  · have all := header.trans ((takeData_other hseq).trans sends)
    exact ⟨_, congrArg _ (settle_view hrest all.view), (rest_congr all.view).trans hrest, all.up.trans hup, .inr ⟨all.rxBuf, all.rxSeq⟩⟩

theorem seq_succ (q : BitVec 12) (i : Nat) : q + 1 + BitVec.ofNat 12 i = q + BitVec.ofNat 12 (i + 1) := by
  rw [BitVec.add_assoc, BitVec.ofNat_add, BitVec.add_comm (1 : BitVec 12)]
  rfl

/-- Settles O58, by induction on the flits. -/
theorem dataFlitsEnterInOrder : Obligations.DataFlitsEnterInOrder := by
  intro l fs
  induction fs with
  | nil => exact fun s _ _ _ => ⟨s, [], rfl, List.Sublist.refl _, by simp, by simp, by simp⟩
  | cons f fs ih =>
    intro s hrest hup hgood
    obtain ⟨good, data⟩ := hgood f (List.mem_cons_self ..)
    obtain ⟨u, one, rest, up, effect⟩ := exec_dataFlit_received hrest hup good data
    obtain ⟨t, took, all, sub, buf, seqs, next⟩ := ih u rest up fun g hg => hgood g (List.mem_cons_of_mem _ hg)
    have run : arriveAll l (f :: fs) s = .next t := by rw [arriveAll, one]; exact all
    obtain ⟨hseq, hbuf, hnext⟩ | ⟨hbuf, hnext⟩ := effect
    · refine ⟨t, f :: took, run, sub.cons_cons f, ?_, fun i g hg => ?_, ?_⟩
      · rw [buf, hbuf, List.append_assoc]
        rfl
      · cases i with
        | zero =>
          obtain rfl : f = g := by simpa using hg
          rw [hseq]
          simp
        | succ i =>
          rw [seqs i g (by simpa using hg), hnext, seq_succ]
      · rw [next, hnext, List.length_cons, seq_succ]
    · exact ⟨t, took, run, sub.cons f, by rw [buf, hbuf], fun i g hg => by rw [seqs i g hg, hnext], by rw [next, hnext]⟩

end Sys2Proof.Machine
end

section
/-!
PROOFS. The event log keeps its retained records (R395): O57.
-/
namespace Sys2Proof.Machine

variable {s : State} {r q : LogRec} {l l' : List LogRec} {stuck : Bool} {held : List (BitVec 16)}

/-! ### The record that is stored next -/

theorem mem_of_nextRec (h : nextRec stuck held l = some (r, l')) (hq : q ∈ l) : q = r ∨ q ∈ l' := by
  induction l generalizing held l' with
  | nil => cases hq
  | cons p l ih =>
    rw [nextRec] at h
    split at h
    · obtain ⟨⟨r', l''⟩, hnext, heq⟩ := Option.map_eq_some_iff.mp h
      obtain ⟨rfl, rfl⟩ := Prod.mk.inj heq
      rcases List.mem_cons.mp hq with rfl | hq
      · exact .inr (List.mem_cons_self ..)
      · exact (ih hnext hq).imp_right (List.mem_cons_of_mem _)
    · obtain ⟨rfl, rfl⟩ := Prod.mk.inj (Option.some.inj h)
      exact List.mem_cons.mp hq

/-- While the store holds only retained records the next one is not retained. -/
theorem not_retained_of_nextRec (h : nextRec true held l = some (r, l')) : r.retained = false := by
  induction l generalizing held l' with
  | nil => cases h
  | cons p l ih =>
    rw [nextRec] at h
    split at h
    · obtain ⟨⟨r', l''⟩, hnext, heq⟩ := Option.map_eq_some_iff.mp h
      obtain ⟨rfl, -⟩ := Prod.mk.inj heq
      exact ih hnext
    next free =>
      obtain ⟨rfl, -⟩ := Prod.mk.inj (Option.some.inj h)
      simp only [Bool.true_and, Bool.or_eq_true, not_or, Bool.not_eq_true] at free
      exact free.1

/-! ### The store -/

theorem findIdx?_eq_some {α : Type} {p : α → Bool} {l : List α} {i k : Nat} (h : findIdx? p l i = some k) :
    ∃ pre a post, l = pre ++ a :: post ∧ p a = true ∧ (∀ b ∈ pre, p b = false) ∧ k = i + pre.length := by
  induction l generalizing i with
  | nil => cases h
  | cons a l ih =>
    rw [findIdx?] at h
    split at h
    next found => exact ⟨[], a, l, rfl, found, fun b hb => absurd hb (List.not_mem_nil), (Option.some.inj h).symm⟩
    next other =>
      obtain ⟨pre, b, post, rfl, hb, before, rfl⟩ := ih h
      refine ⟨a :: pre, b, post, rfl, hb, fun c hc => ?_, by rw [List.length_cons]; omega⟩
      rcases List.mem_cons.mp hc with rfl | hc
      · exact Bool.eq_false_iff.mpr other
      · exact before c hc

theorem findIdx?_append {α : Type} {p : α → Bool} {pre post : List α} {a : α} (hpre : ∀ b ∈ pre, p b = false) (ha : p a = true) (i : Nat) :
    findIdx? p (pre ++ a :: post) i = some (i + pre.length) := by
  induction pre generalizing i with
  | nil => simp only [List.nil_append, findIdx?, ha, if_true, List.length_nil, Nat.add_zero]
  | cons b pre ih =>
    rw [List.cons_append, findIdx?, hpre b (List.mem_cons_self ..), ih fun c hc => hpre c (List.mem_cons_of_mem _ hc)]
    simp only [Bool.false_eq_true, if_false, List.length_cons]
    congr 1
    omega

theorem eq_none_of_findIdx? {α : Type} {p : α → Bool} {l : List α} {i : Nat} (h : findIdx? p l i = none) : ∀ a ∈ l, p a = false := by
  intro a ha
  obtain ⟨pre, post, rfl⟩ := List.append_of_mem ha
  refine Bool.eq_false_iff.mpr fun found => ?_
  induction pre generalizing i with
  | nil => simp only [List.nil_append, findIdx?, found, if_true, reduceCtorEq] at h
  | cons b pre ih =>
    rw [List.cons_append, findIdx?] at h
    split at h
    · cases h
    · exact ih h (List.mem_append_right _ (List.mem_cons_self ..))

/-- A full store drops its oldest record that is not retained. -/
theorem storeRec_full {pre post : List LogRec} {old : LogRec} (hstore : s.log.store = pre ++ old :: post) (hfull : 8192 ≤ s.log.store.length)
    (hold : old.retained = false) (hpre : ∀ q ∈ pre, q.retained = true) :
    storeRec s r = discardRec { s with log := { s.log with store := pre ++ post ++ [r] } } old := by
  have found : findIdx? (fun q : LogRec => !q.retained) s.log.store 0 = some pre.length := by
    rw [hstore, findIdx?_append (fun q hq => by rw [hpre q hq]; rfl) (by rw [hold]; rfl), Nat.zero_add]
  have erased : s.log.store.eraseIdx pre.length = pre ++ post := by
    rw [hstore, List.eraseIdx_append_of_length_le (Nat.le_refl _), Nat.sub_self, List.eraseIdx_cons_zero]
  have oldest : s.log.store.getD pre.length {} = old := by
    rw [hstore, List.getD_eq_getElem?_getD, List.getElem?_append_right (Nat.le_refl _), Nat.sub_self]
    rfl
  simp only [storeRec, if_neg (Nat.not_lt.mpr hfull), found, erased, oldest]

/-- Storing a record keeps the store within its size, and every retained record that it holds, and the new one if it is retained. -/
theorem storeRec_store (hlen : s.log.store.length ≤ 8192)
    (hr : r.retained = true → s.log.store.length < 8192 ∨ s.log.store.all (·.retained) = false) :
    (storeRec s r).log.store.length ≤ 8192 ∧
      ∀ q, q.retained = true → q ∈ s.log.store ∨ q = r → q ∈ (storeRec s r).log.store := by
  by_cases room : s.log.store.length < 8192
  · simp only [storeRec, if_pos room, List.length_append, List.length_singleton, List.mem_append, List.mem_singleton]
    exact ⟨room, fun _ _ => id⟩
  · cases hfind : findIdx? (fun q : LogRec => !q.retained) s.log.store 0 with
    | none =>
      have same : storeRec s r = discardRec s r := by simp only [storeRec, if_neg room, hfind]
      have all : s.log.store.all (·.retained) = true := List.all_eq_true.mpr fun q hq =>
        by simpa using eq_none_of_findIdx? hfind q hq
      rw [same]
      refine ⟨hlen, fun q hq hmem => hmem.resolve_right ?_⟩
      rintro rfl
      rcases hr hq with room' | some_not
      · exact room room'
      · rw [all] at some_not
        cases some_not
    | some k =>
      obtain ⟨pre, old, post, hstore, hold, hpre, -⟩ := findIdx?_eq_some hfind
      have not_retained : old.retained = false := by simpa using hold
      rw [storeRec_full hstore (Nat.not_lt.mp room) not_retained fun q hq => by simpa using hpre q hq]
      refine ⟨?_, fun q hq hmem => ?_⟩
      · show (pre ++ post ++ [r]).length ≤ 8192
        rw [hstore] at hlen
        simp only [List.length_append, List.length_cons, List.length_nil] at hlen ⊢
        omega
      · show q ∈ pre ++ post ++ [r]
        rw [hstore] at hmem
        have other : q ≠ old := fun h => by rw [h, not_retained] at hq; cases hq
        simp only [List.mem_append, List.mem_cons] at hmem ⊢
        rcases hmem with (before | same | after) | new
        · exact .inl (.inl before)
        · exact absurd same other
        · exact .inl (.inr after)
        · exact .inr (.inl new)

theorem storeRec_log (s : State) (r : LogRec) : (storeRec s r).log.held = s.log.held ∧ (storeRec s r).log.waiting = s.log.waiting := by
  unfold storeRec
  dsimp only
  split
  · exact ⟨rfl, rfl⟩
  · split <;> exact ⟨rfl, rfl⟩

theorem reportGone_log (s : State) : (reportGone s).log.store = s.log.store ∧ (reportGone s).log.held = s.log.held ∧
    ∀ q ∈ s.log.waiting, q ∈ (reportGone s).log.waiting := by
  unfold reportGone
  split
  · exact ⟨rfl, rfl, fun _ => id⟩
  · split
    · exact ⟨rfl, rfl, fun _ => id⟩
    · exact ⟨rfl, rfl, fun _ => List.mem_append_left _⟩

/-! ### LOG_RECORD_STORE -/

/-- Only the log changes. -/
theorem logRecordStore_view (s : State) : restView (logRecordStore s) = restView s := by
  have report (s : State) : restView (reportGone s) = restView s := by
    unfold reportGone
    split
    · rfl
    · split <;> rfl
  have store (s : State) (r : LogRec) : restView (storeRec s r) = restView s := by
    unfold storeRec
    dsimp only
    split
    · rfl
    · split <;> rfl
  unfold logRecordStore
  split
  · dsimp only
    split
    · rfl
    · split <;> rfl
  · dsimp only
    split
    · exact (report _).trans (store ..)
    · split
      · rfl
      · split
        · exact (report _).trans (store ..)
        · exact report _

/-- The records that the log holds. -/
def EventLog.records (g : EventLog) : List LogRec := g.store ++ g.held ++ g.waiting

theorem EventLog.mem_records {g : EventLog} : q ∈ g.records ↔ q ∈ g.store ∨ q ∈ g.held ∨ q ∈ g.waiting := by
  simp only [EventLog.records, List.mem_append, or_assoc]

/-- The store keeps its size, and no retained record is lost. -/
def KeepsRetained (s t : State) : Prop :=
  t.log.store.length ≤ 8192 ∧ ∀ q, q.retained = true → q ∈ s.log.records → q ∈ t.log.records

/-- Storing a record that was taken out of those held or waiting loses no retained one. -/
theorem storeRec_keeps {s u : State} (hstore : u.log.store = s.log.store) (hlen : s.log.store.length ≤ 8192)
    (hr : r.retained = true → s.log.store.length < 8192 ∨ s.log.store.all (·.retained) = false)
    (htaken : ∀ q, q ∈ s.log.held ∨ q ∈ s.log.waiting → q = r ∨ q ∈ u.log.held ∨ q ∈ u.log.waiting) :
    KeepsRetained s (reportGone (storeRec u r)) := by
  obtain ⟨rstore, rheld, rwaiting⟩ := reportGone_log (storeRec u r)
  obtain ⟨sheld, swaiting⟩ := storeRec_log u r
  obtain ⟨len, stored⟩ := storeRec_store (s := u) (hstore ▸ hlen) (hstore ▸ hr)
  refine ⟨by rw [rstore]; exact len, fun q hq hmem => ?_⟩
  rw [EventLog.mem_records, rstore, rheld, sheld]
  rcases EventLog.mem_records.mp hmem with in_store | elsewhere
  · exact .inl (stored q hq (.inl (hstore ▸ in_store)))
  · rcases htaken q elsewhere with rfl | in_held | in_waiting
    · exact .inl (stored q hq (.inr rfl))
    · exact .inr (.inl in_held)
    · exact .inr (.inr (rwaiting q (swaiting ▸ in_waiting)))

/-- A retained record is taken only while the store has room for it. -/
theorem room_of_nextRec (h : nextRec (decide (8192 ≤ s.log.store.length) && s.log.store.all (·.retained)) held l = some (r, l'))
    (hr : r.retained = true) : s.log.store.length < 8192 ∨ s.log.store.all (·.retained) = false := by
  refine Decidable.byContradiction fun full => ?_
  simp only [not_or, Nat.not_lt, Bool.not_eq_false] at full
  rw [full.2, decide_eq_true full.1, Bool.and_self] at h
  rw [not_retained_of_nextRec h] at hr
  cases hr

/-- While the RTP restarts a record goes into the places held, or is discarded where these are full and it is not retained. -/
theorem logRecordStore_keeps_down (hdown : s.rtpDown = true) (hlen : s.log.store.length ≤ 8192) : KeepsRetained s (logRecordStore s) := by
  simp only [logRecordStore, hdown, if_true]
  split
  · exact ⟨hlen, fun _ _ => id⟩
  next r l hnext =>
    split
    next full =>
      rw [full] at hnext
      refine ⟨hlen, fun q hq hmem => EventLog.mem_records.mpr ((EventLog.mem_records.mp hmem).imp_right (Or.imp_right fun hw => ?_))⟩
      refine (mem_of_nextRec hnext hw).resolve_left ?_
      rintro rfl
      rw [not_retained_of_nextRec hnext] at hq
      cases hq
    next =>
      refine ⟨hlen, fun q _ hmem => EventLog.mem_records.mpr ((EventLog.mem_records.mp hmem).imp_right fun elsewhere => ?_)⟩
      rcases elsewhere with hh | hw
      · exact .inl (List.mem_append_left _ hh)
      · rcases mem_of_nextRec hnext hw with rfl | hw
        · exact .inl (List.mem_append_right _ (List.mem_singleton_self _))
        · exact .inr hw

theorem logRecordStore_keeps (hlen : s.log.store.length ≤ 8192) : KeepsRetained s (logRecordStore s) := by
  cases hdown : s.rtpDown with
  | true => exact logRecordStore_keeps_down hdown hlen
  | false =>
    simp only [logRecordStore, hdown, Bool.false_eq_true, if_false]
    split
    next r l hnext =>
      exact storeRec_keeps rfl hlen (room_of_nextRec hnext) fun q hq => hq.elim
        (fun hh => (mem_of_nextRec hnext hh).imp_right .inl) fun hw => .inr (.inr hw)
    next =>
      split
      · exact ⟨hlen, fun _ _ => id⟩
      next =>
        split
        next r l hnext =>
          exact storeRec_keeps rfl hlen (room_of_nextRec hnext) fun q hq => hq.elim (fun hh => .inr (.inl hh)) fun hw =>
            (mem_of_nextRec hnext hw).imp_right .inr
        next =>
          obtain ⟨rstore, rheld, rwaiting⟩ := reportGone_log s
          refine ⟨rstore ▸ hlen, fun q _ hmem => ?_⟩
          rw [EventLog.mem_records, rstore, rheld]
          exact (EventLog.mem_records.mp hmem).imp_right (Or.imp_right (rwaiting q))

/-- A full store that is not of retained records only: the oldest other one makes room, and its loss is counted and noted. -/
theorem logRecordStore_full {pre post : List LogRec} {old : LogRec} (hup : s.rtpDown = false) (hheld : s.log.held = [])
    (hwaiting : s.log.waiting = r :: l) (hfull : s.log.store.length = 8192) (hstore : s.log.store = pre ++ old :: post)
    (hold : old.retained = false) (hpre : ∀ q ∈ pre, q.retained = true) :
    logRecordStore s = discardRec { s with log := { s.log with store := pre ++ post ++ [r], waiting := l } } old := by
  have all : s.log.store.all (·.retained) = false := by
    rw [hstore, List.all_append, List.all_cons, hold, Bool.false_and, Bool.and_false]
  have stored := storeRec_full (s := { s with log := { s.log with waiting := l } }) (r := r) hstore (Nat.le_of_eq hfull.symm) hold hpre
  have size : 8192 ≤ (pre ++ post ++ [r]).length := by
    rw [hstore] at hfull
    simp only [List.length_append, List.length_cons, List.length_nil] at hfull ⊢
    omega
  have no_held (b : Bool) : nextRec b [] s.log.held = none := by rw [hheld]; rfl
  have next : nextRec (decide (8192 ≤ s.log.store.length) && s.log.store.all (·.retained)) [] s.log.waiting = some (r, l) := by
    rw [all, Bool.and_false, hwaiting]
    rfl
  rw [logRecordStore, if_neg (Bool.eq_false_iff.mp hup)]
  simp only [no_held, next]
  rw [if_neg (not_not_intro hheld), stored, reportGone]
  split
  · rfl
  · exact if_pos size

theorem exec_logRecordStore (hrest : Rest s = true) : exec .logRecordStore s = .next (logRecordStore s) := by
  rw [exec, execLogRecordStore, settle_view hrest (logRecordStore_view s)]

/-- Settles O57, by the record that LOG_RECORD_STORE takes next and by what `storeRec` keeps. -/
theorem retainedRecordsStay : Obligations.RetainedRecordsStay := by
  intro s hrest hlen
  obtain ⟨len, kept⟩ := logRecordStore_keeps hlen
  refine ⟨logRecordStore s, exec_logRecordStore hrest, len, kept, ?_⟩
  intro r l pre old post hup hheld hwaiting hfull hstore hold hpre
  rw [logRecordStore_full hup hheld hwaiting hfull hstore hold hpre]
  exact ⟨rfl, rfl, rfl⟩

end Sys2Proof.Machine
end

section
/-!
PROOFS. Interrupt claims (R386, R387): O59.
-/
namespace Sys2Proof

namespace Tbl

theorem put_put {α : Type} (t : Tbl α) (k : Nat) (v : α) : put (put t k v) k v = put t k v := by
  induction t with
  | nil => simp only [put, Nat.lt_irrefl, if_false, if_true]
  | cons e t ih =>
    obtain ⟨j, u⟩ := e
    rcases Nat.lt_trichotomy k j with lt | rfl | gt
    · simp only [put, if_pos lt, Nat.lt_irrefl, if_false, if_true]
    · simp only [put, Nat.lt_irrefl, if_false, if_true]
    · simp only [put, if_neg (Nat.lt_asymm gt), if_neg (Nat.ne_of_gt gt), ih]

/-- Writing the value that was just written, not the default, changes nothing. -/
theorem set_set {α : Type} [DecidableEq α] {d v : α} (hv : v ≠ d) (t : Tbl α) (k : Nat) : set d (set d t k v) k v = set d t k v := by
  simp only [set, if_neg hv, put_put]

theorem keys_of_wfFrom {α : Type} [DecidableEq α] {d : α} {t : Tbl α} {lo : Nat} (h : wfFrom d lo t = true) :
    t.Pairwise (fun a b => a.1 < b.1) ∧ ∀ e ∈ t, lo ≤ e.1 := by
  induction t generalizing lo with
  | nil => exact ⟨List.Pairwise.nil, fun e he => absurd he List.not_mem_nil⟩
  | cons e t ih =>
    obtain ⟨j, v⟩ := e
    simp only [wfFrom, Bool.and_eq_true, decide_eq_true_eq] at h
    obtain ⟨sorted, above⟩ := ih h.2
    refine ⟨List.pairwise_cons.mpr ⟨fun e he => above e he, sorted⟩, fun e he => ?_⟩
    rcases List.mem_cons.mp he with rfl | he
    · exact h.1.1
    · exact Nat.le_trans h.1.1 (Nat.le_trans (Nat.le_succ j) (above e he))

end Tbl

namespace Machine

variable {s t : State} {q src : Nat}

theorem bit_setBit_self {n : Nat} (w : BitVec n) {i : Nat} (hi : i < n) : bit (setBit w i true) i = true := by
  have power : (BitVec.ofNat n (2 ^ i)).getLsbD i = true := by
    rw [BitVec.getLsbD_ofNat, Nat.testBit_two_pow_self, Bool.and_true, decide_eq_true hi]
  simp only [bit, setBit, if_true, BitVec.getLsbD_or, power, Bool.or_true]

/-! ### The source that a claim takes -/

/-- The source numbers of the candidates ascend. -/
theorem candidates_sorted (hwf : Tbl.wf {} s.irqs = true) (q : Nat) : (candidates s q).Pairwise fun a b => a.1 < b.1 := by
  refine List.Pairwise.filter _ (List.pairwise_append.mpr ⟨?_, ?_, fun a ha b hb => ?_⟩)
  · exact List.pairwise_map.mpr (List.pairwise_lt_range.filter _)
  · refine (Tbl.keys_of_wfFrom hwf).1.filterMap _ fun e e' lt a ha b hb => ?_
    split at ha
    · split at hb
      · obtain rfl := Option.some.inj ha
        obtain rfl := Option.some.inj hb
        exact Nat.add_lt_add_left lt 64
      · cases hb
    · cases ha
  · obtain ⟨i, hi, rfl⟩ := List.mem_map.mp ha
    obtain ⟨e, -, he⟩ := List.mem_filterMap.mp hb
    have low := List.mem_range.mp (List.mem_filter.mp hi).1
    split at he
    · obtain rfl := Option.some.inj he
      show i < 64 + e.1
      omega
    · cases he

theorem bestOf_cons_ne_none (e : Nat × Nat) (l : List (Nat × Nat)) : bestOf (e :: l) ≠ none := by
  rw [bestOf]
  split
  · exact Option.some_ne_none _
  · split <;> exact Option.some_ne_none _

/-- The best of a list with ascending numbers is one of it, of the highest PRIO, and of the lowest number of those. -/
theorem bestOf_spec {l : List (Nat × Nat)} {b : Nat × Nat} (hl : l.Pairwise fun a b => a.1 < b.1) (h : bestOf l = some b) :
    b ∈ l ∧ ∀ e ∈ l, e.2 < b.2 ∨ (e.2 = b.2 ∧ b.1 ≤ e.1) := by
  induction l generalizing b with
  | nil => cases h
  | cons a l ih =>
    obtain ⟨first, sorted⟩ := List.pairwise_cons.mp hl
    rw [bestOf] at h
    split at h
    next none =>
      obtain rfl := Option.some.inj h
      cases l with
      | nil => exact ⟨List.mem_cons_self .., fun e he => .inr (by rw [List.mem_singleton.mp he]; exact ⟨rfl, Nat.le_refl _⟩)⟩
      | cons c l => exact absurd none (bestOf_cons_ne_none c l)
    next c best =>
      obtain ⟨mem, top⟩ := ih sorted best
      split at h
      next lt =>
        obtain rfl := Option.some.inj h
        refine ⟨List.mem_cons_of_mem _ mem, fun e he => ?_⟩
        rcases List.mem_cons.mp he with rfl | he
        · exact .inl lt
        · exact top e he
      next ge =>
        obtain rfl := Option.some.inj h
        refine ⟨List.mem_cons_self .., fun e he => ?_⟩
        rcases List.mem_cons.mp he with rfl | he
        · exact .inr ⟨rfl, Nat.le_refl _⟩
        · have := first e he
          have := top e he
          omega

/-! ### The claim -/

theorem claimSource_view (s : State) (q src : Nat) : restView (claimSource s q src) = restView s := by
  unfold claimSource
  split <;> rfl

theorem claimSource_private (h : src < 64) : bit (getProc (claimSource s q src) q).pactive src = true := by
  simp only [claimSource, if_pos h, getProc_setProc]
  exact bit_setBit_self _ h

theorem claimSource_shared (h : 64 ≤ src) : getIrq (claimSource s q src) (src - 64) =
    { getIrq s (src - 64) with
      active := true, at_ := BitVec.ofNat 6 q, pend := if srcLevel s (src - 64) then (getIrq s (src - 64)).pend else false } := by
  simp only [claimSource, if_neg (Nat.not_lt.mpr h), getIrq_setIrq]

/-- The state after a claim that returns `r` and leaves `t`. -/
def claimed (q : Nat) (r : BitVec 16) (t : State) : State :=
  { setProc t q { getProc t q with committed := false } with lastRead := r.setWidth 32 }

theorem getProc_claimed (q : Nat) (r : BitVec 16) (t : State) : getProc (claimed q r t) q = { getProc t q with committed := false } :=
  getProc_setProc t q _

theorem exec_eicClaim {q : Fin 49} {r : BitVec 16 × State} (hr : (if accepts s q.val then claimAt s q.val else (0, s)) = r) :
    exec (.eicClaim q) s = .next (settle (claimed q.val r.1 r.2)) := by
  subst hr
  rfl

theorem exec_eicClaim_taken {q : Fin 49} (hrest : Rest s = true) (hwf : Tbl.wf {} s.irqs = true) (ha : accepts s q.val = true)
    (hc : candidates s q.val ≠ []) : ∃ e ∈ candidates s q.val, (∀ e' ∈ candidates s q.val, e'.2 < e.2 ∨ (e'.2 = e.2 ∧ e.1 ≤ e'.1)) ∧
      exec (.eicClaim q) s = .next (claimed q.val (claimValue e) (claimSource s q.val e.1)) := by
  cases hb : bestOf (candidates s q.val) with
  | none =>
    obtain ⟨a, l, hl⟩ := List.exists_cons_of_ne_nil hc
    rw [hl] at hb
    exact absurd hb (bestOf_cons_ne_none a l)
  | some e =>
    obtain ⟨mem, top⟩ := bestOf_spec (candidates_sorted hwf q.val) hb
    refine ⟨e, mem, top, ?_⟩
    rw [exec_eicClaim (r := (claimValue e, claimSource s q.val e.1)) (by simp only [ha, if_true, claimAt, hb])]
    exact congrArg _ (settle_view hrest (claimSource_view s q.val e.1))

theorem exec_eicClaim_none {q : Fin 49} (hrest : Rest s = true) (h : accepts s q.val = false ∨ candidates s q.val = []) :
    exec (.eicClaim q) s = .next (claimed q.val 0 s) := by
  have nothing : (if accepts s q.val then claimAt s q.val else (0, s)) = (0, s) := by
    rcases h with h | h
    · rw [h]
      rfl
    · simp only [claimAt, h, bestOf, ite_self]
  rw [exec_eicClaim nothing]
  exact congrArg _ (settle_view hrest rfl)

/-- Settles O59: the numbers of the candidates ascend, and the best of them is what `claimSource` marks. -/
theorem claimsTakeTheHighestPriority : Obligations.ClaimsTakeTheHighestPriority := by
  refine ⟨fun q s hrest hwf ha hc => ?_, fun q s hrest h => ?_, fun s n => ⟨?_, ?_⟩⟩
  · obtain ⟨⟨src, prio⟩, mem, top, answer⟩ := exec_eicClaim_taken hrest hwf ha hc
    refine ⟨_, src, prio, answer, mem, top, rfl, fun h => ?_, fun h => ?_⟩
    · rw [getProc_claimed]
      exact claimSource_private h
    · have marked : getIrq (claimed q.val (claimValue (src, prio)) (claimSource s q.val src)) (src - 64) = _ := claimSource_shared h
      rw [marked]
      exact ⟨rfl, rfl, fun edge => by rw [edge]; rfl⟩
  · refine ⟨_, exec_eicClaim_none hrest h, rfl, rfl, ?_⟩
    rw [getProc_claimed]
  · have pending : ({ getIrq s n with pend := true } : IrqSource) ≠ {} := fun h => by cases congrArg IrqSource.pend h
    rw [irqEdge, irqEdge, getIrq_setIrq, setIrq, setIrq]
    simp only [Tbl.set_set pending]
  · rw [irqEdge, getIrq_setIrq]

end Machine

end Sys2Proof
end

section
/-!
PROOFS. Ticks and credits at cores, the events of cores, unknown opcodes (R35, R72, R75, R90, R101, R117, R122, R327, R430): O12.
-/
namespace Sys2Proof.Machine

variable {s : State} {c : Fin 320}

/-! ### Ticks (R35, R327) -/

theorem slotKind_of_lt {p : Nat} (h : p % 10 < 8) : slotKind p ≠ 2 := by
  unfold slotKind
  split
  · decide
  · decide

theorem slotKind_eq_zero_iff {p : Nat} : slotKind p = 0 ↔ p % 10 < 5 := by
  unfold slotKind
  split
  next low => exact iff_of_true rfl low
  next high =>
    refine iff_of_false ?_ high
    split <;> decide

theorem paceTick_metered (h : c.val % 10 < 8) (ht : clusterTicks s (c.val / 10) = true) :
    paceTick s c.val = if (getCore s c.val).credits < 4 then setCore s c.val { getCore s c.val with credits := (getCore s c.val).credits + 1 }
      else if (if c.val % 10 < 5 then mReady s c.val else vReady s c.val) then count (count s 1 c.val 3) 4 (corePart s c.val) 1
      else if fillerAdmits s c.val then count s 1 c.val 5 else count s 1 c.val 2 := by
  simp only [paceTick, slotKind_of_lt h, ht, Bool.not_true, Bool.false_eq_true, or_self, if_false, slotKind_eq_zero_iff]

theorem paceTick_unmetered (h : 8 ≤ c.val % 10 ∨ clusterTicks s (c.val / 10) = false) : paceTick s c.val = s := by
  unfold paceTick
  refine if_pos (h.imp (fun h => ?_) fun h => by rw [h]; rfl)
  rw [slotKind, if_neg (by omega), if_neg (by omega)]

/-! ### Events of cores -/

theorem exec_icacheFill {line : BitVec 58} (h : (getCore s c.val).run = .running) : exec (.icacheFill c line) s =
    .next (settle (setCore s c.val (touchLine (icacheSets c.val) (getCore s c.val) line.toNat))) := by
  simp only [exec, execIcacheFill, h, true_or, if_true, updCore]

/-- A transfer completes at once where no domain is switched, no line is held and no snoop is out. -/
theorem exec_transferComplete_alone {i : Nat} {refused : Bool} {x : Xfer} (hx : (getCore s c.val).xfers[i]? = some x)
    (hd : s.gov.domains = []) (hh : s.cohHeld = []) (hs : s.snoops = []) (hf : fabricWait s c.val x = false) :
    exec (.transferComplete c i refused) s = .next (settle (xferEffectOf
      (setCore s c.val { getCore s c.val with xfers := (getCore s c.val).xfers.eraseIdx i }) c.val x refused)) := by
  refine exec_transferComplete hx (if_pos hd) ?_ ?_ hf
  · exact List.foldlRecOn (motive := fun u => u = s) _ _ rfl fun u hu r _ => by rw [hu]; exact if_pos hh
  · simp only [snoopWait, hs, bne_self_eq_false, Bool.false_and]

theorem exec_forcedPointReached (hrun : (getCore s c.val).run = .running) (hp : (getCore s c.val).point ≠ .none)
    (hf : (getCore s c.val).forced = true) (hd : drained s c.val = true) :
    exec (.forcedPointReached c) s = .next (settle (takePoint s c.val false)) := by
  have asked : ((getCore s c.val).point == .none) = false := beq_eq_false_iff_ne.mpr hp
  simp only [exec, execForcedPointReached, hrun, asked, hf, hd, Bool.not_true, Bool.or_self, Bool.false_eq_true, if_false]

theorem exec_syncCounterAdd {cl : Fin 32} {slot : Fin 8} {n : Fin 32} {g : SyncGroup} (hmem : (cl.val * 8 + slot.val, n.val) ∈ s.signals)
    (hg : Tbl.get none s.sync (cl.val * 8 + slot.val) = some g) : exec (.syncCounterAdd cl slot n) s = .next (settle (wakeCounter { s with
      signals := s.signals.erase (cl.val * 8 + slot.val, n.val)
      sync := Tbl.set none s.sync (cl.val * 8 + slot.val)
        (some { g with counters := Tbl.set 0 g.counters n.val (Tbl.get 0 g.counters n.val + 1) }) }
      (cl.val * 8 + slot.val) n.val (Tbl.get 0 g.counters n.val + 1))) := by
  have key : syncKey (BitVec.ofNat 5 cl.val) (BitVec.ofNat 3 slot.val) = cl.val * 8 + slot.val := by
    rw [syncKey, BitVec.toNat_ofNat, BitVec.toNat_ofNat, Nat.mod_eq_of_lt cl.isLt, Nat.mod_eq_of_lt slot.isLt]
  simp only [exec, execSyncCounterAdd, List.contains_iff_mem.mpr hmem, if_true, counterAdd, key, hg]

/-! ### Unknown opcodes (R75, R101, R117) -/

theorem kind_mPid (m : Fin 160) : slotKind (mPid m) = 0 ∧ Fin.ofNat 160 (kindIndex (mPid m)) = m := by
  have slot : mPid m % 10 = m.val % 5 := by rw [mPid]; omega
  have kind : slotKind (mPid m) = 0 := by rw [slotKind, slot, if_pos (by omega)]
  refine ⟨kind, Fin.ext ?_⟩
  simp only [kindIndex, kind, Fin.ofNat]
  simp only [mPid]
  omega

theorem kind_vPid (m : Fin 96) : slotKind (vPid m) = 1 ∧ Fin.ofNat 96 (kindIndex (vPid m)) = m := by
  have slot : vPid m % 10 = m.val % 3 + 5 := by rw [vPid]; omega
  have kind : slotKind (vPid m) = 1 := by rw [slotKind, slot, if_neg (by omega), if_pos (by omega)]
  refine ⟨kind, Fin.ext ?_⟩
  simp only [kindIndex, kind, Fin.ofNat]
  simp only [vPid]
  omega

theorem kind_sPid (m : Fin 64) : slotKind (sPid m) = 2 ∧ Fin.ofNat 64 (kindIndex (sPid m)) = m := by
  have slot : sPid m % 10 = m.val % 2 + 8 := by rw [sPid]; omega
  have kind : slotKind (sPid m) = 2 := by rw [slotKind, slot, if_neg (by omega), if_neg (by omega)]
  refine ⟨kind, Fin.ext ?_⟩
  simp only [kindIndex, kind, Fin.ofNat]
  simp only [sPid]
  omega

theorem exec_illegalOpcode_m {m : Fin 160} {w : Dword} (hp : mPid m < 320) (h : mIssue s m w (fld w 63 56) 0x00FFFFFFFFFFFFFF = true)
    (ho : fld w 63 56 ∉ mOpcodes) : exec (.illegalOpcode ⟨mPid m, hp⟩ w) s = .next (settle (coreException s (mPid m) 0x01)) := by
  obtain ⟨kind, index⟩ := kind_mPid m
  simp only [mIssue, Bool.and_eq_true, beq_iff_eq] at h
  obtain ⟨⟨⟨⟨-, -⟩, can⟩, job⟩, fetched⟩ := h
  simp only [exec, execIllegalOpcode, kind, index, issueM, can, job, fetched, ne_eq, not_true, Bool.not_true, Bool.false_eq_true, or_self,
    if_false, ite_self, List.contains_iff_mem, ho]

theorem exec_illegalOpcode_v {m : Fin 96} {w : Dword} (hp : vPid m < 320) (h : vIssue s m w (fld w 63 56) 0x00FFFFFFFFFFFFFF [] = true)
    (ho : fld w 63 56 ∉ vOpcodes) : exec (.illegalOpcode ⟨vPid m, hp⟩ w) s = .next (settle (coreException s (vPid m) 0x01)) := by
  obtain ⟨kind, index⟩ := kind_vPid m
  simp only [vIssue, Bool.and_eq_true, beq_iff_eq, Bool.not_eq_true'] at h
  obtain ⟨⟨⟨⟨⟨-, -⟩, can⟩, beat⟩, fetched⟩, busy⟩ := h
  simp only [exec, execIllegalOpcode, kind, index, issueV, can, beat, fetched, busy, ne_eq, not_true, Bool.not_true, Bool.false_eq_true,
    or_self, if_false, ite_self, List.contains_iff_mem, ho]

theorem exec_illegalOpcode_s {m : Fin 64} {w : Dword} (hp : sPid m < 320)
    (h : sIssue s m (w.setWidth 32) (fld w 31 26) 0x03FFFFFF [] = true) (ho : fld w 31 26 ∉ sOpcodes) (hl : loadsOut s (sPid m) = false) :
    exec (.illegalOpcode ⟨sPid m, hp⟩ w) s = .next (settle (sException s (sPid m) 0x01 0)) := by
  obtain ⟨kind, index⟩ := kind_sPid m
  simp only [sIssue, Bool.and_eq_true, beq_iff_eq, Bool.not_eq_true'] at h
  obtain ⟨⟨⟨⟨opc, -⟩, can⟩, fetched⟩, busy⟩ := h
  simp only [exec, execIllegalOpcode, kind, index, issueS, opc, can, fetched, busy, hl, ne_eq, not_true, Bool.not_true, Bool.false_eq_true,
    or_self, if_false, ite_self, List.contains_iff_mem, ho]

/-- Settles O12, one lemma an event. -/
theorem ticksAndCoreEvents : Obligations.TicksAndCoreEvents := by
  refine ⟨fun c s => ⟨fun h ht hc => ?_, fun h ht hc hr => ?_, fun h ht hc hr hf => ?_, fun h => ?_⟩,
    ⟨fun _ _ _ => exec_icacheFill, fun _ _ _ _ _ => exec_transferComplete_alone, fun _ _ => exec_forcedPointReached,
      fun _ _ _ _ _ => exec_syncCounterAdd⟩,
    fun _ _ _ => exec_illegalOpcode_m _, fun _ _ _ => exec_illegalOpcode_v _, fun _ _ _ => exec_illegalOpcode_s _⟩
  · rw [exec, execPaceTick, paceTick_metered h ht, if_pos hc]
  · rw [exec, execPaceTick, paceTick_metered h ht, if_neg (Nat.not_lt.mpr hc), if_pos hr]
  · rw [exec, execPaceTick, paceTick_metered h ht, if_neg (Nat.not_lt.mpr hc), if_neg (Bool.eq_false_iff.mp hr),
      if_neg (Bool.eq_false_iff.mp hf)]
  · rw [exec, execPaceTick, paceTick_unmetered h]

end Sys2Proof.Machine
end

section
/-!
PROOFS. Mesh packets at the banks and at cores (R72, R122, R131, R141 to R145, R156, R174, R325): O13, O14.
-/
namespace Sys2Proof.Machine

variable {s t : State} {p : MeshPkt}

/-! ### Routers count a packet and change nothing else -/

theorem foldl_count_eq (l : List Nat) (s : State) (f : Nat → Nat) :
    l.foldl (fun s r => count s 8 r (f r)) s = { s with cnt := (l.foldl (fun s r => count s 8 r (f r)) s).cnt } :=
  List.foldlRecOn (motive := fun u : State => u = { s with cnt := u.cnt }) l _ rfl fun u hu r _ => by rw [hu]; rfl

theorem routed_eq (s : State) (p : MeshPkt) : routed s p = { s with cnt := (routed s p).cnt } := foldl_count_eq ..

@[simp] theorem taggedXfer_routed (s : State) (p q : MeshPkt) : taggedXfer (routed s p) q = taggedXfer s q := by
  rw [routed_eq]
  rfl

@[simp] theorem portWaits_routed (s : State) (p q : MeshPkt) : portWaits (routed s p) q = portWaits s q := by
  rw [routed_eq]
  rfl

@[simp] theorem steer_routed (s : State) (p : MeshPkt) (pid : Nat) (gen : Byte) : steer (routed s p) pid gen = steer s pid gen := by
  rw [routed_eq]
  rfl

@[simp] theorem coreCuffed_routed (s : State) (p : MeshPkt) (pid : Nat) : coreCuffed (routed s p) pid = coreCuffed s pid := by
  rw [routed_eq]
  rfl

/-! ### Requests at the banks -/

section Banks
variable (hport : p.dstPort = 10)
include hport

/-- A packet whose cluster sleeps wakes it and waits. -/
theorem atBanks_sleeps (h : meetDomains s [p.dstCl.toNat] = (t, false)) (f : State → State) : atBanks s p f = t := by
  simp only [atBanks, hport, if_true, h, Bool.false_eq_true, if_false]

theorem atBanks_runs (h : meetDomains s [p.dstCl.toNat] = (t, true)) (f : State → State) : atBanks s p f = f (routed t p) := by
  simp only [atBanks, hport, if_true, h]

theorem meshRead_served (hr : sliceRange (partMap s p.part) p.addr.toNat (32 * p.len.toNat) = true) :
    meshRead s p =
      if p.srcPort.toNat < 10 ∧ (getBinding s (p.srcCl.toNat * 10 + p.srcPort.toNat)).part = p.part then
        emit (sliceLost s (partMap s p.part) p.part p.addr.toNat (32 * p.len.toNat) false)
          (answer p 1 (sliceRead s (partMap s p.part) p.addr.toNat (32 * p.len.toNat)).1
            (sliceFlags s (partMap s p.part) p.addr.toNat (32 * p.len.toNat)))
      else
        emit (sliceLost (if p.srcPort.toNat < 10 ∧ sliceProtected s (partMap s p.part) p.addr.toNat (32 * p.len.toNat) = true
            then raiseCore s (p.srcCl.toNat * 10 + p.srcPort.toNat) 5 0x02 false (p.addr.setWidth 64) else s)
            (partMap s p.part) p.part p.addr.toNat (32 * p.len.toNat) false)
          (answer p 1 (devRead s p.part false p.addr.toNat (32 * p.len.toNat)).1
            (devFlags s p.part false p.addr.toNat (32 * p.len.toNat))) := by
  unfold meshRead sectorBytes
  simp only [hport, hr, ne_eq, not_true, if_false, Bool.not_true, Bool.false_eq_true]
  by_cases core : p.srcPort.toNat < 10
  · by_cases own : (getBinding s (p.srcCl.toNat * 10 + p.srcPort.toNat)).part = p.part
    · simp only [core, own, decide_true, beq_self_eq_true, Bool.and_self, Bool.not_true, Bool.and_false, Bool.false_and, and_self, if_true,
        Bool.false_eq_true, if_false]
    · simp only [core, own, beq_eq_false_iff_ne.mpr own, decide_true, Bool.true_and, Bool.not_false, and_false, true_and, if_false,
        Bool.false_eq_true]
  · simp only [core, decide_false, Bool.false_and, false_and, if_false, Bool.false_eq_true]

theorem meshWrite_served (hr : sliceRange (partMap s p.part) p.addr.toNat p.payload.length = true) :
    meshWrite s p = emit (sliceCarry (sliceLost s (partMap s p.part) p.part p.addr.toNat p.payload.length true)
      (partMap s p.part) p.addr.toNat p.payload (pktFlags p)) (answer p 3 [] []) := by
  simp only [meshWrite, hport, hr, if_true, Bool.not_true, Bool.false_eq_true, if_false]

theorem meshAtomic_served {fn a : Nat} {rb rd : Dword} (hfn : fn = leNat (p.payload.take 1)) (ha : a = p.addr.toNat)
    (hrb : rb = BitVec.ofNat 64 (leNat ((p.payload.drop 8).take 8))) (hrd : rd = BitVec.ofNat 64 (leNat ((p.payload.drop 16).take 8)))
    (amo : fn < 6) (aligned : a % 8 = 0) (hr : sliceRange (partMap s p.part) a 8 = true) :
    meshAtomic s p = emit (sliceWrite (sliceLost s (partMap s p.part) p.part a 8 true) (partMap s p.part) a
      (leBytes 8 (amoOp fn (BitVec.ofNat 64 (leNat (sliceRead s (partMap s p.part) a 8).1)) rb rd).toNat)
        ((sliceRead s (partMap s p.part) a 8).2 || p.poison.any id))
      (answer p 1 (sliceRead s (partMap s p.part) a 8).1
        (flagsOf (sliceRead s (partMap s p.part) a 8).1 (sliceRead s (partMap s p.part) a 8).2)) := by
  subst hfn ha hrb hrd
  simp only [meshAtomic, hport, amo, aligned, hr, ne_eq, not_true, if_true, if_false, Bool.not_true, Bool.false_eq_true]

end Banks

/-- Settles O13: the access goes on at `atBanks` where the cluster runs, and is then served. -/
theorem meshRequestsAtTheBanks : Obligations.MeshRequestsAtTheBanks := by
  intro p s t hport
  refine ⟨fun h => ⟨?_, ?_, ?_⟩, fun h hr => ?_, fun h hr => ?_, fun fn a rb rd h hfn ha hrb hrd amo aligned hr => ?_⟩
  · rw [exec, execMeshReadReq, atBanks_sleeps hport h]
  · rw [exec, execMeshWrite, atBanks_sleeps hport h]
  · rw [exec, execMeshAtomic, atBanks_sleeps hport h]
  · rw [exec, execMeshReadReq, atBanks_runs hport h, meshRead_served hport hr]
  · rw [exec, execMeshWrite, atBanks_runs hport h, meshWrite_served hport hr]
  · rw [exec, execMeshAtomic, atBanks_runs hport h, meshAtomic_served hport hfn ha hrb hrd amo aligned hr]

end Sys2Proof.Machine
end

section
/-!
PROOFS. Mesh packets at cores, in-mesh reduction and signals (R72, R122, R141 to R145, R174): O14.
-/
namespace Sys2Proof.Machine

variable {s t : State} {p : MeshPkt} {pid : Nat} {x : Xfer}

/-! ### Acknowledgements and read data -/

/-- An acknowledgement completes the store that its TAG names. -/
theorem writeAck_store (hx : taggedXfer s p = some (pid, x)) (hk : (∃ a d, x.kind = .store a d) ∨ (∃ l, x.kind = .scatterBytes l) ∨
    (∃ o l, x.kind = .scatter o l) ∨ (∃ b l, x.kind = .reduce b l)) : exec (.meshWriteAck p) s = .next (settle (xferEffectOf
      (updCore (routed s p) pid fun k => { k with xfers := k.xfers.eraseIdx p.tag.toNat }) pid x false)) := by
  rw [exec, execMeshWriteAck, writeAck, taggedXfer_routed, hx]
  rcases hk with ⟨a, d, hk⟩ | ⟨l, hk⟩ | ⟨o, l, hk⟩ | ⟨b, l, hk⟩ <;> simp only [hk, if_true]

theorem pktFlags_clean (h : p.poison = []) (n : Nat) : ((pktFlags p).take n).any id = false := by
  rw [List.any_eq_false]
  intro b hb
  have clean := List.mem_of_mem_take hb
  rw [pktFlags, h, List.nil_append, List.take_replicate] at clean
  rw [List.eq_of_mem_replicate clean]
  decide

theorem within_iff {a n b m : Nat} : within a n b m = true ↔ b ≤ a ∧ a + n ≤ b + m := by
  simp only [within, Bool.and_eq_true, decide_eq_true_eq]

theorem readResp_load {b o : Nat} (hx : taggedXfer s p = some (pid, x)) (hk : x.kind = .load b o) (ha : p.addr.toNat = b)
    (hn : p.payload.length = x.bytes) : exec (.meshReadResp p) s = .next (settle (pumpM pumpFuel
      (updCore (updM (routed s p) pid fun m => obCarry m o p.payload (pktFlags p)) pid fun k =>
        { k with xfers := k.xfers.eraseIdx p.tag.toNat }) pid)) := by
  have covered : within b x.bytes b x.bytes = true := within_iff.mpr ⟨Nat.le_refl _, Nat.le_refl _⟩
  simp only [exec, execMeshReadResp, readResp, taggedXfer_routed, hx, hk, ha, hn, covered, Bool.not_true, Bool.false_eq_true, if_false,
    if_true, Nat.sub_self, Nat.add_zero]

theorem readResp_sload {b n : Nat} {rd : BitVec 5} {signed : Bool} (hx : taggedXfer s p = some (pid, x)) (hk : x.kind = .sload rd b n signed)
    (ha : p.addr.toNat = b) (hn : n ≤ p.payload.length) (hp : p.poison = []) : exec (.meshReadResp p) s = .next (settle (updS
      (updCore (routed s p) pid fun k => { k with xfers := k.xfers.eraseIdx p.tag.toNat }) pid fun c =>
        wrX c rd.toNat (extendLoad n (leNat (p.payload.take n)) signed))) := by
  have covered : within b n b p.payload.length = true := within_iff.mpr ⟨Nat.le_refl _, Nat.add_le_add_left hn b⟩
  simp only [exec, execMeshReadResp, readResp, taggedXfer_routed, hx, hk, ha, covered, pktFlags_clean hp, Bool.not_true, Bool.false_eq_true,
    if_false, Nat.sub_self, List.drop_zero]

theorem readResp_amo {b : Nat} {op : BitVec 11} {rd : BitVec 5} {rb rc : Dword} (hx : taggedXfer s p = some (pid, x))
    (hk : x.kind = .amo op rd b rb rc) (ha : p.addr.toNat = b) (hn : 8 ≤ p.payload.length) (hp : p.poison = []) :
    exec (.meshReadResp p) s = .next (settle (updS
      (updCore (routed s p) pid fun k => { k with xfers := k.xfers.eraseIdx p.tag.toNat }) pid fun c =>
        wrX c rd.toNat (BitVec.ofNat 64 (leNat (p.payload.take 8))))) := by
  have covered : within b 8 b p.payload.length = true := within_iff.mpr ⟨Nat.le_refl _, Nat.add_le_add_left hn b⟩
  simp only [exec, execMeshReadResp, readResp, taggedXfer_routed, hx, hk, ha, covered, pktFlags_clean hp, Bool.not_true, Bool.false_eq_true,
    if_false, Nat.sub_self, List.drop_zero]

/-- What is left of a transfer after a response: the transfer is gone when nothing is left, and waits for the rest otherwise. -/
theorem updCore_ite (u : State) (pid : Nat) (c : Prop) [Decidable c] (f g : Core → Core) :
    (if c then updCore u pid f else updCore u pid g) = updCore u pid fun k => if c then f k else g k := by
  split <;> rfl

theorem readResp_gather {v : BitVec 6} {l k : List (Nat × Nat)} {o : State} (hx : taggedXfer s p = some (pid, x)) (hk : x.kind = .gather v l)
    (ho : o = sliceCarry (routed s p) x.map p.addr.toNat p.payload (pktFlags p))
    (hl : k = l.filter (fun e => within e.2 4 p.addr.toNat p.payload.length)) (some : k ≠ []) :
    exec (.meshReadResp p) s = .next (settle (updCore (landGather o (routed s p) pid x v k) pid fun c =>
      if l.all (fun e => within e.2 4 p.addr.toNat p.payload.length) then { c with xfers := c.xfers.eraseIdx p.tag.toNat }
      else { c with xfers := c.xfers.set p.tag.toNat { x with
        kind := .gather v (l.filter fun e => !within e.2 4 p.addr.toNat p.payload.length) } })) := by
  subst ho hl
  have all : (l.filter fun e => !within e.2 4 p.addr.toNat p.payload.length).isEmpty =
      l.all fun e => within e.2 4 p.addr.toNat p.payload.length := by
    rw [Bool.eq_iff_iff, List.isEmpty_iff, List.filter_eq_nil_iff, List.all_eq_true]
    simp only [Bool.not_eq_true', Bool.not_eq_false]
  simp only [exec, execMeshReadResp, readResp, taggedXfer_routed, hx, hk, some, if_false, all, updCore_ite]

theorem readResp_vload {b sc : Nat} {w : Dword} {m k : BitVec 512} {o : State} (hx : taggedXfer s p = some (pid, x))
    (hk : x.kind = .vload w b sc m) (ho : o = sliceCarry (routed s p) x.map p.addr.toNat p.payload (pktFlags p))
    (hl : k = lanesCarried m p.addr.toNat p.payload.length (fun i =>
      (b + (elemRange (fmtBits (fld w 27 24)) i).1, (elemRange (fmtBits (fld w 27 24)) i).2))) (some : k ≠ 0) :
    exec (.meshReadResp p) s = .next (settle (updCore (landVload o (routed s p) pid x w b sc k) pid fun c =>
      if m &&& ~~~k = 0 then { c with xfers := c.xfers.eraseIdx p.tag.toNat }
      else { c with xfers := c.xfers.set p.tag.toNat { x with kind := .vload w b sc (m &&& ~~~k) } })) := by
  subst ho
  simp only [exec, execMeshReadResp, readResp, taggedXfer_routed, hx, hk, ← hl, some, if_false, beq_iff_eq, updCore_ite]

theorem readResp_ledgerLoad {b : Nat} {v : BitVec 6} {m k : BitVec 512} {o : State} (hx : taggedXfer s p = some (pid, x))
    (hk : x.kind = .ledgerLoad v b m) (ho : o = sliceCarry (routed s p) x.map p.addr.toNat p.payload (pktFlags p))
    (hl : k = lanesCarried m p.addr.toNat p.payload.length (fun i => (b + 12 * i, 12))) (some : k ≠ 0) :
    exec (.meshReadResp p) s = .next (settle (updCore (landLedger o (routed s p) pid x v b k) pid fun c =>
      if m &&& ~~~k = 0 then { c with xfers := c.xfers.eraseIdx p.tag.toNat }
      else { c with xfers := c.xfers.set p.tag.toNat { x with kind := .ledgerLoad v b (m &&& ~~~k) } })) := by
  subst ho
  simp only [exec, execMeshReadResp, readResp, taggedXfer_routed, hx, hk, ← hl, some, if_false, beq_iff_eq, updCore_ite]

/-! ### A write for the vcore that a core carries (R174) -/

section Port
variable (htype : p.type ≠ 6) (hport : p.dstPort.toNat < 10) (hpid : pid = p.dstCl.toNat * 10 + p.dstPort.toNat)
  (hw : portWaits (routed s p) p = false) (hs : steer (routed s p) pid p.gen = .serve) (hc : coreCuffed (routed s p) pid = false)
include htype hport hpid hw hs hc

theorem exec_meshWrite_port : exec (.meshWrite p) s = .next (settle (emit (portWrite (routed s p) pid p) (answer p 3 [] []))) := by
  have off : p.dstPort ≠ 10 := fun h => by rw [h] at hport; exact absurd hport (by decide)
  subst hpid
  simp only [exec, execMeshWrite, atBanks, if_neg off, if_true, meshWrite, if_neg (Nat.not_le.mpr hport), steered, hw, hs, servePkt, hc,
    htype, Bool.false_eq_true, if_false]

theorem exec_meshWrite_mcore (hslot : p.dstPort.toNat < 5) (hroom : p.addr.toNat + p.payload.length ≤ 2 ^ 20) :
    exec (.meshWrite p) s = .next (settle (emit (updM (routed s p) pid fun m => obCarry m p.addr.toNat p.payload (pktFlags p))
      (answer p 3 [] []))) := by
  have kind : slotKind pid = 0 := by rw [slotKind, if_pos (by omega)]
  rw [exec_meshWrite_port htype hport hpid hw hs hc, portWrite]
  simp only [kind, if_pos hroom, pktFlags]

theorem exec_meshWrite_vcore (hlow : 5 ≤ p.dstPort.toNat) (hhigh : p.dstPort.toNat < 8) (hroom : p.addr.toNat + p.payload.length ≤ 2 ^ 19) :
    exec (.meshWrite p) s = .next (settle (emit (updV (routed s p) pid fun v => { v with
      lm := memWrite v.lm p.addr.toNat p.payload
      lmPoison := poisonWrite v.lmPoison 8 p.addr.toNat (pktFlags p) }) (answer p 3 [] []))) := by
  have kind : slotKind pid = 1 := by rw [slotKind, if_neg (by omega), if_pos (by omega)]
  rw [exec_meshWrite_port htype hport hpid hw hs hc, portWrite]
  simp only [kind, if_pos hroom, pktFlags]

theorem exec_meshWrite_score (hlow : 8 ≤ p.dstPort.toNat) (hroom : p.addr.toNat + p.payload.length ≤ 0x30000) :
    exec (.meshWrite p) s = .next (settle (emit (updS (routed s p) pid fun c => { c with
      lm := memWrite c.lm p.addr.toNat p.payload
      lmPoison := poisonWrite c.lmPoison 8 p.addr.toNat (pktFlags p) }) (answer p 3 [] []))) := by
  have kind : slotKind pid = 2 := by rw [slotKind, if_neg (by omega), if_neg (by omega)]
  rw [exec_meshWrite_port htype hport hpid hw hs hc, portWrite]
  simp only [kind, if_pos hroom, pktFlags]

end Port

/-! ### Reduce packets (R143 to R145) -/

/-- A packet enters the mesh at the router of its source. -/
theorem pktRoute_eq (p : MeshPkt) : ∃ l, pktRoute p = srcRouter p :: l := ⟨_, rfl⟩

/-- Where nothing on the route matches it and holding is off, a packet passes every router and acts at its destination. -/
theorem reduceWalk_free {h : HeldPkt} (l : List Nat) (hn : ∀ r ∈ l, findIdx? (combinable h) (getRouter s r) 0 = none)
    (hh : s.mem.redHold = 0) : reduceWalk l s h = reduceApply (l.foldl (fun s r => count s 8 r h.pkt.vc.toNat) s) h := by
  induction l generalizing s with
  | nil => rfl
  | cons r l ih =>
    simp only [reduceWalk, hn r (List.mem_cons_self ..), hh, true_or, if_true, List.foldl_cons]
    exact ih (fun q hq => hn q (List.mem_cons_of_mem _ hq)) hh

theorem exec_reduceTile_combined {r i : Nat} (htype : p.type = 6) (hr : r = srcRouter p)
    (hi : findIdx? (combinable ⟨p, []⟩) (getRouter s r) 0 = some i) :
    exec (.reduceTile p) s = .next (settle (count (setRouter s r ((getRouter s r).set i
      { (getRouter s r).getD i {} with pkt := combine ((getRouter s r).getD i {}).pkt p })) 8 r 4)) := by
  obtain ⟨l, route⟩ := pktRoute_eq p
  subst hr
  simp only [exec, execReduceTile, if_pos htype, route, reduceWalk, hi]

theorem exec_reduceTile_held {r : Nat} (htype : p.type = 6) (hr : r = srcRouter p)
    (hi : findIdx? (combinable ⟨p, []⟩) (getRouter s r) 0 = none) (hh : s.mem.redHold ≠ 0) (hroom : (getRouter s r).length < 16) :
    exec (.reduceTile p) s = .next (settle (setRouter s r (getRouter s r ++ [⟨p, []⟩]))) := by
  obtain ⟨l, route⟩ := pktRoute_eq p
  subst hr
  simp only [exec, execReduceTile, if_pos htype, route, reduceWalk, hi, hh, Nat.not_le.mpr hroom, or_self, if_false]

theorem exec_reduceTile_arrives (htype : p.type = 6) (hn : ∀ r ∈ pktRoute p, findIdx? (combinable ⟨p, []⟩) (getRouter s r) 0 = none)
    (hh : s.mem.redHold = 0) (hport : p.dstPort.toNat < 5) (hpid : pid = p.dstCl.toNat * 10 + p.dstPort.toNat) (hw : portWaits s p = false)
    (hs : steer s pid p.gen = .serve) (hc : coreCuffed s pid = false) : exec (.reduceTile p) s = .next (settle (
      let t := tileArrive (routed s p) pid p.tile.toNat p.row.toNat p.seg.toNat p.contrib.toNat (pktPartials p.payload) (p.poison.any id)
      if t.2 = true ∨ 10 ≤ p.srcPort.toNat then t.1 else refuseRow t.1 (p.srcCl.toNat * 10 + p.srcPort.toNat))) := by
  have kind : slotKind pid = 0 := by rw [slotKind, if_pos (by omega)]
  have walk : reduceWalk (pktRoute p) s ⟨p, []⟩ = reduceApply (routed s p) ⟨p, []⟩ := reduceWalk_free _ hn hh
  have not_sram : p.type ≠ 5 := by rw [htype]; decide
  subst hpid
  simp only [exec, execReduceTile, if_pos htype, walk, reduceApply, if_neg not_sram, if_neg (show ¬10 ≤ p.dstPort.toNat by omega), steered,
    portWaits_routed, hw, steer_routed, hs, servePkt, coreCuffed_routed, hc, kind, ne_eq, not_true, Bool.false_eq_true, if_false,
    Bool.or_eq_true, decide_eq_true_eq]

theorem exec_reduceSram_arrives (htype : p.type = 5) (hport : p.dstPort = 10) (hm : meetDomains s [p.dstCl.toNat] = (t, true))
    (hn : ∀ r ∈ pktRoute p, findIdx? (combinable ⟨p, partMap s p.part⟩) (getRouter t r) 0 = none) (hh : t.mem.redHold = 0)
    (hr : sliceRange (partMap s p.part) p.addr.toNat 192 = true) (hone : p.addr.toNat / 2 ^ 26 = (p.addr.toNat + 191) / 2 ^ 26) :
    exec (.reduceSram p) s = .next (settle (sliceReduceAll
      (sliceLost (routed t p) (partMap s p.part) p.part p.addr.toNat 192 true) (partMap s p.part) p.addr.toNat (partialBad p)
      (pktPartials p.payload))) := by
  have walk : reduceWalk (pktRoute p) t ⟨p, partMap s p.part⟩ = reduceApply (routed t p) ⟨p, partMap s p.part⟩ := reduceWalk_free _ hn hh
  simp only [exec, execReduceSram, htype, hport, hm, ne_eq, not_true, or_self, if_false, Bool.not_true, Bool.false_eq_true, walk, reduceApply,
    if_true, hr, hone, decide_false, Bool.or_self]

theorem exec_reduceHoldExpire {cl : Fin 32} {i : Nat} {h : HeldPkt} (hi : (getRouter s cl.val)[i]? = some h)
    (hm : (if h.pkt.type = 5 then meetDomains s [h.pkt.dstCl.toNat] else (s, true)) = (t, true)) : exec (.reduceHoldExpire cl i) s =
      .next (settle (reduceOn (setRouter t cl.val ((getRouter s cl.val).eraseIdx i)) cl.val h)) := by
  simp only [exec, execReduceHoldExpire, hi, hm, if_true]

/-! ### Signals (R122) -/

theorem exec_meshSync (hport : p.dstPort = 11) : exec (.meshSync p) s = .next (settle (counterAdd { routed s p with
    signals := s.signals.erase (syncKey p.dstCl (BitVec.ofNat 3 (fld p.addr 7 5)), fld p.addr 4 0) }
    p.dstCl (BitVec.ofNat 3 (fld p.addr 7 5)) (fld p.addr 4 0))) := by
  have same : (routed s p).signals = s.signals := by rw [routed_eq]
  simp only [exec, execMeshSync, if_pos hport, same]

/-- Settles O14, one lemma a kind of packet. -/
theorem meshPacketsReachCores : Obligations.MeshPacketsReachCores := by
  refine ⟨⟨fun _ _ _ _ => writeAck_store, fun _ _ _ _ _ _ => readResp_load, fun _ _ _ _ _ _ _ _ => readResp_sload,
    fun _ _ _ _ _ _ _ _ _ => readResp_amo, fun _ _ _ _ _ _ _ _ => readResp_gather, fun _ _ _ _ _ _ _ _ _ _ => readResp_vload,
    fun _ _ _ _ _ _ _ _ _ => readResp_ledgerLoad, fun p pid s htype hport hpid hw hs hc =>
      ⟨exec_meshWrite_mcore htype hport hpid hw hs hc, exec_meshWrite_vcore htype hport hpid hw hs hc,
        exec_meshWrite_score htype hport hpid hw hs hc⟩⟩,
    fun _ _ _ _ => exec_reduceTile_combined, fun _ _ _ => exec_reduceTile_held, fun _ _ _ => exec_reduceTile_arrives,
    fun _ _ _ => exec_reduceSram_arrives, fun cl i h s hi htype => exec_reduceHoldExpire hi (if_neg (by rw [htype]; decide)),
    fun cl i h s t hi htype hm => exec_reduceHoldExpire hi ((if_pos htype).trans hm), fun _ _ => exec_meshSync, fun _ _ => rfl⟩

end Sys2Proof.Machine
end

section
/-!
PROOFS. Scrub, spare banks, zeroing, frame retirement, error counts and gather pools (R132 to R134, R138, R152, R154, R407): O15.
-/
namespace Sys2Proof.Machine

variable {s t : State}

theorem exec_scrubRead {cl bank : Fin 32} {row : BitVec 13} {single double : List (Fin 32)} {written : Bool}
    (herr : single ≠ [] ∨ double ≠ []) (hlost : Tbl.get false s.mem.bankLost (32 * cl.val + bank.val) = false) :
    exec (.scrubRead cl bank row single double written) s =
      .next (settle (sramErrors s cl bank row (single.map (·.val)) (double.map (·.val)) false written)) := by
  have some_error : (single.isEmpty && double.isEmpty) = false := by
    rw [Bool.and_eq_false_iff, List.isEmpty_eq_false_iff, List.isEmpty_eq_false_iff]
    exact herr
  simp only [exec, execScrubRead, some_error, hlost, Bool.or_self, Bool.false_eq_true, if_false]

theorem exec_bankZeroDone {cl bank : Fin 32} (hz : Tbl.get false s.mem.bankZero (32 * cl.val + bank.val) = true) :
    exec (.bankZeroDone cl bank) s = .next (settle { s with
      mem := zeroBank s.mem (32 * cl.val + bank.val)
      sched := { s.sched with parts := s.sched.parts.map fun e =>
        (e.1, { e.2 with awaitBanks := Tbl.upd 0 e.2.awaitBanks cl.val (fun w => setBit w bank.val false) }) } }) := by
  simp only [exec, execBankZeroDone, hz, Bool.not_true, Bool.false_eq_true, if_false]

theorem exec_mshSramErrcntRead {v : View} {whole : Bool} : exec (.mshSramErrcntRead v whole) s = .next (settle { s with
    lastRead := BitVec.ofNat 32 (s.mem.errCe.toNat + s.mem.errUe.toNat * 2 ^ 16)
    mem := if v = .manager ∧ whole = true then { s.mem with errCe := 0, errUe := 0 } else s.mem }) := by
  rw [exec, execMshSramErrcntRead, readErrcnt]
  split <;> rfl

/-- A bag's last lookup: its output is written, its rows are counted, and the last bag ends the item. -/
theorem exec_gpLookupReturn {x : ItemRef} {bag : Nat} {i : Item} {c : Context} {r : List Byte × Flags × Bool × Bool} {out back : Nat}
    {run : ItemRun} (hi : getItem s x = some i) (hc : getCtx s x.ctx = some c) (ho : itemOpc i = 0x0A) (ha : i.run.active = true)
    (hb : heldBack s c = false) (hlist : BitVec.ofNat 64 bag ∉ i.run.list) (hbag : bag < gpBags i) (hr : r = gpBag s (getSlice s c.part) i bag)
    (hout : out = fld (gpDesc i 5) 30 0 + bag * fld (gpDesc i 1) 63 48 * 32)
    (hback : back = min (gpLookups t (getSlice s c.part) i bag) i.run.hbmOut)
    (hrun : run = { i.run with
      flags := i.run.flags ||| r.2.1
      gpIndex := i.run.gpIndex || r.2.2.1
      poison := i.run.poison || r.2.2.2
      list := BitVec.ofNat 64 bag :: i.run.list
      bytes := i.run.bytes + 1
      hbmOut := i.run.hbmOut - back })
    (ht : t = sliceWrite (sliceLost (gpRowsLost s (getSlice s c.part) i c.part x.ctx.toNat bag) (getSlice s c.part).regions c.part out r.1.length
        true x.ctx.toNat) (getSlice s c.part).regions out r.1 r.2.2.2) :
    exec (.gpLookupReturn x bag) s = .next (settle (
      let u := countN t 5 (16 * fld (i.words.getD 1 0) 2 0) 3
        (gpOffset t (getSlice s c.part) i (bag + 1) - gpOffset t (getSlice s c.part) i bag)
      let u := setItem (regDoneN u c.part.toNat 0 (classOf u x) i.run.hbmDue back) x { i with run := run }
      if run.bytes = gpBags i then completeItem u x 0x00 else u)) := by
  subst hr hout hback hrun ht
  have fresh : i.run.list.contains (BitVec.ofNat 64 bag) = false := Bool.eq_false_iff.mpr fun h => hlist (List.contains_iff_mem.mp h)
  have runs : ¬(itemOpc i ≠ 0x0A ∨ (!i.run.active) = true ∨ heldBack s c = true ∨ i.run.list.contains (BitVec.ofNat 64 bag) = true ∨
      gpBags i ≤ bag) := by
    simp only [ho, ha, hb, fresh, ne_eq, not_true, Bool.not_true, Bool.false_eq_true, false_or, Nat.not_le, hbag]
  rw [exec, execGpLookupReturn, gpReturn]
  simp only [hi, hc, if_neg runs]
  rfl

/-- Settles O15, one lemma an event. -/
theorem memoryUpkeep : Obligations.MemoryUpkeep := by
  refine ⟨fun _ _ _ _ _ _ _ => exec_scrubRead, fun cl bank spare s h => exec_spareBankCopyDone h, fun _ _ _ => exec_bankZeroDone,
    fun ch frame r old s h hold => ?_, fun _ _ _ => exec_mshSramErrcntRead,
    fun _ _ _ _ _ _ _ _ _ _ => exec_gpLookupReturn⟩
  subst hold
  exact exec_frameRetirementSwitch rfl h

end Sys2Proof.Machine
end

section
/-!
PROOFS. Doorbells, slots and flushes (R187, R192, R193, R196, R197, R292): O16.
-/
namespace Sys2Proof.Machine

variable {s t u : State} {page : Fin 4096} {v : Word} {q : Queue}

/-! ### Doorbells -/

section Doorbell
variable {w : BitVec 24} (hq : queueOfPage s page.val = some q)
include hq

/-- A doorbell of the queue's epoch that moves the write index forward is taken; one beyond the ring faults the context. -/
theorem dbWrite_taken (hw : w = BitVec.ofNat 24 (fld v 23 0)) (he : BitVec.ofNat 8 (fld v 31 24) = q.epoch) (hc : q.closing = false)
    (hf : (w - q.widx).toNat < 2 ^ 23) : exec (.hiuDbWrite page v) s = .next (settle (
      if 2 ^ (4 + q.ringLog.toNat) < (w - q.ridx).toNat then
        raise (setQueue s { q with widx := w, hold := false }) { ctx := q.ctx, qid := q.qid, cls := 6, cause := 0x03 }
      else setQueue s { q with widx := w, hold := false })) := by
  subst hw
  simp only [exec, execHiuDbWrite, dbWrite, hq, he, hc, Nat.not_le.mpr hf, ne_eq, not_true, Bool.false_eq_true, or_self, if_false]

/-- Any other doorbell counts as stale. -/
theorem dbWrite_stale (hw : w = BitVec.ofNat 24 (fld v 23 0))
    (h : BitVec.ofNat 8 (fld v 31 24) ≠ q.epoch ∨ q.closing = true ∨ 2 ^ 23 ≤ (w - q.widx).toNat) :
    exec (.hiuDbWrite page v) s = .next (settle (count (countStale s q.page.toNat) 3 (queueKey q.ctx q.qid) 2)) := by
  subst hw
  simp only [exec, execHiuDbWrite, dbWrite, hq, if_pos h, staleDoorbell]

theorem exec_dbCplRead (hw : w = BitVec.ofNat 24 (fld v 23 0)) :
    exec (.hiuDbCplRead page v) s = .next (settle (setQueue s { q with cidx := w })) := by
  subst hw
  simp only [exec, execHiuDbCplRead, dbCplRead, hq]

theorem exec_dbFlush_other (he : BitVec.ofNat 8 (fld v 7 0) ≠ q.epoch) : exec (.hiuDbFlush page v) s = .next (settle s) := by
  simp only [exec, execHiuDbFlush, dbFlush, hq, if_neg he]

theorem exec_dbFlush (he : BitVec.ofNat 8 (fld v 7 0) = q.epoch) :
    exec (.hiuDbFlush page v) s = .next (settle (flushQueue s q (bit v 8))) := by
  simp only [exec, execHiuDbFlush, dbFlush, hq, if_pos he]

end Doorbell

theorem exec_doorbell_no_queue (hq : queueOfPage s page.val = none) :
    exec (.hiuDbWrite page v) s = .next (settle (countStale s page.val)) ∧ exec (.hiuDbCplRead page v) s = .next (settle s) ∧
      exec (.hiuDbFlush page v) s = .next (settle s) := by
  simp only [exec, execHiuDbWrite, dbWrite, execHiuDbCplRead, dbCplRead, execHiuDbFlush, dbFlush, hq, and_self]

/-! ### Slots -/

/-- A queue whose turn it is fetches its next slot: no LC queue of its processor may fetch instead. -/
theorem exec_slotFetch {ctx : BitVec 16} {qid : BitVec 4} {r : Reply} {c : Context} {b : List Byte} (hq : getQueue s ctx qid = some q)
    (hc : getCtx s ctx = some c) (hm : mayFetch s q = true) (ht : fetchTurn s q = true)
    (hl : q.lc = true ∨ ∀ p ∈ listOpt (fun (y : Queue) => y.lc && y.cp == q.cp) s.queues, mayFetch s p = false)
    (hu : u = { s with sched := { s.sched with fetched := Tbl.set 0 s.sched.fetched (turnKey q) (queueKey ctx qid + 1) } })
    (hg : gotPiece u c none r (q.ringBase + BitVec.ofNat 64 (128 * (q.ridx.toNat % 2 ^ (4 + q.ringLog.toNat)))) 0 128 = .ok t b) :
    exec (.slotFetch ctx qid r) s = .next (settle (takeSlot (irqPrivate t (32 + q.cp.toNat) 5 true) q (leWords 16 b))) := by
  subst hu
  rw [exec, execSlotFetch, slotFetch]
  simp only [hq, hc]
  refine congrArg _ (congrArg settle ((if_neg fun blocked => ?_).trans (by simp only [hg])))
  simp only [hm, ht, Bool.not_true, Bool.false_or, Bool.or_false, Bool.and_eq_true, Bool.not_eq_true', List.any_eq_true] at blocked
  obtain ⟨not_lc, e, he, waits⟩ := blocked
  rcases hl with lc | idle
  · exact absurd lc (Bool.eq_false_iff.mp not_lc)
  · split at waits
    next p hp =>
      simp only [Bool.and_eq_true] at waits
      have listed : p ∈ listOpt (fun (y : Queue) => y.lc && y.cp == q.cp) s.queues := by
        refine List.mem_filterMap.mpr ⟨e, he, ?_⟩
        rw [hp, Option.filter_some, if_pos (by simp only [waits.1.1, waits.1.2, Bool.and_self])]
      rw [idle p listed] at waits
      exact absurd waits.2 (by decide)
    · cases waits

/-- A slot of the queue's epoch with the next sequence number becomes an item. -/
theorem takeSlot_next {ws : List Dword} (he : BitVec.ofNat 8 (fld (ws.getD 0 0) 23 16) = q.epoch)
    (hs : BitVec.ofNat 32 (fld (ws.getD 0 0) 63 32) = q.nextSeq) : takeSlot s q ws = count (setQueue { s with serial := s.serial + 1 } { q with
      items := q.items ++ [{ seq := q.nextSeq, words := ws.take (fld (ws.getD 0 0) 11 8 + 1), accepted := s.refNs, order := s.serial }]
      nextSeq := q.nextSeq + 1
      ridx := q.ridx + 1 }) 3 (queueKey q.ctx q.qid) 0 := by
  have here : (q.nextSeq - q.nextSeq).toNat = 0 := by rw [BitVec.sub_self]; rfl
  simp only [takeSlot, he, hs, ne_eq, not_true, if_false, here, if_true]

theorem takeSlot_other_epoch {ws : List Dword} (he : BitVec.ofNat 8 (fld (ws.getD 0 0) 23 16) ≠ q.epoch) :
    takeSlot s q ws = setQueue s { q with hold := true } := by
  simp only [takeSlot, if_pos he]

/-- Settles O16, one lemma a case. -/
theorem doorbellsAndSlots : Obligations.DoorbellsAndSlots := by
  refine ⟨fun page v q w s hq hw => ⟨fun he hc hf hr => ?_, fun he hc hf hr => ?_, dbWrite_stale hq hw, exec_dbCplRead hq hw,
    exec_dbFlush_other hq, fun he ha => ?_⟩, fun _ _ _ => exec_doorbell_no_queue, fun page v q s hq he ha => ?_,
    fun _ _ _ _ _ _ _ _ _ => exec_slotFetch, fun _ _ _ => takeSlot_next, fun _ _ _ => takeSlot_other_epoch⟩
  · rw [dbWrite_taken hq hw he hc hf, if_neg (Nat.not_lt.mpr hr)]
  · rw [dbWrite_taken hq hw he hc hf, if_pos hr]
  · rw [exec_dbFlush hq he, ha]
    rfl
  · rw [exec_dbFlush hq he, ha]
    rfl

end Sys2Proof.Machine
end

section
/-!
PROOFS. Items start in their order; contexts with work take resident slots (R132, R187, R196, R198, R295): O17.
-/
namespace Sys2Proof.Machine

variable {s t : State} {ctx : BitVec 16} {qid : BitVec 4} {q : Queue} {c : Context} {i : Item} {busy : Bool}

theorem setItem_serial (s : State) (x : ItemRef) (i : Item) : (setItem s x i).serial = s.serial := by
  unfold setItem
  split <;> rfl

/-! ### Items start -/

theorem startNext_ready {ok : Nat → Bool} (hq : getQueue s ctx qid = some q) (hc : getCtx s ctx = some c)
    (hn : nextItem q.items false = some (i, busy)) (hm : mayStart s c q i busy = true) :
    startNext s ctx qid ok = if ok (itemOpc i) then startItem s q c i else s := by
  simp only [startNext, hq, hc, hn, hm, Bool.and_true]

section Start
variable (ht : t = setCtx (setItem { s with serial := s.serial + 1 } ⟨q.ctx, q.qid, i.seq⟩ { i with started := true })
  { c with lastStart := s.serial + 1 })
include ht

/-- An item that starts takes the next place in the order of starts. -/
theorem startItem_passes (hf : formStatus c q i = none) : startItem s q c i = t := by
  subst ht
  simp only [startItem, setItem_serial, hf]

/-- An item that fails a form check completes at once. -/
theorem startItem_fails {st : Nat} (hf : formStatus c q i = some st) : startItem s q c i = completeItem t ⟨q.ctx, q.qid, i.seq⟩ st := by
  subst ht
  simp only [startItem, setItem_serial, hf]

end Start

theorem formStatus_unknown (h : itemForm (itemOpc i) = none) : formStatus c q i = some 0x21 := by
  simp only [formStatus, h]

/-! ### Contexts take slots -/

/-- Whether the slots of a context's partition are taken (R302). -/
theorem slotFor_free {n : Nat} (hf : freeSlot s = some n)
    (hs : c.id = 0 ∨ ((residents s).filter fun r => inPart r c.part.toNat).length < (getPart s c.part.toNat).slots) :
    slotFor s c = (s, some n) := by
  have room : (c.id != 0 && decide ((getPart s c.part.toNat).slots ≤ ((residents s).filter fun r => inPart r c.part.toNat).length)) = false := by
    rcases hs with manager | below
    · rw [manager]
      rfl
    · rw [decide_eq_false (Nat.not_le.mpr below), Bool.and_false]
  simp only [slotFor, room, Bool.false_eq_true, if_false, hf]

theorem exec_contextLoad {m : Nat} (hc : getCtx s ctx = some c) (hw : wantsSlot s c = true) (hs : slotFor s c = (t, some m)) :
    exec (.contextLoad ctx) s = .next (settle (loadInto t c m)) := by
  simp only [exec, execContextLoad, contextLoad, hc, hw, Bool.not_true, Bool.false_eq_true, if_false, hs]

/-- A save area or segment table that the slice does not hold faults the context. -/
theorem loadInto_outside {n : Nat} (h : hbmRange (getSlice s c.part) c.saveAddr.toNat 16384 = false ∨
    hbmRange (getSlice s c.part) c.segAddr.toNat 256 = false) :
    loadInto s c n = raise s { ctx := c.id, cls := 6, cause := 0x06, addr := c.saveAddr.setWidth 64 } := by
  unfold loadInto
  dsimp only
  refine if_pos ?_
  rcases h with h | h <;> simp only [h, Bool.not_false, Bool.true_or, Bool.or_true]

section Inside
variable {n : Nat} (hsave : hbmRange (getSlice s c.part) c.saveAddr.toNat 16384 = true)
  (hseg : hbmRange (getSlice s c.part) c.segAddr.toNat 256 = true)
  (ht : t = if c.saved = true then hbmLost (hbmLost s (getSlice s c.part) c.part c.segAddr.toNat 256 false c.id.toNat) (getSlice s c.part) c.part
      c.saveAddr.toNat 16384 false c.id.toNat else hbmLost s (getSlice s c.part) c.part c.segAddr.toNat 256 false c.id.toNat)
include hsave hseg ht

theorem loadInto_reads (hk : consumeCause t c.part true c.segAddr.toNat 256 = none) :
    loadInto s c n = endYield (pumpItems (setCtx t { c with slot := n + 1, segs := loadSegs t c, yielding := false }) c.id) := by
  subst ht
  simp only [loadInto, hsave, hseg, Bool.not_true, Bool.or_self, Bool.false_eq_true, if_false, hk]

theorem loadInto_poisoned {k : Byte} (hk : consumeCause t c.part true c.segAddr.toNat 256 = some k) :
    loadInto s c n = raise t { ctx := c.id, cls := 5, cause := k, addr := c.segAddr.setWidth 64 } := by
  subst ht
  simp only [loadInto, hsave, hseg, Bool.not_true, Bool.or_self, Bool.false_eq_true, if_false, hk]

end Inside

/-- Settles O17: what `startNext` and `loadInto` do, case by case. -/
theorem itemsStartAndContextsRun : Obligations.ItemsStartAndContextsRun := by
  refine ⟨fun ctx qid q c i busy s t hq hc hn hm ht => ⟨fun hf => ?_, fun st hf => ?_, fun hf => ?_, fun hf => ?_⟩,
    fun ctx c n s hc hw hf hs => ⟨fun hsave hseg => ⟨fun hk => ?_, fun k hk => ?_⟩, fun h => ?_⟩,
    fun _ _ _ _ _ => exec_contextLoad⟩
  · rw [exec, execItemStart, startNext_ready hq hc hn hm, if_pos rfl, startItem_passes ht hf]
  · rw [exec, execItemStart, startNext_ready hq hc hn hm, if_pos rfl, startItem_fails ht hf]
  · rw [exec, execUnknownOpcode, startNext_ready hq hc hn hm, if_pos (Option.isNone_iff_eq_none.mpr hf),
      startItem_fails ht (formStatus_unknown hf)]
  · rw [exec, execUnknownOpcode, startNext_ready hq hc hn hm, if_neg (by rw [Option.isNone_iff_eq_none]; exact hf)]
  · rw [exec_contextLoad hc hw (slotFor_free hf hs), loadInto_reads hsave hseg rfl hk]
  · rw [exec_contextLoad hc hw (slotFor_free hf hs), loadInto_poisoned hsave hseg rfl hk]
  · rw [exec_contextLoad hc hw (slotFor_free hf hs), loadInto_outside h]

end Sys2Proof.Machine
end

section
/-!
PROOFS. Fences, cookies and items that move data (R151, R153, R199 to R201, R209): O18.
-/
namespace Sys2Proof.Machine

variable {s t : State} {x : ItemRef} {i : Item} {c : Context}

/-! ### Fences and cookies (R200, R201) -/

theorem exec_nop (h : itemReady s x 0x00 i c = true) : exec (.nop x) s = .next (settle (completeItem s x 0x00)) := by
  rw [exec, execNop, onItem_ready _ h]

theorem exec_fenceSignal (h : itemReady s x 0x01 i c = true) : exec (.fenceSignal x) s = .next (settle (
    if (iw i 1).toNat % 8 ≠ 0 then completeItem s x 0x20
    else if bit (iw i 3) 0 then writeRecord s x c (iw i 1) (leBytes 8 (iw i 2).toNat) 0
    else fenceMax s x c (iw i 1) (iw i 2))) := by
  rw [exec, execFenceSignal, fenceSignal, onItem_ready _ h]

/-- A fence word in the package is raised to the value in one update. -/
theorem fenceMax_mem {va value : Dword} {part : BitVec 4} {hbm : Bool} {a : Nat}
    (hr : resolve (touchAtc s c va) c va .atomic 8 = .mem part hbm a) (ht : t = devReadLog (touchAtc s c va) part hbm a 8 x.ctx.toNat)
    (hc : consumeCause t part hbm a 8 = none) :
    fenceMax s x c va value = finishItem (if leNat (devRead t part hbm a 8).1 < value.toNat then
      devWrite t part hbm a (leBytes 8 value.toNat) false x.ctx.toNat else t) x 0x00 0 := by
  subst ht
  simp only [fenceMax, hr, hc]

theorem exec_fenceWait {r : Reply} {b : List Byte} (h : itemReady s x 0x02 i c = true) (ha : (iw i 1).toNat % 8 = 0)
    (hw : s.fenceWaits.length < 1024) (hr : readVa s c (some x) r (iw i 1) 8 = .ok t b) :
    exec (.fenceWait x r) s = .next (settle (if (iw i 2).toNat ≤ ((leWords 1 b).getD 0 0).toNat then completeItem t x 0x00
      else updRun { t with fenceWaits := t.fenceWaits ++ [{ x := x, va := iw i 1, value := iw i 2 }] } x fun q =>
        { q with active := true })) := by
  rw [exec, execFenceWait, fenceWait, onItem_ready _ h, if_neg (not_not_intro ha), if_neg (Nat.not_le.mpr hw)]
  simp only [withList, hr]

theorem exec_fenceWaitReread_host {w : FenceWait} {a : Dword} {b : List Byte} (hw : findWait s x = some w) (hc : getCtx s x.ctx = some c)
    (hr : resolve (touchAtc s c w.va) c w.va .rd 8 = .host a) : exec (.fenceWaitReread x (.data b false)) s = .next (settle (
      if w.value.toNat ≤ leNat b then completeItem (listRead (touchAtc s c w.va) c (some x) a 8) x 0x00
      else listRead (touchAtc s c w.va) c (some x) a 8)) := by
  simp only [exec, execFenceWaitReread, hw, hc, hr, Bool.false_eq_true, if_false]

theorem exec_fenceWaitReread_miss {w : FenceWait} {h : HostResult} (hw : findWait s x = some w) (hc : getCtx s x.ctx = some c)
    (hr : resolve (touchAtc s c w.va) c w.va .rd 8 = .miss) :
    exec (.fenceWaitReread x h) s = .next (settle (startXlate (touchAtc s c w.va) c w.va false (some x))) := by
  simp only [exec, execFenceWaitReread, hw, hc, hr]

theorem exec_fenceWaitTimeout {w : FenceWait} (hw : findWait s x = some w) (hi : getItem s x = some i) :
    exec (.fenceWaitTimeout x) s = .next (settle (if fld (iw i 3) 31 0 ≠ 0 then completeItem s x 0x02 else s)) := by
  simp only [exec, execFenceWaitTimeout, hw, hi]

theorem exec_cookie (h : itemReady s x 0x03 i c = true) : exec (.cookie x) s =
    .next (settle (completeItem (postCookie s x.ctx (BitVec.ofNat 32 (fld (iw i 1) 31 0)) x.qid 1) x 0x00)) := by
  rw [exec, execCookie, onItem_ready _ h]

/-! ### Items that move data (R151, R199, R209) -/

theorem exec_copy (h : itemReady s x 0x08 i c = true) : exec (.copy x) s = .next (settle (if fld (iw i 3) 39 0 = 0 then completeItem s x 0x20
    else nextPiece (updRun s x fun r => { r with active := true }) x)) := by
  rw [exec, execCopy, onItem_ready _ h, startXfer]

theorem exec_fill (h : itemReady s x 0x09 i c = true) : exec (.fill x) s = .next (settle (
    if (iw i 1).toNat % 8 ≠ 0 ∨ fld (iw i 2) 39 0 % 8 ≠ 0 then completeItem s x 0x20
    else nextPiece (updRun s x fun r => { r with active := true }) x)) := by
  rw [exec, execFill, onItem_ready _ h, startXfer]

theorem exec_floorplanRead (h : itemReady s x 0x0B i c = true) : exec (.floorplanRead x) s = .next (settle (
    if (iw i 1).toNat % 8 ≠ 0 then completeItem s x 0x20
    else writeRecord s x c (iw i 1) (dwordBytes ((List.range 72).map (fpWord s))) 0)) := by
  rw [exec, execFloorplanRead, onItem_ready _ h]

theorem exec_transferEngine_piece (hi : getItem s x = some i) (hx : (xferTotal i).isSome = true) :
    exec (.transferEngineComplete x) s = .next (settle (enginePiece s x)) := by
  simp only [exec, execTransferEngineComplete, hi, hx, if_true]

theorem exec_transferEngine_image (hi : getItem s x = some i) (hx : xferTotal i = none) :
    exec (.transferEngineComplete x) s = .next (settle (imageWritten s x)) := by
  simp only [exec, execTransferEngineComplete, hi, hx, Option.isSome_none, Bool.false_eq_true, if_false]

section Completion
variable {tag : Nat} {r : HostRead} {h : HostResult} {b : List Byte} (hr : (s.hostReads.find? fun r => r.tag == tag && r.sent) = some r)
include hr

theorem exec_hostReadCompletion_data (hb : b.length = r.bytes) :
    exec (.hostReadCompletion tag (.data b false)) s = .next (settle (hostReadDone s r (.data b false))) := by
  simp only [exec, execHostReadCompletion, hr, hb, beq_self_eq_true, if_true]

theorem exec_hostReadCompletion_copy (hb : b.length = r.bytes) (hu : r.use = .copy) :
    exec (.hostReadCompletion tag (.data b false)) s = .next (settle (deliver
      (regDone { s with hostReads := s.hostReads.filter fun q => !(q.tag == r.tag) } r.part.toNat 2 r.lc r.due) r.x b (flagsOf b false) false)) := by
  rw [exec_hostReadCompletion_data hr hb]
  simp only [hostReadDone, hu]

theorem exec_hostReadCompletion_failed (hh : h = .unsupported ∨ h = .abort)
    (ht : t = regDone { s with hostReads := s.hostReads.filter fun q => !(q.tag == r.tag) } r.part.toNat 2 r.lc r.due) :
    exec (.hostReadCompletion tag h) s =
      .next (settle (stopDone (faultItem t r.x 4 (if r.peer then 0x0C else 0x04) r.va r.addr) r.x)) := by
  subst ht
  rcases hh with rfl | rfl <;> simp only [exec, execHostReadCompletion, hr, if_true, hostReadDone, hostFail]

end Completion

/-! ### GATHER_POOL (R153) -/

theorem exec_gatherPool_malformed (h : itemReady s x 0x0A i c = true) (hm : gpMalformed i = true) :
    exec (.gatherPool x) s = .next (settle (completeItem s x 0x20)) := by
  rw [exec, execGatherPool, gatherPool, onItem_ready _ h]
  simp only [hm, if_true]

/-- The lookups start once every check has passed. -/
theorem exec_gatherPool {sl : Slice} {r total idx wts out off n : Nat} (h : itemReady s x 0x0A i c = true) (hm : gpMalformed i = false)
    (hsl : sl = getSlice s c.part) (hr : gpRegion sl i = some r) (hstack : stackLocal sl r (fld (iw i 1) 2 0) = true)
    (hkey : bit (regionWord sl r 0) 62 = false) (hn : n = gpBags i) (hoff : off = fld (gpDesc i 3) 30 0)
    (hbags : sliceRange sl.regions off (4 * (n + 1)) = true) (hbagsOk : consumeCause s c.part false off (4 * (n + 1)) = none)
    (hasc : ∀ k, k < n → gpOffset s sl i k ≤ gpOffset s sl i (k + 1)) (htotal : total = gpOffset s sl i n) (hidx : idx = fld (gpDesc i 2) 30 0)
    (hwts : wts = fld (gpDesc i 4) 30 0) (hout : out = fld (gpDesc i 5) 30 0)
    (hidxIn : sliceRange sl.regions (idx + 4 * gpOffset s sl i 0) (4 * (total - gpOffset s sl i 0)) = true)
    (hwtsIn : bit (gpDesc i 0) 52 = true → sliceRange sl.regions (wts + 4 * gpOffset s sl i 0) (4 * (total - gpOffset s sl i 0)) = true)
    (houtIn : sliceRange sl.regions out ((n - 1) * fld (gpDesc i 1) 63 48 * 32 +
      gpElems i * (if fld (gpDesc i 0) 51 50 = 0 then 4 else if fld (gpDesc i 0) 51 50 = 1 then 2 else 12)) = true)
    (hlists : ∀ l ∈ gpLists s sl i total, consumeCause s c.part false l.1 l.2 = none) :
    exec (.gatherPool x) s = .next (settle (
      let t := ((off, 4 * (n + 1)) :: gpLists s sl i total).foldl (fun t l => devReadLog t c.part false l.1 l.2 x.ctx.toNat) s
      hbmIssue (updRun t x fun q => { q with active := true }) x c ((List.range n).map (gpLookups s sl i)).sum)) := by
  subst hsl hn hoff htotal hidx hwts hout
  have ascending : ((List.range (gpBags i)).any fun k =>
      decide (gpOffset s (getSlice s c.part) i (k + 1) < gpOffset s (getSlice s c.part) i k)) = false :=
    List.any_eq_false.mpr fun k hk => by
      rw [decide_eq_true_eq]
      exact Nat.not_lt.mpr (hasc k (List.mem_range.mp hk))
  have weights : (bit (gpDesc i 0) 52 && !sliceRange (getSlice s c.part).regions (fld (gpDesc i 4) 30 0 + 4 * gpOffset s (getSlice s c.part) i 0)
      (4 * (gpOffset s (getSlice s c.part) i (gpBags i) - gpOffset s (getSlice s c.part) i 0))) = false := by
    cases hb : bit (gpDesc i 0) 52 with
    | false => rfl
    | true => rw [hwtsIn hb]; rfl
  have clean : ((gpLists s (getSlice s c.part) i (gpOffset s (getSlice s c.part) i (gpBags i))).findSome? fun l =>
      (consumeCause s c.part false l.1 l.2).map fun k => (l.1, k)) = none :=
    List.findSome?_eq_none_iff.mpr fun l hl => by rw [hlists l hl]; rfl
  rw [exec, execGatherPool, gatherPool, onItem_ready _ h]
  simp only [hm, hr, hstack, hkey, hbags, hbagsOk, ascending, hidxIn, weights, clean, Bool.not_true, Bool.false_eq_true, if_false]
  refine congrArg _ (congrArg settle (if_neg fun outside => ?_))
  refine Bool.eq_false_iff.mp (Bool.not_eq_true' _ ▸ outside) ?_
  rw [← houtIn]
  congr 3
  split <;> simp_all

/-- Settles O18, one lemma a case. -/
theorem fencesAndTransfers : Obligations.FencesAndTransfers := by
  refine ⟨⟨fun _ _ _ _ => exec_nop, fun x i c s h => ⟨fun ha => ?_, fun ha hb => ?_, fun ha hb => ?_⟩,
      fun _ _ _ _ _ _ _ _ hr => fenceMax_mem hr rfl, fun _ _ _ _ _ _ _ => exec_fenceWait,
      fun _ _ _ _ _ _ => exec_fenceWaitReread_host, fun _ _ _ _ _ => exec_fenceWaitReread_miss, fun _ _ _ _ => exec_fenceWaitTimeout,
      fun _ _ _ _ => exec_cookie⟩,
    fun _ _ _ _ => exec_copy, fun _ _ _ _ => exec_fill, fun _ _ _ _ => exec_floorplanRead, fun _ _ _ _ => exec_gatherPool_malformed,
    fun _ _ _ _ _ _ _ _ _ _ _ _ => exec_gatherPool, fun _ _ _ => exec_transferEngine_piece, fun _ _ _ => exec_transferEngine_image,
    fun _ _ _ _ => exec_hostReadCompletion_copy, fun _ _ _ _ _ => exec_hostReadCompletion_failed⟩
  · rw [exec_fenceSignal h, if_pos ha]
  · rw [exec_fenceSignal h, if_neg (not_not_intro ha), if_pos hb]
  · rw [exec_fenceSignal h, if_neg (not_not_intro ha), if_neg (Bool.eq_false_iff.mp hb)]

end Sys2Proof.Machine
end

section
/-!
PROOFS. Descriptors open; objects close through teardowns (R186, R189, R203, R204, R303): O19.
-/
namespace Sys2Proof.Machine

variable {s t : State} {x : ItemRef} {i : Item} {c : Context} {r : Reply} {b : List Byte}

/-! ### Answers and lists -/

/-- Commands that lead to one state before it is settled have one answer. -/
theorem next_congr {t u : State} (h : t = u) : (.next (settle t) : Outcome) = .next (settle u) := by rw [h]

/-- A list that can be read is acted on. -/
theorem withList_ok {va : Dword} {n : Nat} (hr : readVa s c (some x) r va n = .ok t b) (f : State → List Dword → State) :
    withList s x c r va n f = f t (leWords ((n + 7) / 8) b) := by
  simp only [withList, hr]

/-! ### Checks of descriptors -/

theorem leastStatus_ne_none {o : Option Nat} {l : List (Option Nat)} (h : o ≠ none) : leastStatus (o :: l) ≠ none := by
  obtain ⟨a, rfl⟩ := Option.ne_none_iff_exists'.mp h
  refine List.foldlRecOn (motive := fun m : Option Nat => m ≠ none) l _ (Option.some_ne_none a) fun m hm e _ => ?_
  obtain ⟨k, rfl⟩ := Option.ne_none_iff_exists'.mp hm
  cases e <;> exact Option.some_ne_none _

theorem ite_ne_none {p : Prop} [Decidable p] {m n : Option Nat} (hm : m ≠ none) (hn : n ≠ none) : (if p then m else n) ≠ none := by
  split
  · exact hm
  · exact hn

/-- A context that exists is not opened again. -/
theorem ctxReject_of_open {by_ : Context} (h : (getCtx s c.id).isSome = true) : ctxReject s by_ c ≠ none := by
  unfold ctxReject
  simp only [h, Bool.true_or, if_true]
  exact ite_ne_none (Option.some_ne_none _) (ite_ne_none (Option.some_ne_none _) (Option.some_ne_none _))

theorem queueOpenStatus_of_open {ws : List Dword} (h : (getQueue s (queueOf ws).ctx (queueOf ws).qid).isSome = true) :
    queueOpenStatus s ws ≠ none := by
  have broken : queueBroken s ws = true := by simp only [queueBroken, h, Bool.or_true, Bool.true_or]
  unfold queueOpenStatus
  simp only [broken, if_true]
  exact ite_ne_none (Option.some_ne_none _) (Option.some_ne_none _)

theorem memOpenStatus_of_open {ws : List Dword} (h : (getObj s (objOf ws).obj).isSome = true) : memOpenStatus s ws = some 0x28 := by
  simp only [memOpenStatus, h, Bool.true_or, if_true]

/-! ### Closing (R204) -/

section CtxClose
variable {id : BitVec 16} (h : itemReady s x 0x21 i c = true) (hid : id = BitVec.ofNat 16 (fld (iw i 1) 15 0))
include h hid

theorem exec_ctxClose_unknown (hc : getCtx s id = none) : exec (.ctxClose x) s = .next (settle (completeItem s x 0x20)) := by
  subst hid
  rw [exec, execCtxClose, ctxClose, onItem_ready _ h]
  simp only [hc]

theorem exec_ctxClose {d : Context} (hd : getCtx s id = some d) (hmanager : id ≠ 0) (hown : id ≠ x.ctx) :
    exec (.ctxClose x) s = .next (settle (if d.state = .closing then completeItem s x 0x28
      else beginTeardown (closeCtx s d) { kind := 0, id := id.toNat, item := some x })) := by
  subst hid
  rw [exec, execCtxClose, ctxClose, onItem_ready _ h]
  simp only [hd, hmanager, hown, or_self, if_false]

end CtxClose

theorem exec_queueClose {id : BitVec 16} {qid : BitVec 4} {q : Queue} (h : itemReady s x 0x25 i c = true)
    (hid : id = BitVec.ofNat 16 (fld (iw i 1) 15 0)) (hqid : qid = BitVec.ofNat 4 (fld (iw i 1) 19 16)) (hq : getQueue s id qid = some q)
    (hown : ¬(id = x.ctx ∧ qid = x.qid)) : exec (.queueClose x) s = .next (settle (if q.closing then completeItem s x 0x28
      else beginTeardown (setQueue s { q with closing := true }) { kind := 1, id := queueKey id qid, item := some x })) := by
  subst hid hqid
  rw [exec, execQueueClose, queueClose, onItem_ready _ h]
  simp only [hq, if_neg hown]

theorem exec_memClose {o : MemObj} (h : itemReady s x 0x27 i c = true) (ho : getObj s (BitVec.ofNat 16 (fld (iw i 1) 15 0)) = some o) :
    exec (.memClose x) s = .next (settle (if o.closing then completeItem s x 0x28
      else beginTeardown (setObj s { o with closing := true })
        { kind := 2, id := o.obj.toNat, item := some x, zero := bit (iw i 1) 16, obj := some o, part := objPart s o })) := by
  rw [exec, execMemClose, memClose, onItem_ready _ h]
  simp only [ho]

section Teardown
variable {n : Nat} {td : Teardown} (ht : s.teardowns[n]? = some td)
include ht

theorem exec_teardownIdle (hs : td.step = 2) : exec (.teardownIdle n) s = .next (settle (if tdIdle s td then cuffTeardown s td else s)) := by
  simp only [exec, execTeardownIdle, ht, hs, true_and]

theorem exec_teardownGraceExpire (hs : td.step = 2) : exec (.teardownGraceExpire n) s = .next (settle (cuffTeardown
    { s with teardowns := s.teardowns.map fun v => if v == td then { td with forced := true } else v } { td with forced := true })) := by
  simp only [exec, execTeardownGraceExpire, ht, hs, ne_eq, not_true, if_false]

/-- With nothing outstanding only translations are given up. -/
theorem exec_teardownRequestTimeout (hs : td.step = 4) (hh : s.hostReads = []) (hw : s.winReqs = []) : exec (.teardownRequestTimeout n) s =
    .next (settle (dropXlates s fun v => td.kind == 0 && v.ctx.toNat == td.id)) := by
  have same : { s with hostReads := [], winReqs := [] } = s := by
    cases s
    subst hh hw
    rfl
  simp only [exec, execTeardownRequestTimeout, ht, hs, ne_eq, not_true, if_false, hh, hw, List.filter_nil, List.foldl_nil, same]

end Teardown

theorem exec_memZeroDone {obj : BitVec 16} {td : Teardown} {o : MemObj}
    (ht : (s.teardowns.find? fun t => t.kind == 2 && t.id == obj.toNat && t.step == 7) = some td) (ho : td.obj = some o) :
    exec (.memZeroDone obj) s = .next (settle (tdComplete (dropTeardown (zeroObj s td.part o) td) td)) := by
  simp only [exec, execMemZeroDone, ht, ho]

/-- Settles O19: opening items through `withList`, closing ones case by case. -/
theorem descriptorsOpenAndClose : Obligations.DescriptorsOpenAndClose := by
  refine ⟨⟨fun x r i c b s t h hr => next_congr ((onItem_ready _ h).trans (withList_ok hr _)),
      fun x r i c b s t h hr => next_congr ((onItem_ready _ h).trans (withList_ok hr _)),
      fun x r i c b s t h hr => next_congr ((onItem_ready _ h).trans (withList_ok hr _)),
      fun s by_ ws hm hb => ?_, fun s by_ ws h => leastStatus_ne_none (ctxReject_of_open h), fun _ _ => queueOpenStatus_of_open,
      fun _ _ => memOpenStatus_of_open⟩,
    fun x i by_ id s h hid => ⟨exec_ctxClose_unknown h hid, fun d hd h0 hown hs => ?_, fun d hd h0 hown hs => ?_⟩,
    fun _ _ _ _ _ _ _ => exec_queueClose, fun _ _ _ _ _ => exec_memClose,
    fun n td s ht hs => ⟨exec_teardownIdle ht hs, exec_teardownGraceExpire ht hs⟩, fun _ _ _ => exec_teardownRequestTimeout,
    fun _ _ _ _ => exec_memZeroDone⟩
  · simp only [ctxReject, hm, hb, Bool.not_false, Bool.and_self, if_true]
  · rw [exec_ctxClose h hid hd h0 hown, if_pos hs]
  · rw [exec_ctxClose h hid hd h0 hown, if_neg hs]

end Sys2Proof.Machine
end

section
/-!
PROOFS. Contexts resume, park and unpark; the host is lost and reattaches (R187, R188, R205 to R208, R373): O20.
-/
namespace Sys2Proof.Machine

variable {s t u : State} {x : ItemRef} {i : Item} {by_ c : Context}

/-! ### CTX_RESUME, CTX_UNPARK, parking -/

section Resume
variable {id : BitVec 16} (h : itemReady s x 0x22 i by_ = true) (hid : id = BitVec.ofNat 16 (fld (iw i 1) 15 0))
  (hc : getCtx s id = some c) (hs : c.state ≠ .closing) (hr : recordStuck s 0x02 0 (BitVec.ofNat 32 id.toNat) 2 = false)
include h hid hc hs hr

theorem exec_ctxResume_healthy (hf : c.faulted = false) : exec (.ctxResume x) s = .next (settle (completeItem s x 0x00)) := by
  subst hid
  rw [exec, execCtxResume, ctxResume, onItem_ready _ h]
  simp only [hc, hs, hr, hf, if_false, Bool.false_eq_true, Bool.not_false, if_true]

/-- A faulted context resumes: its kernels stop, then every queue is flushed into a new epoch. -/
theorem exec_ctxResume_faulted (hf : c.faulted = true) (ht : t = setCtx s { c with faulted := false, victim := false, images := [] })
    (hu : u = (ctxCores t id).foldl (fun s p => stopCore s p 0x10) t) : exec (.ctxResume x) s = .next (settle (completeItem
      ((listOpt (fun q => q.ctx == id) u.queues).foldl (fun s q => flushQueue s q true) u) x 0x00)) := by
  subst hid ht hu
  rw [exec, execCtxResume, ctxResume, onItem_ready _ h]
  simp only [hc, hs, hr, hf, if_false, Bool.false_eq_true, Bool.not_true]
  exact next_congr rfl

end Resume

section Unpark
variable {r : Reply} (h : itemReady s x 0x23 i by_ = true) (hc : getCtx s (BitVec.ofNat 16 (fld (iw i 1) 15 0)) = some c)
include h hc

theorem exec_ctxUnpark_other (hs : c.state ≠ .parked) : exec (.ctxUnpark x r) s = .next (settle (completeItem s x 0x28)) := by
  rw [exec, execCtxUnpark, ctxUnpark, onItem_ready _ h]
  simp only [hc, ne_eq, hs, not_false_iff, if_true]

theorem exec_ctxUnpark (hs : c.state = .parked) (hw : iw i 2 = 0) : exec (.ctxUnpark x r) s = .next (settle (unparkItem s x c)) := by
  rw [exec, execCtxUnpark, ctxUnpark, onItem_ready _ h]
  simp only [hc, ne_eq, hs, not_true, if_false, hw, if_true]

variable {b : List Byte} (hs : c.state = .parked) (hw : iw i 2 ≠ 0) (hr : readVa s by_ (some x) r (iw i 2) 64 = .ok t b)
include hs hw hr

theorem exec_ctxUnpark_descr {d : Context} (hb : ctxBroken t (leWords 8 b) = false) (hd : unparkDescr c (ctxOf (leWords 8 b)) = some d) :
    exec (.ctxUnpark x r) s = .next (settle (unparkItem t x d)) := by
  rw [exec, execCtxUnpark, ctxUnpark, onItem_ready _ h]
  simp only [hc, ne_eq, hs, not_true, if_false, hw, withList_ok hr, Nat.reduceAdd, Nat.reduceDiv, hb, Bool.false_eq_true, hd]

/-- A descriptor that is broken, or changes the identity, is refused. -/
theorem exec_ctxUnpark_refused (hb : ctxBroken t (leWords 8 b) = true ∨ unparkDescr c (ctxOf (leWords 8 b)) = none) :
    exec (.ctxUnpark x r) s = .next (settle (completeItem t x 0x29)) := by
  rw [exec, execCtxUnpark, ctxUnpark, onItem_ready _ h]
  simp only [hc, ne_eq, hs, not_true, if_false, hw, withList_ok hr, Nat.reduceAdd, Nat.reduceDiv]
  rcases hb with hb | hd
  · rw [if_pos hb]
  · simp only [hd, ite_self]

end Unpark

theorem unparkItem_slot {n : Nat} (hs : slotFor s c = (u, some n)) : unparkItem s x c = completeItem (unpark u c n) x 0x00 := by
  simp only [unparkItem, hs]

theorem unparkItem_waits (hs : slotFor s c = (u, none)) : unparkItem s x c = u := by
  simp only [unparkItem, hs]

theorem exec_contextPark {ctx : BitVec 16} (hc : getCtx s ctx = some c) :
    exec (.contextPark ctx) s = .next (settle (if s.host.lost then parkCtx s c else s)) := by
  simp only [exec, execContextPark, hc]

/-! ### The host link -/

theorem exec_hostAttach (h : itemReady s x 0x28 i c = true) : exec (.hostAttach x) s = .next (settle (
    if 3600 < fld (iw i 2) 43 32 then completeItem s x 0x20
    else completeItem { s with host := { s.host with
      nonce := iw i 1
      attachId := BitVec.ofNat 32 (fld (iw i 2) 31 0)
      hold := BitVec.ofNat 12 (fld (iw i 2) 43 32) } } x 0x00)) := by
  rw [exec, execHostAttach, hostAttach, onItem_ready _ h]

theorem exec_hostLink_left (h : s.host.l0 = true) : exec (.hostLinkStateChange .left) s =
    .next (settle { s with host := { s.host with l0 := false, down := true } }) := by
  simp only [exec, execHostLinkStateChange, h, if_true]

theorem exec_hostLink_l0 {offer : Bool} (hp : s.host.perst = false) (he : s.life.hostEn = true) :
    exec (.hostLinkStateChange (.l0 offer)) s = .next (settle { s with host := { s.host with
      l0 := true
      down := false
      cxl := if s.host.l0 then s.host.cxl else offer && s.regs.cxlEn } }) := by
  simp only [exec, execHostLinkStateChange, hp, he, Bool.not_true, Bool.or_self, Bool.false_eq_true, if_false]

theorem exec_hostLinkDownTimeout (hd : s.host.down = true) (hl : s.host.l0 = false) : exec .hostLinkDownTimeout s =
    .next (settle (hostLoss { s with host := { s.host with down := false } } 1)) := by
  simp only [exec, execHostLinkDownTimeout, hd, hl, Bool.not_false, Bool.and_self, if_true]

theorem exec_perstAssert (h : s.host.perst = false) : exec .perstAssert s = .next (settle { hostIfReset (hostLoss s 3) with
    host := { (hostIfReset (hostLoss s 3)).host with perst := true } }) := by
  simp only [exec, execPerstAssert, h, Bool.false_eq_true, if_false]

theorem exec_perstRelease (h : s.host.perst = true) (he : s.life.hostEn = true) : exec .perstRelease s =
    .next (settle { s with host := { s.host with perst := false } }) := by
  simp only [exec, execPerstRelease, h, he, Bool.and_self, if_true]

/-! ### The reattach (R206) -/

theorem logEvent_irqLevel_host (s : State) (n src type : Nat) (on kept : Bool) (l : List Byte) :
    (logEvent (irqLevel s n on) src type kept l).host = s.host := by
  unfold irqLevel
  rfl

/-- The fence is lifted. -/
theorem reattach_lost (s : State) : (reattach s).host.lost = false := by
  rw [reattach, logEvent_irqLevel_host]

section Compare
variable {v : View} {d : Word} (hf : bit s.regs.frozen 0 = false)
include hf

theorem exec_reattach (hl : s.host.locked = false) (hn : s.host.nonce = BitVec.ofNat 64 (d.toNat * 2 ^ 32 + s.host.raLo.toNat))
    (hlost : s.host.lost = true) : exec (.hiuReattachHi v d) s = .next (settle (reattach s)) := by
  simp only [exec, execHiuReattachHi, hf, reattachWrite, hl, Bool.false_eq_true, if_false, if_pos hn, hlost, if_true]

theorem exec_reattach_mismatch (hl : s.host.locked = false) (hn : s.host.nonce ≠ BitVec.ofNat 64 (d.toNat * 2 ^ 32 + s.host.raLo.toNat)) :
    exec (.hiuReattachHi v d) s = .next (settle { s with host := { s.host with
      mismatches := s.host.mismatches + 1
      fails := BitVec.ofNat 4 (min 15 (s.host.mismatches + 1))
      locked := decide (16 ≤ s.host.mismatches + 1) } }) := by
  simp only [exec, execHiuReattachHi, hf, reattachWrite, hl, Bool.false_eq_true, if_false, if_neg hn]

end Compare

/-- A locked comparison has no effect, and neither has a frozen block. -/
theorem exec_reattach_locked {v : View} {d : Word} (hl : s.host.locked = true) : exec (.hiuReattachHi v d) s = .next (settle s) := by
  simp only [exec, execHiuReattachHi, reattachWrite, hl, if_true, ite_self]

theorem exec_reattachHoldExpire : exec .reattachHoldExpire s = .next (settle (
    if s.host.lost then (listOpt (fun c => c.state == .parked) s.ctxs).foldl holdClose s else s)) := by
  cases h : s.host.lost <;> simp only [exec, execReattachHoldExpire, h, Bool.not_true, Bool.not_false, Bool.false_eq_true, if_true, if_false]

/-- Settles O20, one lemma a case. -/
theorem contextsAndTheHost : Obligations.ContextsAndTheHost := by
  refine ⟨⟨fun x i by_ c id s h hid hc hs hr => ⟨exec_ctxResume_healthy h hid hc hs hr, fun hf t u => exec_ctxResume_faulted h hid hc hs hr hf⟩,
      fun x r i by_ c s h hc => ⟨exec_ctxUnpark_other h hc, fun n u hs hw hslot => ?_, fun u hs hw hslot => ?_,
        fun b t d n u hs hw hr hb hd hslot => ?_, fun b t => exec_ctxUnpark_refused h hc⟩, fun _ _ _ => exec_contextPark⟩,
    fun _ _ _ _ => exec_hostAttach, fun _ => exec_hostLink_left, fun _ _ => exec_hostLink_l0, fun _ => exec_hostLinkDownTimeout,
    fun _ => rfl, fun _ => exec_perstAssert, fun _ => exec_perstRelease, fun _ _ => rfl, fun _ _ => rfl,
    fun v d s hf hl hn hlost => ⟨exec_reattach hf hl hn hlost, reattach_lost s⟩, fun _ _ _ => exec_reattach_mismatch,
    fun _ _ _ => exec_reattach_locked, fun s h => ?_, fun s h => ?_⟩
  · rw [exec_ctxUnpark h hc hs hw, unparkItem_slot hslot]
  · rw [exec_ctxUnpark h hc hs hw, unparkItem_waits hslot]
  · rw [exec_ctxUnpark_descr h hc hs hw hr hb hd, unparkItem_slot hslot]
  · rw [exec_reattachHoldExpire, if_pos h]
  · rw [exec_reattachHoldExpire, if_neg (Bool.eq_false_iff.mp h)]

end Sys2Proof.Machine
end

section
/-!
PROOFS. Items that set translation up (R210, R217, R219, R222, R235): O21.
-/
namespace Sys2Proof.Machine

variable {s t : State} {x : ItemRef} {i : Item} {by_ c : Context} {r : Reply} {b : List Byte} {id : BitVec 16}

/-! ### Segments and walks -/

/-- The checks of a segment list, in their order. -/
theorem exec_segSet {mask : Nat} {picked new : List Segment} (h : itemReady s x 0x40 i by_ = true)
    (hc : getCtx s (BitVec.ofNat 16 (fld (iw i 1) 15 0)) = some c) (hr : readVa s by_ (some x) r (iw i 2) 256 = .ok t b)
    (hm : mask = fld (iw i 1) 23 16) (hp : picked = ((List.range 8).filter fun k => mask / 2 ^ k % 2 = 1).map (segOf (leWords 32 b)))
    (hn : new = ((curSegs t c).zipIdx).map (fun e => if mask / 2 ^ e.2 % 2 = 1 then segOf (leWords 32 b) e.2 else e.1)) :
    exec (.segSet x r) s = .next (settle (
      if segsOverlap new then completeItem t x 0x60
      else if picked.any segBad then completeItem t x 0x61
      else if picked.any (segNoTarget t c) then completeItem t x 0x62
      else
        let u := if c.id = 0 then t else devWrite t c.part true c.segAddr.toNat (dwordBytes (segWords new)) false c.id.toNat
        completeItem (if c.slot ≠ 0 then setCtx u { c with segs := new } else u) x 0x00)) := by
  subst hm hp hn
  rw [exec, execSegSet, segSet, onItem_ready _ h]
  simp only [hc, withList_ok hr, Nat.reduceAdd, Nat.reduceDiv]

section WalkSet
variable (h : itemReady s x 0x41 i by_ = true) (hid : id = BitVec.ofNat 16 (fld (iw i 1) 15 0)) (hc : getCtx s id = some c)
include h hid hc

theorem exec_walkSet_off (hb : bit (iw i 1) 16 = false) : exec (.walkSet x r) s = .next (settle (completeItem (pumpItems
    (dropXlates (setCtx s { c with walk := false }) fun v => v.ctx == id) id) x 0x00)) := by
  subst hid
  rw [exec, execWalkSet, walkSet, onItem_ready _ h]
  simp only [hc, hb, Bool.not_false, if_true]

theorem exec_walkSet_on (hb : bit (iw i 1) 16 = true) (hr : readVa s by_ (some x) r (iw i 2) 32 = .ok t b) :
    exec (.walkSet x r) s = .next (settle (if walkBad (leWords 4 b) then completeItem t x 0x63 else completeItem (pumpItems
      (dropXlates (setCtx t { c with walk := true, walkFmt := leWords 4 b }) fun v => v.ctx == id) id) x 0x00)) := by
  subst hid
  rw [exec, execWalkSet, walkSet, onItem_ready _ h]
  simp only [hc, hb, Bool.not_true, Bool.false_eq_true, if_false, withList_ok hr, Nat.reduceAdd, Nat.reduceDiv]

end WalkSet

/-! ### ATC_INVAL (R235) -/

/-- With no translation under way none is dropped. -/
theorem dropXlates_of_nil (h : s.xlates = []) (gone : Xlate → Bool) : dropXlates s gone = s := by
  rw [dropXlates, h]
  cases s
  subst h
  rfl

section AtcInval
variable (h : itemReady s x 0x43 i by_ = true) (hid : id = BitVec.ofNat 16 (fld (iw i 1) 15 0))
include h hid

theorem exec_atcInval_denied (hown : id ≠ x.ctx) (hm : by_.manager = false) :
    exec (.atcInval x) s = .next (settle (completeItem s x 0x40)) := by
  subst hid
  rw [exec, execAtcInval, atcInval, onItem_ready _ h]
  simp only [hm, ne_eq, hown, not_false_iff, Bool.not_false, and_self, if_true]

/-- The entries of the context that the range meets leave the caches. -/
theorem exec_atcInval (hown : id = x.ctx ∨ by_.manager = true) (hc : getCtx s id = some c) (hx : s.xlates = [])
    (ha : bit (iw i 1) 16 = true ∨ ((iw i 2).toNat % 4096 = 0 ∧ (iw i 3).toNat % 4096 = 0)) :
    exec (.atcInval x) s = .next (settle (completeItem { s with
      atc := s.atc.filter fun e => !(e.inst == c.inst && e.pasid == c.pasid && (bit (iw i 1) 16 || e.meets (iw i 2).toNat (iw i 3).toNat))
      walks := s.walks.filter fun w => !(w.inst == c.inst && w.pasid == c.pasid) } x 0x00)) := by
  subst hid
  have allowed : ¬(BitVec.ofNat 16 (fld (iw i 1) 15 0) ≠ x.ctx ∧ (!by_.manager) = true) := by
    rintro ⟨other, denied⟩
    rcases hown with own | manager
    · exact other own
    · rw [manager] at denied
      cases denied
  have aligned : ¬((!bit (iw i 1) 16) = true ∧ ((iw i 2).toNat % 4096 ≠ 0 ∨ (iw i 3).toNat % 4096 ≠ 0)) := by
    rintro ⟨ranged, misaligned⟩
    rcases ha with all | ⟨h2, h3⟩
    · rw [all] at ranged
      cases ranged
    · exact misaligned.elim (· h2) (· h3)
  rw [exec, execAtcInval, atcInval, onItem_ready _ h]
  simp only [if_neg allowed, hc, if_neg aligned, hx, List.filter_nil, List.foldl_nil]
  rw [dropXlates_of_nil rfl, ← hx]

end AtcInval

/-! ### MIGRATE and FAULT_RESPOND -/

theorem exec_migrate_misaligned {n : Nat} (h : itemReady s x 0x44 i c = true) (hn : n = if bit (iw i 1) 16 then 0x200000 else 0x1000)
    (ha : (iw i 2).toNat % n ≠ 0 ∨ (iw i 3).toNat % n ≠ 0) : exec (.migrate x) s = .next (settle (completeItem s x 0x20)) := by
  subst hn
  rw [exec, execMigrate, migrate, onItem_ready _ h]
  exact next_congr (if_pos ha)

theorem exec_migrate {n : Nat} (h : itemReady s x 0x44 i c = true) (hn : n = if bit (iw i 1) 16 then 0x200000 else 0x1000)
    (h2 : (iw i 2).toNat % n = 0) (h3 : (iw i 3).toNat % n = 0)
    (hreads : (s.hostReads.any fun r => decide (r.addr.toNat < (iw i 2).toNat + n) && decide ((iw i 2).toNat < r.addr.toNat + r.bytes)) = false)
    (hbusy : ((apertureAt s (iw i 3).toNat n).any fun e => memBusy s x (objPart s e.1) e.1.hbm e.2 n) = false) :
    exec (.migrate x) s = .next (settle (startXfer s x)) := by
  have aligned : ¬((iw i 2).toNat % n ≠ 0 ∨ (iw i 3).toNat % n ≠ 0) := fun h => h.elim (· h2) (· h3)
  subst hn
  rw [exec, execMigrate, migrate, onItem_ready _ h]
  simp only [if_neg aligned, hreads, Bool.false_eq_true, if_false]
  split
  next o a ho =>
    simp only [ho, Option.any_some] at hbusy
    rw [if_neg (Bool.eq_false_iff.mp hbusy)]
  · rfl

/-- Settles O21, one lemma a case. -/
theorem translationIsSetUp : Obligations.TranslationIsSetUp := by
  refine ⟨fun x r i by_ c b mask picked new s t h hc hr hm hp hn => ⟨fun ho => ?_, fun ho hb => ?_, fun ho hb ht => ?_, fun u ho hb ht hu => ?_⟩,
    fun x r i by_ c id s h hid hc => ⟨exec_walkSet_off h hid hc, fun b t hb hr hw => ?_, fun b t hb hr hw => ?_⟩,
    fun x r i c b s t h hr => next_congr ((onItem_ready _ h).trans (withList_ok hr _)),
    fun x i by_ c id s h hid => ⟨exec_atcInval_denied h hid, fun hown hc hall hx => ?_, fun hown hc hall hx h2 h3 => ?_⟩,
    fun x i c n s h hn => ⟨exec_migrate_misaligned h hn, exec_migrate h hn⟩, fun x i c s h => next_congr (onItem_ready _ h)⟩
  · rw [exec_segSet h hc hr hm hp hn, if_pos ho]
  · rw [exec_segSet h hc hr hm hp hn, if_neg (Bool.eq_false_iff.mp ho), if_pos hb]
  · rw [exec_segSet h hc hr hm hp hn, if_neg (Bool.eq_false_iff.mp ho), if_neg (Bool.eq_false_iff.mp hb), if_pos ht]
  · rw [exec_segSet h hc hr hm hp hn, if_neg (Bool.eq_false_iff.mp ho), if_neg (Bool.eq_false_iff.mp hb), if_neg (Bool.eq_false_iff.mp ht), ← hu]
  · rw [exec_walkSet_on h hid hc hb hr, if_pos hw]
  · rw [exec_walkSet_on h hid hc hb hr, if_neg (Bool.eq_false_iff.mp hw)]
  · rw [exec_atcInval h hid hown hc hx (.inl hall)]
    simp only [hall, Bool.true_or, Bool.and_true]
  · rw [exec_atcInval h hid hown hc hx (.inr ⟨h2, h3⟩)]
    simp only [hall, Bool.false_or]

end Sys2Proof.Machine
end

section
/-!
PROOFS. Replies to translation and window requests (R216 to R221, R227, R229): O22.
-/
namespace Sys2Proof.Machine

variable {s t : State} {c : Context} {v : Xlate} {tag : Nat}

/-! ### ATS -/

section AtsCompletion
variable (hv : (s.xlates.find? fun v => v.tag == tag && !v.walk) = some v) (ht : t = dropXlates s fun u => u.tag == tag)
  (hc : getCtx t v.ctx = some c)
include hv ht hc

theorem exec_atsCompletion_noAccess (addr : Dword) (big : Bool) :
    exec (.atsCompletion tag (.mapped addr big false false)) s = .next (settle (pageRequest t c v.va v.write v.holders)) := by
  subst ht
  rw [exec, execAtsCompletion, atsCompletion]
  simp only [hv, hc, Bool.not_false, Bool.and_self, if_true]

theorem exec_atsCompletion_mapped (addr : Dword) (big : Bool) {rd wr : Bool} (hacc : rd = true ∨ wr = true)
    (hwr : (v.retry && v.write && !wr) = false) :
    exec (.atsCompletion tag (.mapped addr big rd wr)) s = .next (settle (pumpItems
      (installAtc t c v.va addr (big && addr.toNat % 0x200000 == 0) rd wr) c.id)) := by
  have granted : (!rd && !wr) = false := by rcases hacc with rfl | rfl <;> simp
  subst ht
  rw [exec, execAtsCompletion, atsCompletion]
  simp only [hv, hc, granted, Bool.false_eq_true, if_false]
  rw [mapped, if_neg (Bool.eq_false_iff.mp hwr)]

/-- Every other answer: TRANSLATION_FAULT. -/
theorem exec_atsCompletion_refused {a : AtsResult} (ha : a = .unsupported ∨ a = .abort ∨ a = .timeout) :
    exec (.atsCompletion tag a) s = .next (settle (raiseXlat t c.id 0x09 v.va 0)) := by
  subst ht
  rw [exec, execAtsCompletion, atsCompletion]
  rcases ha with rfl | rfl | rfl <;> simp only [hv, hc]

end AtsCompletion

theorem exec_atsInvalidateRequest_quiet {pasid : BitVec 20} {base size : Dword} {itag : BitVec 5} (hx : s.xlates = []) :
    exec (.atsInvalidateRequest pasid base size itag) s = .next (settle { s with
      atc := s.atc.filter fun e => !(e.pasid == pasid && e.meets base.toNat size.toNat)
      walks := s.walks.filter fun w => !(w.pasid == pasid)
      invals := s.invals ++ [(itag, (s.hostReads.filter fun r =>
        (s.atc.filter fun e => e.pasid == pasid && e.meets base.toNat size.toNat).any fun e => decide ((r.addr - e.addr).toNat < e.bytes)).map (·.tag))] }) := by
  rw [exec, execAtsInvalidateRequest, atsInvalidate]
  simp only [hx, List.filter_nil, List.foldl_nil]
  rw [dropXlates_of_nil rfl, ← hx]

theorem exec_invalidateCompletion {itag : BitVec 5} {e : BitVec 5 × List Nat} (he : (s.invals.find? fun v => v.1 == itag) = some e)
    (hreads : (s.hostReads.any fun r => e.2.contains r.tag) = false) :
    exec (.invalidateCompletion itag) s = .next (settle (emit { s with invals := s.invals.erase e } (.invalidateCompletion itag))) := by
  rw [exec, execInvalidateCompletion]
  simp only [he]
  rw [if_neg (Bool.eq_false_iff.mp hreads)]

/-! ### Walks -/

section WalkFetch
variable (hv : (s.xlates.find? fun v => v.tag == tag && v.walk) = some v) (hc : getCtx s v.ctx = some c)
  (ht : t = dropXlates s fun u => u.tag == tag)
include hv hc ht

theorem exec_walkFetchComplete_entry {b : List Byte} (hb : b.length = walkEsize c.walkFmt) :
    exec (.walkFetchComplete tag (.data b false)) s = .next (settle (walkEntry t c v (BitVec.ofNat 64 (leNat b)))) := by
  subst ht
  rw [exec, execWalkFetchComplete, walkFetch]
  simp only [hv, hc, hb, ne_eq, not_true_eq_false, Bool.false_eq_true, if_false]

theorem exec_walkFetchComplete_poisoned {b : List Byte} (hb : b.length = walkEsize c.walkFmt) :
    exec (.walkFetchComplete tag (.data b true)) s = .next (settle (raiseXlat t c.id 0x06 v.va v.ea)) := by
  subst ht
  rw [exec, execWalkFetchComplete, walkFetch]
  simp only [hv, hc, hb, ne_eq, not_true_eq_false, if_true, if_false]

theorem exec_walkFetchComplete_refused {a : HostResult} (ha : a = .unsupported ∨ a = .abort) :
    exec (.walkFetchComplete tag a) s = .next (settle (raiseXlat t c.id 0x06 v.va v.ea)) := by
  subst ht
  rw [exec, execWalkFetchComplete, walkFetch]
  rcases ha with rfl | rfl <;> simp only [hv, hc]

end WalkFetch

/-- An entry whose valid bit is clear leads to a page request. -/
theorem walkEntry_invalid {e : Dword} (he : bit e (fld (c.walkFmt.getD 2 0) 5 0) = false) :
    walkEntry s c v e = pageRequest s c v.va v.write v.holders := by
  rw [walkEntry]
  simp only [he, Bool.not_false, if_true]

/-! ### Page requests -/

theorem exec_pageRequestResponse {req : BitVec 16} {r : PageReq} {success : Bool}
    (hr : (s.pageReqs.find? fun r => r.id == req && !r.native) = some r) :
    exec (.pageRequestResponse req success) s = .next (settle (if success then releaseHolds s r else failHolds s r)) := by
  rw [exec, execPageRequestResponse]
  simp only [hr]

theorem exec_pageRequestTimeout {req : BitVec 16} {r : PageReq} (hr : (s.pageReqs.find? fun r => r.id == req) = some r)
    (hw : r.withdrawn = false) :
    exec (.pageRequestTimeout req) s = .next (settle (raiseXlat
      { s with pageReqs := s.pageReqs.filter fun q => !(q.id == r.id) } r.ctx 0x04 r.va 0)) := by
  rw [exec, execPageRequestTimeout]
  simp only [hr, failHolds, hw, Bool.false_eq_true, if_false]

/-! ### Time-outs -/

section WindowTimeout
variable {req : BitVec 16} {r : WinReq} (hr : (s.winReqs.find? fun r => r.tag == req) = some r)
  (ht : t = regDone { s with winReqs := s.winReqs.filter fun q => !(q.tag == req) } r.part.toNat 1 r.lc r.due)
include hr ht

theorem exec_windowTimeout_item (hu : r.use ≠ .ring) :
    exec (.windowTimeout req) s = .next (settle (stopDone (faultItem (uncountWrite t r) r.x 4 0x0B r.va
      (windowDetail 0 r.node r.window)) r.x)) := by
  subst ht
  rw [exec, execWindowTimeout, windowTimeout]
  simp only [hr, if_neg hu]

theorem exec_windowTimeout_ring (hu : r.use = .ring) :
    exec (.windowTimeout req) s = .next (settle (raise t { ctx := r.ctx, cls := 6, cause := 5, addr := r.va })) := by
  subst ht
  rw [exec, execWindowTimeout, windowTimeout]
  simp only [hr, if_pos hu]

end WindowTimeout

theorem exec_completionTimeout_read {r : HostRead} (hr : (s.hostReads.find? fun r => r.tag == tag && r.sent) = some r) :
    exec (.completionTimeout tag) s = .next (settle (stopDone (faultItem (regDone
      { s with hostReads := s.hostReads.filter fun q => !(q.tag == tag) } r.part.toNat 2 r.lc r.due) r.x 4
      (if r.peer then 0x0C else 0x04) r.va r.addr) r.x)) := by
  rw [exec, execCompletionTimeout, completionTimeout]
  simp only [hr, hostFail]

theorem exec_completionTimeout_xlate (hr : (s.hostReads.find? fun r => r.tag == tag && r.sent) = none)
    (hv : (s.xlates.find? fun v => v.tag == tag) = some v) :
    exec (.completionTimeout tag) s = .next (settle (raiseXlat (dropXlates s fun u => u.tag == tag) v.ctx
      (if v.walk then 0x06 else 0x09) v.va (if v.walk then v.ea else 0))) := by
  rw [exec, execCompletionTimeout, completionTimeout]
  simp only [hr, hv]

/-- Settles O22, one lemma a case. -/
theorem translationReplies : Obligations.TranslationReplies :=
  ⟨fun _ _ _ _ _ hv ht hc => ⟨exec_atsCompletion_noAccess hv ht hc, fun addr big _ _ => exec_atsCompletion_mapped hv ht hc addr big,
      exec_atsCompletion_refused hv ht hc (.inl rfl), exec_atsCompletion_refused hv ht hc (.inr (.inl rfl)),
      exec_atsCompletion_refused hv ht hc (.inr (.inr rfl))⟩,
    fun _ _ _ _ _ => exec_atsInvalidateRequest_quiet,
    fun _ _ _ => exec_invalidateCompletion,
    fun _ _ _ _ _ _ hv hc hb ht => ⟨exec_walkFetchComplete_entry hv hc ht hb, exec_walkFetchComplete_poisoned hv hc ht hb,
      exec_walkFetchComplete_refused hv hc ht (.inl rfl), exec_walkFetchComplete_refused hv hc ht (.inr rfl)⟩,
    fun _ _ _ _ => walkEntry_invalid,
    fun _ _ _ hr => ⟨exec_pageRequestResponse hr, exec_pageRequestResponse hr⟩,
    fun _ _ _ => exec_pageRequestTimeout,
    fun _ _ _ _ hr ht => ⟨exec_windowTimeout_item hr ht, exec_windowTimeout_ring hr ht⟩,
    fun _ _ _ => exec_completionTimeout_read,
    fun _ _ _ => exec_completionTimeout_xlate⟩

end Sys2Proof.Machine
end

section
/-!
PROOFS. Windows, peers, the aperture, coherent lines and configuration (R225, R229 to R232, R372, R401): O23.
-/
namespace Sys2Proof.Machine

variable {s t : State} {x : ItemRef} {r : Reply} {i : Item} {c : Context} {b : List Byte} {w0 w1 : Dword} {o : MemObj}

/-! ### Windows and peers -/

section WindowOpen
variable {k : Nat} {w : Window} (h : itemReady s x 0x46 i c = true) (hr : readVa s c (some x) r (iw i 1) 16 = .ok t b)
  (h1 : w1 = (leWords 2 b).getD 1 0) (hk : k = fld w1 28 17)
include h hr h1 hk

theorem exec_windowOpen_valid (hv : (Tbl.get {} t.windows k).valid = true) :
    exec (.windowOpen x r) s = .next (settle (completeItem t x 0x64)) := by
  subst h1 hk
  rw [exec, execWindowOpen, windowOpen, onItem_ready _ h, withList_ok hr]
  simp only [Nat.reduceAdd, Nat.reduceDiv, hv, Bool.true_or, if_true]

theorem exec_windowOpen (h0 : w0 = (leWords 2 b).getD 0 0) (hv : (Tbl.get {} t.windows k).valid = false) (hclosed : closedRecently t 3 k = false)
    (hb0 : onlyBits w0 0x80FFFFFFFFFFFFFF = true) (hb1 : onlyBits w1 0x1FFFFFFFFF = true) (hf : fld w0 21 20 ≠ 3)
    (ho : getObj t (BitVec.ofNat 16 (fld w0 15 0)) = some o) (hopen : o.closing = false) (hown : (getCtx t o.owner).isSome = true)
    (hinst : (objInst t o).toNat = fld w0 31 24) (hkey : ¬(bit w0 22 = true ∧ bit w0 23 = true))
    (hw : w = { obj := BitVec.ofNat 16 (fld w0 15 0), rights := BitVec.ofNat 4 (fld w0 19 16), filter := BitVec.ofNat 2 (fld w0 21 20),
                legacyOk := bit w0 22, keyed := bit w0 23, inst := BitVec.ofNat 8 (fld w0 31 24), gid := BitVec.ofNat 24 (fld w0 55 32),
                valid := true, node := BitVec.ofNat 17 (fld w1 16 0), wgen := (Tbl.get {} t.windows k).wgen + 1 }) :
    exec (.windowOpen x r) s = .next (settle (completeResult { t with windows := Tbl.set {} t.windows k w } x 0x00
      (w.wgen.setWidth 64))) := by
  have filter : (fld w0 21 20 == 3) = false := beq_eq_false_iff_ne.mpr hf
  have keyed : (bit w0 22 && bit w0 23) = false := by
    rw [← Bool.not_eq_true, Bool.and_eq_true]
    exact hkey
  subst h0 h1 hk hw
  rw [exec, execWindowOpen, windowOpen, onItem_ready _ h, withList_ok hr]
  simp only [Nat.reduceAdd, Nat.reduceDiv, hv, hclosed, hb0, hb1, filter, ho, hopen, hown, hinst, keyed, beq_self_eq_true, Bool.not_true,
    Bool.not_false, Bool.or_self, Bool.and_self, Bool.false_eq_true, if_false]

end WindowOpen

section WindowClose
variable {k : Nat} (h : itemReady s x 0x47 i c = true) (hk : k = fld (iw i 1) 11 0)
include h hk

theorem exec_windowClose_invalid (hv : (Tbl.get {} s.windows k).valid = false) :
    exec (.windowClose x) s = .next (settle (completeItem s x 0x65)) := by
  subst hk
  rw [exec, execWindowClose, windowClose, onItem_ready _ h]
  simp only [hv, Bool.not_false, if_true]

theorem exec_windowClose (hv : (Tbl.get {} s.windows k).valid = true) (hdown : (s.teardowns.any fun t => t.kind == 3 && t.id == k) = false) :
    exec (.windowClose x) s = .next (settle (beginTeardown s
      { kind := 3, id := k, item := some x, obj := getObj s (Tbl.get {} s.windows k).obj })) := by
  subst hk
  rw [exec, execWindowClose, windowClose, onItem_ready _ h]
  simp only [hv, hdown, Bool.not_true, Bool.false_eq_true, if_false]

end WindowClose

theorem exec_peerSet (h : itemReady s x 0x48 i c = true) (hr : readVa s c (some x) r (iw i 1) 16 = .ok t b)
    (h0 : w0 = (leWords 2 b).getD 0 0) (h1 : w1 = (leWords 2 b).getD 1 0) (hb0 : onlyBits w0 0xFFFFFFFFFFFFF01F = true)
    (hb1 : onlyBits w1 0xFFFFFFFFFFFFF000 = true) :
    exec (.peerSet x r) s = .next (settle (completeItem { t with
      peers := Tbl.set {} t.peers (fld w0 3 0)
        (if bit w0 4 then { valid := true, base := w0 &&& ~~~0xFFF, size := w1 } else {}) } x 0x00)) := by
  subst h0 h1
  rw [exec, execPeerSet, peerSet, onItem_ready _ h, withList_ok hr]
  simp only [Nat.reduceAdd, Nat.reduceDiv, hb0, hb1, Bool.not_true, Bool.or_self, Bool.false_eq_true, if_false]

/-! ### The aperture's slots and the coherent decoders -/

section ApertureSet
variable (h : itemReady s x 0x49 i c = true)
include h

theorem exec_apertureSet_clear (hb : bit (iw i 1) 32 = false) :
    exec (.apertureSet x) s = .next (settle (completeItem { s with apertures := Tbl.set {} s.apertures (fld (iw i 1) 7 0) {} } x 0x00)) := by
  rw [exec, execApertureSet, apertureSet, onItem_ready _ h]
  simp only [hb, Bool.not_false, if_true]

variable (hb : bit (iw i 1) 32 = true)
include hb

theorem exec_apertureSet_absent (ho : getObj s (BitVec.ofNat 16 (fld (iw i 1) 31 16)) = none) :
    exec (.apertureSet x) s = .next (settle (completeItem s x 0x67)) := by
  rw [exec, execApertureSet, apertureSet, onItem_ready _ h]
  simp only [hb, ho, Bool.not_true, Bool.not_false, Bool.false_eq_true, if_false, if_true]

variable (ho : getObj s (BitVec.ofNat 16 (fld (iw i 1) 31 16)) = some o)
include ho

theorem exec_apertureSet (hopen : o.closing = false) (hin : (iw i 2).toNat < o.size.toNat) (hal : (iw i 2).toNat % slotSize s = 0) :
    exec (.apertureSet x) s = .next (settle (completeItem { s with
      apertures := Tbl.set {} s.apertures (fld (iw i 1) 7 0)
        { valid := true, obj := BitVec.ofNat 16 (fld (iw i 1) 31 16), offset := iw i 2 } } x 0x00)) := by
  rw [exec, execApertureSet, apertureSet, onItem_ready _ h]
  simp only [hb, ho, hopen, hin, hal, decide_true, beq_self_eq_true, Bool.and_self, Bool.not_true, Bool.not_false, Bool.false_eq_true, if_false]

theorem exec_apertureSet_bad (hbad : o.closing = true ∨ o.size.toNat ≤ (iw i 2).toNat ∨ (iw i 2).toNat % slotSize s ≠ 0) :
    exec (.apertureSet x) s = .next (settle (completeItem s x 0x67)) := by
  have refused : (!o.closing && decide ((iw i 2).toNat < o.size.toNat) && (iw i 2).toNat % slotSize s == 0) = false := by
    rw [← Bool.not_eq_true, Bool.and_eq_true, Bool.and_eq_true, Bool.not_eq_true', decide_eq_true_eq, beq_iff_eq]
    rintro ⟨⟨hopen, hin⟩, hal⟩
    rcases hbad with hclosing | hout | hmis
    · rw [hopen] at hclosing
      cases hclosing
    · omega
    · exact hmis hal
  rw [exec, execApertureSet, apertureSet, onItem_ready _ h]
  simp only [hb, ho, refused, Bool.not_true, Bool.not_false, Bool.false_eq_true, if_false, if_true]

end ApertureSet

section HdmSet
variable (h : itemReady s x 0x4A i c = true)
include h

theorem exec_hdmSet_noCxl (hcxl : s.host.cxl = false) : exec (.hdmSet x) s = .next (settle (completeItem s x 0x68)) := by
  rw [exec, execHdmSet, hdmSet, onItem_ready _ h]
  simp only [hcxl, Bool.not_false, if_true]

variable (hcxl : s.host.cxl = true)
include hcxl

theorem exec_hdmSet_clear (hb : bit (iw i 1) 32 = false) :
    exec (.hdmSet x) s = .next (settle (completeItem { s with hdm := Tbl.set 0 s.hdm (fld (iw i 1) 1 0) 0 } x 0x00)) := by
  rw [exec, execHdmSet, hdmSet, onItem_ready _ h]
  simp only [hcxl, hb, Bool.not_true, Bool.not_false, Bool.false_eq_true, if_false, if_true]

variable (hb : bit (iw i 1) 32 = true)
include hb

theorem exec_hdmSet (ho : getObj s (BitVec.ofNat 16 (fld (iw i 1) 31 16)) = some o) (hopen : o.closing = false) :
    exec (.hdmSet x) s = .next (settle (completeItem
      { s with hdm := Tbl.set 0 s.hdm (fld (iw i 1) 1 0) ((BitVec.ofNat 16 (fld (iw i 1) 31 16)).toNat + 1) } x 0x00)) := by
  rw [exec, execHdmSet, hdmSet, onItem_ready _ h]
  simp only [hcxl, hb, ho, hopen, Bool.not_true, Bool.not_false, Bool.false_eq_true, if_false]

theorem exec_hdmSet_absent (ho : getObj s (BitVec.ofNat 16 (fld (iw i 1) 31 16)) = none) :
    exec (.hdmSet x) s = .next (settle (completeItem s x 0x29)) := by
  rw [exec, execHdmSet, hdmSet, onItem_ready _ h]
  simp only [hcxl, hb, ho, Bool.not_true, Bool.not_false, Bool.false_eq_true, if_false, if_true]

end HdmSet

/-! ### Accesses through the aperture -/

section Bar4
variable {off : BitVec 39} {op : Bar4Op} {a : Nat}

/-- What an access of the aperture does once its place is found, its checks pass and the domains it meets are in run. -/
def bar4Serve (t : State) (o : MemObj) (a : Nat) : Bar4Op → State
  | .read n => emit (devReadLog t (objPart t o) o.hbm a n) (.bar4Reply (devRead t (objPart t o) o.hbm a n).1 (devRead t (objPart t o) o.hbm a n).2)
  | .write d => hostSideWrite t (objPart t o) o.hbm a d false
  | .fetchAdd n v => apertureAtomic t o a n fun y => (y + v.toNat) % 2 ^ (8 * n)
  | .swap n v => apertureAtomic t o a n fun _ => v.toNat % 2 ^ (8 * n)
  | .cas n y v => apertureAtomic t o a n fun z => if z = y.toNat % 2 ^ (8 * n) then v.toNat % 2 ^ (8 * n) else z

theorem exec_bar4Access (hat : apertureAt s off.toNat (bar4Bytes op) = some (o, a)) (hmse : s.cfg.mse = true) (hd3 : s.cfg.d3hot = false)
    (hmem : meetMem s (objPart s o) o.hbm a (bar4Bytes op) = (t, true)) (hsup : bar4Supported off.toNat op = true) :
    exec (.bar4Access off op) s = .next (settle (bar4Serve t o a op)) := by
  rw [exec, execBar4Access, bar4Access]
  simp only [hat, hmse, hd3, hmem, hsup, Bool.not_true, Bool.or_self, Bool.false_eq_true, if_false]
  cases op <;> rfl

theorem exec_bar4Access_unsupported (h : apertureAt s off.toNat (bar4Bytes op) = none ∨ s.cfg.mse = false ∨
    s.cfg.d3hot = true ∨ bar4Supported off.toNat op = false) :
    exec (.bar4Access off op) s = .next (settle (emit s .bar4Unsupported)) := by
  rw [exec, execBar4Access, bar4Access]
  split
  · rfl
  next o a hat =>
    have refused : (!bar4Supported off.toNat op || !s.cfg.mse || s.cfg.d3hot) = true := by
      rcases h with hnone | hmse | hd3 | hsup
      · rw [hat] at hnone
        cases hnone
      · rw [hmse, Bool.not_false, Bool.or_true, Bool.true_or]
      · rw [hd3, Bool.or_true]
      · rw [hsup, Bool.not_false, Bool.true_or, Bool.true_or]
    exact next_congr (if_pos refused)

theorem exec_bar4Resize (n : BitVec 6) (s : State) : exec (.bar4Resize n) s = .next (settle (
    if s.cfg.mse = false ∧ 29 ≤ n.toNat ∧ n.toNat ≤ 39 then { s with cfg := { s.cfg with bar4Log := n }, apertures := [] } else s)) := by
  rw [exec, execBar4Resize]
  by_cases hok : s.cfg.mse = false ∧ 29 ≤ n.toNat ∧ n.toNat ≤ 39
  · obtain ⟨hmse, hlo, hhi⟩ := hok
    have small : ¬n.toNat < 29 := by omega
    have large : ¬39 < n.toNat := by omega
    simp only [hmse, hlo, hhi, small, large, decide_false, Bool.or_self, Bool.false_eq_true, and_self, if_false, if_true]
  · have refused : (s.cfg.mse || decide (n.toNat < 29) || decide (39 < n.toNat)) = true := by
      rw [Bool.or_eq_true, Bool.or_eq_true, decide_eq_true_eq, decide_eq_true_eq]
      refine Decidable.byContradiction fun hnone => ?_
      rw [not_or, not_or, Bool.not_eq_true] at hnone
      obtain ⟨⟨hmse, hlo⟩, hhi⟩ := hnone
      exact hok ⟨hmse, by omega, by omega⟩
    rw [if_neg hok, if_pos refused]

end Bar4

/-! ### The coherent windows -/

section Coherent
variable {dec : BitVec 2} {off : Dword} {k a : Nat} {part : BitVec 4} (hcxl : s.host.cxl = true)
  (hdm : Tbl.get 0 s.hdm dec.toNat = k + 1) (ho : getObj s (BitVec.ofNat 16 k) = some o) (hpart : part = objPart s o)
  (ha : a = o.base.toNat + off.toNat) (hcuff : o.cuffed = false)
include hcxl hdm ho hpart ha hcuff

theorem exec_coherentRead {n : Nat} (hin : off.toNat + n ≤ o.size.toNat) (hmap : memRange s part o.hbm a n = true)
    (hmem : meetMem s part o.hbm a n = (t, true)) :
    exec (.coherentWindowAccess dec off (.hostRead n)) s = .next (settle (emit { devReadLog t part o.hbm a n with
      cohHeld := t.cohHeld ++ ((unitsOf 64 a n).map (cohLine part o.hbm)).filter fun l => !(t.cohHeld.contains l) }
      (.cohReply (devRead t part o.hbm a n).1 (devRead t part o.hbm a n).2))) := by
  subst hpart ha
  rw [exec, execCoherentWindowAccess, coherentAccess]
  simp only [hcxl, hdm, ho, hcuff, hin, hmap, hmem, decide_true, Bool.not_true, Bool.not_false, Bool.and_self, Bool.false_eq_true,
    if_false, if_true]

theorem exec_coherentWrite {d : List Byte} (hin : off.toNat + d.length ≤ o.size.toNat) (hmap : memRange s part o.hbm a d.length = true)
    (hmem : meetMem s part o.hbm a d.length = (t, true)) :
    exec (.coherentWindowAccess dec off (.hostWrite d)) s = .next (settle (hostSideWrite t part o.hbm a d false)) := by
  subst hpart ha
  rw [exec, execCoherentWindowAccess, coherentAccess]
  simp only [hcxl, hdm, ho, hcuff, hin, hmap, hmem, decide_true, Bool.not_true, Bool.not_false, Bool.and_self, Bool.false_eq_true,
    if_false, if_true]

end Coherent

/-! ### Configuration -/

theorem exec_configurationRequest_notReady (w : Option Word) (reg : BitVec 10) (h : s.life.ready = false) :
    exec (.configurationRequest w reg) s = .next (settle (emit s .cfgRetry)) := by
  have notReady : (!s.life.ready) = true := by rw [h, Bool.not_false]
  exact next_congr (if_pos notReady)

theorem exec_configurationRead (reg : BitVec 10) (h : s.life.ready = true) :
    exec (.configurationRequest none reg) s = .next (settle (emit s (.cfgReply (cfgRead s reg.toNat)))) := by
  rw [exec, execConfigurationRequest, h]
  rfl

theorem exec_configurationWrite (reg : BitVec 10) (w : Word) (h : s.life.ready = true) :
    exec (.configurationRequest (some w) reg) s = .next (settle (emit (cfgWrite s reg.toNat w) (.cfgReply 0))) := by
  rw [exec, execConfigurationRequest, h]
  rfl

/-- Settles O23, one lemma a case. -/
theorem windowsAndHostAccess : Obligations.WindowsAndHostAccess :=
  ⟨fun _ _ _ _ _ _ _ _ _ _ _ _ h hr h0 h1 hk => ⟨exec_windowOpen_valid h hr h1 hk,
      fun hv hclosed hb0 hb1 hf ho hopen hown hinst hkey hw => exec_windowOpen h hr h1 hk h0 hv hclosed hb0 hb1 hf ho hopen hown hinst hkey hw⟩,
    fun _ _ _ _ _ h hk => ⟨exec_windowClose_invalid h hk, exec_windowClose h hk⟩,
    fun _ _ _ _ _ _ _ _ _ => exec_peerSet,
    fun _ _ _ _ h => ⟨exec_apertureSet_clear h, fun _ => exec_apertureSet h, exec_apertureSet_absent h, fun _ => exec_apertureSet_bad h⟩,
    fun _ _ _ _ h => ⟨exec_hdmSet_noCxl h, exec_hdmSet_clear h, fun _ => exec_hdmSet h, exec_hdmSet_absent h⟩,
    fun _ _ _ _ _ _ hat hmse hd3 hmem => ⟨fun _ hop => by subst hop; exact exec_bar4Access hat hmse hd3 hmem rfl,
      fun _ hop => by subst hop; exact exec_bar4Access hat hmse hd3 hmem rfl,
      fun _ _ hop hsup => by subst hop; exact exec_bar4Access hat hmse hd3 hmem hsup,
      fun _ _ hop hsup => by subst hop; exact exec_bar4Access hat hmse hd3 hmem hsup,
      fun _ _ _ hop hsup => by subst hop; exact exec_bar4Access hat hmse hd3 hmem hsup⟩,
    fun _ _ _ => exec_bar4Access_unsupported,
    exec_bar4Resize,
    fun _ _ _ _ _ _ _ _ hcxl hdm ho hpart ha hcuff => ⟨fun _ => exec_coherentRead hcxl hdm ho hpart ha hcuff,
      fun _ hin hmap hmem _ => exec_coherentWrite hcxl hdm ho hpart ha hcuff hin hmap hmem⟩,
    fun w reg _ => exec_configurationRequest_notReady w reg,
    fun reg _ => exec_configurationRead reg,
    fun reg w _ => exec_configurationWrite reg w⟩

end Sys2Proof.Machine
end

section
/-!
PROOFS. Glove items (R162 to R170, R176, R182 to R184, R196): O24.
-/
namespace Sys2Proof.Machine

variable {s t : State} {x : ItemRef} {r : Reply} {i : Item} {c : Context} {g : Glove} {b : List Byte} {st : Nat}

/-! ### What is checked first -/

theorem preGlove_unknown (h : getGlove s (giGid i) = none) (wide frozenOk : Bool) : preGlove s i wide frozenOk = .error 0x46 := by
  rw [preGlove]
  simp only [h]

theorem preGlove_frozen (h : getGlove s (giGid i) = some g) (hf : g.frozen = true) (hr : giRepair i = false) (wide : Bool) :
    preGlove s i wide false = .error 0x42 := by
  rw [preGlove]
  simp only [h, hf, hr, Bool.not_false, Bool.and_self, if_true]

theorem epoch_beq (a b : Word) : (a == b) = decide (a = b) := rfl

/-- Where freezing does not stop the item, its EPOCH decides. -/
theorem preGlove_epoch (h : getGlove s (giGid i) = some g) {wide frozenOk : Bool}
    (hf : g.frozen = false ∨ giRepair i = true ∨ frozenOk = true) :
    preGlove s i wide frozenOk =
      if (giEpoch i = 0 ∧ wide = false) ∨ (giEpoch i ≠ 0 ∧ giRepair i = true ∧ g.epoch < giEpoch i) ∨
        (giEpoch i ≠ 0 ∧ giRepair i = false ∧ giEpoch i = g.epoch + 1) then .ok g else .error 0x41 := by
  have thawed : (g.frozen && !giRepair i && !frozenOk) = false := by
    rcases hf with hf | hf | hf <;> simp [hf]
  rw [preGlove]
  simp only [h, thawed, Bool.false_eq_true, if_false]
  by_cases he : giEpoch i = 0
  · cases wide <;> simp [he]
  · have epoch : (!(if giEpoch i = 0 then !wide else if giRepair i = true then decide (g.epoch < giEpoch i) else giEpoch i == g.epoch + 1)) =
        !decide ((giEpoch i = 0 ∧ wide = false) ∨ (giEpoch i ≠ 0 ∧ giRepair i = true ∧ g.epoch < giEpoch i) ∨
          (giEpoch i ≠ 0 ∧ giRepair i = false ∧ giEpoch i = g.epoch + 1)) := by
      cases hr : giRepair i <;>
        simp only [he, ne_eq, not_false_eq_true, true_and, false_and, false_or, or_false, if_false, if_true, Bool.false_eq_true, epoch_beq,
          reduceCtorEq]
    simp only [epoch, Bool.not_eq_true', decide_eq_false_iff_not, ite_not]

/-! ### Lists of items that pass -/

/-- An aligned list that can be read is acted on. -/
theorem gloveList_ok {n : Nat} (ha : (giList i).toNat % 8 = 0) (hr : readVa s c (some x) r (giList i) n = .ok t b)
    (f : State → List Dword → State) : gloveList s x i c r n f = f t (leWords ((n + 7) / 8) b) := by
  rw [gloveList, if_neg (not_not_intro ha), withList_ok hr]

/-- An item whose body leads to a state has that state, settled, as its answer. -/
theorem onItem_next {opc : Nat} {f : Item → Context → State} (h : itemReady s x opc i c = true) (hf : f i c = t) :
    (.next (settle (onItem s x opc f)) : Outcome) = .next (settle t) :=
  next_congr ((onItem_ready f h).trans hf)

theorem exec_gloveOpen_known (h : itemReady s x 0x60 i c = true) (hg : (getGlove s (giGid i)).isSome = true) :
    exec (.gloveOpen x r) s = .next (settle (completeItem s x 0x4D)) :=
  onItem_next h (if_pos hg)

theorem exec_gloveOpen (h : itemReady s x 0x60 i c = true) (hg : getGlove s (giGid i) = none) (ha : (giList i).toNat % 8 = 0)
    (hr : readVa s c (some x) r (giList i) (memberBytes i) = .ok t b) :
    exec (.gloveOpen x r) s = .next (settle (gloveOpenWith t x i (leWords ((memberBytes i + 7) / 8) b))) := by
  have absent : ¬(getGlove s (giGid i)).isSome = true := by rw [hg]; exact Bool.false_ne_true
  exact onItem_next h ((if_neg absent).trans (gloveList_ok ha hr _))

/-! ### Items that act on their glove's state -/

theorem vcoreBindWith_bound {ws : List Dword} (h : firstStatus (bindStatuses s g ws [] []) = none) :
    vcoreBindWith s x i g ws = gloveDone (ws.foldl (fun s w => bindVcore s g w) s) x g.gid (giEpoch i) := by
  rw [vcoreBindWith]
  simp only [h]

section Passing
variable (hg : preGlove s i false false = .ok g)
include hg

theorem exec_linkRefit (h : itemReady s x 0x66 i c = true) :
    exec (.linkRefit x) s = .next (settle (
      if i.words.getD 4 0 &&& ~~~((getPart s g.part.toNat).links ||| g.links) ≠ 0 then completeItem s x 0x4A
      else gloveDone (setGlove s { g with links := i.words.getD 4 0, linked := true }) x g.gid (giEpoch i))) :=
  onItem_next h (by simp only [hg])

variable (ha : (giList i).toNat % 8 = 0)
include ha

theorem exec_sliceFit (h : itemReady s x 0x61 i c = true) (hr : readVa s c (some x) r (giList i) 896 = .ok t b) :
    exec (.sliceFit x r) s = .next (settle (sliceFitWith t x i g (leWords 112 b))) :=
  onItem_next h (by simp only [hg]; exact gloveList_ok ha hr _)

theorem exec_channelRefit (h : itemReady s x 0x65 i c = true) (hr : readVa s c (some x) r (giList i) 640 = .ok t b) :
    exec (.channelRefit x r) s = .next (settle (channelRefitWith t x i g (leWords 80 b))) :=
  onItem_next h (by simp only [hg]; exact gloveList_ok ha hr _)

theorem exec_vcoreMove (h : itemReady s x 0x63 i c = true) (hr : readVa s c (some x) r (giList i) (8 * giCount i) = .ok t b) :
    exec (.vcoreMove x r) s = .next (settle (vcoreMoveWith t x i g (leWords ((8 * giCount i + 7) / 8) b))) :=
  onItem_next h (by simp only [hg]; exact gloveList_ok ha hr _)

end Passing

section WidePassing
variable (hg : preGlove s i true false = .ok g)
include hg

theorem exec_pairSet (h : itemReady s x 0x6B i c = true) :
    exec (.pairSet x) s = .next (settle (gloveDone (setGlove s
      { g with twin := BitVec.ofNat 24 (fld (i.words.getD 3 0) 40 17) }) x g.gid (giEpoch i))) :=
  onItem_next h (by simp only [hg])

variable (ha : (giList i).toNat % 8 = 0)
include ha

theorem exec_vcoreBind (h : itemReady s x 0x62 i c = true) (hr : readVa s c (some x) r (giList i) (8 * giCount i) = .ok t b) :
    exec (.vcoreBind x r) s = .next (settle (vcoreBindWith t x i g (leWords ((8 * giCount i + 7) / 8) b))) :=
  onItem_next h (by simp only [hg]; exact gloveList_ok ha hr _)

theorem exec_vcoreUnbind (h : itemReady s x 0x64 i c = true) (hr : readVa s c (some x) r (giList i) (8 * giCount i) = .ok t b) :
    exec (.vcoreUnbind x r) s = .next (settle (vcoreUnbindWith t x g (leWords ((8 * giCount i + 7) / 8) b))) :=
  onItem_next h (by simp only [hg]; exact gloveList_ok ha hr _)

theorem exec_memberJoin (h : itemReady s x 0x67 i c = true) (hr : readVa s c (some x) r (giList i) (memberBytes i) = .ok t b) :
    exec (.memberJoin x r) s = .next (settle (memberJoinWith t x i g (leWords ((memberBytes i + 7) / 8) b))) :=
  onItem_next h (by simp only [hg]; exact gloveList_ok ha hr _)

theorem exec_memberLeave (h : itemReady s x 0x68 i c = true) (hr : readVa s c (some x) r (giList i) (memberBytes i) = .ok t b) :
    exec (.memberLeave x r) s = .next (settle (memberLeaveWith t x i g (leWords ((memberBytes i + 7) / 8) b))) :=
  onItem_next h (by simp only [hg]; exact gloveList_ok ha hr _)

end WidePassing

/-- A glove closes unless a kernel runs and ABORT is clear. -/
theorem exec_gloveClose (hg : preGlove s i false true = .ok g) (h : itemReady s x 0x69 i c = true) :
    exec (.gloveClose x) s = .next (settle (
      if gloveBusy s g.gid = true ∧ bit (i.words.getD 3 0) 17 = false then completeItem s x 0x4D
      else startDrop s x [] (gloveCores s g.gid))) :=
  onItem_next h (by simp only [hg, Bool.and_eq_true, Bool.not_eq_true'])

/-! ### Items that a slice of the glove serves -/

/-- An item that changes no glove-wide state is served under EPOCH 0. -/
theorem servedGlove_ok (hg : getGlove s (giGid i) = some g) (he : giEpoch i = 0) : servedGlove s i = .ok g := by
  rw [servedGlove]
  simp only [hg, he, ne_eq, not_true_eq_false, if_false]

theorem exec_crownRead (h : itemReady s x 0x6A i c = true) (hg : getGlove s (giGid i) = some g) (he : giEpoch i = 0)
    (ha : (giList i).toNat % 8 = 0) (hf : (writeRecord s x c (giList i) (crownRecord g) 0).faults.length ≤ s.faults.length) :
    exec (.crownRead x) s = .next (settle (writeRecord s x c (giList i) (crownRecord g) 0)) :=
  onItem_next h (by
    simp only [servedGlove_ok hg he, ha, ne_eq, not_true_eq_false, if_false]
    exact if_neg (Nat.not_lt.mpr hf))

theorem exec_pairCommit (h : itemReady s x 0x6C i c = true) (hg : getGlove s (giGid i) = some g) (he : giEpoch i = 0)
    (hlo : 1 ≤ giCount i) (hhi : giCount i ≤ 65536) (hv : iw i 6 ≠ 0) (hw : (iw i 5).toNat % 8 = 0) (ha : (giList i).toNat % 8 = 0)
    (hr : readVa s c (some x) r (iw i 5) 8 = .ok t b) :
    exec (.pairCommit x r) s = .next (settle (
      if iw i 6 ≤ (leWords 1 b).getD 0 0 then completeItem t x 0x01 else startXfer t x)) := by
  have wellFormed : ¬(giCount i = 0 ∨ 65536 < giCount i ∨ iw i 6 = 0 ∨ (iw i 5).toNat % 8 ≠ 0 ∨ (giList i).toNat % 8 ≠ 0) := by
    rintro (h0 | hbig | hv' | hw' | ha')
    · omega
    · omega
    · exact hv hv'
    · exact hw' hw
    · exact ha' ha
  refine onItem_next h ?_
  simp only [servedGlove_ok hg he]
  exact (if_neg wellFormed).trans (withList_ok hr _)

/-- Settles O24, one lemma a case. -/
theorem gloveItems : Obligations.GloveItems :=
  ⟨⟨fun _ _ wide frozenOk h => preGlove_unknown h wide frozenOk,
      fun _ _ _ wide h hf hr => preGlove_frozen h hf hr wide,
      fun _ _ _ _ _ h => preGlove_epoch h,
      fun _ _ _ _ _ _ hg => ⟨fun h => onItem_next h (by simp only [hg]), fun h => onItem_next h (by simp only [hg]),
        fun h => onItem_next h (by simp only [hg]), fun h => onItem_next h (by simp only [hg]), fun h => onItem_next h (by simp only [hg])⟩,
      fun _ _ _ _ _ _ hg => ⟨fun h => onItem_next h (by simp only [hg]), fun h => onItem_next h (by simp only [hg]),
        fun h => onItem_next h (by simp only [hg]), fun h => onItem_next h (by simp only [hg])⟩⟩,
    fun _ _ _ _ _ _ _ h => ⟨exec_gloveOpen_known h, exec_gloveOpen h⟩,
    fun _ _ _ _ _ _ _ _ hg ha => ⟨exec_sliceFit hg ha, exec_channelRefit hg ha, exec_vcoreMove hg ha⟩,
    fun _ _ _ _ _ _ _ _ hg ha => ⟨exec_vcoreBind hg ha, exec_vcoreUnbind hg ha, exec_memberJoin hg ha, exec_memberLeave hg ha⟩,
    fun _ _ _ _ _ => vcoreBindWith_bound,
    fun _ _ _ => rfl,
    fun _ _ _ _ _ => exec_linkRefit,
    fun _ _ _ _ _ => exec_gloveClose,
    fun _ _ _ _ _ => exec_pairSet,
    fun _ _ _ _ _ => exec_crownRead,
    fun _ _ _ _ _ _ _ _ => exec_pairCommit⟩

end Sys2Proof.Machine
end

section
/-!
PROOFS. Vcores move between members; members keep their glove alike (R170 to R176, R179, R181, R182, R270): O25 and O26.
-/
namespace Sys2Proof.Machine

variable {s t u : State} {p q : Packet} {g : Glove} {v : BitVec 16}

/-! ### Answers of messages -/

/-- A packet that arrives well, and whose handling leads to a state, has that state, settled, as its answer. -/
theorem onPacket_next {k : BitVec 5} {f : State → Packet → State} (h : received s p k = some (u, q)) (hf : f u q = t) :
    (.next (settle (onPacket s p k f)) : Outcome) = .next (settle t) :=
  next_congr ((onPacket_ready f h).trans hf)

theorem onMsg_next {code : Nat} {f : State → Packet → State} (h : received s p 0x0D = some (u, q)) (hc : msgCode q = code) (hf : f u q = t) :
    (.next (settle (onMsg s p code f)) : Outcome) = .next (settle t) :=
  next_congr ((onMsg_ready f h hc).trans hf)

theorem onGloveMsg_next {code : Nat} {f : State → Packet → Glove → State} (h : received s p 0x0D = some (u, q)) (hc : msgCode q = code)
    (hg : getGlove u q.gid = some g) (hf : f u q g = t) : (.next (settle (onGloveMsg s p code f)) : Outcome) = .next (settle t) :=
  next_congr ((onGloveMsg_ready f h hc hg).trans hf)

/-! ### Messages of a move (Table 7.9) -/

section Prepare
variable (h : received s p 0x0D = some (u, q)) (hc : msgCode q = 0x01)
include h hc

theorem exec_prepare {pc : Nat} {cl : BitVec 5} {slot : BitVec 3} {gen : Byte} (hv : v = BitVec.ofNat 16 (msgField q 0 2))
    (hpc : pc = msgField q 3 2) (hcl : cl = BitVec.ofNat 5 (msgField q 5 1)) (hslot : slot = BitVec.ofNat 3 (msgField q 6 1))
    (hgen : gen = BitVec.ofNat 8 (msgField q 7 1)) (hg : getGlove u q.gid = some g) (hcount : v.toNat < g.vcount)
    (hcore : coreStatus u g pc (BitVec.ofNat 2 (msgField q 2 1)) cl slot = []) :
    exec (.prepare p) s = .next (settle (
      let w := fitSync (setBinding u pc
        { vcore := v, gid := g.gid, gen := gen + 1, sgCl := cl, sgSlot := slot, state := 3, part := g.part }) g.gid g.part cl slot
      sendMsg { w with moveIns := w.moveIns ++ [{ pid := pc, gid := g.gid, vcore := v, src := q.src, gen := gen + 1 }] }
        q.src q.gid 0 0x02 0 (vcoreAddr 0 v 0 0 0) (leBytes 2 v.toNat ++ []))) := by
  subst hv hpc hcl hslot hgen
  refine onMsg_next h hc ?_
  have accepted : leastStatus ((stIf (decide (g.vcount ≤ (BitVec.ofNat 16 (msgField q 0 2)).toNat)) 0x4A ++
      coreStatus u g (msgField q 3 2) (BitVec.ofNat 2 (msgField q 2 1)) (BitVec.ofNat 5 (msgField q 5 1))
        (BitVec.ofNat 3 (msgField q 6 1))).map some) = none := by
    rw [hcore, decide_eq_false (Nat.not_le.mpr hcount)]
    rfl
  simp only [hg, accepted]

theorem exec_prepare_unknownGlove (hg : getGlove u q.gid = none) :
    exec (.prepare p) s = .next (settle (sendMsg u q.src q.gid 0 0x03 0 (vcoreAddr 0 (BitVec.ofNat 16 (msgField q 0 2)) 0 0 0)
      (leBytes 2 (BitVec.ofNat 16 (msgField q 0 2)).toNat ++ [0x46]))) :=
  onMsg_next h hc (by simp only [hg, Option.getD_some]; rfl)

end Prepare

section Source
variable {m : Move} (h : received s p 0x0D = some (u, q)) (hm : moveOf u q = some m)
include h hm

theorem exec_accept (hc : msgCode q = 0x02) (hst : m.stage = .prepare) :
    exec (.accept p) s = .next (settle (requestRefit
      { u with moves := u.moves.map fun k => if k == m then { m with stage := .point } else k } { m with stage := .point })) :=
  onMsg_next h hc (by simp only [hm, hst, ne_eq, not_true_eq_false, if_false])

theorem exec_refuse (hc : msgCode q = 0x03) :
    exec (.refuse p) s = .next (settle (abortMove u m (if m.stage = .prepare then msgField q 2 1 else 0x4B))) :=
  onMsg_next h hc (by simp only [hm])

theorem exec_imageAck (hc : msgCode q = 0x06) :
    exec (.imageAck p) s = .next (settle (if m.stage = .copy ∧ m.chunks ≤ msgField q 2 4 then swapCross u m else u)) :=
  onMsg_next h hc (by simp only [hm])

end Source

theorem exec_image {m n : MoveIn} (h : received s p 0x0D = some (u, q)) (hc : msgCode q = 0x05)
    (hm : (u.moveIns.find? fun m => m.gid == q.gid && m.vcore == BitVec.ofNat 16 (fld q.addr 55 40) && m.src == q.src) = some m)
    (hn : n = if m.image.length = 192 * fld q.ext 31 8 then { m with image := m.image ++ q.data } else m) :
    exec (.image p) s = .next (settle (sendMsg { u with moveIns := u.moveIns.map fun k => if k == m then n else k } q.src q.gid 2 0x06 0
      (vcoreAddr 0 (BitVec.ofNat 16 (fld q.addr 55 40)) 0 0 0)
      (leBytes 2 (BitVec.ofNat 16 (fld q.addr 55 40)).toNat ++ leBytes 4 ((n.image.length + 191) / 192)))) := by
  subst hn
  exact onMsg_next h hc (by simp only [hm])

theorem exec_commit {m : MoveIn} (h : received s p 0x0D = some (u, q)) (hc : msgCode q = 0x04) (hv : v = BitVec.ofNat 16 (msgField q 0 2))
    (hm : (u.moveIns.find? fun m => m.gid == q.gid && m.vcore == v && m.src == q.src) = some m)
    (ht : t = { u with moveIns := u.moveIns.filter fun k => !(k == m) }) :
    exec (.commit p) s = .next (settle (m.stash.foldl (fun s k => servePkt k s m.pid) (resumeImage
      (setBinding t m.pid { getBinding t m.pid with state := 1, gen := BitVec.ofNat 8 (msgField q 2 1), swapped := some t.refNs })
      m.pid (imageOf (slotKind m.pid) v q.gid m.image)))) := by
  subst hv ht
  exact onMsg_next h hc (by simp only [hm])

/-! ### Time limits of a move -/

theorem exec_forceTimeout {c : Fin 320} (hp : (getCore s c.val).point = .refit)
    (hm : (s.moves.any fun m => m.src == c.val && m.stage == .point && m.force != 0xFFFF) = true) :
    exec (.forceTimeout c) s = .next (settle (setCore s c.val { getCore s c.val with forced := true })) := by
  have due : ((getCore s c.val).point == .refit && s.moves.any (fun m => m.src == c.val && m.stage == .point && m.force != 0xFFFF)) = true := by
    rw [hp, hm]
    rfl
  exact next_congr (if_pos due)

theorem exec_acceptCommitTimeout {c : Fin 320} {m : MoveIn} (hm : (s.moveIns.find? fun m => m.pid == c.val) = some m)
    (ht : t = abortIn s m false) (hg : getGlove t m.gid = some g) :
    exec (.acceptCommitTimeout c) s = .next (settle (logEvent t 0x0000 0x08 true
      (leBytes 4 m.gid.toNat ++ leBytes 4 ((rankOf g m.src).getD 0) ++ leBytes 2 0x13 ++ leBytes 4 0))) := by
  subst ht
  rw [exec, execAcceptCommitTimeout]
  simp only [hm, hg, srcRtp]

/-- Settles O25, one lemma a message or time limit. -/
theorem vcoresMove : Obligations.VcoresMove :=
  ⟨fun _ _ _ _ _ _ _ _ _ _ h hc hv hpc hcl hslot hgen hg => exec_prepare h hc hv hpc hcl hslot hgen hg,
    fun _ _ _ _ => exec_prepare_unknownGlove,
    fun _ _ _ _ _ h hc hm => exec_accept h hm hc,
    fun _ _ _ _ _ h hc hm => exec_refuse h hm hc,
    fun _ _ _ _ _ _ => exec_image,
    fun _ _ _ _ _ h hc hm => exec_imageAck h hm hc,
    fun _ _ _ _ _ _ _ => exec_commit,
    fun _ _ => exec_forceTimeout,
    fun _ _ => rfl,
    fun _ _ _ _ _ => exec_acceptCommitTimeout⟩

/-! ### Binding updates (R175) -/

section BindingUpdate
variable {b : BindUpdate} (h : received s p 0x0D = some (u, q)) (hc : msgCode q = 0x07) (hg : getGlove u q.gid = some g)
  (hb : b = { vcore := BitVec.ofNat 16 (msgField q 0 2), node := BitVec.ofNat 17 (msgField q 2 4), kind := BitVec.ofNat 2 (msgField q 6 1),
              epoch := BitVec.ofNat 32 (msgField q 7 4), src := q.src })
include h hc hg hb

/-- The three ways that a binding update goes. -/
theorem exec_bindingUpdate : exec (.bindingUpdate p) s = .next (settle (
    if updateFits g b = true then epochChanged (applyUpdate u g.gid b) g.gid
    else if g.epoch < b.epoch ∧ g.held.length < 16 then setGlove u { g with held := g.held ++ [b] }
    else updateConflict u g b)) := by
  subst hb
  exact onGloveMsg_next h hc hg rfl

theorem exec_bindingUpdate_fits (hf : updateFits g b = true) :
    exec (.bindingUpdate p) s = .next (settle (epochChanged (applyUpdate u g.gid b) g.gid)) := by
  rw [exec_bindingUpdate h hc hg hb, if_pos hf]

theorem exec_bindingUpdate_held (hf : updateFits g b = false) (hlater : g.epoch < b.epoch) (hroom : g.held.length < 16) :
    exec (.bindingUpdate p) s = .next (settle (setGlove u { g with held := g.held ++ [b] })) := by
  rw [exec_bindingUpdate h hc hg hb, if_neg (Bool.eq_false_iff.mp hf), if_pos ⟨hlater, hroom⟩]

theorem exec_bindingUpdate_conflict (hf : updateFits g b = false) (hno : ¬(g.epoch < b.epoch ∧ g.held.length < 16)) :
    exec (.bindingUpdate p) s = .next (settle (updateConflict u g b)) := by
  rw [exec_bindingUpdate h hc hg hb, if_neg (Bool.eq_false_iff.mp hf), if_neg hno]

end BindingUpdate

/-! ### Reports and agreement (R179, R181, R182) -/

section Reports
variable {h' : Glove} {k : Nat} (h : received s p 0x0D = some (u, q)) (hg : getGlove u q.gid = some g) (hk : rankOf g q.src = some k)
include h hg hk

theorem exec_crown (hc : msgCode q = 0x08)
    (hh : h' = keepReport g { rank := BitVec.ofNat 17 k, epoch := BitVec.ofNat 32 (msgField q 0 4), count := msgField q 4 4,
                              digest := BitVec.ofNat 384 (msgField q 8 48) }) :
    exec (.crown p) s = .next (settle (if (parentRank g).isNone then sendCrown (setGlove u h') g.gid else setGlove u h')) := by
  subst hh
  exact onGloveMsg_next h hc hg (by simp only [hk])

theorem exec_mismatch (hc : msgCode q = 0x09)
    (hh : h' = keepReport g { rank := BitVec.ofNat 17 k, mismatch := true, epoch := BitVec.ofNat 32 (msgField q 0 4),
                              epochB := BitVec.ofNat 32 (msgField q 4 4), rankA := BitVec.ofNat 17 (msgField q 8 4),
                              rankB := BitVec.ofNat 17 (msgField q 12 4) }) :
    exec (.mismatch p) s = .next (settle (sendCrown (setGlove u h') g.gid)) := by
  subst hh
  exact onGloveMsg_next h hc hg (by simp only [hk])

end Reports

theorem exec_agreed (h : received s p 0x0D = some (u, q)) (hc : msgCode q = 0x0A) (hg : getGlove u q.gid = some g) :
    exec (.agreed p) s = .next (settle (agreeGlove u g.gid (BitVec.ofNat 32 (msgField q 0 4)) (BitVec.ofNat 384 (msgField q 4 48)))) :=
  onGloveMsg_next h hc hg rfl

/-- AGREED is recorded and passed down, and ends the freeze of an earlier epoch. -/
theorem agreeGlove_known {gid : BitVec 24} (epoch : Word) (digest : BitVec 384) (hg : getGlove s gid = some g) :
    agreeGlove s gid epoch digest = kickMoves (castMsg
      (setGlove s { g with agreed := epoch, frozen := g.frozen && decide (epoch ≤ g.mismatch) }) g (crownChildren g) 0x0A
      (leBytes 4 epoch.toNat ++ leBytes 48 digest.toNat)) := by
  rw [agreeGlove]
  simp only [hg]

theorem exec_freeze {e : Word} (h : received s p 0x0D = some (u, q)) (hc : msgCode q = 0x0B) (hg : getGlove u q.gid = some g)
    (he : e = BitVec.ofNat 32 (msgField q 0 4)) :
    exec (.freeze p) s = .next (settle (freezeGlove u g.gid e e g.epoch (msgField q 4 4) (msgField q 8 4) false)) := by
  subst he
  exact onGloveMsg_next h hc hg rfl

/-- A packet with a bad header is dropped and counted. -/
theorem receive_badHeader (hb : badHeader p = true) : receive s p = (countDup (takeRx s p), none) := by
  rw [receive]
  exact if_pos hb

theorem exec_malformedPacket (ha : arrives s p = true) (hb : badHeader p = true) :
    exec (.malformedPacket p) s = .next (settle (countDup (takeRx s p))) := by
  rw [exec, execMalformedPacket]
  simp only [ha, hb, receive_badHeader hb, Bool.not_true, Bool.true_or, Bool.false_eq_true, if_false, if_true]

/-- Settles O26, one lemma a message. -/
theorem crownsAgree : Obligations.CrownsAgree :=
  ⟨fun _ _ _ _ _ _ h hc hg hb => ⟨exec_bindingUpdate_fits h hc hg hb, exec_bindingUpdate_held h hc hg hb,
      exec_bindingUpdate_conflict h hc hg hb⟩,
    fun _ _ _ _ _ _ _ h hc hg hk => exec_crown h hg hk hc,
    fun _ _ _ _ _ _ _ h hc hg hk => exec_mismatch h hg hk hc,
    fun _ _ _ _ _ => exec_agreed,
    fun _ _ epoch digest _ => agreeGlove_known epoch digest,
    fun _ _ _ _ _ _ => exec_freeze,
    fun _ _ => rfl,
    fun _ _ => exec_malformedPacket⟩

end Sys2Proof.Machine
end

section
/-!
PROOFS. Fabric links train, retrain and fail (R242 to R245, R252 to R259, R260, R404): O27.
-/
namespace Sys2Proof.Machine

variable {s t : State} {l : Fin 64}

/-! ### Training, step by step -/

theorem exec_noSignal_inService (hst : (getLink s l.val).st ≠ 1) (hserve : (getLink s l.val).inService = true) :
    exec (.noSignal l) s = .next (settle (goDown s l.val 0x01)) :=
  next_congr ((if_neg hst).trans (if_pos hserve))

section Ident
variable {b : Identity} (hspare : b.spare = false)
include hspare

/-- What a link's own identity block does, by the link's state. -/
theorem exec_identityBlock : exec (.identityBlock l b) s = .next (settle (
    if (getLink s l.val).st = 4 then
      if b.proto ≠ 1 then linkFail s l.val 0x0A
      else if mismatched (getLink s l.val) b then
        linkFail (linkEvent (updLink s l.val fun y => { y with partner := some b }) l.val 0x04 1) l.val 0x04
      else identPassed s l.val b
    else if (getLink s l.val).inService then updLink s l.val fun y => { y with partner := y.partner.map fun p => { p with node := b.node } }
    else s)) :=
  next_congr (if_neg (Bool.eq_false_iff.mp hspare))

theorem exec_identityBlock_inService (hst : (getLink s l.val).st ≠ 4) (hserve : (getLink s l.val).inService = true) :
    exec (.identityBlock l b) s = .next (settle (updLink s l.val fun y =>
      { y with partner := y.partner.map fun p => { p with node := b.node } })) := by
  rw [exec_identityBlock hspare, if_neg hst, if_pos hserve]

variable (hst : (getLink s l.val).st = 4)
include hst

theorem exec_identityBlock_protocol (hproto : b.proto ≠ 1) :
    exec (.identityBlock l b) s = .next (settle (linkFail s l.val 0x0A)) := by
  rw [exec_identityBlock hspare, if_pos hst, if_pos hproto]

theorem exec_identityBlock_mismatch (hproto : b.proto = 1) (hmis : mismatched (getLink s l.val) b = true) :
    exec (.identityBlock l b) s = .next (settle (linkFail
      (linkEvent (updLink s l.val fun y => { y with partner := some b }) l.val 0x04 1) l.val 0x04)) := by
  rw [exec_identityBlock hspare, if_pos hst, if_neg (not_not_intro hproto), if_pos hmis]

theorem exec_identityBlock_passes (hproto : b.proto = 1) (hmis : mismatched (getLink s l.val) b = false)
    (hhold : (getLink s l.val).hold = false) :
    exec (.identityBlock l b) s = .next (settle (changeLink
      (compareSpare (updLink s l.val fun y => { y with partner := some b, valid := true }) l.val b) l.val
      fun x => { x with st := 5, qualBad := 0 })) := by
  rw [exec_identityBlock hspare, if_pos hst, if_neg (not_not_intro hproto), if_neg (Bool.eq_false_iff.mp hmis), identPassed]
  simp only [hhold, Bool.false_and, Bool.false_eq_true, if_false]

end Ident

section Qualify
variable {bits : List Nat} {spare : Option Nat} {lost : BitVec 4} (hst : (getLink s l.val).st = 5) (hlost : lost = qualFailing s l.val bits)
  (ht : t = if (getGroup s (l.val / 4)).spare = 0 then spareMeasured s (l.val / 4) spare else s)
include hst hlost ht

theorem exec_qualifyWindowEnd_clean (hn : popcount lost = 0) :
    exec (.qualifyWindowEnd l ⟨bits, spare⟩) s = .next (settle (enterService t l.val 4)) := by
  subst hlost ht
  rw [exec, execQualifyWindowEnd]
  simp only [hst, hn, ne_eq, not_true_eq_false, if_false]

theorem exec_qualifyWindowEnd_one (hn : popcount lost = 1) :
    exec (.qualifyWindowEnd l ⟨bits, spare⟩) s = .next (settle (
      if spareUsable t (l.val / 4) then
        enterService (takeSpare t (l.val / 4) (lanePair t l.val (BitVec.ofNat 2 (nthSet lost 0)))) l.val 4
      else updLink (enterService t l.val 3) l.val fun y => { y with dropped := BitVec.ofNat 2 (nthSet lost 0) })) := by
  subst hlost ht
  rw [exec, execQualifyWindowEnd]
  simp only [hst, hn, ne_eq, not_true_eq_false, if_false]

theorem exec_qualifyWindowEnd_several (hn : 2 ≤ popcount lost) :
    exec (.qualifyWindowEnd l ⟨bits, spare⟩) s = .next (settle (linkFail t l.val 0x05)) := by
  subst hlost ht
  rw [exec, execQualifyWindowEnd]
  simp only [hst, ne_eq, not_true_eq_false, if_false]
  split
  next none => omega
  next one => omega
  · rfl

end Qualify

theorem exec_failedRetryTimer (hst : (getLink s l.val).st = 9) :
    exec (.failedRetryTimer l) s = .next (settle (if (getLink s l.val).fails = 3 then s else startTraining s l.val)) := by
  rw [exec, execFailedRetryTimer]
  simp only [hst, true_and, ne_eq, ite_not]

/-! ### Retrain (R257) -/

section Retrain
variable {b : Identity} {short : Bool} (hst : (getLink s l.val).st = 8)
include hst

theorem exec_retrainDone_down (h : short = false ∨ samePartner (getLink s l.val) b = false) :
    exec (.retrainDone l b short) s = .next (settle (goDown s l.val 0x07)) := by
  have full : (!short || !samePartner (getLink s l.val) b) = true := by
    rcases h with h | h <;> simp [h]
  exact next_congr ((if_neg (not_not_intro hst)).trans (if_pos full))

variable (hshort : short = true) (hsame : samePartner (getLink s l.val) b = true)
include hshort hsame

/-- What a retrain within the time limit with the same partner does. -/
theorem exec_retrainDone_same : exec (.retrainDone l b short) s = .next (settle (
    if b.proto ≠ 1 then linkFail (leaveService s l.val 0x0A 9) l.val 0x0A
    else if mismatched (getLink s l.val) b then linkFail (linkEvent (leaveService s l.val 0x04 9) l.val 0x04 1) l.val 0x04
    else sendLink (keptVerdict (replay (updLink (compareSpare
      (changeLink s l.val fun y => { y with st := y.before, partner := some b }) l.val b) l.val fun y => { y with replays := 0 })
      l.val) l.val) l.val)) := by
  rw [exec, execRetrainDone]
  simp only [hst, hshort, hsame, Bool.not_true, Bool.or_self, Bool.false_eq_true, ne_eq, not_true_eq_false, if_false]

theorem exec_retrainDone_resumes (hproto : b.proto = 1) (hmis : mismatched (getLink s l.val) b = false) :
    exec (.retrainDone l b short) s = .next (settle (sendLink (keptVerdict (replay (updLink (compareSpare
      (changeLink s l.val fun y => { y with st := y.before, partner := some b }) l.val b) l.val fun y => { y with replays := 0 })
      l.val) l.val) l.val)) := by
  rw [exec_retrainDone_same hst hshort hsame, if_neg (not_not_intro hproto), if_neg (Bool.eq_false_iff.mp hmis)]

theorem exec_retrainDone_protocol (hproto : b.proto ≠ 1) :
    exec (.retrainDone l b short) s = .next (settle (linkFail (leaveService s l.val 0x0A 9) l.val 0x0A)) := by
  rw [exec_retrainDone_same hst hshort hsame, if_pos hproto]

theorem exec_retrainDone_mismatch (hproto : b.proto = 1) (hmis : mismatched (getLink s l.val) b = true) :
    exec (.retrainDone l b short) s = .next (settle (linkFail
      (linkEvent (leaveService s l.val 0x04 9) l.val 0x04 1) l.val 0x04)) := by
  rw [exec_retrainDone_same hst hshort hsame, if_neg (not_not_intro hproto), if_pos hmis]

end Retrain

/-! ### The manager's writes -/

/-- A register of a link takes the manager's write where its block has not frozen and its quadrant is in run. -/
theorem linkWrite_taken (hfrozen : frozenBlock s 4 = false) (hregs : linkRegs s l.val = true) :
    ¬(frozenBlock s 4 || !linkRegs s l.val) = true := by
  rw [hfrozen, hregs]
  exact Bool.false_ne_true

/-- Settles O27, one lemma a case where the command does not follow from one branch. -/
theorem linksTrain : Obligations.LinksTrain :=
  ⟨fun _ _ hst => ⟨next_congr (if_pos hst), next_congr (if_pos hst)⟩,
    fun _ _ => exec_noSignal_inService,
    fun _ _ hst => ⟨next_congr (if_pos hst), next_congr (if_pos hst)⟩,
    fun _ _ _ _ hst => ⟨next_congr (if_pos hst), next_congr (if_pos hst)⟩,
    fun _ _ _ hspare hst => ⟨exec_identityBlock_protocol hspare hst, exec_identityBlock_mismatch hspare hst,
      exec_identityBlock_passes hspare hst⟩,
    fun _ _ _ => exec_identityBlock_inService,
    fun _ _ _ _ _ _ hst hlost ht => ⟨exec_qualifyWindowEnd_clean hst hlost ht,
      fun hn hs => (exec_qualifyWindowEnd_one hst hlost ht hn).trans (next_congr (if_pos hs)),
      fun hn hs => (exec_qualifyWindowEnd_one hst hlost ht hn).trans (next_congr (if_neg (Bool.eq_false_iff.mp hs))),
      exec_qualifyWindowEnd_several hst hlost ht⟩,
    fun _ _ => exec_failedRetryTimer,
    fun _ _ _ _ hst => ⟨exec_retrainDone_resumes hst, exec_retrainDone_down hst, exec_retrainDone_protocol hst,
      exec_retrainDone_mismatch hst⟩,
    fun _ _ hst => next_congr (if_pos hst),
    fun _ _ => rfl,
    fun _ _ _ => ⟨rfl, rfl, fun hfrozen hregs => ⟨next_congr (if_neg (linkWrite_taken hfrozen hregs)),
      next_congr (if_neg (linkWrite_taken hfrozen hregs))⟩⟩⟩

end Sys2Proof.Machine
end

section
/-!
PROOFS. Flits arrive and are retried; lanes fail and return (R246 to R249, R252 to R257, R259): O28.
-/
namespace Sys2Proof.Machine

variable {s t u : State} {l : Fin 64} {f : Flit} {n : Nat}

/-! ### The link layer -/

/-- A good flit's header is taken; then it acts, and the link sends what it can. -/
theorem onFlit_next {k : BitVec 4} {g : State → State} (h : goodFlit s n f k = true) (hg : g (takeHeader s n f) = t) :
    (.next (settle (onFlit s n f k g)) : Outcome) = .next (settle (sendLink t n)) := by
  rw [onFlit_ready _ h, hg]

theorem onLane_next {op : Nat} {g : State → BitVec 2 → State} (h : goodLane s n f op = true)
    (hg : g (takeHeader s n f) (f.pair.setWidth 2) = t) :
    (.next (settle (onLane s n f op g)) : Outcome) = .next (settle (sendLink t n)) := by
  rw [onLane_ready _ h, hg]

/-- The DATA flit that is expected enters the receive buffer. -/
theorem takeData_expected (hseq : f.seq = (getLink s n).rxSeq) : takeData s n f = count (setLink s n { getLink s n with
    rxSeq := (getLink s n).rxSeq + 1
    nakSent := false
    rxBuf := (getLink s n).rxBuf ++ [{ f.pkt with vc := f.vc, link := BitVec.ofNat 6 n, prio := none, maybe := false }] }) 6 n 5 :=
  if_pos hseq

/-- Of the others, a duplicate is acknowledged again. -/
theorem takeData_unexpected (hseq : f.seq ≠ (getLink s n).rxSeq) : takeData s n f =
    if ((getLink s n).rxSeq - f.seq).toNat < 2 ^ 11 then emitFlit s n ((getLink s n).header 0) else s :=
  if_neg hseq

theorem exec_replayTimeout (h : ((getLink s l.val).replayAt.all fun t => decide (t + 2000 ≤ s.refNs)) = true) :
    exec (.replayTimeout l) s = .next (settle (replay s l.val)) := by
  rw [exec, execReplayTimeout]
  cases hat : (getLink s l.val).replayAt with
  | none => simp only [Bool.false_eq_true, if_false]
  | some t =>
    rw [hat, Option.all_some, decide_eq_true_eq] at h
    simp only [decide_eq_false (Nat.not_lt.mpr h), Bool.false_eq_true, if_false]

/-- A flit that fails its CRC acts as nothing else. -/
theorem onFlit_bad (hup : (getLink s n).up = true) (hbad : badFlit f = true) (k : BitVec 4) (g : State → State) :
    onFlit s n f k g = crcFail s n := by
  rw [onFlit, if_neg (by rw [hup]; exact Bool.false_ne_true), if_pos hbad]

/-- One NAK until the expected SEQ arrives. -/
theorem crcFail_again (h : (getLink (count s 6 n 2) n).nakSent = true) : crcFail s n = count s 6 n 2 :=
  if_pos h

/-! ### Spare lanes -/

theorem exec_laneSpareAck {p : BitVec 2} (h : goodLane s l.val f 3 = true) (ht : t = takeHeader s l.val f)
    (hp : (getLink t l.val).bringIn = some p) :
    exec (.laneSpareAck l f) s = .next (settle (sendLink (
      if (getLink t l.val).rejoin then fourLanes t l.val
      else if spareUsable t (l.val / 4) then fourLanes (takeSpare t (l.val / 4) (lanePair t l.val p)) l.val
      else bringInDone (linkEvent t l.val 0 2) l.val) l.val)) := by
  subst ht
  exact onLane_next h (by simp only [hp])

theorem exec_spareAckTimeout {p : BitVec 2} (hp : (getLink s l.val).bringIn = some p) :
    exec (.spareAckTimeout l) s = .next (settle (bringInDone (linkEvent s l.val 0 3) l.val)) := by
  rw [exec, execSpareAckTimeout]
  simp only [hp]

section SpareNotWarm
variable {g : Fin 16} (hfree : (getGroup s g.val).spare = 0) (ht : t = setGroup s g.val { getGroup s g.val with warm := false })
include hfree ht

theorem exec_spareNotWarmTimeout_testing (htest : (findElem t (.spareLane g)).testing = true) :
    exec (.spareNotWarmTimeout g) s = .next (settle t) := by
  subst ht
  exact next_congr ((if_neg (not_not_intro hfree)).trans (if_pos htest))

theorem exec_spareNotWarmTimeout {e : ElemErr} (he : e = findElem t (.spareLane g)) (htest : e.testing = false) :
    exec (.spareNotWarmTimeout g) s = .next (settle (setElem t
      { e with testing := true, source := 0x05, severity := 0, detail := 0, injected := false })) := by
  subst ht he
  exact next_congr ((if_neg (not_not_intro hfree)).trans (if_neg (Bool.eq_false_iff.mp htest)))

end SpareNotWarm

/-! ### Faults of lanes -/

/-- A fault found here is acted on, unless the link waits after a HOLD. -/
theorem foundFault_acts (hhold : (getLink s n).hold = false) (k : BitVec 2) : foundFault s n k = laneFault s n k true :=
  if_neg (Bool.eq_false_iff.mp hhold)

section LockLoss
variable {lane : Fin 5} (hlane : lane.val ≠ 4)
include hlane

theorem exec_laneLockLoss (hhold : (getLink s l.val).hold = false) :
    exec (.laneLockLoss l lane) s = .next (settle (laneFault (updLink s l.val fun x => { x with lockKept := x.lockKept && !x.hold })
      l.val (BitVec.ofNat 2 lane.val) true)) := by
  have running : (getLink (updLink s l.val fun x => { x with lockKept := x.lockKept && !x.hold }) l.val).hold = false := by
    rw [updLink, getLink_setLink]
    exact hhold
  exact next_congr ((if_neg hlane).trans (foundFault_acts running _))

/-- During a HOLD the first fault is recorded. -/
theorem exec_laneLockLoss_held (hhold : (getLink s l.val).hold = true) (hfaults : (getLink s l.val).heldFaults = []) :
    exec (.laneLockLoss l lane) s = .next (settle (updLink (updLink s l.val fun x => { x with lockKept := false })
      l.val fun x => { x with heldFaults := [BitVec.ofNat 2 lane.val] })) := by
  have lost : updLink s l.val (fun x => { x with lockKept := x.lockKept && !x.hold }) = updLink s l.val fun x => { x with lockKept := false } := by
    simp only [updLink, hhold, Bool.not_true, Bool.and_false]
  refine next_congr ((if_neg hlane).trans ?_)
  rw [lost, foundFault, if_pos (by rw [updLink, getLink_setLink]; exact hhold), updLink]
  simp only [updLink, getLink_setLink, hfaults, List.contains_nil, Bool.false_eq_true, if_false, List.nil_append]

end LockLoss

/-- A further fault of a link on three lanes takes it down. -/
theorem laneFault_threeLanes {k : BitVec 2} (inj : Bool) (hup : (getLink s n).up = true) (hlanes : (getLink s n).lanes = 3)
    (hk : (getLink s n).dropped ≠ k) : laneFault s n k false inj = goDown s n 0x06 := by
  have another : ((getLink s n).dropped == k) = false := beq_eq_false_iff_ne.mpr hk
  rw [laneFault]
  simp only [hup, hlanes, another, Bool.not_true, Bool.and_false, Bool.or_self, Bool.false_eq_true, if_false, if_true]

section Codeword
variable {lane : BitVec 2} (ht : t = count s 6 l.val 1)
include ht

theorem exec_uncorrectableCodeword_down (hup : (getLink t l.val).up = false) (hhold : (getLink t l.val).hold = false) :
    exec (.uncorrectableCodeword l lane) s = .next (settle (setLink t l.val { getLink t l.val with
      uncorr := ((getLink t l.val).uncorr.filter fun e => decide (t.refNs < e.2 + 1000000000)) ++ [(lane, t.refNs)]
      lockKept := (getLink t l.val).lockKept && !(getLink t l.val).hold
      qualBad := if (getLink t l.val).st = 5 then (getLink t l.val).qualBad ||| (1 : BitVec 4) <<< lane.toNat
        else (getLink t l.val).qualBad })) := by
  subst ht
  rw [exec, execUncorrectableCodeword]
  simp only [hup, hhold, Bool.or_self, Bool.false_and, Bool.false_eq_true, if_false]

theorem exec_uncorrectableCodeword_up {recent : List (BitVec 2 × Nat)} (hup : (getLink t l.val).up = true)
    (hrecent : recent = (getLink t l.val).uncorr.filter fun e => decide (t.refNs < e.2 + 1000000000))
    (hu : u = setLink t l.val { getLink t l.val with
      uncorr := recent ++ [(lane, t.refNs)]
      lockKept := (getLink t l.val).lockKept && !(getLink t l.val).hold
      qualBad := if (getLink t l.val).st = 5 then (getLink t l.val).qualBad ||| (1 : BitVec 4) <<< lane.toNat
        else (getLink t l.val).qualBad }) :
    exec (.uncorrectableCodeword l lane) s = .next (settle (
      let v := if recent.any (fun e => e.1 == lane) then foundFault u l.val lane else u
      if recent.any (fun e => e.1 != lane) then startRetrain v l.val true else v)) := by
  subst ht hrecent hu
  rw [exec, execUncorrectableCodeword]
  simp only [hup, Bool.true_or, Bool.true_and]

end Codeword

/-- Settles O28, by `onFlit_next` and `onLane_next`. -/
theorem flitsAndLanes : Obligations.FlitsAndLanes :=
  ⟨⟨fun _ _ _ h => onFlit_next h rfl,
      fun _ _ _ => takeData_expected,
      fun _ _ _ => takeData_unexpected,
      fun _ _ _ h => onFlit_next h rfl,
      fun _ _ _ h => onFlit_next h rfl,
      fun _ _ _ h => onFlit_next h rfl,
      fun _ _ => exec_replayTimeout,
      fun _ _ _ hup hbad => ⟨next_congr (onFlit_bad hup hbad _ _), next_congr (onFlit_bad hup hbad _ _),
        next_congr (onFlit_bad hup hbad _ _), next_congr (onFlit_bad hup hbad _ _)⟩,
      fun _ _ => crcFail_again⟩,
    fun _ _ _ h => onLane_next h rfl,
    fun _ _ _ _ _ h ht hk => by subst ht hk; exact onLane_next h rfl,
    fun _ _ _ _ _ => exec_laneSpareAck,
    fun _ _ _ => exec_spareAckTimeout,
    fun _ _ _ h => onLane_next h rfl,
    fun _ _ _ h => onLane_next h rfl,
    fun _ _ _ => exec_spareNotWarmTimeout_testing,
    fun _ _ _ _ hfree ht => exec_spareNotWarmTimeout hfree ht,
    fun _ _ _ => ⟨exec_laneLockLoss, exec_laneLockLoss_held, fun h => next_congr (if_pos h)⟩,
    fun _ _ inj _ _ => laneFault_threeLanes inj,
    fun _ _ _ _ => exec_uncorrectableCodeword_down,
    fun _ _ _ _ _ _ ht hup => exec_uncorrectableCodeword_up ht hup,
    fun _ _ _ _ _ _ _ hlane ht => by subst ht; exact next_congr (if_neg hlane),
    fun _ _ _ _ _ _ hlane => next_congr (if_pos hlane)⟩

end Sys2Proof.Machine
end

section
/-!
PROOFS. Window requests at the receiver, and their answers at the requester (R226, R227, R233, R267, R271, R274, R275, R326): O29.
-/
namespace Sys2Proof.Machine

variable {s t u v : State} {p q : Packet} {acc : Acc} {w : Window} {o : MemObj} {k : Byte} {n a : Nat}

/-! ### The checks of Table 9.7 -/

section Entry
variable (hw : w = Tbl.get {} s.windows (fld p.addr 55 44))
include hw

theorem windowEntry_absent (hv : w.valid = false) : windowEntry s p acc = .error 0x01 := by
  subst hw
  simp only [windowEntry, hv, Bool.not_false, if_true]

variable (hv : w.valid = true)
include hv

theorem windowEntry_closing (hc : w.closing = true) : windowEntry s p acc = .error 0x02 := by
  subst hw
  simp only [windowEntry, hv, hc, Bool.not_true, Bool.false_eq_true, if_false, if_true]

variable (hc : w.closing = false) (ho : getObj s w.obj = some o)
include hc ho

theorem windowEntry_cuffed (hcuff : o.cuffed = true) : windowEntry s p acc = .error 0x02 := by
  subst hw
  simp only [windowEntry, hv, hc, ho, hcuff, Bool.not_true, Bool.false_eq_true, if_false, if_true]

variable (hcuff : o.cuffed = false)
include hcuff

theorem windowEntry_stale (hgen : fld p.addr 63 56 ≠ w.wgen.toNat) : windowEntry s p acc = .error 0x03 := by
  subst hw
  simp only [windowEntry, hv, hc, ho, hcuff, if_pos hgen, Bool.not_true, Bool.false_eq_true, if_false]

variable (hgen : fld p.addr 63 56 = w.wgen.toNat)
include hgen

theorem windowEntry_filtered (hf : passesFilter s w p.src = false) : windowEntry s p acc = .error 0x04 := by
  subst hw
  simp only [windowEntry, hv, hc, ho, hcuff, if_neg (not_not_intro hgen), hf, Bool.not_true, Bool.not_false, Bool.false_eq_true, if_false, if_true]

theorem windowEntry_passes (hf : passesFilter s w p.src = true) (hkey : w.keyed = true → p.keyed = true ∧ p.gid = w.gid)
    (hlegacy : p.legacy = true → w.legacyOk = true) (hright : hasRight w acc = true) : windowEntry s p acc = .ok o := by
  have keyed : ¬(w.keyed && !(p.keyed && p.gid == w.gid)) = true := by
    cases hk : w.keyed
    · exact Bool.false_ne_true
    · obtain ⟨h1, h2⟩ := hkey hk
      simp [h1, h2]
  have legacy : ¬(p.legacy && !w.legacyOk) = true := by
    cases hl : p.legacy
    · exact Bool.false_ne_true
    · simp [hlegacy hl]
  subst hw
  simp only [windowEntry, hv, hc, ho, hcuff, if_neg (not_not_intro hgen), hf, if_neg keyed, if_neg legacy, hright, Bool.not_true,
    Bool.false_eq_true, if_false]

end Entry

/-! ### Requests that are refused, wait, or are served -/

section OnWindow
variable {ty : BitVec 5} {ranges : Packet → List (Nat × Nat)} {f : State → Packet → State} (h : received s p ty = some (u, q))
include h

/-- A request that the checks refuse meets no domain. -/
theorem onWindow_refused (he : windowEntry u q acc = .error k) : onWindow s p ty acc ranges f = f u q := by
  rw [onWindow, onPacket_ready _ h, he]

/-- A request of one range is served where the domains of its bytes are in run. -/
theorem onWindow_runs {off : Nat} (he : windowEntry u q acc = .ok o) (hr : ranges q = [(off, n)])
    (hm : meetDomains u (memDomains u (objPart u o) o.hbm (o.base.toNat + off) (min n 4096)) = (t, true)) :
    onWindow s p ty acc ranges f = f t q := by
  rw [onWindow, onPacket_ready _ h, he]
  by_cases hd : u.gov.domains = []
  · have same : u = t := by
      rw [meetDomains, if_pos hd] at hm
      exact (Prod.mk.inj hm).1
    subst same
    simp only [meetDomains, hd, if_true]
  · simp only [if_neg hd, hr, List.flatMap_cons, List.flatMap_nil, List.append_nil, hm, if_true]

/-- With no switched domain every request is served at once. -/
theorem onWindow_unswitched (he : windowEntry u q acc = .ok o) (hd : u.gov.domains = []) : onWindow s p ty acc ranges f = f u q := by
  rw [onWindow, onPacket_ready _ h, he]
  simp only [meetDomains, hd, if_true]

end OnWindow

/-- Check 8 refuses nothing that the entry's checks refuse. -/
theorem windowAt_refused (he : windowEntry s p acc = .error k) (n : Nat) (form : Bool) : windowAt s p acc n form = .error k := by
  rw [windowAt, he]

section Refused
theorem exec_fabricReadReq_refused (h : received s p 0x01 = some (u, q)) (he : windowEntry u q .rd = .error k) :
    exec (.fabricReadReq p) s = .next (settle (respond u q 0x02 k [] false)) := by
  refine next_congr ((onWindow_refused h he).trans ?_)
  rw [readReq, windowAt_refused he]
  rfl

theorem exec_fabricWrite_refused (h : received s p 0x03 = some (u, q)) (he : windowEntry u q .wr = .error k) :
    exec (.fabricWrite p) s = .next (settle (respond u q 0x04 k [] false)) := by
  refine next_congr ((onWindow_refused h he).trans ?_)
  rw [writeReq, windowAt_refused he]
  rfl

theorem exec_fabricAtomic_refused (h : received s p 0x05 = some (u, q)) (he : windowEntry u q .atomic = .error k) (hop : fld q.ext 3 0 ≤ 3) :
    exec (.fabricAtomic p) s = .next (settle (respond u q 0x06 k [] false)) := by
  refine next_congr ((onWindow_refused h he).trans ((if_neg (Nat.not_lt.mpr hop)).trans ?_))
  rw [atomicReq, windowAt_refused he]
  rfl

theorem exec_gather_refused (h : received s p 0x07 = some (u, q)) (he : windowEntry u q .rd = .error k) :
    exec (.gather p) s = .next (settle (respond u q 0x02 k [] false)) := by
  refine next_congr ((onWindow_refused h he).trans ?_)
  rw [gatherReq, he]
  rfl

end Refused

section Served
variable (hat : a = o.base.toNat + windowOff q)
include hat

theorem exec_fabricReadReq (h : received s p 0x01 = some (u, q)) (he : windowEntry u q .rd = .ok o) (hn : n = q.len.toNat)
    (hm : meetDomains u (memDomains u (objPart u o) o.hbm a (min n 4096)) = (t, true))
    (hw : windowAt t q .rd n (decide (1 ≤ n ∧ n ≤ 4096)) = .ok (o, a)) :
    exec (.fabricReadReq p) s = .next (settle ((List.range ((n + 191) / 192)).foldl (fun s c =>
      let r := windowRead s o (a + 192 * c) (min 192 (n - 192 * c))
      respondData s q 0x02 r.1 r.2.1 r.2.2 (BitVec.ofNat 32 c)) (devReadLog t (objPart t o) o.hbm a n))) := by
  subst hat hn
  refine next_congr ((onWindow_runs h he rfl hm).trans ?_)
  rw [readReq]
  simp only [hw]

theorem exec_fabricWrite (h : received s p 0x03 = some (u, q)) (he : windowEntry u q .wr = .ok o) (hn : n = q.len.toNat)
    (hm : meetDomains u (memDomains u (objPart u o) o.hbm a (min n 4096)) = (t, true))
    (hw : windowAt t q .wr n (decide (1 ≤ n ∧ n ≤ 192)) = .ok (o, a)) (hv : v = devWrite t (objPart t o) o.hbm a (q.data.take n) q.poison) :
    exec (.fabricWrite p) s = .next (settle (respondAfter v q 0x04 0 [] false (snoopsIn v (objPart v o) o.hbm a n))) := by
  subst hat hn hv
  refine next_congr ((onWindow_runs h he rfl hm).trans ?_)
  rw [writeReq]
  simp only [hw]

theorem exec_fabricAtomic {r : List Byte × Bool × Bool} {y : Nat} (h : received s p 0x05 = some (u, q)) (he : windowEntry u q .atomic = .ok o)
    (hop : fld q.ext 3 0 ≤ 3) (hm : meetDomains u (memDomains u (objPart u o) o.hbm a 8) = (t, true))
    (hw : windowAt t q .atomic 8 (windowOff q % 8 == 0) = .ok (o, a)) (hr : r = windowRead t o a 8)
    (hy : y = atomicNew (fld q.ext 3 0) (leNat r.1) (leNat (q.data.take 8)) (leNat ((q.data.drop 8).take 8)))
    (hv : v = devWrite (devReadLog t (objPart t o) o.hbm a 8) (objPart t o) o.hbm a (leBytes 8 y) (r.2.1 || q.poison)) :
    exec (.fabricAtomic p) s = .next (settle (respondAfter v q 0x06 (dataStatus r.2.1 r.2.2) (if r.2.2 then r.1.map fun _ => 0 else r.1)
      (r.2.1 && !r.2.2) (snoopsIn v (objPart v o) o.hbm a 8))) := by
  subst hat hv hy hr
  have eight : min 8 4096 = 8 := rfl
  rw [← eight] at hm
  refine next_congr ((onWindow_runs h he rfl hm).trans ?_)
  simp only [if_neg (Nat.not_lt.mpr hop), atomicReq, hw]

end Served

theorem exec_gather {rb nr : Nat} {offs : List Nat} {rows : List (List Byte × Bool × Bool)} (h : received s p 0x07 = some (u, q))
    (he : windowEntry u q .rd = .ok o) (hrb : rb = fld q.ext 7 0) (hnr : nr = fld q.ext 15 8) (hd : u.gov.domains = [])
    (hform : 4 ≤ rb ∧ rb ≤ 192 ∧ rb % 4 = 0 ∧ 1 ≤ nr ∧ nr ≤ 48)
    (hoffs : offs = (List.range nr).map fun j => windowOff q + leNat ((q.data.drop (4 * j)).take 4) * rb)
    (hin : ∀ f ∈ offs, objRange u o f rb = true)
    (ht : t = offs.foldl (fun s f => devReadLog s (objPart s o) o.hbm (o.base.toNat + f) rb) u)
    (hrows : rows = offs.map fun f => windowRead t o (o.base.toNat + f) rb) :
    exec (.gather p) s = .next (settle ((List.range ((nr * rb + 191) / 192)).foldl (fun s c =>
      let mine := (rows.zipIdx.filter fun e => decide (e.2 * rb < 192 * c + 192) && decide (192 * c < e.2 * rb + rb)).map (·.1)
      respondData s q 0x02 (((rows.flatMap (·.1)).drop (192 * c)).take 192) (mine.any (·.2.1)) (mine.any (·.2.2)) (BitVec.ofNat 32 c)) t)) := by
  subst hrows ht hoffs hrb hnr
  refine next_congr ((onWindow_unswitched h he hd).trans ?_)
  rw [gatherReq]
  simp only [he, hform, and_self, decide_true, List.all_eq_true.mpr hin, Bool.not_true, Bool.or_self, Bool.false_eq_true, if_false]

/-! ### Fences -/

theorem exec_fence (h : received s p 0x0B = some (u, q)) (hf : fenceBehind s q = false) :
    exec (.fence p) s = .next (settle (respond u q 0x0C 0 [] false)) :=
  onPacket_next h (if_neg (Bool.eq_false_iff.mp hf))

theorem exec_fence_waits (h : received s p 0x0B = some (u, q)) (hf : fenceBehind s q = true) : exec (.fence p) s = .next (settle s) :=
  onPacket_next h (if_pos hf)

/-! ### Answers at the requester -/

section ReadResp
variable {r : WinReq} (h : received s p 0x02 = some (u, q)) (hr : findReq u q (fun w => w == .read || w == .gather) = some r)
include h hr

/-- What an answer of a read does, by its status. -/
theorem exec_fabricReadResp : exec (.fabricReadResp p) s = .next (settle (
    if q.status = 0 ∨ q.status = 0x10 then readChunk u r q
    else if q.status = 0x11 then faultItem (endReq u r) r.x 5 0x02 r.va 0
    else reqRefused u r q.status)) := by
  refine onPacket_next h ?_
  rw [readRespAt]
  simp only [hr]

theorem exec_fabricReadResp_protected (hst : q.status = 0x11) :
    exec (.fabricReadResp p) s = .next (settle (faultItem (endReq u r) r.x 5 0x02 r.va 0)) := by
  rw [exec_fabricReadResp h hr, if_neg (by rw [hst]; decide), if_pos hst]

theorem exec_fabricReadResp_refused (h0 : q.status ≠ 0) (h1 : q.status ≠ 0x10) (h2 : q.status ≠ 0x11) :
    exec (.fabricReadResp p) s = .next (settle (reqRefused u r q.status)) := by
  rw [exec_fabricReadResp h hr, if_neg (not_or.mpr ⟨h0, h1⟩), if_neg h2]

end ReadResp

section WriteAck
variable {r : WinReq} (h : received s p 0x04 = some (u, q)) (hr : findReq u q (fun w => w == .write || w == .ring) = some r)
include h hr

/-- What an acknowledgement does, by its status and what it acknowledges. -/
theorem exec_fabricWriteAck : exec (.fabricWriteAck p) s = .next (settle (
    if q.status ≠ 0 then reqRefused u r q.status
    else if r.use = .ring then endReq u r
    else requestDone (endReq u r) r.x)) :=
  onPacket_next h (by simp only [hr])

theorem exec_fabricWriteAck_ring (hst : q.status = 0) (huse : r.use = .ring) :
    exec (.fabricWriteAck p) s = .next (settle (endReq u r)) := by
  rw [exec_fabricWriteAck h hr, if_neg (not_not_intro hst), if_pos huse]

theorem exec_fabricWriteAck_write (hst : q.status = 0) (huse : r.use ≠ .ring) :
    exec (.fabricWriteAck p) s = .next (settle (requestDone (endReq u r) r.x)) := by
  rw [exec_fabricWriteAck h hr, if_neg (not_not_intro hst), if_neg huse]

end WriteAck

section AtomicResp
variable {r : WinReq} (h : received s p 0x06 = some (u, q)) (hr : findReq u q (fun w => w == .atomic) = some r)
include h hr

/-- What an atomic answer does, by its status. -/
theorem exec_atomicResp : exec (.atomicResp p) s = .next (settle (
    if q.status = 0 then atomicDone (endReq u r) r.x
    else if q.status = 0x10 then stopDone (faultItem (endReq u r) r.x 5 0x01 r.va 0) r.x
    else if q.status = 0x11 then stopDone (faultItem (endReq u r) r.x 5 0x02 r.va 0) r.x
    else reqRefused u r q.status)) :=
  onPacket_next h (by simp only [hr])

theorem exec_atomicResp_poisoned (hst : q.status = 0x10) :
    exec (.atomicResp p) s = .next (settle (stopDone (faultItem (endReq u r) r.x 5 0x01 r.va 0) r.x)) := by
  rw [exec_atomicResp h hr, if_neg (by rw [hst]; decide), if_pos hst]

theorem exec_atomicResp_protected (hst : q.status = 0x11) :
    exec (.atomicResp p) s = .next (settle (stopDone (faultItem (endReq u r) r.x 5 0x02 r.va 0) r.x)) := by
  rw [exec_atomicResp h hr, if_neg (by rw [hst]; decide), if_neg (by rw [hst]; decide), if_pos hst]

theorem exec_atomicResp_refused (h0 : q.status ≠ 0) (h1 : q.status ≠ 0x10) (h2 : q.status ≠ 0x11) :
    exec (.atomicResp p) s = .next (settle (reqRefused u r q.status)) := by
  rw [exec_atomicResp h hr, if_neg h0, if_neg h1, if_neg h2]

end AtomicResp

/-- A request that is not legacy leaves the cached generations as they are where it is refused. -/
theorem reqRefused_item {r : WinReq} (huse : r.use ≠ .ring) (hlegacy : r.legacy = false) :
    reqRefused s r k = stopDone (faultItem (uncountWrite (endReq s r) r) r.x 4 0x0A r.va (windowDetail k r.node r.window)) r.x := by
  simp only [reqRefused, hlegacy, Bool.false_and, Bool.false_eq_true, if_false, if_neg huse]

theorem reqRefused_ring {r : WinReq} (huse : r.use = .ring) (hlegacy : r.legacy = false) :
    reqRefused s r k = raise (endReq s r) { ctx := r.ctx, cls := 6, cause := 5, addr := r.va } := by
  simp only [reqRefused, hlegacy, Bool.false_and, Bool.false_eq_true, if_false, if_pos huse]

/-- Settles O29, one lemma a case. -/
theorem windowRequestsAndAnswers : Obligations.WindowRequestsAndAnswers :=
  ⟨⟨fun _ _ _ _ hw => ⟨windowEntry_absent hw, windowEntry_closing hw, fun _ hv hc ho => windowEntry_cuffed hw hv hc ho,
        fun _ hv hc ho => windowEntry_stale hw hv hc ho, fun _ hv hc ho hcuff => windowEntry_filtered hw hv hc ho hcuff,
        fun _ hv hc ho hcuff => windowEntry_passes hw hv hc ho hcuff⟩,
      fun _ _ _ _ _ => exec_fabricReadReq_refused,
      fun _ _ _ _ _ => exec_fabricWrite_refused,
      fun _ _ _ _ _ => exec_fabricAtomic_refused,
      fun _ _ _ _ _ => exec_gather_refused,
      fun _ _ _ _ _ _ _ _ h he hn ha => exec_fabricReadReq ha h he hn,
      fun _ _ _ _ _ _ _ _ _ h he hn ha => exec_fabricWrite ha h he hn,
      fun _ _ _ _ _ _ _ _ _ _ h he ha hop hm hw hr hy => exec_fabricAtomic ha h he hop hm hw hr hy,
      fun _ _ _ _ _ _ => ⟨rfl, rfl⟩,
      fun _ _ _ _ _ _ _ _ _ _ h he hrb hnr hd h1 h2 h3 h4 h5 hoffs hin ht hrows =>
        exec_gather h he hrb hnr hd ⟨h1, h2, h3, h4, h5⟩ hoffs hin ht hrows,
      fun _ _ _ => ⟨rfl, rfl, rfl, rfl⟩,
      fun _ _ _ _ h => ⟨exec_fence h, exec_fence_waits h⟩,
      fun _ _ _ _ h => onPacket_next h rfl⟩,
    fun _ _ _ _ _ h hr => ⟨fun hst => (exec_fabricReadResp h hr).trans (next_congr (if_pos hst)), exec_fabricReadResp_protected h hr,
      exec_fabricReadResp_refused h hr⟩,
    fun _ _ _ _ _ h hr => ⟨fun hst => (exec_fabricWriteAck h hr).trans (next_congr (if_pos hst)), exec_fabricWriteAck_ring h hr,
      exec_fabricWriteAck_write h hr⟩,
    fun _ _ _ _ _ h hr => ⟨fun hst => (exec_atomicResp h hr).trans (next_congr (if_pos hst)), exec_atomicResp_poisoned h hr,
      exec_atomicResp_protected h hr, exec_atomicResp_refused h hr⟩,
    fun _ _ _ => reqRefused_item,
    fun _ _ _ => reqRefused_ring⟩

end Sys2Proof.Machine
end

section
/-!
PROOFS. In-network reduction (R275, R281 to R285): O30.
-/
namespace Sys2Proof.Machine

variable {s t u v : State} {p q : Packet} {c : Combined} {k : Byte}

/-! ### A packet at a vertex -/

/-- A packet outside any tree is delivered here, and its contributor is told. -/
theorem reduceIn_delivered (hleft : leftReduce u q = false) (htree : BitVec.ofNat 7 (extTree q.ext) = 0)
    (hroot : rootDeliver u (combOf q) = .done t k) : reduceIn s u q = tellAll t [.packet q.src q.tag q.gid q.addr] k := by
  have flat : (combOf q).tree = 0 := htree
  unfold reduceIn
  simp only [hleft, Bool.false_eq_true, if_false, if_pos flat, atRoot, hroot]
  rfl

/-- A packet of a tree stays in the combining buffer where it does not complete the row. -/
theorem reduceIn_combined {e : Tree} (hleft : leftReduce u q = false) (htree : BitVec.ofNat 7 (extTree q.ext) ≠ 0)
    (hget : getTree u (BitVec.ofNat 7 (extTree q.ext)).toNat = some e) (hgid : e.gid = q.gid) (hmember : memberOf u q.gid u.node = true)
    (henter : combEnter u e (combOf q) = (v, none)) : reduceIn s u q = v := by
  have grown : ¬(combOf q).tree = 0 := htree
  have found : getTree u (combOf q).tree.toNat = some e := hget
  unfold reduceIn
  simp only [hleft, Bool.false_eq_true, if_false, if_neg grown, found, hgid, hmember, ne_eq, not_true_eq_false, Bool.not_true, or_self, henter]

/-- A packet of a tree that is not set is answered NO_TREE. -/
theorem reduceIn_noTree (htree : BitVec.ofNat 7 (extTree q.ext) ≠ 0) (hget : getTree u (BitVec.ofNat 7 (extTree q.ext)).toNat = none) :
    reduceIn s u q = refuse { u with fab := { u.fab with noTree := u.fab.noTree + 1 } } q 0x0A 0x13 := by
  have grown : ¬(combOf q).tree = 0 := htree
  have absent : getTree u (combOf q).tree.toNat = none := hget
  unfold reduceIn
  simp only [if_neg grown, absent, ite_self]
  rfl

/-! ### Delivery at the root -/

theorem rootDeliver_tile {n : Nat} {pkt : MeshPkt} {h : State × HeldPkt} {a : State × Bool} (htype : c.pkt.ttype = 9)
    (hbind : findBinding u c.pkt.gid (BitVec.ofNat 16 (fld c.pkt.addr 55 40)) = some n)
    (hpkt : pkt = rootRow c n (if c.pkt.fwd then BitVec.ofNat 8 (fld c.pkt.addr 63 56) else (getBinding u n).gen))
    (hport : portWaits u pkt = false) (hsteer : steer u n pkt.gen = .serve) (hkind : slotKind n = 0) (hcuff : coreCuffed u n = false)
    (hh : h = carry (pktRoute pkt) u ⟨pkt, []⟩)
    (ha : a = tileArrive h.1 n (fld c.pkt.addr 39 37) (fld c.pkt.addr 36 30) (fld c.pkt.addr 29 27) h.2.pkt.contrib.toNat
      (pktPartials h.2.pkt.payload) (h.2.pkt.poison.any id)) :
    rootDeliver u c = .done a.1 (if a.2 then 0 else 0x14) := by
  have tile : ¬c.pkt.ttype = 8 := by rw [htype]; decide
  subst ha hh hpkt
  rw [rootDeliver, if_neg tile, rootTile]
  simp only [hbind, hport, hsteer, hkind, hcuff, Bool.false_eq_true, ne_eq, not_true_eq_false, if_false]

theorem rootDeliver_window {o : MemObj} {a : Nat} {pkt : MeshPkt} {map : Tbl Dword} {h : State × HeldPkt} (hq : c.pkt = q) (htype : q.ttype = 8)
    (hat : windowAt u q .red 192 (windowOff q % 4 == 0) = .ok (o, a)) (hsram : o.hbm = false) (hregion : a / 2 ^ 26 = (a + 191) / 2 ^ 26)
    (halign : a % 4 = 0) (hmap : map = (getSlice u (objPart u o)).regions) (hpkt : pkt = rootPkt c (objPart u o) map a)
    (hh : h = carry (pktRoute pkt) u ⟨pkt, map⟩)
    (ht : t = sliceLost (snoopLines h.1 (objPart u o) false a 192) map (objPart u o) a 192 true) :
    rootDeliver u c =
      if snoopsIn t (objPart u o) false a 192 then .held (sliceReduceAll t map a (partialBad h.2.pkt) (pktPartials h.2.pkt.payload))
      else .done (sliceReduceAll t map a (partialBad h.2.pkt) (pktPartials h.2.pkt.payload)) 0 := by
  have fits : ¬(o.hbm || a / 2 ^ 26 != (a + 191) / 2 ^ 26 || a % 4 != 0) = true := by
    rw [hsram, ← hregion, halign, bne_self_eq_false, bne_self_eq_false]
    exact Bool.false_ne_true
  subst hq ht hh hpkt hmap
  rw [rootDeliver, if_pos htype, rootWindow]
  simp only [hat, if_neg fits]

/-! ### Acknowledgements -/

section ReduceAck
variable {o : ReduceOut} (h : received s p 0x0A = some (u, q)) (ho : findOut u q.tag = some o)
include h ho

/-- What an acknowledgement does, by its status. -/
theorem exec_reduceAck : exec (.reduceAck p) s = .next (settle (
    if q.status = 0x12 ∨ q.status = 0x13 then
      if o.again then tellAll (dropOut u o.tag) o.from_ 0x14
      else sendReduce (dropOut u o.tag) { o.pkt with dst := o.root, ext := reduceExt 0 (extContrib o.pkt.ext) o.root } o.root true o.from_
    else tellAll (dropOut u o.tag) o.from_ q.status)) := by
  refine onPacket_next h ?_
  rw [reduceAckAt]
  simp only [ho]

theorem exec_reduceAck_told (h2 : q.status ≠ 0x12) (h3 : q.status ≠ 0x13) :
    exec (.reduceAck p) s = .next (settle (tellAll (dropOut u o.tag) o.from_ q.status)) := by
  rw [exec_reduceAck h ho, if_neg (not_or.mpr ⟨h2, h3⟩)]

theorem exec_reduceAck_unheard (hst : q.status = 0x12 ∨ q.status = 0x13) :
    exec (.reduceAck p) s = .next (settle (if o.again then tellAll (dropOut u o.tag) o.from_ 0x14
      else sendReduce (dropOut u o.tag) { o.pkt with dst := o.root, ext := reduceExt 0 (extContrib o.pkt.ext) o.root } o.root true o.from_)) := by
  rw [exec_reduceAck h ho, if_pos hst]

end ReduceAck

theorem exec_reduceAckTimeout {tag : BitVec 16} {o : ReduceOut} (ho : findOut s tag = some o) :
    exec (.reduceAckTimeout tag) s = .next (settle (tellAll (dropOut s tag) o.from_ 0x14)) := by
  rw [exec, execReduceAckTimeout]
  simp only [ho]

theorem exec_treeHoldExpire {i : Nat} (hc : s.fab.comb[i]? = some c) :
    exec (.treeHoldExpire i) s = .next (settle (releaseComb { s with fab := { s.fab with comb := s.fab.comb.eraseIdx i } } s c)) := by
  rw [exec, execTreeHoldExpire]
  simp only [hc]

/-! ### Items of trees and gathers -/

variable {x : ItemRef} {r : Reply} {i : Item} {y : Context} {n : Nat}

section TreeSet
variable {gid : BitVec 24} {e : Tree} (h : itemReady s x 0x52 i y = true) (hg : gid = BitVec.ofNat 24 (fld (iw i 1) 31 8))
  (he : e = { gid := gid, parent := BitVec.ofNat 17 (fld (iw i 2) 16 0), root := BitVec.ofNat 17 (fld (iw i 2) 33 17),
              expect := BitVec.ofNat 8 (fld (iw i 2) 41 34), hold := BitVec.ofNat 16 (fld (iw i 2) 57 42) })
include h hg he

theorem exec_treeSet_notMember (hm : memberOf s gid s.node = false) : exec (.treeSet x) s = .next (settle (completeItem s x 0x82)) := by
  subst hg he
  have refused (a b : Option Nat) (ha : a = none ∨ a = some 0x83) (hb : b = none ∨ b = some 0x84) : leastStatus [some 0x82, a, b] = some 0x82 := by
    rcases ha with rfl | rfl <;> rcases hb with rfl | rfl <;> rfl
  have optional (b : Prop) [Decidable b] (m : Nat) : (if b then some m else none) = none ∨ (if b then some m else none) = some m := by
    split
    · exact .inr rfl
    · exact .inl rfl
  refine next_congr ((onItem_ready _ h).trans ?_)
  simp only [hm, Bool.not_false, Bool.true_or, if_true]
  rw [refused _ _ (optional _ _) (optional _ _)]

variable (hn : n = fld (iw i 1) 6 0) (hm : memberOf s gid s.node = true) (hparent : memberOf s gid e.parent = true) (hroot : memberOf s gid e.root = true)
include hn hm hparent hroot

theorem exec_treeSet_malformed (hbad : n = 0 ∨ e.expect = 0) : exec (.treeSet x) s = .next (settle (completeItem s x 0x83)) := by
  subst hn hg he
  have refused (b : Prop) [Decidable b] : leastStatus [none, some 0x83, if b then some 0x84 else none] = some 0x83 := by
    split <;> rfl
  refine next_congr ((onItem_ready _ h).trans ?_)
  simp only [hm, hparent, hroot, Bool.not_true, Bool.or_self, Bool.false_eq_true, if_false, if_pos hbad]
  rw [refused]

theorem exec_treeSet (h0 : n ≠ 0) (hexp : e.expect ≠ 0) (hfree : (getTree s n).isSome = false) (hnew : (findTree s gid e.root).isSome = false) :
    exec (.treeSet x) s = .next (settle (completeItem { s with fab := { s.fab with trees := Tbl.set none s.fab.trees n (some e) } } x 0x00)) := by
  subst hn hg he
  have passes : leastStatus [none, none, none] = none := rfl
  refine next_congr ((onItem_ready _ h).trans ?_)
  simp only [hm, hparent, hroot, hfree, hnew, if_neg (not_or.mpr ⟨h0, hexp⟩), Bool.not_true, Bool.or_self, Bool.false_eq_true, if_false, passes]

end TreeSet

section TreeClear
variable (h : itemReady s x 0x53 i y = true) (hn : n = fld (iw i 1) 6 0)
include h hn

theorem exec_treeClear_none (hno : n = 0 ∨ getTree s n = none) : exec (.treeClear x) s = .next (settle (completeItem s x 0x83)) := by
  subst hn
  refine next_congr ((onItem_ready _ h).trans (if_pos ?_))
  exact hno.imp_right fun e => by rw [e]; rfl

/-- The tree goes, and then its held packets go to the root. -/
theorem exec_treeClear {e : Tree} (h0 : n ≠ 0) (he : getTree s n = some e)
    (hu : u = { s with fab := { s.fab with trees := Tbl.set none s.fab.trees n none } }) :
    exec (.treeClear x) s = .next (settle (completeItem ((s.fab.comb.filter fun c => c.tree.toNat == n).foldl (fun s c =>
      releaseComb { s with fab := { s.fab with comb := s.fab.comb.erase c } } s c) u) x 0x00)) := by
  have present : ¬(n = 0 ∨ (getTree s n).isNone = true) := by
    rw [he]
    exact not_or.mpr ⟨h0, Bool.false_ne_true⟩
  subst hn hu
  exact next_congr ((onItem_ready _ h).trans (if_neg present))

end TreeClear

section Wgather
variable {count rb : Nat} (h : itemReady s x 0x56 i y = true) (hcount : count = fld (iw i 3) 23 0) (hrb : rb = fld (iw i 3) 31 24)
include h hcount hrb

theorem exec_wgather_malformed (hbad : count = 0 ∨ rb < 4 ∨ 192 < rb ∨ rb % 4 ≠ 0) :
    exec (.wgather x r) s = .next (settle (completeItem s x 0x87)) := by
  subst hcount hrb
  exact next_congr ((onItem_ready _ h).trans (if_pos hbad))

theorem exec_wgather {b : List Byte} (h0 : count ≠ 0) (hlo : 4 ≤ rb) (hhi : rb ≤ 192) (h4 : rb % 4 = 0)
    (hr : readVa s y (some x) r (iw i 2) (4 * count) = .ok t b) :
    exec (.wgather x r) s = .next (settle (startXfer (updRun t x fun q => { q with list := leWords ((4 * count + 7) / 8) b }) x)) := by
  have wellFormed : ¬(count = 0 ∨ rb < 4 ∨ 192 < rb ∨ rb % 4 ≠ 0) := by omega
  subst hcount hrb
  exact next_congr ((onItem_ready _ h).trans ((if_neg wellFormed).trans (withList_ok hr _)))

end Wgather

/-- Settles O30, one lemma a case. -/
theorem reductionsCombine : Obligations.ReductionsCombine :=
  ⟨fun _ _ _ _ h => onPacket_next h rfl,
    fun _ _ _ _ h => onPacket_next h rfl,
    fun _ _ _ _ _ _ h hleft htree hroot => onPacket_next h (reduceIn_delivered hleft htree hroot),
    fun _ _ _ _ _ _ h hleft htree hroot => onPacket_next h (reduceIn_delivered hleft htree hroot),
    fun _ _ _ _ _ _ hget hleft htree hgid hmember henter =>
      ⟨fun h => onPacket_next h (reduceIn_combined hleft htree hget hgid hmember henter),
        fun h => onPacket_next h (reduceIn_combined hleft htree hget hgid hmember henter)⟩,
    fun _ _ _ _ _ _ htype hbind hpkt hport hsteer hkind hcuff hh => rootDeliver_tile htype hbind hpkt hport hsteer hkind hcuff hh,
    fun _ _ _ => reduceIn_noTree,
    fun _ _ _ _ _ _ _ _ _ hq htype hat hsram hregion halign hmap hpkt hh =>
      rootDeliver_window hq htype hat hsram hregion halign hmap hpkt hh,
    fun _ _ _ _ _ => exec_reduceAck_told,
    fun _ _ _ _ _ => exec_reduceAck_unheard,
    fun _ _ _ => exec_reduceAckTimeout,
    fun _ _ _ => exec_treeHoldExpire,
    fun _ _ _ _ _ _ _ h hn hg he => ⟨exec_treeSet_notMember h hg he, exec_treeSet_malformed h hg he hn, exec_treeSet h hg he hn⟩,
    fun _ _ _ _ _ _ _ h hn => ⟨exec_treeClear_none h hn, exec_treeClear h hn⟩,
    fun _ _ _ _ _ _ _ h hcount hrb => ⟨exec_wgather_malformed h hcount hrb, fun _ _ => exec_wgather h hcount hrb⟩⟩

end Sys2Proof.Machine
end

section
/-!
PROOFS. Transit, routes, node numbers and the fabric time base (R262 to R267, R274, R286): O31.
-/
namespace Sys2Proof.Machine

variable {s t u : State} {p q : Packet}

/-! ### Transit (R264 to R267) -/

/-- A packet for another node is taken from its buffer, and goes on or is dropped. -/
theorem exec_transitPacket (hvalid : s.fab.nodeValid = true) (hdst : p.dst ≠ s.node) :
    exec (.transitPacket p) s = .next (settle (
      if (takeRx s p).fab.hopLimit.toNat < p.hops.toNat + 1 then countExpired (takeRx s p)
      else routeOn (takeRx s p) { p with hops := p.hops + 1 })) := by
  have other : ¬(!s.fab.nodeValid || p.dst == s.node) = true := by
    rw [hvalid, beq_eq_false_iff_ne.mpr hdst]
    exact Bool.false_ne_true
  exact next_congr (if_neg other)

theorem exec_packetExpire (h : waitsHere s p = true) (ht : t = takeRx s p) :
    exec (.packetExpire p) s = .next (settle (countExpired { t with
      links := t.links.map fun e => (e.1, { e.2 with txq := e.2.txq.eraseP (samePacket p) })
      fab := { t.fab with pauses := t.fab.pauses.map fun x => (x.1, x.2.eraseP (samePacket p)) } })) := by
  subst ht
  exact next_congr (if_pos h)

theorem exec_drainEnd {node : BitVec 17} {x : BitVec 17 × List Packet} (hx : (s.fab.pauses.find? fun x => x.1 == node) = some x) :
    exec (.drainEnd node) s = .next (settle (x.2.foldl routeOn
      { s with fab := { s.fab with pauses := s.fab.pauses.filter fun y => y.1 != node } })) := by
  rw [exec, execDrainEnd]
  simp only [hx]

/-! ### CTRL packets -/

/-- A CTRL packet of the code that arrives well acts. -/
theorem onCtrl_next {code : Nat} {f : State → Packet → State} (h : received s p 0x0E = some (u, q)) (hc : fld q.ext 7 0 = code)
    (hf : f u q = t) : (.next (settle (onCtrl s p code f)) : Outcome) = .next (settle t) :=
  onPacket_next h ((if_pos hc).trans hf)

theorem exec_probeResp {t0 : Dword} (h : received s p 0x0E = some (u, q)) (hc : fld q.ext 7 0 = 2) (hprobe : u.fab.probe = some t0)
    (hrole : u.fab.role = 2) (hsrc : q.src = linkNode u u.fab.parent.toNat) :
    exec (.probeResp p) s = .next (settle { u with fab := { u.fab with
      probe := none
      delay := BitVec.ofNat 64 ((u.time - t0).toNat / 2) } }) := by
  refine onCtrl_next h hc ?_
  simp only [hprobe]
  exact if_pos ⟨hrole, hsrc⟩

theorem exec_wgenQuery {k : Nat} (h : received s p 0x0E = some (u, q)) (hc : fld q.ext 7 0 = 3) (hk : k = leNat (q.data.take 2)) :
    exec (.wgenQuery p) s = .next (settle (
      if (Tbl.get {} u.windows k).valid = true ∧ k < 4096 then sendPacket u (ctrlPkt q.src 4 (leBytes 2 k ++ [(Tbl.get {} u.windows k).wgen]) 0)
      else sendPacket u (ctrlPkt q.src 4 (leBytes 2 k ++ [0]) 1))) := by
  subst hk
  refine onCtrl_next h hc ?_
  by_cases hw : (Tbl.get {} u.windows (leNat (q.data.take 2))).valid = true ∧ leNat (q.data.take 2) < 4096
  · obtain ⟨hv, hk⟩ := hw
    simp only [hv, hk, decide_true, Bool.and_self, and_self, if_true]
  · have closed : ¬((Tbl.get {} u.windows (leNat (q.data.take 2))).valid && decide (leNat (q.data.take 2) < 4096)) = true := by
      rw [Bool.and_eq_true, decide_eq_true_eq]
      exact hw
    simp only [if_neg hw, if_neg closed]

theorem exec_wgenReply (h : received s p 0x0E = some (u, q)) (hc : fld q.ext 7 0 = 4) (hk : leNat (q.data.take 2) = 4095) :
    exec (.wgenReply p) s = .next (settle (pumpEveryone { u with legacyGen :=
      ((q.src, BitVec.ofNat 8 (leNat ((q.data.drop 2).take 1))) :: u.legacyGen.filter fun e => e.1 != q.src).take 256 })) :=
  onCtrl_next h hc (if_neg (not_not_intro hk))

/-! ### Time (R286) -/

theorem exec_timeSync (h : received s p 0x0D = some (u, q)) (hc : msgCode q = 0x0C) (hrole : u.fab.role = 2) (hlink : q.link = u.fab.parent) :
    exec (.timeSync p) s = .next (settle { u with
      time := timeAfter u.time (BitVec.ofNat 64 (msgField q 0 8) + u.fab.delay) u.free
      free := u.free + 1
      fab := { u.fab with locked := true, level := BitVec.ofNat 8 (msgField q 8 1 + 1), err := Config.timeErr u.free } }) := by
  have parent : ¬(u.fab.role ≠ 2 ∨ q.link ≠ u.fab.parent) := fun h => h.elim (· hrole) (· hlink)
  exact onMsg_next h hc (if_neg parent)

theorem toInt_ofNat_small {k : Nat} (hk : k ≤ 10000) : (BitVec.ofNat 64 k).toInt = k := by
  rw [BitVec.toInt_ofNat']
  exact Int.bmod_eq_of_le (by omega) (by omega)

/-- Small numbers are added to and taken from a 64-bit word without wrapping where its value is small. -/
theorem toInt_sub_ofNat {x : Dword} {k : Nat} (hx : x.toInt.natAbs ≤ 10000) (hk : k ≤ 10000) :
    (x - BitVec.ofNat 64 k).toInt = x.toInt - k := by
  rw [BitVec.toInt_sub, toInt_ofNat_small hk]
  exact Int.bmod_eq_of_le (by omega) (by omega)

theorem toInt_add_ofNat {x : Dword} {k : Nat} (hx : x.toInt.natAbs ≤ 10000) (hk : k ≤ 10000) :
    (x + BitVec.ofNat 64 k).toInt = x.toInt + k := by
  rw [BitVec.toInt_add, toInt_ofNat_small hk]
  exact Int.bmod_eq_of_le (by omega) (by omega)

section TimeAfter
variable {now target : Dword} {free : Nat}

/-- A step where the gap is beyond 10 µs. -/
theorem timeAfter_step (h : 10000 < (timeGap now target).natAbs) : timeAfter now target free = target := if_pos h

/-- A slew towards the target otherwise: it leaves no larger gap, and moves by 50 ns at most. -/
theorem timeAfter_slew (h : (timeGap now target).natAbs ≤ 10000) :
    (timeGap (timeAfter now target free) target).natAbs ≤ (timeGap now target).natAbs ∧ (timeAfter now target free - now).toInt.natAbs ≤ 50 := by
  obtain ⟨k, hk⟩ : ∃ k, k = min (timeGap now target).natAbs (Config.slew free % 51) := ⟨_, rfl⟩
  have gap : (target - now).toInt = timeGap now target := rfl
  have atMost : k ≤ 50 := by omega
  have zero : (0 : Dword).toInt = 0 := rfl
  have none : (0 : Dword).toInt.natAbs ≤ 10000 := by decide
  have slew : timeAfter now target free =
      if timeGap now target < 0 then now - BitVec.ofNat 64 k else now + BitVec.ofNat 64 k := by
    rw [hk]
    exact if_neg (Nat.not_lt.mpr h)
  rw [slew]
  split
  next back =>
    have left : target - (now - BitVec.ofNat 64 k) = (target - now) + BitVec.ofNat 64 k := by bv_omega
    have moved : now - BitVec.ofNat 64 k - now = 0 - BitVec.ofNat 64 k := by bv_omega
    rw [timeGap, left, toInt_add_ofNat (gap ▸ h) (by omega), moved, toInt_sub_ofNat none (by omega), gap, zero]
    omega
  next ahead =>
    have left : target - (now + BitVec.ofNat 64 k) = (target - now) - BitVec.ofNat 64 k := by bv_omega
    have moved : now + BitVec.ofNat 64 k - now = 0 + BitVec.ofNat 64 k := by bv_omega
    rw [timeGap, left, toInt_sub_ofNat (gap ▸ h) (by omega), moved, toInt_add_ofNat none (by omega), gap, zero]
    omega

end TimeAfter

section SendTick
variable (ht : t = if hasTime s then ((s.links.filter fun e => e.2.up && e.2.follows).map (·.1)).foldl
  (fun s n => sendOnLink s n (timeMsg s n)) s else s)
include ht

/-- Every 100 ms a follower probes its parent, after it has sent its time. -/
theorem exec_timeSyncSendTick (probe : Bool) : exec (.timeSyncSendTick probe) s = .next (settle (
    if probe = true ∧ t.fab.role = 2 then sendOnLink { t with fab := { t.fab with probe := some t.time } } t.fab.parent.toNat
      (ctrlPkt (linkNode t t.fab.parent.toNat) 1 [] 0)
    else t)) := by
  subst ht
  rw [exec, execTimeSyncSendTick]
  simp only [Bool.and_eq_true, beq_iff_eq]

end SendTick

/-! ### Items (R262, R263, R286) -/

variable {x : ItemRef} {r : Reply} {i : Item} {c : Context}

section RouteSet
variable {first count : Nat} {drain : BitVec 16} (h : itemReady s x 0x51 i c = true) (hfirst : first = fld (iw i 1) 16 0)
  (hcount : count = fld (iw i 1) 34 17)
include h hfirst hcount

theorem exec_routeSet_malformed (hbad : count = 0 ∨ 131072 < first + count) :
    exec (.routeSet x r) s = .next (settle (completeItem s x 0x81)) := by
  subst hfirst hcount
  exact next_congr ((onItem_ready _ h).trans (if_pos hbad))

theorem exec_routeSet {b : List Byte} (hdrain : drain = BitVec.ofNat 16 (fld (iw i 1) 50 35)) (h0 : count ≠ 0) (hend : first + count ≤ 131072)
    (hr : readVa s c (some x) r (iw i 2) (8 * count) = .ok t b)
    (hws : ∀ w ∈ leWords ((8 * count + 7) / 8) b, onlyBits w 0xFFFFFFF = true)
    (hu : u = if drain = 0 then t else { t with fab := { t.fab with drain := drain } }) :
    exec (.routeSet x r) s = .next (settle (completeItem ((leWords ((8 * count + 7) / 8) b).zipIdx.foldl
      (fun s e => setRoute s (first + e.2) e.1) u) x 0x00)) := by
  have wellFormed : ¬(count = 0 ∨ 131072 < first + count) := by omega
  have reserved : ¬((leWords ((8 * count + 7) / 8) b).any fun e => !onlyBits e 0xFFFFFFF) = true := by
    rw [List.any_eq_true]
    rintro ⟨w, hw, hbad⟩
    rw [hws w hw] at hbad
    cases hbad
  subst hfirst hcount hdrain hu
  exact next_congr ((onItem_ready _ h).trans ((if_neg wellFormed).trans ((withList_ok hr _).trans (if_neg reserved))))

end RouteSet

/-- Settles O31, one lemma a case. -/
theorem transitRoutesAndTime : Obligations.TransitRoutesAndTime :=
  ⟨fun _ _ hvalid hdst => ⟨fun h => (exec_transitPacket hvalid hdst).trans (next_congr (if_pos h)),
      fun h => (exec_transitPacket hvalid hdst).trans (next_congr (if_neg (Nat.not_lt.mpr h)))⟩,
    fun _ _ _ => exec_packetExpire,
    fun _ _ _ => exec_drainEnd,
    fun _ _ _ _ h hc => onCtrl_next h hc rfl,
    fun _ _ _ _ _ => exec_probeResp,
    fun _ _ _ _ _ => exec_wgenQuery,
    fun _ _ _ _ => exec_wgenReply,
    fun _ _ _ _ => exec_timeSync,
    fun _ _ _ => ⟨timeAfter_step, timeAfter_slew⟩,
    fun _ _ ht => ⟨(exec_timeSyncSendTick ht false).trans (next_congr (if_neg fun h => Bool.false_ne_true h.1)),
      fun hrole => (exec_timeSyncSendTick ht true).trans (next_congr (if_pos ⟨rfl, hrole⟩)),
      fun hrole => (exec_timeSyncSendTick ht true).trans (next_congr (if_neg fun h => hrole h.2))⟩,
    fun _ hrole => next_congr (if_pos hrole),
    fun _ _ _ _ h => next_congr (onItem_ready _ h),
    fun _ _ _ _ h => next_congr (onItem_ready _ h),
    fun _ _ _ _ _ _ _ _ h hfirst hcount hdrain => ⟨exec_routeSet_malformed h hfirst hcount,
      fun _ _ _ => exec_routeSet h hfirst hcount hdrain⟩⟩

end Sys2Proof.Machine
end

section
/-!
PROOFS. Dispatch, kernel starts, preemption and deadlines; partitions and regulators (R290 to R310, R71, R98, R116): O32 and O33.
-/
namespace Sys2Proof.Machine

variable {s t : State} {x : ItemRef} {r : Reply} {i : Item} {c d : Context} {q : Queue} {st : Nat}

/-! ### Dispatch items -/

section Dispatch
variable (hq : getQueue s x.ctx x.qid = some q)
include hq

/-- DISPATCH and DISPATCH_DL check and start alike. -/
theorem dispatchWith_missing (hcount : counterMissing s (deadlineWord q i) = true) : dispatchWith s x i c = completeItem s x 0x20 := by
  simp only [dispatchWith, hq, hcount, if_true]

variable (hcount : counterMissing s (deadlineWord q i) = false)
include hcount

theorem dispatchWith_starts (hopen : ¬(c.state = .closing ∨ q.closing = true))
    (hrange : rangeFail s c (fld (iw i 1) 15 0) (fld (iw i 1) 31 16 + 1)
      (fun k => k == vcoreKind s c (fld (iw i 1) 15 0) && entryAligned k (iw i 2)) = none) :
    dispatchWith s x i c =
      beginKernels s x i c q (fld (iw i 1) 15 0) (fld (iw i 1) 31 16 + 1) (fun _ => iw i 2) (bit (iw i 1) 32) := by
  have passes : leastStatus [none, none] = none := rfl
  simp only [dispatchWith, hq, hcount, hrange, if_neg hopen, passes, Bool.false_eq_true, if_false]

theorem dispatchWith_rangeFails (hopen : ¬(c.state = .closing ∨ q.closing = true))
    (hrange : rangeFail s c (fld (iw i 1) 15 0) (fld (iw i 1) 31 16 + 1)
      (fun k => k == vcoreKind s c (fld (iw i 1) 15 0) && entryAligned k (iw i 2)) = some st) :
    dispatchWith s x i c = completeItem s x st := by
  have refused : leastStatus [some st, none] = some st := rfl
  simp only [dispatchWith, hq, hcount, hrange, if_neg hopen, refused, Bool.false_eq_true, if_false]

theorem dispatchWith_closing (hclosing : q.closing = true)
    (hrange : rangeFail s c (fld (iw i 1) 15 0) (fld (iw i 1) 31 16 + 1)
      (fun k => k == vcoreKind s c (fld (iw i 1) 15 0) && entryAligned k (iw i 2)) = none) :
    dispatchWith s x i c = completeItem s x 0x28 := by
  have refused : leastStatus [none, some 0x28] = some 0x28 := rfl
  have closing : c.state = .closing ∨ q.closing = true := .inr hclosing
  simp only [dispatchWith, hq, hcount, hrange, if_pos closing, refused, Bool.false_eq_true, if_false]

end Dispatch

/-- What an item's run-time state holds does not bear on the kinds of vcores. -/
theorem vcoreKind_setItem (x : ItemRef) (i : Item) : vcoreKind (setItem s x i) c = vcoreKind s c := by
  rw [setItem]
  split <;> rfl

theorem setItem_sched (x : ItemRef) (i : Item) : (setItem s x i).sched = s.sched := by
  rw [setItem]
  split <;> rfl

/-- The kernels of an item stand in line behind those that waited. -/
theorem beginKernels_waiting (first n : Nat) (entry : Nat → Dword) (idx : Bool) :
    (beginKernels s x i c q first n entry idx).sched.waiting = s.sched.waiting ++ (List.range n).map fun k =>
      { x := x, lc := itemLc q i, accepted := i.accepted, order := i.order
        deadline := if (deadlineWord q i).1 = 0 then none else some (i.accepted + 1000 * (deadlineWord q i).1)
        gid := c.gid, vcore := BitVec.ofNat 16 (first + k), entry := entry (vcoreKind s c (first + k)), args := kernelArgs i idx k } := by
  obtain ⟨u, hu⟩ : ∃ u, u = setItem s x { i with run := { i.run with active := true, kernels := n, normal := 0 } } := ⟨_, rfl⟩
  have kind : vcoreKind u c = vcoreKind s c := hu ▸ vcoreKind_setItem x _
  have sched : u.sched = s.sched := hu ▸ setItem_sched x _
  have waiting : u.sched.waiting = s.sched.waiting := by rw [sched]
  simp only [beginKernels, enqueueKernels, ← hu]
  split
  · rw [kind, sched]
  · refine (congrArg (· ++ _) waiting).trans (congrArg (s.sched.waiting ++ ·) (List.map_congr_left fun k _ => ?_))
    rw [← kind]
    rfl

section MixedStep
variable (h : itemReady s x 0x11 i c = true) (hq : getQueue s x.ctx x.qid = some q)
include h hq

theorem exec_mixedStep_missing (hcount : counterMissing s (deadlineWord q i) = true) :
    exec (.mixedStep x r) s = .next (settle (completeItem s x 0x20)) :=
  onItem_next h (by simp only [hq, hcount, Bool.true_or, if_true])

variable (hcount : counterMissing s (deadlineWord q i) = false)
include hcount

theorem exec_mixedStep_misaligned (hstage : stepStage i % 32 ≠ 0) :
    exec (.mixedStep x r) s = .next (settle (completeItem s x 0x20)) := by
  have misaligned : (stepStage i % 32 != 0) = true := bne_iff_ne.mpr hstage
  exact onItem_next h (by simp only [hq, hcount, misaligned, Bool.false_or, if_true])

variable (hopen : ¬(c.state = .closing ∨ q.closing = true)) (hstage : stepStage i % 32 = 0)
include hopen hstage

/-- A mixed step whose aligned table lies in memory goes on by the least status of its range and form. -/
theorem exec_mixedStep_status {m : Option Nat}
    (hm : m = leastStatus [rangeFail s c (fld (iw i 1) 15 0) (fld (iw i 1) 31 16 + 1) (stepEntryOk i), none,
      if stepBad s c i then some 0xA4 else none]) :
    (∀ k, m = some k → exec (.mixedStep x r) s = .next (settle (completeItem s x k))) ∧
    (m = none → exec (.mixedStep x r) s = .next (settle (withList s x c r (iw i 3) (8 * stepCount i) fun t ws =>
      if ws.any fun w => !onlyBits w 0x01FFFFFFFFFFFFFF then completeItem t x 0xA4
      else beginKernels (devWrite t c.part false (stepStage i) (stepTable i ws) false x.ctx.toNat) x i c q (fld (iw i 1) 15 0)
        (fld (iw i 1) 31 16 + 1) (stepEntry i) true))) := by
  have aligned : (counterMissing s (deadlineWord q i) || stepStage i % 32 != 0) = false := by
    rw [hcount, hstage]
    rfl
  refine ⟨fun k hk => onItem_next h ?_, fun hk => onItem_next h ?_⟩ <;>
    simp only [hq, aligned, if_neg hopen, ← hm, hk, Bool.false_eq_true, if_false]

theorem exec_mixedStep_rangeFails
    (hrange : rangeFail s c (fld (iw i 1) 15 0) (fld (iw i 1) 31 16 + 1) (stepEntryOk i) = some st) (hbad : stepBad s c i = false) :
    exec (.mixedStep x r) s = .next (settle (completeItem s x st)) := by
  refine (exec_mixedStep_status h hq hcount hopen hstage rfl).1 st ?_
  rw [hrange, hbad]
  rfl

variable (hrange : rangeFail s c (fld (iw i 1) 15 0) (fld (iw i 1) 31 16 + 1) (stepEntryOk i) = none)
include hrange

theorem exec_mixedStep_invalid (hbad : stepBad s c i = true) : exec (.mixedStep x r) s = .next (settle (completeItem s x 0xA4)) := by
  refine (exec_mixedStep_status h hq hcount hopen hstage rfl).1 0xA4 ?_
  rw [hrange, hbad]
  rfl

theorem exec_mixedStep (hbad : stepBad s c i = false) :
    exec (.mixedStep x r) s = .next (settle (withList s x c r (iw i 3) (8 * stepCount i) fun t ws =>
      if ws.any fun w => !onlyBits w 0x01FFFFFFFFFFFFFF then completeItem t x 0xA4
      else beginKernels (devWrite t c.part false (stepStage i) (stepTable i ws) false x.ctx.toNat) x i c q (fld (iw i 1) 15 0)
        (fld (iw i 1) 31 16 + 1) (stepEntry i) true)) := by
  refine (exec_mixedStep_status h hq hcount hopen hstage rfl).2 ?_
  rw [hrange, hbad]
  rfl

end MixedStep

/-- FALLBACK_SET of a queue and context that are open. -/
theorem exec_fallbackSet {f : List Dword} (h : itemReady s x 0x13 i c = true)
    (hq : getQueue s (BitVec.ofNat 16 (fld (iw i 1) 15 0)) (BitVec.ofNat 4 (fld (iw i 1) 19 16)) = some q)
    (hd : getCtx s (BitVec.ofNat 16 (fld (iw i 1) 15 0)) = some d) (hf : f = [iw i 1, iw i 2, iw i 3, iw i 4]) :
    exec (.fallbackSet x) s = .next (settle (
      if !bit (iw i 1) 20 then completeItem (setQueue s { q with fallback := [] }) x 0x00
      else if (rangeFail s d (fbFirst f) (fbCount f) (fbEntryOk f)).isSome then completeItem s x 0xA3
      else completeItem (setQueue s { q with fallback := f }) x 0x00)) := by
  subst hf
  exact onItem_next h (by simp only [hq, hd])

/-! ### Kernels start (R293) -/

section KernelStart
variable {y : Fin 320} {w : WaitKernel}

theorem startNextKernel_lc {p : Nat} {held : Bool} (hrun : mayRun s p held = true)
    (hw : firstOf lcBefore ((waitingAt s p).filter (·.lc)) = some w) : startNextKernel s p held = startKernel s p w := by
  simp only [startNextKernel, hrun, hw, Bool.not_true, Bool.false_eq_true, if_false]

theorem startNextKernel_be {p : Nat} {held : Bool} (hrun : mayRun s p held = true)
    (hnone : firstOf lcBefore ((waitingAt s p).filter (·.lc)) = none) (hsus : suspendedAt s p = none)
    (hpick : pickBe s p (waitingAt s p) = (t, some w)) : startNextKernel s p held = startKernel t p w := by
  simp only [startNextKernel, hrun, hnone, hsus, hpick, Bool.not_true, Option.isSome_none, Bool.false_eq_true, if_false]

theorem startNextKernel_suspended {p : Nat} {held : Bool} (hsus : (suspendedAt s p).isSome = true)
    (hnone : firstOf lcBefore ((waitingAt s p).filter (·.lc)) = none) : startNextKernel s p held = s := by
  simp only [startNextKernel, hnone, hsus, if_true, ite_self]

end KernelStart

/-- An M-core starts with the kernel's arguments in its registers. -/
theorem getM_startKernel {p : Nat} {w : WaitKernel} (hkind : slotKind p = 0) (hproc : procOf s p = none) :
    getM (startKernel s p w) p = { getM s p with g := argRegs w.args, job := .none, refused := false } := by
  simp only [startKernel, hkind]
  split
  next k hk =>
    have same : procOf s p = some k := hk
    rw [hproc] at same
    cases same
  · exact getM_setM _ p _

/-! ### Preemption (R294, R295) -/

/-- Without a free slot the BE kernel goes on. -/
theorem preemptDone_noSlot {p : Nat} {b : Bool} (hpoint : (getCore s p).point = .preempt) (hrun : (getCore s p).run = .atPoint b)
    (hslot : freePreSlot s (getBinding s p).part.toNat = none) :
    preemptDone s p = kickCore (setCore s p { getCore s p with
      run := .running, icache := [], held := none, point := nextPoint s p, forced := nextPoint s p != .none }) p := by
  have asked : (PointReq.preempt != PointReq.preempt) = false := rfl
  simp only [preemptDone, hpoint, hrun, hslot, asked, Bool.not_true, Bool.or_self, Bool.false_eq_true, if_false]

theorem beResume_resumes {p : Nat} {u : Suspended} (hu : suspendedAt s p = some u) (hrun : mayRun s p false = true) (hw : u.written = true)
    (hk : u.image.kernel = none) (hlc : (waitingAt s p).any (·.lc) = false) :
    beResume s p = endYield (resumeImage { s with sched := { s.sched with suspended := s.sched.suspended.erase u } } p u.image) := by
  simp only [beResume, hu, hk, hrun, hw, hlc, Bool.not_true, Bool.or_self, Bool.false_eq_true, if_false]

theorem beResume_lcWaits {p : Nat} (hlc : (waitingAt s p).any (·.lc) = true) : beResume s p = s := by
  rw [beResume]
  split
  · rfl
  · simp only [hlc, Bool.or_true, if_true]

/-! ### The deadline monitor (R300) -/

theorem monitorOne_judges {m : Monitor} (hq : getQueue s m.x.ctx m.x.qid = some q) (hi : getItem s m.x = some i) (hm : m.predicted = false) :
    monitorOne s m = if missPredicted s m q (m.kernels - i.run.kernels) then predictedMiss s m else s := by
  simp only [monitorOne, hq, hi, hm, Bool.not_false, Bool.true_and]

/-- Settles O32, one lemma a case. -/
theorem kernelsAreDispatched : Obligations.KernelsAreDispatched := by
  have isOpen {c : Context} {q : Queue} (h : (c.state = .closing ∨ q.closing) = false) : ¬(c.state = .closing ∨ q.closing = true) := by
    simpa using h
  exact ⟨⟨fun x i c q s hq hcount hopen hrange =>
        ⟨fun h => onItem_next h (dispatchWith_starts hq hcount (isOpen hopen) hrange),
          fun h => onItem_next h (dispatchWith_starts hq hcount (isOpen hopen) hrange)⟩,
      fun _ _ _ _ first n entry idx _ => beginKernels_waiting first n entry idx,
      fun _ _ _ _ _ hq hcount => ⟨fun h => onItem_next h (dispatchWith_missing hq hcount), fun _ h => exec_mixedStep_missing h hq hcount⟩,
      fun _ _ _ _ _ _ hq hcount hopen hrange =>
        ⟨fun h => onItem_next h (dispatchWith_rangeFails hq hcount (isOpen hopen) hrange),
          fun h => onItem_next h (dispatchWith_rangeFails hq hcount (isOpen hopen) hrange)⟩,
      fun _ _ _ _ _ h hq hcount hclosing hrange => onItem_next h (dispatchWith_closing hq hcount hclosing hrange),
      fun _ _ _ _ _ _ _ h hq hcount hopen hstage => exec_mixedStep_rangeFails h hq hcount (isOpen hopen) hstage,
      fun _ _ _ _ _ _ h hq hcount hopen => ⟨exec_mixedStep_misaligned h hq hcount,
        fun hstage hrange => ⟨exec_mixedStep_invalid h hq hcount (isOpen hopen) hstage hrange,
          exec_mixedStep h hq hcount (isOpen hopen) hstage hrange⟩⟩,
      fun _ _ _ _ _ _ _ h hq hd hf =>
        ⟨fun h0 => (exec_fallbackSet h hq hd hf).trans (next_congr (if_pos (by rw [h0]; rfl))),
          fun h1 hbad => (exec_fallbackSet h hq hd hf).trans (next_congr ((if_neg (by rw [h1]; exact Bool.false_ne_true)).trans (if_pos hbad))),
          fun h1 hok => (exec_fallbackSet h hq hd hf).trans (next_congr ((if_neg (by rw [h1]; exact Bool.false_ne_true)).trans
            (if_neg (Bool.eq_false_iff.mp hok))))⟩⟩,
    fun _ _ _ hrun hw => next_congr (startNextKernel_lc hrun hw),
    fun _ _ _ _ hrun hnone hsus hpick => next_congr (startNextKernel_be hrun hnone hsus hpick),
    fun _ _ hsus hnone => next_congr (startNextKernel_suspended hsus hnone),
    fun _ _ _ => getM_startKernel,
    fun _ _ _ hpoint hrun hslot => next_congr (preemptDone_noSlot hpoint hrun hslot),
    fun _ _ _ hu hrun hw hk hlc => next_congr (beResume_resumes hu hrun hw hk hlc),
    fun _ _ hlc => next_congr (beResume_lcWaits hlc),
    fun _ _ ht => by subst ht; rfl,
    fun _ _ _ _ hq hi hm => ⟨fun hmiss => (monitorOne_judges hq hi hm).trans (if_pos hmiss),
      fun hmiss => (monitorOne_judges hq hi hm).trans (if_neg (Bool.eq_false_iff.mp hmiss))⟩⟩

/-! ### Partitions and regulators (R302 to R309) -/

/-- The end of a guarantee window of a regulator that has one. -/
theorem exec_guaranteeWindowEnd {p : Fin 16} {k : Fin 3} {g : Regulator} (hg : g = getReg s p.val k.val) (hw : g.window ≠ 0) :
    exec (.guaranteeWindowEnd p k) s = .next (settle (setReg
      (if g.missLimit.toNat < g.misses then logEvent (irqEdge s (3 * p.val + k.val)) srcRtp 0x0D false
        (leBytes 1 p.val ++ leBytes 1 k.val ++ leBytes 4 g.misses ++ leBytes 4 g.lcIssued ++ leBytes 4 g.beIssued) else s) p.val k.val
      { g with misses := 0, demoted := 0, lcIssued := 0, beIssued := 0, lastMisses := g.misses, lastDemoted := g.demoted })) := by
  subst hg
  exact next_congr (if_neg hw)

/-- Settles O33: each body is its command's own, once the item's form checks have passed. -/
theorem partitionsAndRegulators : Obligations.PartitionsAndRegulators :=
  ⟨fun _ _ _ _ _ h => onItem_next h rfl,
    fun _ _ _ _ _ _ _ h hp ht hwin => ⟨fun hbad => by subst hp ht hwin; exact onItem_next h (if_pos hbad),
      fun hok => by subst hp ht hwin; exact onItem_next h (if_neg hok)⟩,
    fun _ _ _ _ h => onItem_next h rfl,
    fun _ _ _ _ hr => ⟨fun h0 => by subst hr; exact next_congr (if_pos h0),
      fun h0 hle => (exec_guaranteeWindowEnd hr h0).trans (by rw [if_neg (Nat.not_lt.mpr hle)]),
      fun h0 hlt => (exec_guaranteeWindowEnd hr h0).trans (by rw [if_pos hlt])⟩⟩

end Sys2Proof.Machine
end

section
/-!
PROOFS. The governor's loops, droop, filler, glove pace, items and the sleep of domains (R312 to R330): O34 and O35.
-/
namespace Sys2Proof.Machine

variable {s t u : State} {x : ItemRef} {i : Item} {c : Context} {p q : Packet} {g : Glove}

/-! ### The arithmetic of the loops -/

theorem nextFCap_over {f power cap : Nat} (h : cap < power) : nextFCap f power cap = min 63 (f + (256 * (power - cap) + cap) / (2 * cap)) :=
  if_pos h

theorem nextFCap_below {f power cap : Nat} (h : power ≤ cap) (h2 : cap < 50 * (cap - power)) : nextFCap f power cap = f - 1 :=
  (if_neg (Nat.not_lt.mpr h)).trans (if_pos h2)

theorem nextFCap_near {f power cap : Nat} (h : power ≤ cap) (h2 : 50 * (cap - power) ≤ cap) : nextFCap f power cap = f :=
  (if_neg (Nat.not_lt.mpr h)).trans (if_neg (Nat.not_lt.mpr h2))

theorem nextFCur_over {f m n : Nat} (h : 420 < m ∨ 560 < n) : nextFCur f m n = min 63 (f + 4) := if_pos h

theorem nextFCur_near {f m n : Nat} (hm : m ≤ 420) (hn : n ≤ 560) (h : 399 ≤ m ∨ 532 ≤ n) : nextFCur f m n = f :=
  (if_neg (by omega)).trans (if_neg (by omega))

theorem nextFCur_below {f m n : Nat} (hm : m < 399) (hn : n < 532) : nextFCur f m n = f - 1 :=
  (if_neg (by omega)).trans (if_pos (by omega))

section Thermal
variable {lim : Nat} {d : GovDie}

theorem thermalLoop_hot (h : lim ≤ d.tj) : (thermalLoop lim d).fTh = if d.hot = 9 then min 63 (d.fTh + 1) else d.fTh := by
  rw [thermalLoop, if_pos h]
  split <;> rfl

theorem thermalLoop_cool (h : d.tj + 3 < lim) : (thermalLoop lim d).fTh = if d.cool = 99 then d.fTh - 1 else d.fTh := by
  rw [thermalLoop, if_neg (by omega), if_pos h]
  split <;> rfl

theorem thermalLoop_between (h : d.tj < lim) (h2 : lim ≤ d.tj + 3) : thermalLoop lim d = { d with hot := 0, cool := 0 } := by
  rw [thermalLoop, if_neg (by omega), if_neg (by omega)]

end Thermal

/-! ### TARGETs and trips -/

theorem wantTarget_none {n : Nat} (h : (getGovPart s n).req = 0 ∨ tripped s n = true ∨ partRuns s n = false) : wantTarget s n = 0 := by
  refine if_pos ?_
  rw [Bool.not_eq_true']
  exact h

theorem wantTarget_running {n : Nat} (hreq : (getGovPart s n).req ≠ 0) (htrip : tripped s n = false) (hrun : partRuns s n = true) :
    wantTarget s n = max 80 (min (min (getGovPart s n).req (getGovPart s n).limit) (paceGlove s n)) := by
  refine if_neg ?_
  rw [htrip, hrun]
  exact fun h => h.elim hreq fun h => h.elim Bool.false_ne_true Bool.false_ne_true

theorem tripLoop_tripped {d : Nat} (sensor : Nat) (h : (getDie s d).trip = true) :
    tripLoop s d sensor = if (getDie s d).tj + 5 ≤ s.gov.tjThrottle then setDie s d { getDie s d with trip := false } else s :=
  if_pos h

/-! ### The slow loop (R315) and episodes -/

section SlowLoop
variable (ht : t = irqPrivate { s with cnt := { s.cnt with sample := s.cnt.live } } 48 6 true)
include ht

theorem exec_slowLoopTick_rtpDown (hdown : t.rtpDown = true) : exec .slowLoopTick s = .next (settle t) := by
  subst ht
  exact next_congr (if_pos hdown)

theorem exec_slowLoopTick {l : List (Nat × (GovPart × Bool))} (hup : t.rtpDown = false) (hl : l = (List.range 16).map fun p => (p, slowPart t p))
    (hu : u = l.foldl (fun s e => setGovPart s e.1 e.2.1) t) :
    exec .slowLoopTick s = .next (settle (govern (if l.any fun e => e.2.2 then { u with gov := { u.gov with fCap := 0 } } else u))) := by
  subst hu hl ht
  exact next_congr (if_neg (Bool.eq_false_iff.mp hup))

end SlowLoop

theorem slowPart_bubbles {n : Nat} (h : 50 ≤ (getGovPart s n).fRun) : slowPart s n = ({ getGovPart s n with
    limit := max 80 (targetOf s n * (64 - bubbleF s n) / 64), why := bubbleReason s n, raiseWait := 10 }, true) :=
  if_pos h

theorem exec_throttleRecordTimer {n : Nat} {e : Episode} (h : s.gov.episodes[n]? = some e) :
    exec (.throttleRecordTimer n) s = .next (settle { writeThrottle s e with gov := { (writeThrottle s e).gov with
      episodes := (writeThrottle s e).gov.episodes.set n (newEpisode (writeThrottle s e) e.part e.reason) } }) := by
  rw [exec, execThrottleRecordTimer]
  simp only [h]

/-! ### Droop (R323, R324) -/

theorem exec_droopEnd {d : Fin 4} (h : (getDie s d.val).droop ≠ 0) :
    exec (.droopEnd d) s = .next (settle (syncEpisodes (irqLevel
      (updDie s d.val fun x => { x with
        droop := 0
        settle := true
        mark := []
        seen := (List.range 16).foldl (fun t p =>
          Tbl.set 0 t p (Tbl.get 0 x.seen p + (counterValue s (counterId 4 p 1) - Tbl.get 0 x.mark p))) [] }) (276 + d.val) false))) :=
  next_congr (if_neg h)

theorem exec_droopSettleEnd {d : Fin 4} (hdroop : (getDie s d.val).droop = 0) (hsettle : (getDie s d.val).settle = true) :
    exec (.droopSettleEnd d) s = .next (settle (govern (setDie s d.val { getDie s d.val with settle := false }))) := by
  have steady : ¬((getDie s d.val).droop != 0 || !(getDie s d.val).settle) = true := by
    rw [hdroop, hsettle]
    decide
  exact next_congr (if_neg steady)

/-- A droop holds a change of TARGET. -/
theorem steerPart_held {n : Nat} (hd : droopHolds s n = true) (hchange : wantTarget s n ≠ targetOf s n) (hrun : wantTarget s n ≠ 0) :
    steerPart s n = updGovPart s n fun g => { g with held := some (wantTarget s n) } := by
  rw [steerPart]
  simp only [if_neg hchange, hrun, false_and, if_false, hd, if_true]

/-! ### Glove pace (R321) -/

section Pace
variable (h : received s p 0x0D = some (u, q)) (hc : msgCode q = 0x0E) (hg : getGlove u q.gid = some g)
include h hc hg

theorem exec_pace_report {g' : Glove} (hdir : msgField q 5 1 = 0) (hchild : (crownChildren g).contains q.src = true)
    (hg' : g' = { g with paces := Tbl.set 0 g.paces q.src.toNat (msgField q 4 1 + 1) }) :
    exec (.pace p) s = .next (settle (if g.rank = 0 then paceAnnounce (setGlove u g') g' else setGlove u g')) := by
  subst hg'
  refine onGloveMsg_next h hc hg ?_
  simp only [hdir, hchild, Bool.not_true, Bool.false_eq_true, if_false]

theorem exec_pace_announced (hdir : msgField q 5 1 = 1) (hrank : g.rank ≠ 0)
    (hround : (getGovPart u g.part.toNat).round.toNat < (BitVec.ofNat 32 (msgField q 0 4)).toNat) :
    exec (.pace p) s = .next (settle (govern (castMsg (setGovPart u g.part.toNat { getGovPart u g.part.toNat with
      glove := msgField q 4 1, round := BitVec.ofNat 32 (msgField q 0 4) }) g (crownChildren g) 0x0E
      (paceData (BitVec.ofNat 32 (msgField q 0 4)) (msgField q 4 1) 1)))) := by
  have later : ¬(g.rank = 0 ∨ (BitVec.ofNat 32 (msgField q 0 4)).toNat ≤ (getGovPart u g.part.toNat).round.toNat) :=
    not_or.mpr ⟨hrank, Nat.not_le.mpr hround⟩
  refine onGloveMsg_next h hc hg ?_
  simp only [hdir, if_neg later]

end Pace

theorem exec_paceReportTick_root {gid : BitVec 24} (hg : getGlove s gid = some g) (hrank : g.rank = 0) :
    exec (.paceReportTick gid) s = .next (settle (paceAnnounce s g)) := by
  rw [exec, execPaceReportTick]
  simp only [hg, if_pos hrank]

theorem exec_paceReportTick_child {gid : BitVec 24} {r : Nat} (hg : getGlove s gid = some g) (hrank : g.rank ≠ 0) (hr : parentRank g = some r) :
    exec (.paceReportTick gid) s = .next (settle (castMsg s g [memberNode g r] 0x0E
      (paceData (getGovPart s g.part.toNat).round (paceLowest s g) 0))) := by
  rw [exec, execPaceReportTick]
  simp only [hg, if_neg hrank, hr]

/-- Settles O34, one lemma a case. -/
theorem governorLoopsAndDroop : Obligations.GovernorLoopsAndDroop :=
  ⟨⟨fun _ _ _ _ _ ht hu hv => by subst hv hu ht; rfl,
      fun _ _ _ => ⟨nextFCap_over, nextFCap_below, nextFCap_near⟩,
      fun _ _ _ => ⟨nextFCur_over, fun hi hj h => nextFCur_near hi hj (.inl h), fun hi hj h => nextFCur_near hi hj (.inr h), nextFCur_below⟩,
      fun _ _ => ⟨thermalLoop_hot, thermalLoop_cool, thermalLoop_between⟩,
      fun _ _ => wantTarget_none,
      fun _ _ => wantTarget_running,
      fun _ sensor _ => tripLoop_tripped sensor,
      fun _ _ => exec_slowLoopTick_rtpDown,
      fun _ _ _ _ ht hup => exec_slowLoopTick ht hup,
      fun _ _ => slowPart_bubbles,
      fun _ _ _ => exec_throttleRecordTimer⟩,
    fun _ _ _ hd => by subst hd; rfl,
    fun _ _ => exec_droopEnd,
    fun _ _ => exec_droopSettleEnd,
    fun _ _ => steerPart_held,
    fun _ _ => rfl,
    fun _ _ _ _ _ _ h hc hg => exec_pace_report h hc hg,
    fun _ _ _ _ _ => exec_pace_announced,
    fun _ _ _ hg => ⟨exec_paceReportTick_root hg, fun _ => exec_paceReportTick_child hg⟩⟩

/-! ### Items (R330) -/

section PaceSet
variable {pace : Nat} (h : itemReady s x 0x18 i c = true) (hpace : pace = fld (iw i 1) 15 8)
include h hpace

theorem exec_paceSet_range (hbad : (1 ≤ pace ∧ pace < 80) ∨ 200 < pace) : exec (.paceSet x) s = .next (settle (completeItem s x 0xB0)) := by
  subst hpace
  exact onItem_next h (if_pos hbad)

theorem exec_paceSet (hok : pace = 0 ∨ (80 ≤ pace ∧ pace ≤ 200)) :
    exec (.paceSet x) s = .next (settle (completeItem (govern (updGovPart s (fld (iw i 1) 3 0) fun g => { g with req := pace })) x 0x00)) := by
  have inRange : ¬((1 ≤ pace ∧ pace < 80) ∨ 200 < pace) := by omega
  subst hpace
  exact onItem_next h (if_neg inRange)

end PaceSet

section CapSet
variable {cap tj : Nat} (h : itemReady s x 0x19 i c = true) (hcap : cap = fld (iw i 1) 10 0) (htj : tj = fld (iw i 1) 23 16)
include h hcap htj

theorem exec_capSet_range (hbad : cap < 500 ∨ 1600 < cap ∨ (tj ≠ 0 ∧ (tj < 80 ∨ 100 < tj))) :
    exec (.capSet x) s = .next (settle (completeItem s x 0xB1)) := by
  subst hcap htj
  exact onItem_next h (if_pos hbad)

/-- A cap in range is taken, and TJ where it is not 0. -/
theorem exec_capSet (hlo : 500 ≤ cap) (hhi : cap ≤ 1600) (hok : tj = 0 ∨ (80 ≤ tj ∧ tj ≤ 100)) :
    exec (.capSet x) s = .next (settle (completeItem
      { s with gov := { s.gov with cap := cap, tjThrottle := if tj = 0 then s.gov.tjThrottle else tj } } x 0x00)) := by
  have inRange : ¬(cap < 500 ∨ 1600 < cap ∨ (tj ≠ 0 ∧ (tj < 80 ∨ 100 < tj))) := by omega
  subst hcap htj
  exact onItem_next h (if_neg inRange)

end CapSet

/-! ### Domains go to sleep (R325 to R327) -/

section DomainSet
variable {w : Dword} {d st : Nat} {wake : BitVec 4} (h : itemReady s x 0x1A i c = true) (hw : w = iw i 1) (hd : d = fld w 5 0) (hst : st = fld w 9 8)
  (hwake : wake = BitVec.ofNat 4 (fld w 19 16)) (htimer : (bit wake 2 && (fld w 51 32 == 0 || decide (1000000 < fld w 51 32))) = false)
include h hw hd hst hwake htimer

/-- What DOMAIN_SET does once its timer is in range. -/
theorem exec_domainSet : exec (.domainSet x) s = .next (settle (
    if !domainAllows d st then completeItem s x 0xB2
    else if (getDomain s d).busy = 3 then s
    else if domainBusy s d st then completeItem s x 0xB3
    else if (getDomain s d).busy ≠ 0 then completeItem s x 0xB6
    else if st = 0 then
      if (getDomain s d).st = 0 then completeResult s x 0x00 (domainResult false 0)
      else startExit (setDomain (updRun s x fun r => { r with active := true }) d { getDomain s d with item := some x }) d
    else if wake &&& pendingSources s d != 0 then completeItem s x 0xB4
    else setDomain (updRun s x fun r => { r with active := true }) d
      { getDomain s d with busy := 1, goal := BitVec.ofNat 2 st, wake := wake, timer := BitVec.ofNat 20 (fld w 51 32), woke := false
                           item := some x })) := by
  subst hwake hst hd hw
  exact onItem_next h (if_neg (Bool.eq_false_iff.mp htimer))

theorem exec_domainSet_notAllowed (hallow : domainAllows d st = false) : exec (.domainSet x) s = .next (settle (completeItem s x 0xB2)) := by
  rw [exec_domainSet h hw hd hst hwake htimer, if_pos (by rw [hallow]; rfl)]

variable (hallow : domainAllows d st = true)
include hallow

theorem exec_domainSet_waits (hbusy : (getDomain s d).busy = 3) : exec (.domainSet x) s = .next (settle s) := by
  rw [exec_domainSet h hw hd hst hwake htimer, if_neg (by rw [hallow]; exact Bool.false_ne_true), if_pos hbusy]

theorem exec_domainSet_busy (hbusy : (getDomain s d).busy ≠ 3) (hused : domainBusy s d st = true) :
    exec (.domainSet x) s = .next (settle (completeItem s x 0xB3)) := by
  rw [exec_domainSet h hw hd hst hwake htimer, if_neg (by rw [hallow]; exact Bool.false_ne_true), if_neg hbusy, if_pos hused]

variable (hbusy : (getDomain s d).busy = 0) (hused : domainBusy s d st = false)
include hbusy hused

/-- What DOMAIN_SET does to an idle domain that is not in use. -/
theorem exec_domainSet_idle : exec (.domainSet x) s = .next (settle (
    if st = 0 then
      if (getDomain s d).st = 0 then completeResult s x 0x00 (domainResult false 0)
      else startExit (setDomain (updRun s x fun r => { r with active := true }) d { getDomain s d with item := some x }) d
    else if wake &&& pendingSources s d != 0 then completeItem s x 0xB4
    else setDomain (updRun s x fun r => { r with active := true }) d
      { getDomain s d with busy := 1, goal := BitVec.ofNat 2 st, wake := wake, timer := BitVec.ofNat 20 (fld w 51 32), woke := false
                           item := some x })) := by
  rw [exec_domainSet h hw hd hst hwake htimer, if_neg (by rw [hallow]; exact Bool.false_ne_true), if_neg (by rw [hbusy]; decide),
    if_neg (Bool.eq_false_iff.mp hused), if_neg (not_not_intro hbusy)]

theorem exec_domainSet_inRun (h0 : st = 0) (hrun : (getDomain s d).st = 0) :
    exec (.domainSet x) s = .next (settle (completeResult s x 0x00 (domainResult false 0))) := by
  rw [exec_domainSet_idle h hw hd hst hwake htimer hallow hbusy hused, if_pos h0, if_pos hrun]

theorem exec_domainSet_exits (h0 : st = 0) (hrun : (getDomain s d).st ≠ 0) :
    exec (.domainSet x) s = .next (settle (startExit
      (setDomain (updRun s x fun r => { r with active := true }) d { getDomain s d with item := some x }) d)) := by
  rw [exec_domainSet_idle h hw hd hst hwake htimer hallow hbusy hused, if_pos h0, if_neg hrun]

theorem exec_domainSet_pending (h0 : st ≠ 0) (hsrc : (wake &&& pendingSources s d) ≠ 0) :
    exec (.domainSet x) s = .next (settle (completeItem s x 0xB4)) := by
  rw [exec_domainSet_idle h hw hd hst hwake htimer hallow hbusy hused, if_neg h0, if_pos (bne_iff_ne.mpr hsrc)]

theorem exec_domainSet_enters (h0 : st ≠ 0) (hsrc : (wake &&& pendingSources s d) = 0) :
    exec (.domainSet x) s = .next (settle (setDomain (updRun s x fun r => { r with active := true }) d
      { getDomain s d with busy := 1, goal := BitVec.ofNat 2 st, wake := wake, timer := BitVec.ofNat 20 (fld w 51 32), woke := false
                           item := some x })) := by
  rw [exec_domainSet_idle h hw hd hst hwake htimer hallow hbusy hused, if_neg h0, if_neg (by rw [hsrc]; decide)]

end DomainSet

section EntryCommit
variable {d : BitVec 6}

theorem exec_domainEntryCommit_draining (hbusy : (getDomain s d.toNat).busy = 1) (hdrain : domainDrained s d.toNat = false) :
    exec (.domainEntryCommit d) s = .next (settle s) := by
  have one : (getDomain s d.toNat).busy.toNat = 1 := by rw [hbusy]; rfl
  rw [exec, execDomainEntryCommit]
  simp only [one, hdrain, Bool.not_false, if_true]

theorem exec_domainEntryCommit_granted (hbusy : (getDomain s d.toNat).busy = 1) (hdrain : domainDrained s d.toNat = true) :
    exec (.domainEntryCommit d) s = .next (settle (govern ((quadLinks d.toNat).foldl (fun s l => linkOff s l 9)
      (setDomain s d.toNat { getDomain s d.toNat with busy := 2, st := (getDomain s d.toNat).goal })))) := by
  have one : (getDomain s d.toNat).busy.toNat = 1 := by rw [hbusy]; rfl
  rw [exec, execDomainEntryCommit]
  simp only [one, hdrain, Bool.not_true, Bool.false_eq_true, if_false]

theorem exec_domainEntryCommit_completes {y : ItemRef} (hbusy : (getDomain s d.toNat).busy = 2) (hitem : (getDomain s d.toNat).item = some y)
    (hwoke : (getDomain s d.toNat).woke = false) :
    exec (.domainEntryCommit d) s = .next (settle (completeResult
      (setDomain (if (getDomain s d.toNat).st = 3 then loseDomain s d.toNat else s) d.toNat
        { getDomain s d.toNat with busy := 0, woke := false, item := none }) y 0x00 (domainResult false (getDomain s d.toNat).st.toNat))) := by
  have two : (getDomain s d.toNat).busy.toNat = 2 := by rw [hbusy]; rfl
  rw [exec, execDomainEntryCommit]
  simp only [two, hitem, hwoke, Bool.false_eq_true, if_false]

end EntryCommit

/-! ### Domains wake (R328, R329) -/

section ExitDone
variable {d : BitVec 6}

theorem exec_domainExitDone_idle (h : (getDomain s d.toNat).busy ≠ 3 ∨ (getDomain s d.toNat).wave = true) :
    exec (.domainExitDone d) s = .next (settle s) :=
  next_congr (if_pos h)

variable (hbusy : (getDomain s d.toNat).busy = 3) (hwave : (getDomain s d.toNat).wave = false)
include hbusy hwave

/-- An exit that is under way. -/
theorem domainExit_underWay : ¬((getDomain s d.toNat).busy ≠ 3 ∨ (getDomain s d.toNat).wave = true) :=
  not_or.mpr ⟨not_not_intro hbusy, Bool.eq_false_iff.mp hwave⟩

theorem exec_domainExitDone_item {y : ItemRef} (hitem : (getDomain s d.toNat).item = some y) :
    exec (.domainExitDone d) s = .next (settle (govern (resumeItems (completeResult
      ((quadLinks d.toNat).foldl linkOn (setDomain s d.toNat {})) y 0x00 (domainResult false 0))))) := by
  rw [exec, execDomainExitDone]
  simp only [if_neg (domainExit_underWay hbusy hwave), hitem]

theorem exec_domainExitDone (hitem : (getDomain s d.toNat).item = none) :
    exec (.domainExitDone d) s = .next (settle (govern (resumeItems ((quadLinks d.toNat).foldl linkOn (setDomain s d.toNat {}))))) := by
  rw [exec, execDomainExitDone]
  simp only [if_neg (domainExit_underWay hbusy hwave), hitem]

end ExitDone

/-- Settles O35, one lemma a case. -/
theorem governorItemsAndDomains : Obligations.GovernorItemsAndDomains :=
  ⟨⟨fun _ _ _ _ _ h hpace => ⟨exec_paceSet_range h hpace, exec_paceSet h hpace⟩,
      fun _ _ _ _ _ _ h hcap htj => ⟨exec_capSet_range h hcap htj,
        fun hlo hhi h0 => (exec_capSet h hcap htj hlo hhi (.inl h0)).trans (by rw [if_pos h0]),
        fun hlo hhi h80 h100 => (exec_capSet h hcap htj hlo hhi (.inr ⟨h80, h100⟩)).trans (by rw [if_neg (by omega)])⟩,
      fun _ _ _ _ h => ⟨fun h0 => onItem_next h (if_pos h0), fun h0 => onItem_next h (if_neg h0)⟩,
      fun _ _ _ _ h => ⟨fun ha => onItem_next h (if_pos ha), fun ha => onItem_next h (if_neg (not_not_intro ha))⟩,
      fun _ _ _ _ h => ⟨fun ha => onItem_next h (if_pos ha), fun ha => onItem_next h (if_neg (not_not_intro ha))⟩⟩,
    fun _ _ _ _ _ _ _ _ h hw hd hst hwake htimer => ⟨exec_domainSet_notAllowed h hw hd hst hwake htimer,
      exec_domainSet_waits h hw hd hst hwake htimer, exec_domainSet_busy h hw hd hst hwake htimer,
      exec_domainSet_inRun h hw hd hst hwake htimer, exec_domainSet_exits h hw hd hst hwake htimer,
      exec_domainSet_pending h hw hd hst hwake htimer, exec_domainSet_enters h hw hd hst hwake htimer⟩,
    fun _ _ hbusy => ⟨exec_domainEntryCommit_draining hbusy, exec_domainEntryCommit_granted hbusy⟩,
    fun _ _ _ => exec_domainEntryCommit_completes,
    fun _ _ _ => rfl,
    fun _ _ => rfl,
    fun _ _ _ hbusy hwave => exec_domainExitDone_item hbusy hwave,
    fun _ _ => exec_domainExitDone,
    fun _ _ => exec_domainExitDone_idle,
    fun _ => rfl⟩

end Sys2Proof.Machine
end

section
/-!
PROOFS. Errors, pairs, crossings and verdicts; watchdogs, resets and the manager's error items (R132, R152, R334 to R354): O36 and O37.
-/
namespace Sys2Proof.Machine

variable {s t u : State} {x : ItemRef} {i : Item} {c : Context} {e : Element} {d : Dword} {p q : Packet} {g : Glove}

/-! ### Errors by their source (R334) -/

section Detected
variable {src : BitVec 16}

/-- A source that is reserved, or that other events raise, is no error. -/
theorem exec_errorDetected_reserved (h : src = 0 ∨ 0x15 < src.toNat ∨ src = 0x12 ∨ src = 0x13) :
    exec (.errorDetected src e d) s = .next (settle s) := by
  refine next_congr (if_pos ?_)
  rcases h with rfl | h | rfl | rfl
  · exact .inl rfl
  · exact .inr (.inl h)
  · exact .inr (.inr (.inl rfl))
  · exact .inr (.inr (.inr rfl))

theorem exec_errorDetected_memory (h : src = 1 ∨ src = 2 ∨ src = 3 ∨ src = 4) :
    exec (.errorDetected src e d) s = .next (settle (memoryError s src.toNat e d false)) := by
  rcases h with rfl | rfl | rfl | rfl <;> rfl

theorem exec_errorDetected_lane {l : Fin 64} {k m : BitVec 2} (hm : m = logLane s l.val k) :
    exec (.errorDetected 0x05 (.lane l k) d) s = .next (settle
      (laneFault (updLink s l.val fun x => { x with ber := Tbl.set 0 x.ber m.toNat d.toNat }) l.val m true)) := by
  subst hm
  rfl

variable (h : ¬(src = 0 ∨ 0x15 < src.toNat ∨ src = 0x12 ∨ src = 0x13))
include h

/-- The sources of `exec_errorDetected_reserved` as numbers. -/
theorem errorSource_live : ¬(src.toNat = 0 ∨ 0x15 < src.toNat ∨ src.toNat = 0x12 ∨ src.toNat = 0x13) := by
  rintro (h0 | hbig | h12 | h13)
  · exact h (.inl (BitVec.eq_of_toNat_eq h0))
  · exact h (.inr (.inl hbig))
  · exact h (.inr (.inr (.inl (BitVec.eq_of_toNat_eq h12))))
  · exact h (.inr (.inr (.inr (BitVec.eq_of_toNat_eq h13))))

theorem exec_errorDetected_engine (hsev : sourceSeverity src.toNat = 2) :
    exec (.errorDetected src e d) s = .next (settle (engineDetected s src.toNat e d)) := by
  refine next_congr ((if_neg (errorSource_live h)).trans ?_)
  rw [hsev]
  rfl

theorem exec_errorDetected_partition (hsev : sourceSeverity src.toNat = 3) :
    exec (.errorDetected src e d) s = .next (settle (partitionError s src.toNat e d)) := by
  refine next_congr ((if_neg (errorSource_live h)).trans ?_)
  rw [hsev]
  rfl

theorem exec_errorDetected_package (hsev : sourceSeverity src.toNat = 4) :
    exec (.errorDetected src e d) s = .next (settle (packageError s src.toNat e d)) := by
  refine next_congr ((if_neg (errorSource_live h)).trans ?_)
  rw [hsev]
  rfl

end Detected

/-- A degraded pair runs nothing, and so stops at nothing. -/
theorem pairStop_degraded {n src : Nat} {y : Symptom} {inj : Bool} (hn : n < 16) (hok : bit s.fp.cpOk n = false) :
    pairStop s n src y d inj = s := by
  refine if_pos ?_
  rw [hok, decide_eq_true hn]
  rfl

/-! ### Crossings (R345) -/

section Crossing
variable {k : BitVec 2} {j : Byte}

theorem exec_crossingOverflow_none (h : (elemOfCode (BitVec.ofNat 32 (elemCode (.crossing k j)))).isSome = false) :
    exec (.crossingOverflow k j) s = .next (settle s) := by
  refine next_congr (if_pos (Option.isNone_iff_eq_none.mpr (Option.not_isSome_iff_eq_none.mp ?_)))
  rw [h]
  exact Bool.false_ne_true

variable (h : (elemOfCode (BitVec.ofNat 32 (elemCode (.crossing k j)))).isSome = true)
include h

theorem crossingOverflow_known : ¬(elemOfCode (BitVec.ofNat 32 (elemCode (.crossing k j)))).isNone = true := by
  rw [Option.isNone_iff_eq_none]
  exact Option.isSome_iff_ne_none.mp h

theorem exec_crossingOverflow_host (hk : k = 0) : exec (.crossingOverflow k j) s = .next (settle
    (hostIfReset (hostLoss (engineError s 0x0A (.crossing k j) 1 false) 1))) := by
  have known := crossingOverflow_known h
  subst hk
  exact next_congr (if_neg known)

theorem exec_crossingOverflow_link (hk : k = 1) : exec (.crossingOverflow k j) s = .next (settle
    (crcFail (engineError s 0x0A (.crossing k j) 1 false) j.toNat)) := by
  have known := crossingOverflow_known h
  subst hk
  exact next_congr (if_neg known)

theorem exec_crossingOverflow_other (h0 : k ≠ 0) (h1 : k ≠ 1) : exec (.crossingOverflow k j) s = .next (settle
    (engineError s 0x0A (.crossing k j) 1 false)) := by
  have known := crossingOverflow_known h
  obtain rfl | rfl : k = 2 ∨ k = 3 := by
    have small := k.isLt
    have nonzero : k.toNat ≠ 0 := fun hk => h0 (BitVec.eq_of_toNat_eq hk)
    have notOne : k.toNat ≠ 1 := fun hk => h1 (BitVec.eq_of_toNat_eq hk)
    have two : k.toNat = 2 ∨ k.toNat = 3 := by omega
    exact two.imp BitVec.eq_of_toNat_eq BitVec.eq_of_toNat_eq
  · exact next_congr (if_neg known)
  · exact next_congr (if_neg known)

end Crossing

/-! ### Verdicts (R338, R339) -/

theorem exec_selftestVerdict_none {pass : Bool} (h : (findElem s e).testing = false ∨ s.rtpDown = true) :
    exec (.selftestVerdict e pass) s = .next (settle s) := by
  refine next_congr (if_pos ?_)
  rcases h with h | h <;> rw [h]
  · rfl
  · exact Bool.or_true _

/-- What follows the act of a verdict `v`, when `n` changes waited for their commit before it: a CP pair runs again, the second record is
written, the items that waited complete; `pkg`: only the package level handles the verdict. -/
def verdictEnd (s : State) (y : ElemErr) (e : Element) (n v : Nat) (pkg : Bool) : State :=
  let s := match e with
    | .cp k => { s with err := { s.err with pairs := Tbl.set {} s.err.pairs k.val {} } }
    | _ => s
  let g := s.fp.generation
  let s := verdictRecord s y v (if n < s.fp.pending.length then g.toNat + n + 1 else g.toNat)
  let s := { s with fp := { s.fp with generation := g } }
  let s := y.items.foldl (fun s i => completeResult s i 0x00 (BitVec.ofNat 64 v)) s
  if pkg then packageError s 0x11 .none 0 else s

section Verdict
variable {ts : List Nat} {last : Bool} {y : ElemErr} {v : State × Bool}

/-- A verdict is noted at its element, acts, and ends the test. -/
theorem selftestVerdict_acts {pass : Bool} (hy : y = findElem s e) (htest : y.testing = true) (hup : s.rtpDown = false)
    (hts : ts = if pass && !y.injected && y.source != 0 then recentTransients s y ++ [s.refNs] else recentTransients s y)
    (hlast : last = (!pass || decide (3 ≤ ts.length)))
    (hu : u = setElem s { y with testing := false, count := 0, items := [], transients := if last then [] else ts,
                                 passed := if last then none else some s.refNs })
    (hv : v = if last then lasting { u with err := { u.err with lasting := u.err.lasting + 1 } } e
      else (transientAct { u with err := { u.err with transient := u.err.transient + 1 } } e, false)) :
    selftestVerdict s e pass = verdictEnd v.1 y e u.fp.pending.length (if last then 2 else 1) v.2 := by
  have runs : ¬(!y.testing || s.rtpDown) = true := by
    rw [htest, hup]
    exact Bool.false_ne_true
  subst hv hu hlast hts hy
  exact if_neg runs

/-- A requested test of no item, of an element that is no CP pair, ends without a record. -/
theorem verdictEnd_quiet {n k : Nat} {pkg : Bool} (hcp : ∀ k, e ≠ .cp k) (hsrc : y.source = 0) (hitems : y.items = []) :
    verdictEnd s y e n k pkg = if pkg then packageError { s with fp := { s.fp with generation := s.fp.generation } } 0x11 .none 0
      else { s with fp := { s.fp with generation := s.fp.generation } } := by
  cases e with
  | cp k => exact absurd rfl (hcp k)
  | _ => simp only [verdictEnd, verdictRecord, hsrc, hitems, if_true, List.foldl_nil]

/-- A requested test that no item waits for passes: its verdict is lasting only where three transients stand within 24 h. -/
theorem exec_selftestVerdict_pass (hy : y = findElem s e) (htest : y.testing = true) (hup : s.rtpDown = false) (hcp : ∀ k, e ≠ .cp k)
    (hsrc : y.source = 0) (hitems : y.items = []) (hts : ts = recentTransients s y) (hlast : last = decide (3 ≤ ts.length))
    (hu : u = setElem s { y with testing := false, count := 0, items := [], transients := if last then [] else ts,
                                 passed := if last then none else some s.refNs })
    (hv : v = if last then lasting { u with err := { u.err with lasting := u.err.lasting + 1 } } e
      else (transientAct { u with err := { u.err with transient := u.err.transient + 1 } } e, false)) :
    exec (.selftestVerdict e true) s = .next (settle
      (if v.2 then packageError { v.1 with fp := { v.1.fp with generation := v.1.fp.generation } } 0x11 .none 0
       else { v.1 with fp := { v.1.fp with generation := v.1.fp.generation } })) := by
  have requested : ¬(true && !y.injected && y.source != 0) = true := by
    rw [hsrc, bne_self_eq_false, Bool.and_false]
    exact Bool.false_ne_true
  exact next_congr ((selftestVerdict_acts hy htest hup (hts.trans (if_neg requested).symm) hlast hu hv).trans (verdictEnd_quiet hcp hsrc hitems))

end Verdict

/-! ### The reference (R419) -/

section Holdover
variable {hostDrops : Bool} {lost : Dword}

theorem exec_referenceHoldoverEnd_kept (hlost : s.refLost = true) (h : hostDrops = false ∨ s.host.l0 = false) :
    exec (.referenceHoldoverEnd hostDrops lost) s = .next (settle
      ((setBits lost).foldl (fun s n => if (getLink s n).inService then goDown s n 0x01 else s) s)) := by
  have kept : (hostDrops && s.host.l0) = false := by
    rcases h with h | h <;> simp [h]
  rw [exec, execReferenceHoldoverEnd]
  simp only [hlost, kept, Bool.not_true, Bool.false_eq_true, if_false]

theorem exec_referenceHoldoverEnd_drops (hlost : s.refLost = true) (hdrops : hostDrops = true) (hl0 : s.host.l0 = true) :
    exec (.referenceHoldoverEnd hostDrops lost) s = .next (settle
      ((setBits lost).foldl (fun s n => if (getLink s n).inService then goDown s n 0x01 else s)
        (hostLoss { s with host := { s.host with l0 := false, down := false } } 1))) := by
  rw [exec, execReferenceHoldoverEnd]
  simp only [hlost, hdrops, hl0, Bool.not_true, Bool.and_self, Bool.false_eq_true, if_false, if_true]

end Holdover

/-- Settles O36, one lemma a case. -/
theorem errorsAreHandled : Obligations.ErrorsAreHandled :=
  ⟨fun _ _ _ _ => ⟨exec_errorDetected_reserved, fun h => exec_errorDetected_memory (h.elim (.inr ∘ .inl) (.inr ∘ .inr ∘ .inr)),
      fun h => exec_errorDetected_memory (h.elim .inl (.inr ∘ .inr ∘ .inl))⟩,
    fun _ _ _ _ _ => exec_errorDetected_lane,
    fun _ _ _ _ h => ⟨exec_errorDetected_engine h, exec_errorDetected_partition h, exec_errorDetected_package h⟩,
    fun _ _ _ _ => rfl,
    fun _ _ _ => ⟨fun h => next_congr (if_pos h), fun h => next_congr (if_neg h)⟩,
    fun _ _ _ => rfl,
    fun _ _ _ _ _ _ => pairStop_degraded,
    fun _ _ _ h => ⟨exec_crossingOverflow_host h, exec_crossingOverflow_link h, exec_crossingOverflow_other h⟩,
    fun _ _ _ => exec_crossingOverflow_none,
    fun _ _ _ => exec_selftestVerdict_none,
    fun _ _ _ _ _ _ _ hy htest hup hcp hsrc hitems hts hlast => exec_selftestVerdict_pass hy htest hup hcp hsrc hitems hts hlast,
    fun _ _ _ => ⟨fun h => next_congr (if_pos (by rw [h]; rfl)), exec_referenceHoldoverEnd_kept, exec_referenceHoldoverEnd_drops⟩⟩

/-! ### Watchdogs (R346) -/

theorem exec_coreStall {y : Fin 320} {k : Core} {r : KernelRef} (hk : k = getCore s y.val) (hker : k.kernel = some r) (hrun : k.run = .running)
    (hwait : k.wait = .none) (hcuff : k.cuffed = false) (hidle : (getS s y.val).sidle = false)
    (htarget : (getMeter s (corePart s y.val)).target ≠ 0) :
    exec (.coreStall y) s = .next (settle (engineReset (reportError s 0x0B 2 (.core y) k.pc) (.core y) none 7 0x03)) := by
  subst hk
  have runs : ((getCore s y.val).run != .running) = false := by rw [hrun]; rfl
  have noWait : ((getCore s y.val).wait != .none) = false := by rw [hwait]; rfl
  have paced : ((getMeter s (corePart s y.val)).target == 0) = false := beq_eq_false_iff_ne.mpr htarget
  rw [exec, execCoreStall, coreStall]
  simp only [hker, Option.isNone_some, runs, noWait, hcuff, hidle, paced, Bool.or_self, Bool.false_eq_true, if_false]

theorem exec_coreStall_excused {y : Fin 320} (h : (getMeter s (corePart s y.val)).target = 0 ∨ (getCore s y.val).wait ≠ .none) :
    exec (.coreStall y) s = .next (settle s) := by
  refine next_congr (if_pos ?_)
  rcases h with h | h
  · rw [h]
    exact Bool.or_true _
  · rw [bne_iff_ne.mpr h]
    simp only [Bool.or_true, Bool.true_or]

section WaitTimeout
variable {y : Fin 320} {k : Core} {r : KernelRef} (hk : k = getCore s y.val) (hker : k.kernel = some r) (hrun : k.run = .running)
include hk hker hrun

theorem exec_waitTimeout (hwait : inWait s y.val = true) (hms : Tbl.get 0 s.err.waitMs r.x.ctx.toNat ≠ 0) :
    exec (.waitTimeout y) s = .next (settle (raise s
      { ctx := r.x.ctx, qid := r.x.qid, seq := r.x.seq, cls := 7, cause := 0x02, vcore := r.vcore, pcore := BitVec.ofNat 10 y.val, pc := k.pc })) := by
  subst hk
  have runs : ((getCore s y.val).run != .running) = false := by rw [hrun]; rfl
  rw [exec, execWaitTimeout, waitTimeout]
  simp only [hker, hms, runs, hwait, decide_false, Bool.not_true, Bool.or_self, Bool.false_eq_true, if_false]

theorem exec_waitTimeout_off (hms : Tbl.get 0 s.err.waitMs r.x.ctx.toNat = 0) : exec (.waitTimeout y) s = .next (settle s) := by
  subst hk
  rw [exec, execWaitTimeout, waitTimeout]
  simp only [hker, hms, decide_true, Bool.true_or, if_true]

end WaitTimeout

section ItemTimeout
variable (hi : getItem s x = some i)
include hi

theorem exec_itemTimeout (hstart : i.started = true) (hms : Tbl.get 0 s.err.itemMs (queueKey x.ctx x.qid) ≠ 0) :
    exec (.itemTimeout x) s = .next (settle (raise s { ctx := x.ctx, qid := x.qid, seq := x.seq, cls := 7, cause := 0x01 })) := by
  rw [exec, execItemTimeout, itemTimeout]
  simp only [hi, hstart, hms, decide_false, Bool.not_true, Bool.or_self, Bool.false_eq_true, if_false]

theorem exec_itemTimeout_off (hms : Tbl.get 0 s.err.itemMs (queueKey x.ctx x.qid) = 0) : exec (.itemTimeout x) s = .next (settle s) := by
  rw [exec, execItemTimeout, itemTimeout]
  simp only [hi, hms, decide_true, Bool.or_true, if_true]

end ItemTimeout

/-! ### The end of resets (R347) -/

/-- What a completed reset answers to the item that asked for it. -/
def resetAnswer (t : State) : Option ItemRef → State
  | some x => completeItem t x 0x00
  | none => t

section ResetComplete
variable {n : Nat} {r : Reset} (hr : s.err.resets[n]? = some r)
include hr

theorem exec_resetComplete_held (hheld : r.held = true) : exec (.resetComplete n) s = .next (settle s) := by
  rw [exec, execResetComplete, resetComplete]
  simp only [hr, hheld, Bool.true_or, if_true]

theorem exec_resetTimeout_held (hheld : r.held = true) : exec (.resetTimeout n) s = .next (settle s) := by
  rw [exec, execResetTimeout, resetTimeout]
  simp only [hr, hheld, if_true]

variable (hheld : r.held = false)
include hheld

theorem exec_resetComplete_engine (hlevel : r.level = 2) (hstuck : recordStuck s 0x01 4 (BitVec.ofNat 32 (elemCode r.target)) 4 = false)
    (ht : t = engineDone { s with err := { s.err with resets := s.err.resets.eraseIdx n } } r.target) :
    exec (.resetComplete n) s = .next (settle (resetAnswer t r.item)) := by
  have engine : ¬(2 : Nat) = 4 := by decide
  subst ht
  rw [exec, execResetComplete, resetComplete]
  simp only [hr, hheld, hlevel, hstuck, Bool.and_false, Bool.or_self, Bool.false_eq_true, if_false, if_true, if_neg engine]
  cases r.item <;> rfl

theorem exec_resetComplete_partition {cs : List Nat} (hlevel : r.level = 3)
    (ht : t = { s with err := { s.err with resets := s.err.resets.eraseIdx n } }) (hcs : cs = partCores t r.part.toNat) :
    exec (.resetComplete n) s = .next (settle (resetAnswer
      (cs.foldl (fun s p => refitFailing s p) (resetSync (cs.foldl coreReset t) (cs.map (· / 10)))) r.item)) := by
  have notEngine : ((3 : Nat) == 2) = false := rfl
  have two : ¬(3 : Nat) = 2 := by decide
  have four : ¬(3 : Nat) = 4 := by decide
  subst hcs ht
  rw [exec, execResetComplete, resetComplete]
  simp only [hr, hheld, hlevel, notEngine, Bool.false_and, Bool.or_self, Bool.false_eq_true, if_false, if_neg two, if_neg four]
  cases r.item <;> rfl

theorem exec_resetComplete_package (hlevel : r.level = 4) : exec (.resetComplete n) s = .next (settle (endPackage s)) := by
  have notEngine : ((4 : Nat) == 2) = false := rfl
  rw [exec, execResetComplete, resetComplete]
  simp only [hr, hheld, hlevel, notEngine, Bool.false_and, Bool.or_self, Bool.false_eq_true, if_false, if_true]

/-- A partition's reset that overruns: the next level. -/
theorem exec_resetTimeout_partition (hlevel : r.level = 3) (ht : t = { s with err := { s.err with resets := s.err.resets.eraseIdx n } })
    (hu : u = logError t 4 4 3 0x12 false r.target none ((findElem t r.target).count + 1) 3) :
    exec (.resetTimeout n) s = .next (settle (packageReset { u with err := { u.err with sev := Tbl.upd 0 u.err.sev 4 (· + 1) } } 0x12 r.target)) := by
  subst hu ht
  rw [exec, execResetTimeout, resetTimeout]
  simp only [hr, hheld, hlevel, Bool.false_eq_true, if_false]
  rfl

end ResetComplete

/-! ### Glove faults (R350, R351) -/

theorem exec_glovePeerSilence {gid : BitVec 24} {rank : BitVec 17} (hg : getGlove s gid = some g) (hnode : memberNode g rank.toNat ≠ 0x1FFFF)
    (hpeer : (parentRank g == some rank.toNat || (crownChildren g).contains (memberNode g rank.toNat)) = true)
    (ht : t = castMsg s g (otherMembers s g) 0x0F (leBytes 4 rank.toNat ++ leBytes 2 0x13 ++ leBytes 4 0)) :
    exec (.glovePeerSilence gid rank) s = .next (settle (faultGlove (gloveEvent (loseMember t g rank.toNat) g rank.toNat 0x13 0) g .none)) := by
  subst ht
  rw [exec, execGlovePeerSilence, gloveSilence]
  simp only [hg, hnode, hpeer, decide_false, Bool.not_true, Bool.or_self, Bool.false_eq_true, if_false]

/-- Another member's report of a fault; its loss where that is the fault. -/
theorem exec_gloveFault (h : received s p 0x0D = some (u, q)) (hc : msgCode q = 0x0F) (hg : getGlove u q.gid = some g) :
    exec (.gloveFault p) s = .next (settle (faultGlove
      (gloveEvent (if msgField q 4 2 = 0x13 then loseMember u g (msgField q 0 4) else u) g (msgField q 0 4) (msgField q 4 2) (msgField q 6 4)) g
      ((elemOfCode (BitVec.ofNat 32 (msgField q 6 4))).getD .none))) :=
  onGloveMsg_next h hc hg rfl

/-! ### The manager's items (R353, R354) -/

section Selftest
variable (h : itemReady s x 0x78 i c = true) (he : elemOfCode (BitVec.ofNat 32 (fld (iw i 1) 31 0)) = some e)
include h he

theorem exec_selftest_untestable (htest : testable e = false) : exec (.selftest x) s = .next (settle (completeItem s x 0x20)) :=
  onItem_next h (by simp only [he, htest, Bool.not_false, if_true])

variable (htest : testable e = true) (ht : t = updRun s x fun r => { r with active := true })
include htest ht

theorem exec_selftest_joins (hrun : (findElem s e).testing = true) :
    exec (.selftest x) s = .next (settle (setElem t { findElem s e with items := (findElem s e).items ++ [x] })) := by
  subst ht
  exact onItem_next h (by simp only [he, htest, hrun, Bool.not_true, Bool.false_eq_true, if_false, if_true])

theorem exec_selftest_begins (hrun : (findElem s e).testing = false) :
    exec (.selftest x) s = .next (settle (beginTest (setElem t
      { findElem s e with testing := true, source := 0, severity := 0, detail := 0, injected := false, items := [x] }) e)) := by
  subst ht
  exact onItem_next h (by simp only [he, htest, hrun, Bool.not_true, Bool.false_eq_true, if_false])

end Selftest

section ErrInject
variable (h : itemReady s x 0x79 i c = true) (he : elemOfCode (BitVec.ofNat 32 (fld (iw i 1) 31 0)) = some e)
include h he

theorem exec_errInject_none (hin : inject s e (fld (iw i 2) 2 0) = none) : exec (.errInject x) s = .next (settle (completeItem s x 0x20)) :=
  onItem_next h (by simp only [he, hin])

theorem exec_errInject (hin : inject s e (fld (iw i 2) 2 0) = some t) : exec (.errInject x) s = .next (settle (completeItem t x 0x00)) :=
  onItem_next h (by simp only [he, hin])

end ErrInject

section WatchdogSet
variable {id ms : BitVec 16} {qid : BitVec 4} (h : itemReady s x 0x7A i c = true) (hid : id = BitVec.ofNat 16 (fld (iw i 1) 15 0))
include h hid

theorem exec_watchdogSet_absent (hctx : (getCtx s id).isNone = true) : exec (.watchdogSet x) s = .next (settle (completeItem s x 0x20)) := by
  subst hid
  exact onItem_next h (by simp only [hctx, Bool.true_or, if_true])

variable (hms : ms = BitVec.ofNat 16 (fld (iw i 2) 47 32)) (hctx : (getCtx s id).isNone = false)
include hms hctx

theorem exec_watchdogSet_queue (hqid : qid = BitVec.ofNat 4 (fld (iw i 1) 19 16)) (hqueue : (getQueue s id qid).isNone = false)
    (hall : bit (iw i 1) 20 = false) : exec (.watchdogSet x) s = .next (settle (completeItem { s with err := { s.err with
      waitMs := Tbl.set 0 s.err.waitMs id.toNat (BitVec.ofNat 16 (fld (iw i 2) 15 0))
      itemMs := Tbl.set 0 s.err.itemMs (queueKey id qid) ms } } x 0x00)) := by
  subst hid hqid hms
  exact onItem_next h (by
    simp only [hctx, hqueue, hall, Bool.not_false, Bool.and_false, Bool.or_self, Bool.false_eq_true, if_false, List.foldl_cons, List.foldl_nil])

theorem exec_watchdogSet_all (hall : bit (iw i 1) 20 = true) :
    exec (.watchdogSet x) s = .next (settle (completeItem { s with err := { s.err with
      waitMs := Tbl.set 0 s.err.waitMs id.toNat (BitVec.ofNat 16 (fld (iw i 2) 15 0))
      itemMs := ((listOpt (fun q => q.ctx == id) s.queues).map fun q => queueKey q.ctx q.qid).foldl (fun t k => Tbl.set 0 t k ms) s.err.itemMs } }
      x 0x00)) := by
  subst hid hms
  exact onItem_next h (by simp only [hctx, hall, Bool.not_true, Bool.false_and, Bool.or_self, Bool.false_eq_true, if_false, if_true])

end WatchdogSet

section ResetReq
variable (h : itemReady s x 0x7B i c = true)
include h

theorem exec_resetReq_package (hlevel : fld (iw i 1) 2 0 = 4) : exec (.resetReq x) s = .next (settle (packageError s 0x11 .none 0)) :=
  onItem_next h (by simp only [hlevel])

theorem exec_resetReq_partition (hlevel : fld (iw i 1) 2 0 = 3) (hother : ¬(c.gid ≠ 0xFFFFFF ∧ c.part.toNat = fld (iw i 1) 63 32 % 16)) :
    exec (.resetReq x) s = .next (settle
      (partitionReset (updRun s x fun r => { r with active := true }) (fld (iw i 1) 63 32 % 16) 0x10 .none (some x))) :=
  onItem_next h (by simp only [hlevel]; exact if_neg hother)

theorem exec_resetReq_element (hlevel : fld (iw i 1) 2 0 = 2) (he : elemOfCode (BitVec.ofNat 32 (fld (iw i 1) 63 32)) = some e) :
    exec (.resetReq x) s = .next (settle (if isEngine e then requestEngine s x e else completeItem s x 0x20)) :=
  onItem_next h (by simp only [hlevel, he])

end ResetReq

section EdgeSet
variable (h : itemReady s x 0x7C i c = true)
include h

theorem exec_edgeSet_none (hlevel : fld (iw i 1) 1 0 = 0) : exec (.edgeSet x) s = .next (settle (completeItem s x 0x20)) :=
  onItem_next h (by simp only [hlevel])

theorem exec_edgeSet_context (hlevel : fld (iw i 1) 1 0 = 1) :
    exec (.edgeSet x) s = .next (settle (completeItem { s with err := { s.err with edgeContext := bit (iw i 1) 8 } } x 0x00)) :=
  onItem_next h (by simp only [hlevel])

theorem exec_edgeSet_engine (hlevel : fld (iw i 1) 1 0 = 2) :
    exec (.edgeSet x) s = .next (settle (completeItem { s with err := { s.err with edgeEngine := bit (iw i 1) 8 } } x 0x00)) :=
  onItem_next h (by simp only [hlevel])

theorem exec_edgeSet_partition (hlevel : fld (iw i 1) 1 0 = 3) :
    exec (.edgeSet x) s = .next (settle (completeItem { s with err := { s.err with edgePartition := bit (iw i 1) 8 } } x 0x00)) :=
  onItem_next h (by simp only [hlevel])

end EdgeSet

/-- Settles O37, one lemma a case. -/
theorem resetsWatchdogsAndErrorItems : Obligations.ResetsWatchdogsAndErrorItems :=
  ⟨⟨fun _ _ _ _ => exec_coreStall,
      fun _ _ => exec_coreStall_excused,
      fun _ _ _ _ hk hker hrun => ⟨exec_waitTimeout hk hker hrun, exec_waitTimeout_off hk hker hrun⟩,
      fun _ _ _ hi hstart => ⟨exec_itemTimeout hi hstart, exec_itemTimeout_off hi⟩,
      fun _ _ _ _ hr hheld hlevel hstuck ht =>
        ⟨fun hnone => (exec_resetComplete_engine hr hheld hlevel hstuck ht).trans (by rw [hnone]; rfl),
          fun _ hsome => (exec_resetComplete_engine hr hheld hlevel hstuck ht).trans (by rw [hsome]; rfl)⟩,
      fun _ _ _ _ _ hr hheld hlevel ht hcs =>
        ⟨fun hnone => (exec_resetComplete_partition hr hheld hlevel ht hcs).trans (by rw [hnone]; rfl),
          fun _ hsome => (exec_resetComplete_partition hr hheld hlevel ht hcs).trans (by rw [hsome]; rfl)⟩,
      fun _ _ _ => exec_resetComplete_package,
      fun _ _ _ _ _ => exec_resetTimeout_partition,
      fun _ _ _ hr hheld => ⟨exec_resetTimeout_held hr hheld, exec_resetComplete_held hr hheld⟩,
      fun _ _ _ _ _ => exec_glovePeerSilence,
      fun _ _ _ _ _ h hc hg => ⟨fun h13 => (exec_gloveFault h hc hg).trans (by rw [if_pos h13, h13]),
        fun h13 => (exec_gloveFault h hc hg).trans (by rw [if_neg h13])⟩⟩,
    fun _ _ _ _ _ _ h he => ⟨exec_selftest_untestable h he,
      fun htest ht => ⟨exec_selftest_joins h he htest ht, exec_selftest_begins h he htest ht⟩⟩,
    fun _ _ _ _ _ h he => ⟨exec_errInject_none h he, fun _ => exec_errInject h he⟩,
    fun _ _ _ _ _ _ _ h hid hqid hms => ⟨exec_watchdogSet_absent h hid, fun hctx => exec_watchdogSet_queue h hid hms hctx hqid,
      exec_watchdogSet_all h hid hms⟩,
    fun _ _ _ _ h => ⟨exec_resetReq_package h, exec_resetReq_partition h,
      fun _ hlevel he => ⟨fun hengine => (exec_resetReq_element h hlevel he).trans (next_congr (if_pos hengine)),
        fun hengine => (exec_resetReq_element h hlevel he).trans (next_congr (if_neg (Bool.eq_false_iff.mp hengine)))⟩⟩,
    fun _ _ _ _ h => ⟨exec_edgeSet_none h, exec_edgeSet_context h, exec_edgeSet_engine h, exec_edgeSet_partition h⟩,
    fun _ _ _ _ h => ⟨fun ha => onItem_next h (if_pos ha), fun ha => onItem_next h (if_neg (not_not_intro ha))⟩⟩

end Sys2Proof.Machine
end

section
/-!
PROOFS. Weight keys and job keys (R277, R361 to R364), measurements, images, SPDM and MCTP (R356 to R367, R423): O38 and O39.
-/
namespace Sys2Proof.Machine

variable {s t : State} {x : ItemRef} {r : Reply} {i : Item} {c : Context} {gid : BitVec 24} {slot : Nat}

/-! ### Weight keys -/

section WkeySet
variable (h : itemReady s x 0x58 i c = true)
include h

theorem exec_wkeySet_badForm (hn : fld (iw i 3) 15 0 ≠ 224) :
    exec (.wkeySet x r) s = .next (settle (completeItem s x 0xC1)) :=
  onItem_next h (if_pos hn)

theorem exec_wkeySet_occupied (hs : slot = fld (iw i 1) 5 0) (hn : fld (iw i 3) 15 0 = 224) (hk : (wkey s slot).isSome = true) :
    exec (.wkeySet x r) s = .next (settle (completeItem s x 0xC2)) := by
  subst hs
  exact onItem_next h ((if_neg (not_not_intro hn)).trans (if_pos hk))

theorem exec_wkeySet_free (hs : slot = fld (iw i 1) 5 0) (hn : fld (iw i 3) 15 0 = 224) (hk : (wkey s slot).isSome = false) :
    exec (.wkeySet x r) s = .next (settle
      (withList s x c r (iw i 2) 224 fun t ws => if blobBad ws then completeItem t x 0xC1
        else if fld (ws.getD 0 0) 15 8 = 2 then completeItem t x 0xC4
        else onEngine t fun t => match unwrapBlob t ws with
          | none => completeItem (secDone t) x 0xC0
          | some key => completeItem (secDone (setWkey t slot (some
            { part := BitVec.ofNat 4 (fld (iw i 1) 11 8), key := BitVec.ofNat 512 (leNat key) }))) x 0x00)) := by
  subst hs
  exact onItem_next h ((if_neg (not_not_intro hn)).trans (if_neg (Bool.eq_false_iff.mp hk)))

end WkeySet

/-- The security engine whose domain runs carries a request out at once. -/
theorem onEngine_of_runs {f : State → State} (h : domainRuns s 45 = true) : onEngine s f = f s := if_pos h

section WkeyClear
variable (h : itemReady s x 0x59 i c = true)
include h

theorem exec_wkeyClear_none (hw : (s.trust.wkeys.any fun e => bit (iw i 1) 8 || e.1 == fld (iw i 1) 5 0) = false) :
    exec (.wkeyClear x) s = .next (settle (completeItem s x 0x00)) :=
  onItem_next h (if_pos (by rw [hw]; rfl))

theorem exec_wkeyClear_hit (hw : (s.trust.wkeys.any fun e => bit (iw i 1) 8 || e.1 == fld (iw i 1) 5 0) = true)
    (hd : domainRuns s 45 = true) (ht : t = updRun s x (fun r => { r with active := true })) :
    exec (.wkeyClear x) s = .next (settle
      { t with trust := { t.trust with wkeys := t.trust.wkeys.map fun e => (e.1, match e.2 with
          | some k => if bit (iw i 1) 8 || e.1 == fld (iw i 1) 5 0 then
              some { k with clearing := true
                            users := if k.clearing then k.users else slotUsers t e.1
                            items := k.items ++ [x] } else some k
          | none => none) } }) := by
  subst ht
  exact onItem_next h ((if_neg (by rw [hw]; exact Bool.false_ne_true)).trans (onEngine_of_runs hd))

end WkeyClear

section SlotEmptied
variable {n : Fin 64} {k : WeightKey} (hk : wkey s n.val = some k)
include hk

theorem exec_wkeySlotEmptied_done (hc : k.clearing = true) (hu : (k.users.all fun x => (getItem s x).isNone) = true) :
    exec (.wkeySlotEmptied n) s = .next (settle (emptySlot s n.val)) := by
  refine next_congr ?_
  simp only [wkeySlotEmptied, hk, hc, hu, Bool.and_self, if_true]

theorem exec_wkeySlotEmptied_notClearing (hc : k.clearing = false) : exec (.wkeySlotEmptied n) s = .next (settle s) := by
  refine next_congr ?_
  simp only [wkeySlotEmptied, hk, hc, Bool.false_and, Bool.false_eq_true, if_false]

end SlotEmptied

/-! ### Job keys -/

section JobkeySet
variable (h : itemReady s x 0x54 i c = true) (hgid : gid = BitVec.ofNat 24 (fld (iw i 1) 23 0))
include h hgid

theorem exec_jobkeySet_noGlove (hg : (getGlove s gid).isNone = true) :
    exec (.jobkeySet x r) s = .next (settle (completeItem s x 0x85)) := by
  subst hgid
  exact onItem_next h (if_pos hg)

variable (hg : (getGlove s gid).isNone = false)
include hg

theorem exec_jobkeySet_activateAbsent (ha : bit (iw i 1) 25 = true) (hp : iw i 2 = 0)
    (hk : ((jobSlot s gid).key (bit (iw i 1) 24)).isNone = true) :
    exec (.jobkeySet x r) s = .next (settle (completeItem s x 0x86)) := by
  subst hgid
  exact onItem_next h ((if_neg (Bool.eq_false_iff.mp hg)).trans ((if_pos ⟨ha, hp⟩).trans (if_pos hk)))

theorem exec_jobkeySet_activate (ha : bit (iw i 1) 25 = true) (hp : iw i 2 = 0)
    (hk : ((jobSlot s gid).key (bit (iw i 1) 24)).isNone = false) :
    exec (.jobkeySet x r) s = .next (settle (completeItem
      (setJobSlot s { jobSlot s gid with active := bit (iw i 1) 24 }) x 0x00)) := by
  subst hgid
  exact onItem_next h ((if_neg (Bool.eq_false_iff.mp hg)).trans ((if_pos ⟨ha, hp⟩).trans (if_neg (Bool.eq_false_iff.mp hk))))

theorem exec_jobkeySet_load (ha : bit (iw i 1) 25 = false) (hn : fld (iw i 3) 15 0 = 224) :
    exec (.jobkeySet x r) s = .next (settle
      (withList s x c r (iw i 2) 224 fun t ws => if blobBad ws then completeItem t x 0xC1
        else if fld (ws.getD 0 0) 15 8 ≠ 2 ∨ fld (ws.getD 2 0) 23 0 ≠ gid.toNat then completeItem t x 0xC4
        else onEngine t fun t => match unwrapBlob t ws with
          | none => completeItem (secDone t) x 0xC0
          | some key => if (key.drop 32).any (· != 0) then completeItem (secDone t) x 0xC1
            else if 256 ≤ (t.incarnation - BitVec.ofNat 32 (fld (ws.getD 3 0) 31 0)).toNat then completeItem (secDone t) x 0xC6
            else completeItem (secDone (setJobSlot t { jobSlot t gid with
              key0 := if bit (iw i 1) 24 then (jobSlot t gid).key0 else some (BitVec.ofNat 256 (leNat (key.take 32)))
              key1 := if bit (iw i 1) 24 then some (BitVec.ofNat 256 (leNat (key.take 32))) else (jobSlot t gid).key1
              require := bit (iw i 1) 26 })) x 0x00)) := by
  subst hgid
  refine onItem_next h ((if_neg (Bool.eq_false_iff.mp hg)).trans ?_)
  rw [ha]
  exact (if_neg fun e => Bool.false_ne_true e.1).trans (if_neg (not_not_intro hn))

end JobkeySet

section JobkeyClear
variable (h : itemReady s x 0x55 i c = true) (hgid : gid = BitVec.ofNat 24 (fld (iw i 1) 23 0))
include h hgid

theorem exec_jobkeyClear_noGlove (hg : (getGlove s gid).isNone = true) :
    exec (.jobkeyClear x) s = .next (settle (completeItem s x 0x85)) := by
  subst hgid
  exact onItem_next h (if_pos hg)

variable (hg : (getGlove s gid).isNone = false)
include hg

theorem exec_jobkeyClear_both (hb : bit (iw i 1) 25 = true) :
    exec (.jobkeyClear x) s = .next (settle (completeItem
      (secDone { s with fab := { s.fab with keys := s.fab.keys.filter fun j => !(j.gid == gid) } }) x 0x00)) := by
  subst hgid
  exact onItem_next h ((if_neg (Bool.eq_false_iff.mp hg)).trans (if_pos hb))

theorem exec_jobkeyClear_otherAbsent (hb : bit (iw i 1) 25 = false) (ha : bit (iw i 1) 24 = (jobSlot s gid).active)
    (hk : ((jobSlot s gid).key (!bit (iw i 1) 24)).isNone = true) :
    exec (.jobkeyClear x) s = .next (settle (completeItem s x 0x86)) := by
  subst hgid
  exact onItem_next h ((if_neg (Bool.eq_false_iff.mp hg)).trans ((if_neg (Bool.eq_false_iff.mp hb)).trans (if_pos ⟨ha, hk⟩)))

end JobkeyClear

/-- Settles O38: each item by the checks that it passes, in their order; the security engine acts at once where its domain runs. -/
theorem keysAreLoadedAndCleared : Obligations.KeysAreLoadedAndCleared :=
  ⟨fun _ _ _ _ _ _ h hs => ⟨exec_wkeySet_badForm h, exec_wkeySet_occupied h hs, exec_wkeySet_free h hs⟩,
   fun _ _ => onEngine_of_runs,
   fun _ _ _ _ _ h => ⟨exec_wkeyClear_none h, exec_wkeyClear_hit h⟩,
   fun _ _ _ hk => ⟨exec_wkeySlotEmptied_done hk, exec_wkeySlotEmptied_notClearing hk⟩,
   fun _ _ _ _ _ _ h hg =>
    ⟨exec_jobkeySet_noGlove h hg,
     fun hs ha hp => ⟨exec_jobkeySet_activateAbsent h hg hs ha hp, exec_jobkeySet_activate h hg hs ha hp⟩,
     exec_jobkeySet_load h hg⟩,
   fun _ _ _ _ _ h hg =>
    ⟨exec_jobkeyClear_noGlove h hg, exec_jobkeyClear_both h hg, exec_jobkeyClear_otherAbsent h hg⟩⟩

/-! ### Measurements and images -/

theorem exec_measRead_misaligned (h : itemReady s x 0x5A i c = true) (ha : (iw i 1).toNat % 8 ≠ 0) :
    exec (.measRead x) s = .next (settle (completeItem s x 0x20)) :=
  onItem_next h (if_pos ha)

theorem exec_measRead_written (h : itemReady s x 0x5A i c = true) (ha : (iw i 1).toNat % 8 = 0) :
    exec (.measRead x) s = .next (settle (writeRecord s x c (iw i 1) (measBytes s) 0)) :=
  onItem_next h (if_neg (not_not_intro ha))

theorem exec_imageStage (h : itemReady s x 0x5B i c = true) :
    exec (.imageStage x r) s = .next (settle (withList s x c r (iw i 1) (iw i 2).toNat fun t ws =>
      match Config.imageBank ((dwordBytes ws).take (iw i 2).toNat) with
      | none => completeItem t x 0xC5
      | some (svn, commit, digests) => if svn < t.life.flash.svnFloor then completeItem t x 0xC5
        else completeItem { t with life := { t.life with flash := { t.life.flash with
          bankA := if t.life.flash.bootedB then some { svn := svn, commitSvn := commit, digests := digests } else t.life.flash.bankA
          bankB := if t.life.flash.bootedB then t.life.flash.bankB
                   else some { svn := svn, commitSvn := commit, digests := digests } } } } x 0x00)) :=
  onItem_next h rfl

/-! ### The SPDM responder -/

section Spdm
variable {tr : Transport} {req : Nat} {msg : List Byte} {ok : Bool} {f g : State → List Byte → State}

section Serve
variable (ht : t = (if s.life.powered then irqPrivate s 48 5 true else s))
include ht

theorem spdmServe_silent (hr : rtpServes t = false) : spdmServe s tr req msg ok f = t := by
  subst ht
  exact if_pos (by rw [hr]; rfl)

theorem spdmServe_refused (hr : rtpServes t = true) (hok : ok = false) :
    spdmServe s tr req msg ok f = emit t (.spdm tr (Config.spdmRefusal req msg)) := by
  subst ht hok
  exact (if_neg (by rw [hr]; exact Bool.false_ne_true)).trans (if_pos rfl)

theorem spdmServe_answered (hr : rtpServes t = true) (hok : ok = true) :
    spdmServe s tr req msg ok f =
      emit (if (Config.spdmAnswer req msg (spdmConn t tr).vca t.trust.meas (healthBlock t)).2 = true
          then f t (Config.spdmAnswer req msg (spdmConn t tr).vca t.trust.meas (healthBlock t)).1 else t)
        (.spdm tr (Config.spdmAnswer req msg (spdmConn t tr).vca t.trust.meas (healthBlock t)).1) := by
  subst ht hok
  exact (if_neg (by rw [hr]; exact Bool.false_ne_true)).trans (if_neg Bool.false_ne_true)

end Serve

/-- A refused request does not reach what it would have done. -/
theorem spdmServe_false_congr : spdmServe s tr req msg false f = spdmServe s tr req msg false g := rfl

/-- A request that only needs the negotiated algorithms is served once they are negotiated. -/
theorem spdmAsk_negotiated (h : (spdmConn s tr).stage = 3) : spdmAsk s tr req msg = spdmServe s tr req msg true fun t _ => t := by
  rw [spdmAsk, decide_eq_true h]

theorem exec_keyExchange_room (h : (spdmConn s tr).stage = 3) (hn : s.trust.sessions.length < 4) :
    exec (.keyExchange tr msg) s = .next (settle (spdmServe s tr 7 msg true fun t _ =>
      { t with free := t.free + 1, trust := { t.trust with sessions := t.trust.sessions ++
        [{ id := BitVec.ofNat 32 (leNat ((msg.drop 4).take 2) + (Config.sessionId t.free).toNat * 2 ^ 16), tr := tr }] } })) := by
  rw [exec, execKeyExchange, decide_eq_true h, decide_eq_true hn, Bool.and_self]

theorem exec_keyExchange_full (h : 4 ≤ s.trust.sessions.length) :
    exec (.keyExchange tr msg) s = .next (settle (spdmServe s tr 7 msg false fun t _ => t)) := by
  rw [exec, execKeyExchange, decide_eq_false (Nat.not_lt.mpr h), Bool.and_false]
  exact next_congr spdmServe_false_congr

theorem exec_keyExchange_early (h : (spdmConn s tr).stage ≠ 3) :
    exec (.keyExchange tr msg) s = .next (settle (spdmServe s tr 7 msg false fun t _ => t)) := by
  rw [exec, execKeyExchange, decide_eq_false h, Bool.false_and]
  exact next_congr spdmServe_false_congr

/-- A request of a session in the phase that it asks for. -/
theorem inSession_found {up : Bool} {k : SpdmSession} {f : SpdmSession → Option SpdmSession} (h : sessionOf s tr msg = some k)
    (hu : k.up = up) :
    inSession s tr req up msg f = spdmServe s tr req msg true fun t _ =>
      { t with trust := { t.trust with sessions := t.trust.sessions.filterMap fun j => if j == k then f j else some j } } := by
  rw [inSession]
  simp only [h, hu, beq_self_eq_true]

theorem inSession_none {up : Bool} {f : SpdmSession → Option SpdmSession} (h : sessionOf s tr msg = none) :
    inSession s tr req up msg f = spdmServe s tr req msg false fun t _ => t := by
  rw [inSession]
  simp only [h]

/-! ### MCTP control -/

theorem exec_mctpControl_set {op eid b : Byte} (hr : rtpServes s = true) (hop : op = 0 ∨ op = 1) (hlo : 8 ≤ eid.toNat) (hhi : eid ≠ 0xFF) :
    exec (.mctpControl [b, 1, op, eid]) s = .next (settle (emit { s with trust := { s.trust with eid := eid } }
      (.mctp (Config.mctpAnswer [b, 1, op, eid] eid)))) := by
  have hset : (op.toNat % 4 < 2 && decide (8 ≤ eid.toNat) && eid != 0xFF) = true := by
    rw [bne_iff_ne.mpr hhi, decide_eq_true hlo]
    rcases hop with rfl | rfl <;> rfl
  refine next_congr ((if_neg (by rw [hr]; exact Bool.false_ne_true)).trans ?_)
  exact congrArg (fun b : Bool => emit (if b then { s with trust := { s.trust with eid := eid } } else s)
    (.mctp (Config.mctpAnswer [_, 1, op, eid] (if b then { s with trust := { s.trust with eid := eid } } else s).trust.eid))) hset

theorem exec_mctpControl_other (hr : rtpServes s = true) (h : msg.getD 1 0 ≠ 1) :
    exec (.mctpControl msg) s = .next (settle (emit s (.mctp (Config.mctpAnswer msg s.trust.eid)))) := by
  refine next_congr ((if_neg (by rw [hr]; exact Bool.false_ne_true)).trans ?_)
  simp only [beq_eq_false_iff_ne.mpr h, Bool.false_and, Bool.false_eq_true, if_false]

end Spdm

/-- Settles O39: the items by their checks; every SPDM request through `spdmServe`, by the stage of its transport or its session. -/
theorem measurementsAndSessions : Obligations.MeasurementsAndSessions :=
  ⟨fun _ _ _ _ h => ⟨exec_measRead_misaligned h, exec_measRead_written h⟩,
   fun _ _ _ _ _ => exec_imageStage,
   fun _ _ _ _ _ _ _ ht => ⟨spdmServe_silent ht, spdmServe_refused ht, spdmServe_answered ht⟩,
   fun _ _ _ => ⟨rfl, rfl, rfl⟩,
   fun _ _ _ h =>
    ⟨next_congr (spdmAsk_negotiated h), next_congr (spdmAsk_negotiated h), next_congr (spdmAsk_negotiated h),
     next_congr (spdmAsk_negotiated h), exec_keyExchange_room h, exec_keyExchange_full⟩,
   fun _ _ _ _ h =>
    ⟨fun hu => next_congr (inSession_found h hu), fun hu => next_congr (inSession_found h hu),
     fun hu => next_congr (inSession_found h hu), fun hu => next_congr (inSession_found h hu)⟩,
   fun _ _ _ _ => exec_mctpControl_set,
   fun _ _ => exec_mctpControl_other,
   fun _ _ _ h =>
    ⟨next_congr (inSession_none h), next_congr (inSession_none h), next_congr (inSession_none h), next_congr (inSession_none h)⟩,
   fun _ _ _ => exec_keyExchange_early⟩

end Sys2Proof.Machine
end

section
/-!
PROOFS. Interrupts (R384 to R390), counters, snapshots and the event log (R366, R391 to R400): O40 and O41.
-/
namespace Sys2Proof.Machine

variable {s t u v : State} {x : ItemRef} {r : Reply} {i : Item} {c : Context}

/-! ### Interrupts are committed and claimed -/

section Commit
variable {q : Fin 49}

theorem exec_interruptCommit_closed (h : accepts s q.val = false) : exec (.interruptCommit q) s = .next (settle s) :=
  next_congr (if_pos (by rw [h]; rfl))

variable (ha : accepts s q.val = true) (hb : (bestOf (candidates s q.val)).isNone = false)
include ha hb

theorem interruptCommit_open : ¬(!accepts s q.val || (bestOf (candidates s q.val)).isNone) = true := by
  rw [ha, hb]
  exact Bool.false_ne_true

theorem exec_interruptCommit_core {k : Nat} (hq : q.val < 32) (hk : Tbl.get 0 s.procCore q.val = k + 1)
    (hc : clusterTicks s (pidCluster k) = true) (hl : loadsOut s k = false) :
    exec (.interruptCommit q) s = .next (settle (takeInterrupt s k q.val)) := by
  refine next_congr ((if_neg (interruptCommit_open ha hb)).trans ((if_pos hq).trans ?_))
  simp only [hk, hc, hl, Bool.not_false, Bool.and_self, if_true]

/-- The request line of a processor that is no S-core is raised unless its firmware is stopped. -/
theorem exec_interruptCommit_line (hq : 32 ≤ q.val)
    (hr : ¬((q.val = 48 ∧ s.rtpDown = true) ∨ (q.val < 48 ∧ pairStopped s (q.val - 32) = true))) :
    exec (.interruptCommit q) s = .next (settle (setProc s q.val { getProc s q.val with committed := true })) :=
  next_congr ((if_neg (interruptCommit_open ha hb)).trans ((if_neg (Nat.not_lt.mpr hq)).trans (if_neg hr)))

theorem exec_interruptCommit_cp (hq : 32 ≤ q.val) (hq' : q.val < 48) (hp : pairStopped s (q.val - 32) = false) :
    exec (.interruptCommit q) s = .next (settle (setProc s q.val { getProc s q.val with committed := true })) :=
  exec_interruptCommit_line ha hb hq (by
    rintro (⟨h48, -⟩ | ⟨-, hs⟩)
    · omega
    · exact Bool.false_ne_true (hp.symm.trans hs))

theorem exec_interruptCommit_rtp (hq : q.val = 48) (hr : s.rtpDown = false) :
    exec (.interruptCommit q) s = .next (settle (setProc s q.val { getProc s q.val with committed := true })) :=
  exec_interruptCommit_line ha hb (by omega) (by
    rintro (⟨-, hd⟩ | ⟨hlt, -⟩)
    · exact Bool.false_ne_true (hr.symm.trans hd)
    · omega)

end Commit

theorem exec_eicClaim_accepted {q : Fin 49} {n : BitVec 16} (ha : accepts s q.val = true) (hc : claimAt s q.val = (n, t))
    (hu : u = setProc t q.val { getProc t q.val with committed := false }) :
    exec (.eicClaim q) s = .next (settle { u with lastRead := n.setWidth 32 }) := by
  have hr : (if accepts s q.val then claimAt s q.val else (0, s)) = (n, t) := by rw [if_pos ha, hc]
  rw [exec_eicClaim hr, claimed, hu]

/-! ### EIC_SOFT and INTR_CFG -/

section Soft
variable {d : Word}

theorem softWrite_private (hs : fld d 10 0 < 4) (hq : fld d 16 11 < 49) : softWrite s d = irqPrivate s (fld d 16 11) (fld d 10 0) true :=
  (if_pos hs).trans (if_pos hq)

theorem softWrite_edge (h1 : 576 ≤ fld d 10 0) (h2 : fld d 10 0 ≤ 1087) : softWrite s d = irqEdge s (fld d 10 0 - 64) :=
  (if_neg (by omega)).trans (if_pos ⟨h1, h2⟩)

theorem softWrite_other (h1 : 4 ≤ fld d 10 0) (h2 : fld d 10 0 < 576 ∨ 1087 < fld d 10 0) : softWrite s d = s :=
  (if_neg (by omega)).trans (if_neg (by omega))

/-- A write of the manager to EIC_SOFT while its block is not frozen. -/
theorem exec_eicSoft_manager (hf : frozenBlock s 3 = false) (h : softWrite s d = t) : exec (.eicSoft .manager d) s = .next (settle t) :=
  next_congr ((if_neg (Bool.eq_false_iff.mp hf)).trans h)

end Soft

section IntrCfg
variable {n : Nat} (h : itemReady s x 0x74 i c = true) (hn : n = fld (iw i 1) 9 0)
include h hn

theorem exec_intrCfg_refused (hb : (284 ≤ n ∧ n < 512) ∨ 48 < fld (iw i 1) 29 24 ∨ (n < 512 ∧ bit (iw i 1) 32 ≠ levelWired n)) :
    exec (.intrCfg x) s = .next (settle (completeItem s x 0xE3)) := by
  subst hn
  exact onItem_next h (if_pos hb)

theorem exec_intrCfg_shared (h5 : 512 ≤ n) (ht : fld (iw i 1) 29 24 ≤ 48) :
    exec (.intrCfg x) s = .next (settle (completeItem (setIrq s n { getIrq s n with
      prio := BitVec.ofNat 4 (fld (iw i 1) 19 16)
      target := BitVec.ofNat 6 (fld (iw i 1) 29 24)
      level := decide (512 ≤ n) && bit (iw i 1) 32
      mask := bit (iw i 1) 33 }) x 0x00)) := by
  subst hn
  refine onItem_next h (if_neg ?_)
  rintro (⟨-, hlt⟩ | hlt | ⟨hlt, -⟩) <;> omega

theorem exec_intrCfg_wired (h2 : n < 284) (ht : fld (iw i 1) 29 24 ≤ 48) (hw : bit (iw i 1) 32 = levelWired n) :
    exec (.intrCfg x) s = .next (settle (completeItem (setIrq s n { getIrq s n with
      prio := BitVec.ofNat 4 (fld (iw i 1) 19 16)
      target := BitVec.ofNat 6 (fld (iw i 1) 29 24)
      level := false
      mask := bit (iw i 1) 33 }) x 0x00)) := by
  subst hn
  refine onItem_next h ((if_neg ?_).trans ?_)
  · rintro (⟨hge, -⟩ | hlt | ⟨-, hne⟩)
    · omega
    · omega
    · exact hne hw
  · rw [decide_eq_false (by omega : ¬512 ≤ fld (iw i 1) 9 0), Bool.false_and]

end IntrCfg

/-! ### MSI-X -/

section Unmask
variable {vec : BitVec 11} (ht : t = { s with cfg := { s.cfg with
  msix := Tbl.set 0 s.cfg.msix (4 * vec.toNat + 3) (msixDword s (4 * vec.toNat + 3) ||| 1) } })
include ht

theorem exec_msixVectorUnmask_idle (hp : (Tbl.get false t.cfg.pba vec.toNat && !t.host.lost) = false) :
    exec (.msixVectorUnmask vec) s = .next (settle t) := by
  subst ht
  exact next_congr (if_neg (Bool.eq_false_iff.mp hp))

theorem exec_msixVectorUnmask_sent (hp : Tbl.get false t.cfg.pba vec.toNat = true) (hl : t.host.lost = false) :
    exec (.msixVectorUnmask vec) s = .next (settle (sendMsix
      { t with cfg := { t.cfg with pba := Tbl.set false t.cfg.pba vec.toNat false } } vec)) := by
  have hw : (Tbl.get false t.cfg.pba vec.toNat && !t.host.lost) = true := by rw [hp, hl]; rfl
  subst ht
  exact next_congr (if_pos hw)

end Unmask

/-- Settles O40: each command by the branch of its definition that the hypotheses select. -/
theorem interruptsAreDelivered : Obligations.InterruptsAreDelivered :=
  ⟨fun _ _ ha hb =>
    ⟨fun _ => exec_interruptCommit_core ha hb, exec_interruptCommit_cp ha hb, exec_interruptCommit_rtp ha hb⟩,
   fun _ _ => exec_interruptCommit_closed,
   fun _ _ _ _ _ => exec_eicClaim_accepted,
   fun _ _ _ => rfl,
   fun _ _ => rfl,
   fun _ _ hf =>
    ⟨fun hs hq => exec_eicSoft_manager hf (softWrite_private hs hq),
     fun h1 h2 => exec_eicSoft_manager hf (softWrite_edge h1 h2),
     fun h1 h2 => exec_eicSoft_manager hf (softWrite_other h1 (.inl h2)),
     fun h2 => exec_eicSoft_manager hf (softWrite_other (by omega) (.inr h2))⟩,
   fun _ _ _ _ _ h hn => ⟨exec_intrCfg_refused h hn, exec_intrCfg_shared h hn, exec_intrCfg_wired h hn⟩,
   fun _ _ _ ht =>
    ⟨fun hp => exec_msixVectorUnmask_idle ht (by rw [hp, Bool.false_and]),
     fun hl => exec_msixVectorUnmask_idle ht (by rw [hl, Bool.not_true, Bool.and_false]),
     exec_msixVectorUnmask_sent ht⟩⟩

/-! ### Counters -/

section CounterRead
variable (h : itemReady s x 0x72 i c = true)
include h

theorem exec_counterRead_badCount (hn : fld (iw i 1) 12 0 = 0 ∨ 4096 < fld (iw i 1) 12 0) :
    exec (.counterRead x r) s = .next (settle (completeItem s x 0x20)) :=
  onItem_next h (if_pos hn)

theorem exec_counterRead_list (h1 : 1 ≤ fld (iw i 1) 12 0) (h2 : fld (iw i 1) 12 0 ≤ 4096) :
    exec (.counterRead x r) s = .next (settle
      (withList s x c r (iw i 2) (4 * fld (iw i 1) 12 0) fun t ws =>
        let ids := idList ws (fld (iw i 1) 12 0)
        if !c.manager && ids.any fun id => !tenantMay c id then completeItem t x 0x40
        else
          let got := ids.filterMap (fun id => liveId t c id)
          if got.length ≠ fld (iw i 1) 12 0 then completeItem t x 0xE2
          else writeRecord t x c (iw i 3) (dwordBytes (got.map fun id =>
            if c.manager then counterValue t id else coarse c (Tbl.get 0 t.cnt.sample id))) 0)) :=
  onItem_next h (if_neg (by omega))

end CounterRead

/-! ### Snapshots -/

section SnapTake
variable {e : Word} (h : itemReady s x 0x70 i c = true) (he : e = BitVec.ofNat 32 (fld (iw i 1) 31 0))
include h he

theorem exec_snapTake_old (hle : e.toNat ≤ s.cnt.epoch.toNat) : exec (.snapTake x) s = .next (settle (completeItem s x 0xE0)) := by
  subst he
  exact onItem_next h (if_pos hle)

variable (hlt : s.cnt.epoch.toNat < e.toNat)
  (ht : t = { s with cnt := { s.cnt with epoch := e, markers := s.cnt.markers ++ [(e, s.node)] } })
include hlt ht

theorem exec_snapTake_flood (hb : bit (iw i 1) 32 = true) :
    exec (.snapTake x) s = .next (settle (completeItem (floodSnapshot t e s.node) x 0x00)) := by
  subst he ht
  exact onItem_next h ((if_neg (Nat.not_le.mpr hlt)).trans (congrArg (completeItem · x 0x00) (if_pos hb)))

theorem exec_snapTake_here (hb : bit (iw i 1) 32 = false) :
    exec (.snapTake x) s = .next (settle (completeItem t x 0x00)) := by
  subst he ht
  exact onItem_next h ((if_neg (Nat.not_le.mpr hlt)).trans (congrArg (completeItem · x 0x00) (if_neg (Bool.eq_false_iff.mp hb))))

end SnapTake

section Snapshot
variable {p q : Packet} {e : Word} {o : BitVec 17} (h : received s p 0x0D = some (u, q)) (hc : msgCode q = 0x0D)
  (he : e = BitVec.ofNat 32 (msgField q 0 4)) (ho : o = BitVec.ofNat 17 (msgField q 4 4))
include h hc he

theorem exec_snapshot_old (hle : e.toNat ≤ u.cnt.epoch.toNat) : exec (.snapshot p) s = .next (settle u) := by
  subst he
  exact onMsg_next h hc (if_pos hle)

include ho in
theorem exec_snapshot_new (hlt : u.cnt.epoch.toNat < e.toNat) :
    exec (.snapshot p) s = .next (settle (floodSnapshot (inject_ u e o) e o)) := by
  subst he ho
  exact onMsg_next h hc (if_neg (Nat.not_le.mpr hlt))

end Snapshot

section Marker
variable {n : Nat} {e : Word}

theorem exec_snapshotMarker_nothing (h : (s.cnt.markers.find? fun m => m.1 == e) = none ∨ unitCount ≤ n ∨ e.toNat ≤ unitLast s n) :
    exec (.snapshotMarker n e) s = .next (settle s) := by
  refine next_congr ?_
  unfold snapshotMarker
  split
  · rfl
  · next m hm =>
    refine if_pos (h.resolve_left ?_)
    rw [hm]
    exact Option.some_ne_none m

theorem exec_snapshotMarker_latch {m : Word × BitVec 17} (hm : (s.cnt.markers.find? fun m => m.1 == e) = some m) (hn : n < unitCount)
    (hlt : unitLast s n < e.toNat) (heven : e.toNat % 2 = 0)
    (ht : t = { s with cnt := { s.cnt with
      shadow0 := latchTable s n s.cnt.shadow0, bound0 := latchBinding s n s.cnt.bound0, bank0 := Tbl.set 0 s.cnt.bank0 n e } })
    (hsome : ((List.range unitCount).all fun v => decide (e.toNat ≤ unitLast t v)) = false) :
    exec (.snapshotMarker n e) s = .next (settle t) := by
  subst ht
  refine next_congr ?_
  unfold snapshotMarker
  simp only [hm]
  rw [if_neg (by omega : ¬(unitCount ≤ n ∨ e.toNat ≤ unitLast s n)), if_pos heven]
  exact if_neg (Bool.eq_false_iff.mp hsome)

end Marker

section SnapRead
variable {e : Word} (h : itemReady s x 0x71 i c = true) (he : e = BitVec.ofNat 32 (fld (iw i 1) 31 0))
include h he

theorem exec_snapRead_held (hm : (s.cnt.markers.any fun m => m.1 == e) = false ∨
    ((List.range unitCount).all fun u => decide (e.toNat ≤ unitLast s u)) = true) :
    exec (.snapRead x r) s = .next (settle (withIds s x c r (fld (iw i 1) 44 32) (iw i 2)
      (fun t id => shadowId t c (decide (e.toNat % 2 = 0)) id) fun t ids =>
        if ids.any fun id => Tbl.get 0 (if decide (e.toNat % 2 = 0) then t.cnt.bank0 else t.cnt.bank1) (unitOf t id) != e then
          completeItem t x 0xE1
        else writeRecord t x c (iw i 3) (dwordBytes (ids.map fun id =>
          coarse c (Tbl.get 0 (if decide (e.toNat % 2 = 0) then t.cnt.shadow0 else t.cnt.shadow1) id))) (e.setWidth 64))) := by
  have hgo : ((s.cnt.markers.any fun m => m.1 == e) && (List.range unitCount).any fun u => decide (unitLast s u < e.toNat)) = false := by
    rcases hm with hm | hm
    · rw [hm, Bool.false_and]
    · rw [Bool.and_eq_false_iff]
      refine .inr (List.any_eq_false.mpr fun u hu => ?_)
      have hu := of_decide_eq_true (List.all_eq_true.mp hm u hu)
      simpa using hu
  subst he
  exact onItem_next h (if_neg (Bool.eq_false_iff.mp hgo))

theorem exec_snapRead_waits (hm : (s.cnt.markers.any fun m => m.1 == e) = true)
    (hu : ((List.range unitCount).any fun u => decide (unitLast s u < e.toNat)) = true) :
    exec (.snapRead x r) s = .next (settle s) := by
  subst he
  exact onItem_next h (if_pos (by rw [hm, hu]; rfl))

end SnapRead

/-! ### The event log -/

section Log
variable {g : LogRec} {l : List LogRec}

/-- Where nothing is stuck, the oldest record that waits is the next one. -/
theorem nextRec_free {held : List (BitVec 16)} : nextRec false held (g :: l) = some (g, l) := rfl

theorem storeRec_room (h : s.log.store.length < 8192) : storeRec s g = { s with log := { s.log with store := s.log.store ++ [g] } } :=
  if_pos h

theorem exec_logRecordStore_room (hr : s.rtpDown = false) (hh : s.log.held = []) (hw : s.log.waiting = g :: l)
    (hlen : s.log.store.length < 8192) :
    exec .logRecordStore s = .next (settle (reportGone
      { s with log := { s.log with waiting := l, store := s.log.store ++ [g] } })) := by
  have hstuck : decide (8192 ≤ s.log.store.length) = false := decide_eq_false (Nat.not_le.mpr hlen)
  refine next_congr ((if_neg (by rw [hr]; exact Bool.false_ne_true)).trans ?_)
  simp only [hstuck, Bool.false_and, hh, hw, nextRec_free, ne_eq, not_true_eq_false, if_false]
  exact congrArg reportGone (storeRec_room hlen)

theorem exec_logRecordStore_down (hr : s.rtpDown = true) (hlen : s.log.held.length < 512) (hw : s.log.waiting = g :: l) :
    exec .logRecordStore s = .next (settle { s with log := { s.log with waiting := l, held := s.log.held ++ [g] } }) := by
  have hfull : decide (512 ≤ s.log.held.length) = false := decide_eq_false (Nat.not_le.mpr hlen)
  refine next_congr ((if_pos hr).trans ?_)
  simp only [hfull, hw, nextRec_free, Bool.false_eq_true, if_false]

theorem storeRec_displaces {k : Nat} (hlen : 8192 ≤ s.log.store.length) (hk : findIdx? (fun q => !q.retained) s.log.store 0 = some k) :
    storeRec s g = discardRec { s with log := { s.log with store := s.log.store.eraseIdx k ++ [g] } } (s.log.store.getD k {}) := by
  refine (if_neg (Nat.not_lt.mpr hlen)).trans ?_
  simp only [hk]

end Log

section LogCfg
variable (h : itemReady s x 0x73 i c = true)
include h

theorem exec_logCfg_refused (hb : 10 < fld (iw i 1) 3 0 ∨ (iw i 2).toNat % 4096 ≠ 0) :
    exec (.logCfg x) s = .next (settle (completeItem s x 0xE4)) :=
  onItem_next h (if_pos hb)

theorem exec_logCfg_set (hn : fld (iw i 1) 3 0 ≤ 10) (ha : (iw i 2).toNat % 4096 = 0) :
    exec (.logCfg x) s = .next (settle (completeItem { s with log := { s.log with
      ringLog := BitVec.ofNat 4 (fld (iw i 1) 3 0), msix := BitVec.ofNat 11 (fld (iw i 1) 26 16), base := iw i 2, widx := 0 } } x 0x00)) :=
  onItem_next h (if_neg (by omega))

end LogCfg

section Deliver

theorem exec_logRecordDeliver_empty (h : s.log.store = []) : exec .logRecordDeliver s = .next (settle (logMsix s)) := by
  refine next_congr (congrArg logMsix ?_)
  unfold logRecordDeliver
  rw [h]
  split
  · next he => cases he
  · rfl

variable {g : LogRec} {l : List LogRec} {ridx a : Dword}

theorem exec_logRecordDeliver_written (hc : getCtx s 0 = some c) (hs : s.log.store = g :: l) (hr : s.rtpDown = false)
    (hbase : s.log.base ≠ 0) (hf : c.faulted = false) (hrun : c.state = .running) (hp : (s.posts.any fun p => p.1 == 0) = false)
    (hi : ringRidx s c s.log.base = (t, ridx)) (hfull : ringFull t.log.widx (2 ^ (6 + s.log.ringLog.toNat)) ridx = false)
    (ha : a = t.log.base + BitVec.ofNat 64 (0x40 + 64 * (t.log.widx % 2 ^ (6 + s.log.ringLog.toNat))))
    (hw : tryWrite t c a g.bytes = .done u) (hv : v = ringWrite u 0 u.log.base (leBytes 8 (u.log.widx + 1)) false) :
    exec .logRecordDeliver s = .next (settle (logMsix { v with log := { v.log with
      store := l
      widx := u.log.widx + 1
      owed := v.log.owed || g.retained || decide (
        3 * 2 ^ (6 + s.log.ringLog.toNat) < 4 * (BitVec.ofNat 64 (u.log.widx + 1) - ridx).toNat ∧
        4 * ((BitVec.ofNat 64 (u.log.widx + 1) - ridx).toNat - 1) ≤ 3 * 2 ^ (6 + s.log.ringLog.toNat)) } })) := by
  subst ha hv
  have hgo : ¬(s.rtpDown || s.log.base == 0 || c.faulted || c.state != .running || s.posts.any fun p => p.1 == 0) = true := by
    rw [hr, beq_eq_false_iff_ne.mpr hbase, hf, hrun, hp]
    decide
  refine next_congr (congrArg logMsix ?_)
  unfold logRecordDeliver
  simp only [hc, hs]
  rw [if_neg hgo, hi]
  refine (if_neg (Bool.eq_false_iff.mp hfull)).trans ?_
  rw [hw]

end Deliver

/-- Settles O41: each clause by the branch of its definition that the hypotheses select. -/
theorem countersAndTheLog : Obligations.CountersAndTheLog :=
  ⟨fun _ _ _ _ _ h => ⟨exec_counterRead_badCount h, exec_counterRead_list h⟩,
   fun _ _ _ _ _ _ h he =>
    ⟨exec_snapTake_old h he, fun hlt ht => ⟨exec_snapTake_flood h he hlt ht, exec_snapTake_here h he hlt ht⟩⟩,
   fun _ _ _ _ _ _ h hc he ho => ⟨exec_snapshot_old h hc he, exec_snapshot_new h hc he ho⟩,
   fun _ _ _ => exec_snapshotMarker_nothing,
   fun _ _ _ _ _ => exec_snapshotMarker_latch,
   fun _ _ _ _ _ _ => exec_snapRead_held,
   fun _ _ _ _ _ _ => exec_snapRead_waits,
   fun _ _ _ => exec_logRecordStore_room,
   fun _ _ _ => exec_logRecordStore_down,
   fun _ _ _ => storeRec_displaces,
   fun _ _ _ _ h => ⟨exec_logCfg_refused h, exec_logCfg_set h⟩,
   fun _ _ _ _ _ _ _ _ _ => exec_logRecordDeliver_written,
   fun _ => exec_logRecordDeliver_empty⟩

end Sys2Proof.Machine
end

section
/-!
PROOFS. The register interface, reads with effects and the tray port (R26, R35, R368, R402 to R411, R418, R422): O42.
-/
namespace Sys2Proof.Machine

variable {s t : State} {v : View} {a : BitVec 24} {g : Reg} {d : Word} {block : Nat}

/-! ### The indirect pairs (R405) -/

theorem indData_open {w : Option Word} {inc : Bool} (h : frozenBlock s 0 = false) : indData s v w inc = indAccess s v w inc :=
  if_neg (by rw [h, Bool.and_false]; exact Bool.false_ne_true)

theorem indData_frozen {inc : Bool} (h : frozenBlock s 0 = true) : indData s v (some d) inc = s := if_pos h

section Access
variable (ha : a = (viewPair s v).addr) (hg : g = regAt (fld a 18 16) (a.setWidth 16))
include ha hg

section Runs
variable (hr : regRuns s g = true) (ho : ownPair g = false)
include hr ho

theorem indAccess_read : indAccess s v none false = readReg s v g := by
  subst ha hg
  exact (if_neg (by rw [hr]; exact Bool.false_ne_true)).trans (if_neg (Bool.eq_false_iff.mp ho))

theorem indAccess_write (hm : hostMay g = true ∨ v = .manager) : indAccess s v (some d) false = writeReg s v (fld a 18 16) g d := by
  have hmay : ¬(v = .host ∧ (!hostMay g) = true) := by
    rintro ⟨rfl, hn⟩
    rcases hm with hm | hm
    · rw [hm] at hn
      exact Bool.false_ne_true hn
    · cases hm
  subst ha hg
  exact (if_neg (by rw [hr]; exact Bool.false_ne_true)).trans ((if_neg hmay).trans (if_neg (Bool.eq_false_iff.mp ho)))

omit ho in
theorem indAccess_denied (hv : v = .host) (hm : hostMay g = false) :
    indAccess s v (some d) false = setPair (ignoreHostWrite s) v { viewPair (ignoreHostWrite s) v with denied := true } := by
  have hmay : v = .host ∧ (!hostMay g) = true := ⟨hv, by rw [hm]; rfl⟩
  subst ha hg
  exact (if_neg (by rw [hr]; exact Bool.false_ne_true)).trans (if_pos hmay)

end Runs

variable (hr : regRuns s g = false)
include hr

theorem indAccess_write_off : indAccess s v (some d) false = setPair s v { viewPair s v with off := true } := by
  subst ha hg
  exact if_pos (by rw [hr]; rfl)

theorem indAccess_read_off :
    indAccess s v none false = setPair { s with lastRead := 0 } v { viewPair s v with off := true } := by
  subst ha hg
  refine (if_pos (by rw [hr]; rfl)).trans ?_
  cases v <;> rfl

end Access

theorem exec_indAccessTimeout : exec (.indAccessTimeout v) s =
    .next (settle (setPair { s with lastRead := 0xFFFFFFFF } v { viewPair s v with timeout := true })) := by
  cases v <;> rfl

theorem exec_hiuIndStatusRead_whole : exec (.hiuIndStatusRead v true) s =
    .next (settle (setPair { s with lastRead := regValue s v (.hiu 7) } v
      { viewPair s v with timeout := false, denied := false, off := false })) := by
  cases v <;> rfl

/-! ### Frozen blocks and parity (R409, R410) -/

theorem exec_unfreeze_lifts (h : bit d 15 = true) : exec (.unfreeze .manager d) s = .next (settle
    { s with regs := { s.regs with frozen := setBit s.regs.frozen (fld d 14 12) false } }) :=
  next_congr (if_pos h)

theorem exec_unfreeze_nothing (h : bit d 15 = false) : exec (.unfreeze .manager d) s = .next (settle s) :=
  next_congr (if_neg (Bool.eq_false_iff.mp h))

section Parity
variable {blk : BitVec 3} {off : BitVec 16} (hg : g = regAt blk.toNat off)
include hg

theorem exec_parityCheck_unchecked (hp : hasParity g = false) : exec (.parityCheck blk off) s = .next (settle s) := by
  subst hg
  exact next_congr (if_pos (by rw [hp]; rfl))

theorem exec_parityCheck_freezes (ht : t = resetReg s g) (hp : hasParity g = true) (hr : regRuns s g = true) :
    exec (.parityCheck blk off) s = .next (settle (reportError (irqEdge
        { t with regs := { t.regs with frozen := setBit t.regs.frozen blk.toNat true, cfgBlock := blk
                                       cfgOffset := BitVec.ofNat 14 (regOff g / 4) } } 282) 0x0E 2 .none
        (BitVec.ofNat 64 (blk.toNat * 2 ^ 16 + regOff g)))) := by
  subst ht hg
  exact next_congr (if_neg (by rw [hp, hr]; exact Bool.false_ne_true))

end Parity

/-! ### Register writes (R402, R403) -/

theorem exec_registerWrite_bar0 {off : BitVec 24} (hg : g = regAt (windowBlock off) (off.setWidth 16)) (h5 : g ≠ .hiu 5) (h6 : g ≠ .hiu 6) :
    exec (.registerWrite (.bar0 v off) d true) s = .next (settle (writeReg s v (windowBlock off) g d)) := by
  refine next_congr ?_
  simp only [registerWrite, Bool.not_true, Bool.false_eq_true, if_false, ← hg]

/-- The tray port answers nothing without power. -/
theorem tray_silent (h : s.life.powered = false) : trayUp s = false := h

theorem exec_registerWrite_tray {off : Byte} (h : s.life.powered = false) :
    exec (.registerWrite (.tray off) d true) s = .next (settle s) :=
  next_congr ((if_neg Bool.false_ne_true).trans (if_pos (by rw [tray_silent h]; rfl)))

section Write

theorem writeReg_refused (hv : v = .host) (hm : hostMay g = false) : writeReg s v block g d = ignoreHostWrite s :=
  if_pos ⟨hv, by rw [hm]; rfl⟩

variable (hm : hostMay g = true ∨ v = .manager) (h8 : g ≠ .hiu 8)
include hm h8

/-- A write that the view may make and that is no UNFREEZE takes effect where its block runs and is not frozen. -/
theorem writeReg_may : writeReg s v block g d = if frozenBlock s block || !regRuns s g then s else storeReg s v g d := by
  refine (if_neg ?_).trans (if_neg h8)
  rintro ⟨rfl, hn⟩
  rcases hm with hm | hm
  · rw [hm] at hn
    exact Bool.false_ne_true hn
  · cases hm

theorem writeReg_frozen (hf : frozenBlock s block = true) : writeReg s v block g d = s :=
  (writeReg_may hm h8).trans (if_pos (by rw [hf]; rfl))

theorem writeReg_stored (hf : frozenBlock s block = false) (hr : regRuns s g = true) : writeReg s v block g d = storeReg s v g d :=
  (writeReg_may hm h8).trans (if_neg (by rw [hf, hr]; exact Bool.false_ne_true))

end Write

/-! ### Reads with effects (R407) -/

theorem exec_govPmTicksLoRead_hidden {m : Fin 16} {whole : Bool} (h : s.life.ready = true) :
    exec (.govPmTicksLoRead .host m whole) s = .next (settle { s with lastRead := 0 }) :=
  next_congr (if_pos ⟨rfl, h⟩)

theorem readTicksLo_shown {m : Nat} {whole : Bool} (h : v = .manager ∨ s.life.ready = false) :
    readTicksLo s v m whole = (if whole then setMeter { s with lastRead := (counterValue s (counterId 4 m 0)).setWidth 32 } m
        { getMeter s m with ticksHi := BitVec.ofNat 32 ((counterValue s (counterId 4 m 0)).toNat / 2 ^ 32) }
      else { s with lastRead := (counterValue s (counterId 4 m 0)).setWidth 32 }) := by
  refine if_neg ?_
  rintro ⟨rfl, hready⟩
  rcases h with h | h
  · cases h
  · exact Bool.false_ne_true (h.symm.trans hready)

/-- A whole read of FPR_DATA_HI advances the word. -/
theorem readFprHi_whole : readFprHi s true = { s with
    lastRead := BitVec.ofNat 32 ((fpWord s s.fp.index.toNat).toNat / 2 ^ 32)
    fp := { s.fp with index := if s.fp.index.toNat = 71 then 0 else s.fp.index + 1 } } := rfl

section Fpr
variable {w : Word} (hw : w = BitVec.ofNat 32 ((fpWord s s.fp.index.toNat).toNat / 2 ^ 32))
include hw

theorem exec_rtpFprDataHiRead_part : exec (.rtpFprDataHiRead v false) s = .next (settle { s with lastRead := w }) := by
  subst hw
  rfl

theorem exec_rtpFprDataHiRead_wraps (h : s.fp.index.toNat = 71) :
    exec (.rtpFprDataHiRead v true) s = .next (settle { s with lastRead := w, fp := { s.fp with index := 0 } }) := by
  subst hw
  refine next_congr (readFprHi_whole.trans ?_)
  rw [if_pos h]

theorem exec_rtpFprDataHiRead_advances (h : s.fp.index.toNat ≠ 71) :
    exec (.rtpFprDataHiRead v true) s = .next (settle { s with lastRead := w, fp := { s.fp with index := s.fp.index + 1 } }) := by
  subst hw
  refine next_congr (readFprHi_whole.trans ?_)
  rw [if_neg h]

end Fpr

/-! ### The tray port (R418, R422) -/

section TrayUp
variable (hp : s.life.powered = true)
include hp

theorem exec_govTrayCap_up :
    exec (.govTrayCap d) s = .next (settle { s with gov := { s.gov with trayNext := min 1600 (max 200 (fld d 10 0)) } }) :=
  next_congr (if_pos hp)

theorem exec_govTrayWake_up (h0 : bit d 0 = true) (h1 : bit d 1 = false) :
    exec (.govTrayWake d) s = .next (settle (trayWake (irqPrivate s 48 7 true))) := by
  refine next_congr ((if_pos (by rw [trayUp, hp, h0]; rfl)).trans ?_)
  simp only [trayCmd, h0, h1, sideband, if_true, Bool.false_eq_true, if_false]

theorem exec_govTrayHostReset_up (h0 : bit d 0 = false) (h1 : bit d 1 = true) :
    exec (.govTrayHostReset d) s = .next (settle (hostIfReset (hostLoss (irqPrivate s 48 7 true) 4))) := by
  refine next_congr ((if_pos (by rw [trayUp, hp, h1]; rfl)).trans ?_)
  simp only [trayCmd, trayHostReset, h0, h1, sideband, if_true, Bool.false_eq_true, if_false]

omit hp in
theorem readTray_alert : readTray s 0x10 = s.regs.trayAlert.setWidth 32 := BitVec.ofNat_toNat ..

theorem exec_govTrayAlertRead_up {whole : Bool} :
    exec (.govTrayAlertRead whole) s = .next (settle (if whole then
      setAlerts { s with lastRead := s.regs.trayAlert.setWidth 32 } 0 s.regs.trayMask
      else { s with lastRead := s.regs.trayAlert.setWidth 32 })) := by
  rw [← readTray_alert]
  exact next_congr (if_neg (by rw [trayUp, hp]; exact Bool.false_ne_true))

end TrayUp

section TrayDown
variable (hp : s.life.powered = false)
include hp

theorem exec_govTrayCap_down : exec (.govTrayCap d) s = .next (settle s) := next_congr (if_neg (by rw [trayUp, hp]; exact Bool.false_ne_true))

theorem exec_govTrayWake_down : exec (.govTrayWake d) s = .next (settle s) := next_congr (if_neg (by rw [trayUp, hp]; exact Bool.false_ne_true))

theorem exec_govTrayHostReset_down : exec (.govTrayHostReset d) s = .next (settle s) :=
  next_congr (if_neg (by rw [trayUp, hp]; exact Bool.false_ne_true))

theorem exec_govTrayAlertRead_down {whole : Bool} : exec (.govTrayAlertRead whole) s = .next (settle s) :=
  next_congr (if_pos (by rw [trayUp, hp]; rfl))

end TrayDown

theorem cableSupply_removed {q : Nat} (h : bit s.regs.cableOut q = true ∨ s.life.powered = false ∨ (getDomain s (40 + q)).st = 3) :
    cableSupply s q = false := by
  unfold cableSupply
  rcases h with h | h | h
  · rw [h, Bool.not_true, Bool.and_false]
  · rw [h, Bool.false_and, Bool.false_and]
  · rw [h, bne_self_eq_false, Bool.and_false, Bool.false_and]

/-- Settles O42: accesses and writes by the checks of `indAccess` and `writeReg`; the reads and the tray's commands by their branches. -/
theorem registersAndTheTray : Obligations.RegistersAndTheTray :=
  ⟨⟨fun _ _ _ hf => ⟨next_congr (indData_open hf), next_congr (indData_open hf)⟩,
    fun _ _ _ hf => ⟨next_congr (indData_frozen hf), next_congr (indData_frozen hf)⟩,
    fun _ _ _ _ ha hg hr ho =>
     ⟨indAccess_read ha hg hr ho, fun _ => indAccess_write ha hg hr ho, fun _ => indAccess_denied ha hg hr⟩,
    fun _ _ _ _ _ ha hg hr => ⟨indAccess_write_off ha hg hr, indAccess_read_off ha hg hr⟩,
    fun _ _ => exec_indAccessTimeout,
    fun _ _ => ⟨exec_hiuIndStatusRead_whole, rfl⟩,
    fun _ _ => ⟨rfl, exec_unfreeze_lifts, exec_unfreeze_nothing⟩,
    fun _ _ _ _ _ hg ht => ⟨exec_parityCheck_unchecked hg, exec_parityCheck_freezes hg ht⟩,
    fun _ _ _ => rfl,
    fun _ _ _ _ _ => exec_registerWrite_bar0,
    fun _ _ _ _ _ => ⟨writeReg_refused, writeReg_frozen, writeReg_stored⟩,
    fun _ _ _ _ => rfl,
    fun _ _ _ => exec_registerWrite_tray⟩,
   ⟨fun _ _ _ => exec_govPmTicksLoRead_hidden,
    fun _ _ _ _ ht hv => by
      subst ht
      exact ⟨next_congr (readTicksLo_shown hv), next_congr (readTicksLo_shown hv)⟩,
    fun _ _ _ hw => ⟨exec_rtpFprDataHiRead_part hw, exec_rtpFprDataHiRead_wraps hw, exec_rtpFprDataHiRead_advances hw⟩,
    fun _ _ hp =>
     ⟨exec_govTrayCap_up hp, exec_govTrayWake_up hp, exec_govTrayHostReset_up hp, exec_govTrayAlertRead_up hp, exec_govTrayAlertRead_up hp⟩,
    fun _ hp =>
     ⟨fun _ => ⟨exec_govTrayCap_down hp, exec_govTrayWake_down hp, exec_govTrayHostReset_down hp⟩, fun _ => exec_govTrayAlertRead_down hp⟩,
    fun _ _ => rfl,
    fun _ _ => cableSupply_removed⟩⟩

end Sys2Proof.Machine
end

section
/-!
PROOFS. Power, boot, removal and the restart of the RTP (R356, R369 to R372, R374 to R381, R415): O43.
-/
namespace Sys2Proof.Machine

variable {s t : State} {v : View} {d : Word} {e : BootEnv}

/-! ### Power on and boot (R356, R370) -/

theorem exec_powerOn_powered (h : s.life.powered = true) : exec (.powerOn e) s = .next (settle s) := next_congr (if_pos h)

theorem exec_powerOn_boots (h : s.life.powered = false) :
    exec (.powerOn e) s = .next (settle (bootFrom { s with life := { s.life with powered := true, phase := 2 } } e)) :=
  next_congr (if_neg (Bool.eq_false_iff.mp h))

section Banks
variable {a b : FlashBank} {floor : Nat}

theorem floor_le_of_bankBoots (h : bankBoots a floor = true) : floor ≤ a.svn := by
  rw [bankBoots, Bool.and_eq_true] at h
  exact of_decide_eq_true h.2

/-- Whether bank B is tried first: its SVN is not below the floor, and above that of bank A or A's is below the floor. -/
def firstB (a b : FlashBank) (floor : Nat) : Bool := decide (floor ≤ b.svn) && (decide (a.svn < b.svn) || decide (a.svn < floor))

theorem chooseBank_eq : chooseBank a b floor =
    if bankBoots (if firstB a b floor then b else a) floor then some (firstB a b floor)
    else if bankBoots (if firstB a b floor then a else b) floor then some (!firstB a b floor) else none := rfl

theorem chooseBank_neither (ha : bankBoots a floor = false) (hb : bankBoots b floor = false) : chooseBank a b floor = none := by
  rw [chooseBank_eq]
  cases firstB a b floor <;> simp [ha, hb]

theorem chooseBank_higherA (ha : bankBoots a floor = true) (h : b.svn ≤ a.svn) : chooseBank a b floor = some false := by
  have hf := floor_le_of_bankBoots ha
  have first : firstB a b floor = false := by
    rw [firstB, decide_eq_false (by omega : ¬a.svn < b.svn), decide_eq_false (by omega : ¬a.svn < floor), Bool.or_self, Bool.and_false]
  simp [chooseBank_eq, first, ha]

theorem chooseBank_higherB (hb : bankBoots b floor = true) (h : a.svn < b.svn) : chooseBank a b floor = some true := by
  have first : firstB a b floor = true := by
    rw [firstB, decide_eq_true (floor_le_of_bankBoots hb), decide_eq_true h]
    rfl
  simp [chooseBank_eq, first, hb]

theorem chooseBank_onlyA (ha : bankBoots a floor = true) (hb : bankBoots b floor = false) : chooseBank a b floor = some false := by
  rw [chooseBank_eq]
  cases firstB a b floor <;> simp [ha, hb]

end Banks

section ReadyFail

theorem readyFail_rtp (h : e.rtpFails = true) : readyFail s e = some 0x05 := if_pos h

variable (hr : e.rtpFails = false)
include hr

theorem readyFail_cp (hc : s.fp.cpOk = 0) : readyFail s e = some 0x02 := (if_neg (Bool.eq_false_iff.mp hr)).trans (if_pos hc)

variable (hc : s.fp.cpOk ≠ 0)
include hc

theorem readyFail_loopback (hl : e.testsFailed.any isLoopback = true) : readyFail s e = some 0x03 :=
  (if_neg (Bool.eq_false_iff.mp hr)).trans ((if_neg hc).trans (if_pos hl))

variable (hl : e.testsFailed.any isLoopback = false)
include hl

/-- What is left once the RTP, a command processor and the loopbacks work. -/
theorem readyFail_last : readyFail s e = if s.fp.computeMask = 0 then some 0x04 else none :=
  (if_neg (Bool.eq_false_iff.mp hr)).trans ((if_neg hc).trans (if_neg (Bool.eq_false_iff.mp hl)))

theorem readyFail_compute (hm : s.fp.computeMask = 0) : readyFail s e = some 0x04 := (readyFail_last hr hc hl).trans (if_pos hm)

theorem readyFail_none (hm : s.fp.computeMask ≠ 0) : readyFail s e = none := (readyFail_last hr hc hl).trans (if_neg hm)

end ReadyFail

theorem setAlert_life (s : State) (b : Nat) : (setAlert s b).life = s.life := by
  unfold setAlert setAlerts
  dsimp only
  split <;> rfl

theorem lifeEvent_life (s : State) : (lifeEvent s).life = s.life := logEvent_life ..

theorem faultRequest_phase (s : State) : (faultRequest s).life.phase = s.life.phase ∧ (faultRequest s).life.bootFail = s.life.bootFail := by
  unfold faultRequest
  split
  · exact ⟨rfl, rfl⟩
  · rw [setAlert_life]
    exact ⟨rfl, rfl⟩

theorem bootFailed_phase (s : State) (c : Byte) : (bootFailed s c).life.phase = 0xE ∧ (bootFailed s c).life.bootFail = c := by
  have h := faultRequest_phase (setAlert (lifeEvent { s with life := { s.life with phase := 0xE, bootFail := c } }) 1)
  rw [setAlert_life, lifeEvent_life] at h
  exact h

/-! ### Floor-plan commits and the thermal shutdown (R369, R415) -/

section Commit
variable {c : FpChange} {l : List FpChange}

theorem exec_floorplanCommit_up (h : s.fp.pending = c :: l) (hr : s.rtpDown = false) :
    exec .floorplanCommit s = .next (settle (commitChange { s with fp := { s.fp with pending := l } } c)) := by
  rw [exec, execFloorplanCommit]
  simp only [h, hr, Bool.false_eq_true, if_false]

theorem exec_floorplanCommit_down (h : s.fp.pending = c :: l) (hr : s.rtpDown = true) :
    exec .floorplanCommit s = .next (settle s) := by
  rw [exec, execFloorplanCommit]
  simp only [h, hr, if_true]

theorem exec_floorplanCommit_none (h : s.fp.pending = []) : exec .floorplanCommit s = .next (settle s) := by
  rw [exec, execFloorplanCommit]
  simp only [h]

end Commit

theorem exec_thermalShutdown {n : BitVec 6} (hp : s.life.powered = true)
    (ht : t = setReadyPin (clearPackage { s with links := s.links.map fun e =>
        (e.1, { e.2 with st := 0, lanes := 0, valid := false, hold := false }) } false) false) :
    exec (.thermalShutdown n) s = .next (settle (setAlert (faultRequest (logError { t with
        groups := []
        life := { t.life with phase := 0, flash := { t.life.flash with events := t.life.flash.events ++
          [dwordBytes (errorRecord s 5 5 3 0x15 false .none none 0 (n.setWidth 64))] } }
        fp := { t.fp with pending := [] } } 5 5 3 0x15 false .none none 0 (n.setWidth 64))) 3)) := by
  subst ht
  exact next_congr (if_neg (by rw [hp]; exact Bool.false_ne_true))

/-! ### The manager queue and removal (R374, R376, R377) -/

theorem exec_hiuMgrGo_frozen (h : frozenBlock s 0 = true) : exec (.hiuMgrGo .manager d) s = .next (settle s) := next_congr (if_pos h)

section Go
variable (hf : frozenBlock s 0 = false) (ht : t = { s with regs := { s.regs with mgr := Tbl.set 0 s.regs.mgr 9 (d &&& 0xF7FF) } })
include hf ht

theorem exec_hiuMgrGo_go (h : bit d 31 = true) : exec (.hiuMgrGo .manager d) s = .next (settle (mgrGo t)) := by
  subst ht
  exact next_congr ((if_neg (Bool.eq_false_iff.mp hf)).trans (if_pos h))

theorem exec_hiuMgrGo_store (h : bit d 31 = false) : exec (.hiuMgrGo .manager d) s = .next (settle t) := by
  subst ht
  exact next_congr ((if_neg (Bool.eq_false_iff.mp hf)).trans (if_neg (Bool.eq_false_iff.mp h)))

end Go

theorem mgrGo_refused (h : mgrOk s = false) : mgrGo s = s := if_pos (by rw [h]; rfl)

theorem exec_rmReq_first (hp : s.life.powered = true) (hr : s.life.rmReq = false) :
    exec .rmReq s = .next (settle (setAlert (sideband (lifeEvent { s with life := { s.life with rmReq := true } })) 5)) :=
  next_congr (if_neg (by rw [hp, hr]; exact Bool.false_ne_true))

theorem exec_rmReq_again (hr : s.life.rmReq = true) : exec .rmReq s = .next (settle s) :=
  next_congr (if_pos (by rw [hr, Bool.or_true]))

section Remove
variable (hf : frozenBlock s 1 = false)
include hf

section Prepare
variable (hr : s.life.ready = true) (hp : s.life.preparing = false)
include hr hp

/-- A PREPARE of a module that is ready and not preparing waits for the RTP or is checked at once. -/
theorem exec_rtpRemovePrepare_open : exec (.rtpRemovePrepare .manager) s = .next (settle
    (if s.rtpDown then { s with life := { s.life with prepareWait := true } } else prepareCheck s)) :=
  next_congr ((if_neg (Bool.eq_false_iff.mp hf)).trans (if_neg (by rw [hr, hp]; exact Bool.false_ne_true)))

theorem exec_rtpRemovePrepare_waits (hd : s.rtpDown = true) :
    exec (.rtpRemovePrepare .manager) s = .next (settle { s with life := { s.life with prepareWait := true } }) :=
  (exec_rtpRemovePrepare_open hf hr hp).trans (next_congr (if_pos hd))

theorem exec_rtpRemovePrepare_refused (hd : s.rtpDown = false) (hb : refuseBits s ≠ 0) :
    exec (.rtpRemovePrepare .manager) s = .next (settle { s with life := { s.life with refuse := refuseBits s } }) :=
  (exec_rtpRemovePrepare_open hf hr hp).trans (next_congr ((if_neg (Bool.eq_false_iff.mp hd)).trans (if_pos hb)))

theorem exec_rtpRemovePrepare_begins (hd : s.rtpDown = false) (hb : refuseBits s = 0) :
    exec (.rtpRemovePrepare .manager) s = .next (settle ((List.range 64).foldl (fun s n =>
        if (getLink s n).enable then linkOff (updLink s n fun l => { l with enable := false }) n 8 else s)
        { s with life := { s.life with preparing := true, refuse := 0 } })) :=
  (exec_rtpRemovePrepare_open hf hr hp).trans (next_congr ((if_neg (Bool.eq_false_iff.mp hd)).trans (if_neg (not_not_intro hb))))

end Prepare

theorem exec_rtpRemoveCancel_late (h : s.life.removeReady = true) : exec (.rtpRemoveCancel .manager) s = .next (settle s) :=
  next_congr ((if_neg (Bool.eq_false_iff.mp hf)).trans (if_pos h))

theorem exec_rtpRemoveCancel_ends (h : s.life.removeReady = false) :
    exec (.rtpRemoveCancel .manager) s = .next (settle { s with life := { s.life with preparing := false, prepareWait := false } }) :=
  next_congr ((if_neg (Bool.eq_false_iff.mp hf)).trans (if_neg (Bool.eq_false_iff.mp h)))

end Remove

/-! ### The restart of the RTP (R380, R381) -/

theorem rtpStop_running (hp : s.life.powered = true) (hr : s.rtpDown = false) (hE : s.life.phase ≠ 0xE) (h0 : s.life.phase ≠ 0) :
    rtpStop s = { s with rtpDown := true, life := { s.life with phase := 0xF }
                         trust := { s.trust with doe := {}, mctp := {}, sessions := [] } } :=
  if_neg (by
    rw [hp, hr, decide_eq_false hE, decide_eq_false h0]
    decide)

theorem exec_rtpRestartReturn_running {bist : BitVec 2} {ok : Bool} (h : s.rtpDown = false) :
    exec (.rtpRestartReturn bist ok) s = .next (settle s) :=
  next_congr (if_pos (by rw [h]; rfl))

section Return
variable (hd : s.rtpDown = true)
include hd

theorem rtp_returns : ¬(!s.rtpDown) = true := by
  rw [hd]
  exact Bool.false_ne_true

theorem exec_rtpRestartReturn_bistFails {ok : Bool} : exec (.rtpRestartReturn 3 ok) s =
    .next (settle (fatalError { s with life := { s.life with bootFail := 0x05 } } 0x07 .rtp 0)) :=
  next_congr ((if_neg (rtp_returns hd)).trans (if_pos rfl))

theorem exec_rtpRestartTimeout_down : exec .rtpRestartTimeout s = .next (settle (fatalError s 0x0D .rtp 0)) := next_congr (if_pos hd)

variable {bist : BitVec 2} (hb : bist ≠ 3)
include hb

theorem exec_rtpRestartReturn_badImage : exec (.rtpRestartReturn bist false) s = .next (settle (fatalError s 0x0D .rtp 0)) :=
  next_congr ((if_neg (rtp_returns hd)).trans ((if_neg hb).trans (if_pos rfl)))

theorem exec_rtpRestartReturn_ready (hr : s.life.ready = true) :
    exec (.rtpRestartReturn bist true) s = .next (settle (rtpBack s (bist != 0))) :=
  next_congr ((if_neg (rtp_returns hd)).trans ((if_neg hb).trans ((if_neg Bool.false_ne_true).trans (if_pos hr))))

theorem exec_rtpRestartReturn_boots (hr : s.life.ready = false) (ht : t = clearPackage s false) :
    exec (.rtpRestartReturn bist true) s = .next (settle (bootFrom { t with
        rtpDown := false
        life := { t.life with
          restarts := (rtpBack { s with err := { s.err with resets := [] } } (bist != 0)).life.restarts
          phase := 2 } } s.life.env)) := by
  subst ht
  exact next_congr ((if_neg (rtp_returns hd)).trans ((if_neg hb).trans ((if_neg Bool.false_ne_true).trans
    (if_neg (Bool.eq_false_iff.mp hr)))))

end Return

/-- The RTP is back where nothing waited for it: no PREPARE, no held reset, no test of its own. -/
theorem rtpBack_nothingWaits (hp : s.life.prepareWait = false) (hh : (s.err.resets.any fun r => r.held) = false)
    (he : (findElem s .rtp).testing = false) (ht : t = { s with
      rtpDown := false
      life := { s.life with phase := if s.life.ready then 0xA else 3
                            restarts := if s.life.restarts = 0xFFFF then 0xFFFF else s.life.restarts + 1 }
      err := { s.err with pairs := Tbl.set {} s.err.pairs 16 {} } }) : rtpBack s false = t := by
  have verdict : rtpVerdict t true = t := if_pos (by
    have : findElem t .rtp = findElem s .rtp := by rw [ht]; rfl
    rw [this, he]
    rfl)
  have hp' : t.life.prepareWait = false := by rw [ht]; exact hp
  have hh' : (t.err.resets.any fun r => r.held) = false := by rw [ht]; exact hh
  unfold rtpBack
  rw [← ht]
  simp only [Bool.not_false, verdict, Bool.false_and, Bool.false_eq_true, if_false, hp', hh']

/-- Settles O43: each clause by the branch of its definition that the hypotheses select. -/
theorem powerAndManagement : Obligations.PowerAndManagement :=
  ⟨⟨fun _ _ => ⟨exec_powerOn_powered, exec_powerOn_boots⟩,
    fun _ _ _ => ⟨chooseBank_neither, chooseBank_higherA, chooseBank_higherB, chooseBank_onlyA⟩,
    fun _ _ => ⟨readyFail_rtp, readyFail_cp, readyFail_loopback, readyFail_compute, readyFail_none⟩,
    bootFailed_phase,
    fun _ hp => ⟨congrArg _ (if_pos hp), congrArg _ (if_pos hp), congrArg _ (if_pos hp), congrArg _ (if_pos hp), congrArg _ (if_pos hp)⟩,
    fun _ => ⟨rfl, rfl, rfl, rfl, rfl, rfl, rfl⟩,
    fun _ _ _ h => ⟨exec_floorplanCommit_up h, exec_floorplanCommit_down h⟩,
    fun _ => exec_floorplanCommit_none,
    fun _ _ _ => exec_thermalShutdown⟩,
   ⟨fun _ _ => ⟨rfl, exec_hiuMgrGo_frozen⟩,
    fun _ _ _ hf ht => ⟨exec_hiuMgrGo_go hf ht, exec_hiuMgrGo_store hf ht⟩,
    fun _ => mgrGo_refused,
    fun _ => exec_rmReq_first,
    fun _ => exec_rmReq_again,
    fun _ => ⟨rfl, rfl⟩,
    fun _ hf hr hp =>
     ⟨exec_rtpRemovePrepare_waits hf hr hp, exec_rtpRemovePrepare_refused hf hr hp, exec_rtpRemovePrepare_begins hf hr hp⟩,
    fun _ hf => ⟨exec_rtpRemoveCancel_late hf, exec_rtpRemoveCancel_ends hf⟩,
    fun s t hp hr hE h0 ht => by
      have stop : rtpStop s = t := (rtpStop_running hp hr hE h0).trans ht.symm
      exact ⟨next_congr stop, next_congr stop, next_congr stop, next_congr (if_pos hp)⟩,
    fun _ _ _ => exec_rtpRestartReturn_running,
    fun _ _ hd => exec_rtpRestartReturn_bistFails hd,
    fun _ _ hd hb => exec_rtpRestartReturn_badImage hd hb,
    fun _ _ hd hb => exec_rtpRestartReturn_ready hd hb,
    fun _ _ _ hd hb => exec_rtpRestartReturn_boots hd hb,
    fun _ _ => rtpBack_nothingWaits,
    fun _ => ⟨exec_rtpRestartTimeout_down, fun h => next_congr (if_neg (Bool.eq_false_iff.mp h))⟩⟩⟩

end Sys2Proof.Machine
end
